-- ==== Sys2Proof/Word.lean ====
section
/-! DEFINITION. The word types of the module: bytes of a store, 32-bit registers and records, 64-bit tile
instruction words, 256-bit descriptors and batch entries, 1,024-bit skein entries and 256-byte rows. -/

namespace Sys2Proof

/-- One byte of a store. -/
abbrev Byte := BitVec 8

/-- A 32-bit scalar register, vector lane, register or record word. -/
abbrev W32 := BitVec 32

/-- A 64-bit tile instruction word, address register or predicate register (R39, R62). -/
abbrev W64 := BitVec 64

end Sys2Proof
end

