-- ==== Sys2Proof/Syntax.lean ====
section
/-! DEFINITION. The commands of the module (`opcode_table.json`) and the small types of their operands. The table gives
no row any bits: a command's operands are those that the row's rule names. -/

namespace Sys2Proof

/-- The three needles of a tile (R39, Table 2.2). -/
inductive Needle where
  | front | back | update
  deriving DecidableEq, Repr

/-- Who makes a register access: a hub core 0 to 3, or a PCIe function, 0 for the PF and p + 1 for VF p + 1
(R395, R404). -/
inductive Requester where
  | hub (core : Nat)
  | func (f : Nat)
  deriving DecidableEq, Repr

/-- How a landing window is commanded (R55): by an LW instruction word, or by a write to TST_LW_CMD. -/
inductive LwBy where
  | insn (n : Needle) (w : W64)
  | bus (rq : Requester)
  deriving DecidableEq, Repr

/-- What an error-correcting code reports of a read or of a received word (R136, R150, R297): nothing, `words`
corrected words, or an uncorrectable word in the 32-byte or 64-byte unit number `entry` of what is read. -/
inductive Ecc where
  | ok
  | corrected (words : Nat)
  | uncorrectable (entry : Nat)
  deriving DecidableEq, Repr

/-- A result in flight of tile `t`: of its slip path (`slv`), or of its array. The two take their own times (Table 3.5). -/
structure ArrayOut where
  t : Nat
  slv : Bool
  deriving DecidableEq, Repr

/-- A packet that lands at a tile; `col` says that the engine port writes an entry of it in the same cycle, just after it
(R51). -/
structure Landing where
  pid : Nat
  col : Bool
  deriving DecidableEq, Repr

/-- A packet that asks for a bank of a cluster; `aged` says that it has waited 32 KCLK cycles (R135). -/
structure Service where
  pid : Nat
  aged : Bool
  deriving DecidableEq, Repr

/-- A read response, which may land at a tile or ask for a bank of a cluster. -/
structure Response where
  pid : Nat
  col : Bool
  aged : Bool
  deriving DecidableEq, Repr

/-- What the code reports of the reads of a join: of the packet's line, and of the lines that the copy of a full round reads
(R136, R197). -/
structure JoinEcc where
  line : Ecc
  copy : Ecc
  deriving DecidableEq, Repr

/-- What the codes report of the reads that a unit makes itself: the address of an uncorrectable word that they meet, and the
words corrected, by cluster (R136, R297). -/
structure ReadOut where
  ue : Option Nat
  ce : List (Nat × Nat)
  deriving DecidableEq, Repr

/-- The reads of Blocker `blk` as it starts an update. -/
structure UpdateReads where
  blk : Nat
  out : ReadOut
  deriving DecidableEq, Repr

/-- The reads of the pages of skein `skein` as it is evicted, with an uncorrectable word that they meet. -/
structure PageReads where
  skein : Nat
  ue : Option Nat
  deriving DecidableEq, Repr

/-- A read of `len` bytes through BAR2, and what the codes report of it. -/
structure BarRead where
  len : Nat
  out : ReadOut
  deriving DecidableEq, Repr

/-- What a course used, as Tension measures it (R362): the DCLK cycles that it took, and those in which each Blocker was active
on the partition's updates. -/
structure Measured where
  dur : Nat
  blk : List Nat
  deriving DecidableEq, Repr

/-- What a boundary leaves of a partition's batches: the records of the batch before last that the skein unit has not read
(R272), and the entries of the new batch whose writes no controller has accepted (R271). -/
structure BatchLeft where
  unread : Nat
  late : Nat
  deriving DecidableEq, Repr

/-- A field of a function's configuration space that the spec gives a value (R335, R336): the device ID, the class code, the
serial number, the SR-IOV fields, or a field of a feature that the endpoint does not have. -/
inductive CfgField where
  | deviceId
  | classCode
  | serial
  | firstVfOffset
  | vfStride
  | totalVFs
  | numVFs
  | absent
  deriving DecidableEq, Repr

/-- A configuration request of the host (R335 to R337, R343, R349): a write that the endpoint has no use for, such as one to an
unsupported capability; a read of a field; a write of NumVFs; the log2 of a function's BAR2 size above 1 GiB; a function's
Enable Relaxed Ordering. Beside them, the accesses to BAR4 that have no row of their own: the mask bit of an MSI-X vector, and a
read of a doorbell (R342). -/
inductive CfgReq where
  | other
  | read (f : Nat) (field : CfgField)
  | numVFs (n : Nat)
  | bar2 (f log2 : Nat)
  | relaxed (f : Nat) (on : Bool)
  | msixMask (f vec : Nat) (masked : Bool)
  | tailRead (f e : Nat)
  | mailboxRead (f : Nat)
  | consRead (f : Nat)
  deriving DecidableEq, Repr

/-- The commands of the module, one constructor per row of `opcode_table.json`; each docstring gives the row's
mnemonic, the rule it names and the row's own summary. -/
inductive Instr where
  /-- REGISTER_WRITE (R419): A configuration-bus or host write to a register field that has no row of its own, judged field by field under its access code and view. -/
  | registerWrite (rq : Requester) (ofs : Nat) (v : W32) (be : Nat)
  /-- RC_READ (R10): A normal-view read of a register holding RC fields returns the value and clears each bit returned as 1. -/
  | rcRead (rq : Requester) (ofs : Nat)
  /-- COUNTER_LOW_READ (R12): A read of the low half of a 64-bit counter captures the high half into the requester's holding register. -/
  | counterLowRead (rq : Requester) (ofs : Nat)
  /-- ILL (R65): Opcode 0x00 always raises ILLEGAL_OP. -/
  | ill (t : Nat) (n : Needle) (w : W64)
  /-- END (R72): END issues once all results are readable and stores written, moving the needle to DONE. -/
  | endOp (t : Nat) (n : Needle) (w : W64)
  /-- BR (R65): Conditional or unconditional branch to TARGET by comparison of scalars or a predicate bit. -/
  | br (t : Nat) (n : Needle) (w : W64)
  /-- JR (R65): Jump to the word index held in s[RA]. -/
  | jr (t : Nat) (n : Needle) (w : W64)
  /-- SALU (R77): Scalar integer operation of two registers under Table 3.6. -/
  | salu (t : Nat) (n : Needle) (w : W64)
  /-- SALUI (R77): Scalar integer operation of a register and an immediate. -/
  | salui (t : Nat) (n : Needle) (w : W64)
  /-- SFLG (R76): Copies the needle's sticky flags into s[RD] and clears them. -/
  | sflg (t : Nat) (n : Needle) (w : W64)
  /-- AALU_ADD (R65): Adds a sign-extended scalar to an address register. -/
  | aaluAdd (t : Nat) (n : Needle) (w : W64)
  /-- MOVSA (R65): Moves a zero-extended scalar into an address register. -/
  | movsa (t : Nat) (n : Needle) (w : W64)
  /-- MOVLO (R65): Moves address bits 31:0 into a scalar register. -/
  | movlo (t : Nat) (n : Needle) (w : W64)
  /-- MOVHI (R65): Moves address bits 47:32 into a scalar register. -/
  | movhi (t : Nat) (n : Needle) (w : W64)
  /-- AALUI (R65): Adds a sign-extended immediate to an address register. -/
  | aalui (t : Nat) (n : Needle) (w : W64)
  /-- LD (R66): Scalar load from the tile's own store through the engine port. -/
  | ld (t : Nat) (n : Needle) (w : W64) (rq : Nat)
  /-- ST (R66): Scalar store to the tile's own store. -/
  | st (t : Nat) (n : Needle) (w : W64) (rq : Nat)
  /-- LDV (R66): Loads a 256 B row into a vector register. -/
  | ldv (t : Nat) (n : Needle) (w : W64) (rq : Nat)
  /-- STV (R66): Stores a vector register as a 256 B row. -/
  | stv (t : Nat) (n : Needle) (w : W64) (rq : Nat)
  /-- FADD (R78): FP32 addition in 64 lanes with the operand cases of Table 3.8. -/
  | fadd (t : Nat) (n : Needle) (w : W64) (rq : Nat)
  /-- FSUB (R78): FP32 subtraction in 64 lanes. -/
  | fsub (t : Nat) (n : Needle) (w : W64) (rq : Nat)
  /-- FMUL (R78): FP32 multiplication in 64 lanes. -/
  | fmul (t : Nat) (n : Needle) (w : W64) (rq : Nat)
  /-- FMA (R78): FP32 fused multiply-add rounded once. -/
  | fma (t : Nat) (n : Needle) (w : W64) (rq : Nat)
  /-- FMIN (R79): FP32 minimumNumber per lane. -/
  | fmin (t : Nat) (n : Needle) (w : W64) (rq : Nat)
  /-- FMAX (R79): FP32 maximumNumber per lane. -/
  | fmax (t : Nat) (n : Needle) (w : W64) (rq : Nat)
  /-- FCMPEQ (R79): Lane-wise equality compare into a predicate. -/
  | fcmpeq (t : Nat) (n : Needle) (w : W64) (rq : Nat)
  /-- FCMPLT (R79): Lane-wise less-than compare into a predicate. -/
  | fcmplt (t : Nat) (n : Needle) (w : W64) (rq : Nat)
  /-- FCMPLE (R79): Lane-wise less-or-equal compare into a predicate. -/
  | fcmple (t : Nat) (n : Needle) (w : W64) (rq : Nat)
  /-- FNEG (R65): Inverts the sign bit of each lane. -/
  | fneg (t : Nat) (n : Needle) (w : W64) (rq : Nat)
  /-- FABS (R65): Clears the sign bit of each lane. -/
  | fabs (t : Nat) (n : Needle) (w : W64) (rq : Nat)
  /-- VINT (R77): 32-bit integer operation in 64 lanes. -/
  | vint (t : Nat) (n : Needle) (w : W64) (rq : Nat)
  /-- VBC (R65): Broadcasts s[RA] into every lane. -/
  | vbc (t : Nat) (n : Needle) (w : W64) (rq : Nat)
  /-- CVT (R112): Converts between FP32 and a narrow format through the gauge unit. -/
  | cvt (t : Nat) (n : Needle) (w : W64) (rq : Nat)
  /-- Z4_UNPACK (R115): CVT Z4 to Z4 with RM 0 unpacks a storage unit into block records. -/
  | z4Unpack (t : Nat) (n : Needle) (w : W64) (rq : Nat)
  /-- Z4_PACK (R115): CVT Z4 to Z4 with RM 1 packs block records into a storage unit. -/
  | z4Pack (t : Nat) (n : Needle) (w : W64) (rq : Nat)
  /-- PRUN (R59): Runs a purl configuration slot on the needle's registers. -/
  | prun (t : Nat) (n : Needle) (w : W64) (rq : Nat)
  /-- AWL (R90): Loads a weight buffer from a MODE 0 image through the weight-load path. -/
  | awl (t : Nat) (n : Needle) (w : W64) (rq : Nat)
  /-- AWL_EXACT (R98): Transposing load of a quarter image widened exactly into BF16. -/
  | awlExact (t : Nat) (n : Needle) (w : W64) (rq : Nat)
  /-- AWL_REBLOCK (R99): Transposing load of two images re-quantised into Z4 blocks. -/
  | awlReblock (t : Nat) (n : Needle) (w : W64) (rq : Nat)
  /-- WEIGHT_LOAD_COMPLETE (R90): The last access of a weight load is written and the buffer becomes READY. -/
  | weightLoadComplete (t : Nat)
  /-- AMM (R86): Streams activation vectors against a weight buffer into accumulator rows. -/
  | amm (t : Nat) (n : Needle) (w : W64) (rq : Nat)
  /-- ARRAY_RESULT_READY (R76): An AMM or SLV result becomes readable and its flags are set. -/
  | arrayResultReady (a : ArrayOut)
  /-- ADR_STORE (R96): Drains accumulator rows to the store as FP32. -/
  | adrStore (t : Nat) (n : Needle) (w : W64) (rq : Nat)
  /-- ADR_ADD (R96): Drains accumulator rows by adding them into FP32 values in the store. -/
  | adrAdd (t : Nat) (n : Needle) (w : W64) (rq : Nat)
  /-- ADR_CONVERT (R96): Drains accumulator rows converted through the gauge unit into FMT1. -/
  | adrConvert (t : Nat) (n : Needle) (w : W64) (rq : Nat)
  /-- ASHP (R97): Reshapes the array to the normal or shallow form, emptying both buffers. -/
  | ashp (t : Nat) (n : Needle) (w : W64) (rq : Nat)
  /-- SLV (R101): Multiplies weight rows streamed from the store by a vector into accumulator rows. -/
  | slv (t : Nat) (n : Needle) (w : W64) (rq : Nat)
  /-- SIG (R170): Adds COUNT or s[RA] to a logical stitch. -/
  | sig (t : Nat) (n : Needle) (w : W64)
  /-- WAIT_OBSERVE (R172): Waits until a stitch count reaches a threshold, consuming nothing. -/
  | waitObserve (t : Nat) (n : Needle) (w : W64)
  /-- WAIT_TAKE (R173): Takes one unit of a stitch or queues as a taker. -/
  | waitTake (t : Nat) (n : Needle) (w : W64)
  /-- LW_OPEN (R55): Opens a landing window by LW FN 0 or TST_LW_CMD OP 1. -/
  | lwOpen (t win : Nat) (via : LwBy)
  /-- LW_CLOSE (R55): Closes a landing window by LW FN 1 or TST_LW_CMD OP 2. -/
  | lwClose (t win : Nat) (via : LwBy)
  /-- LW_RELEASE (R55): Releases a closed landing window by LW FN 2 or TST_LW_CMD OP 3. -/
  | lwRelease (t win : Nat) (via : LwBy)
  /-- XFER (R166): Pushes or pulls bytes over the mesh, checked whole before sending. -/
  | xfer (t : Nat) (n : Needle) (w : W64)
  /-- SEND (R188): Sends one message on a TX strand endpoint, stalling for credits. -/
  | send (t : Nat) (n : Needle) (w : W64)
  /-- SEND_STALL_TIMEOUT (R189): The timer of a stalled SEND expires. -/
  | sendStallTimeout (t : Nat) (n : Needle)
  /-- JQ (R194): Contributes lines to a join queue of the tile's cluster as JOIN packets. -/
  | jq (t : Nat) (n : Needle) (w : W64)
  /-- BKICK (R248): Sends a descriptor from the tile store to a Blocker. -/
  | bkick (t : Nat) (n : Needle) (w : W64)
  /-- IFILL (R46): Instruction that fills an instruction-buffer page from the store. -/
  | ifill (t : Nat) (n : Needle) (w : W64) (rq : Nat)
  /-- IFILL_GO (R46): A write of TILE_IFILL.GO starts a page fill. -/
  | ifillGo (rq : Requester) (t : Nat) (v : W32)
  /-- IFILL_COMPLETE (R45): A page fill completes and the page becomes valid. -/
  | ifillComplete (t : Nat)
  /-- TILE_LTAG_WRITE (R73): A write of TILE_LTAG compares the tag with the latency set and sets INTERLOCK. -/
  | tileLtagWrite (rq : Requester) (t : Nat) (v : W32)
  /-- PRL_LOAD_GO (R59): A write of PRL_LOAD.GO starts loading a slot or table page. -/
  | prlLoadGo (rq : Requester) (t : Nat) (v : W32)
  /-- PRL_LOAD_COMPLETE (R59): A purl load completes and the slot becomes valid. -/
  | prlLoadComplete (t : Nat)
  /-- GATHER_OFF (R53): A write of 0 to TST_CTRL.GATHER takes effect after the gather buffer flushes. -/
  | gatherOff (rq : Requester) (t : Nat) (v : W32)
  /-- GATHER_FLUSH_TIMEOUT (R52): The oldest gather entry has waited 16 cycles and its half-row is flushed. -/
  | gatherFlushTimeout (t : Nat)
  /-- ARRIVAL (R54): A write packet reaches a tile store through the external port and meets the landing windows. -/
  | arrival (a : Landing)
  /-- CAST_PHASE_START (R157): With no needle running, the cast engine reads the cast pointer and starts its program. -/
  | castPhaseStart (t : Nat)
  /-- CEND (R164): Cast word that ends the cast program. -/
  | cend (t : Nat)
  /-- CWR (R164): Cast word that pushes bytes as WR packets. -/
  | cwr (t : Nat)
  /-- CRD (R164): Cast word that pulls bytes by RDREQ. -/
  | crd (t : Nat)
  /-- CXR (R164): Cast word that issues one transposing read. -/
  | cxr (t : Nat)
  /-- CSIG (R164): Cast word that adds LEN to a stitch. -/
  | csig (t : Nat)
  /-- CWAIT (R164): Cast word that observes a stitch until a threshold. -/
  | cwait (t : Nat)
  /-- CBAR (R164): Cast word that arrives on a sub-plane and holds until it releases. -/
  | cbar (t : Nat)
  /-- TILE_ARRIVE (R158): A tile meets every arrival condition and arrives on the course plane. -/
  | tileArrive (t : Nat)
  /-- COURSE_BOUNDARY (R161): The barrier root completes the course: checks, records, resets stitches, advances and swaps. -/
  | courseBoundary (p : Nat) (m : Measured) (left : BatchLeft)
  /-- TILE_RELEASE (R162): The release reaches a tile, which applies RWS, autocloses windows and restarts needles. -/
  | tileRelease (t : Nat)
  /-- BARRIER_TIMER_EXPIRE (R179): The course barrier timer expires. -/
  | barrierTimerExpire (p : Nat)
  /-- STITCH_ADDITION (R170): A stitch operation is applied at its bank, releasing takers and observers. -/
  | stitchAddition (i : Nat)
  /-- WAITER_RELEASE (R172): The bank's release reaches a waiting needle or cast engine, which runs on. -/
  | waiterRelease (t who : Nat)
  /-- WAIT_TIMER_EXPIRE (R177): A waiter's timer expires at the bank. -/
  | waitTimerExpire (t who : Nat)
  /-- SUB_BARRIER_COMPLETE (R178): Every tile has arrived on a sub-plane and it releases. -/
  | subBarrierComplete (p plane : Nat)
  /-- PARTITION_RESET_RELEASE (R424): Once all old packets have landed, a PARTITION reset releases and course 0 starts. -/
  | partitionResetRelease (p : Nat)
  /-- STC_XT_DATA_WRITE (R168): A translation entry write is ignored when it names an unowned stitch. -/
  | stcXtDataWrite (rq : Requester) (p : Nat) (v : W32)
  /-- STC_CTL_WRITE (R168): Setting or clearing ownership moves a stitch between UNOWNED and READY. -/
  | stcCtlWrite (rq : Requester) (die : Nat) (v : W32)
  /-- TX_OPEN_CMD (R186): A needle writes CMD OPEN to a TX descriptor. -/
  | txOpenCmd (t : Nat) (n : Needle) (ep : Nat) (v : W32)
  /-- TX_CLOSE_CMD (R186): A needle writes CMD CLOSE to a TX descriptor. -/
  | txCloseCmd (t : Nat) (n : Needle) (ep : Nat) (v : W32)
  /-- RX_OPEN_CMD (R187): A needle writes CMD OPEN to an RX descriptor. -/
  | rxOpenCmd (t : Nat) (n : Needle) (ep : Nat) (v : W32)
  /-- RX_CLOSE_CMD (R187): A needle writes CMD CLOSE to an RX descriptor. -/
  | rxCloseCmd (t : Nat) (n : Needle) (ep : Nat) (v : W32)
  /-- OPEN_REQ (R187): Control flit asking an RX endpoint to open a strand. -/
  | openReq (pid : Nat)
  /-- OPEN_ACK (R186): Control flit accepting a strand with the ring's base and size. -/
  | openAck (pid : Nat)
  /-- OPEN_NAK (R186): Control flit refusing a strand. -/
  | openNak (pid : Nat)
  /-- CREDIT (R186): Control flit returning ring space to a TX endpoint. -/
  | credit (pid : Nat)
  /-- CLOSE (R187): Control flit closing a strand from the sender. -/
  | close (pid : Nat)
  /-- CLOSE_ACK (R186): Control flit confirming a close. -/
  | closeAck (pid : Nat)
  /-- ORPHAN (R186): Control flit telling the sender its strand is orphaned. -/
  | orphan (pid : Nat)
  /-- STRAND_DATA (R191): A STRAND data packet is checked against the RX ring and written or dropped. -/
  | strandData (a : Landing)
  /-- HEAD_WRITE (R192): The reader writes HEAD to free records. -/
  | headWrite (t : Nat) (n : Needle) (ep : Nat) (v : W32)
  /-- JOIN (R196): The join unit applies a JOIN packet to its queue line. -/
  | join (a : Service) (ecc : JoinEcc)
  /-- ROUTER_FORWARD (R148): A router output grants a packet and moves it one hop. -/
  | routerForward (c port : Nat) (aged : Option Nat) (ecc : Ecc)
  /-- CREDIT_RETURN (R146): A receiver returns flit credits to the sender of a link. -/
  | creditReturn (c port vc k : Nat)
  /-- CLUSTER_STORE_WRITE (R135): The cluster store grants and writes a packet's line. -/
  | clusterStoreWrite (a : Service)
  /-- RDREQ (R137): A read request is served at its store, from a merge entry or a bank grant. -/
  | rdreq (a : Service) (ecc : Ecc)
  /-- MERGE_WINDOW_EXPIRE (R137): A merge entry's window ends and it closes. -/
  | mergeWindowExpire (c line : Nat)
  /-- RDRSP (R163): A read response is written at RADDR and frees its tag. -/
  | rdrsp (a : Response)
  /-- TRANSPOSE_READ (R139): The transposer serves an EXACT or REBLOCK cast read. -/
  | transposeRead (pid : Nat) (ecc : Ecc)
  /-- CLU_TEST_WRITE (R155): A write of CLU_TEST.TMODE acts only at debug level TEST. -/
  | cluTestWrite (rq : Requester) (c : Nat) (v : W32)
  /-- CLU_DARN_WRITE (R155): A test write of DCOL changes a row's darned column. -/
  | cluDarnWrite (rq : Requester) (c row : Nat) (v : W32)
  /-- HANK_ADD (R226): A write or read response into a hank buffer adds into the stored words. -/
  | hankAdd (a : Service) (ecc : Ecc)
  /-- HANK_READ (R228): A hank read returns the words and harvests lines in a HARVEST zone. -/
  | hankRead (a : Service) (ecc : Ecc)
  /-- HNK_FRESH_GO (R229): A write of HNK_FRESH.GO starts a freshen command. -/
  | hnkFreshGo (rq : Requester) (c : Nat) (v : W32)
  /-- FRESHEN_COMPLETE (R229): The freshen command has set FRESH on all its lines. -/
  | freshenComplete (c : Nat)
  /-- STASH_FIRING_COMPLETE (R221): A stash firing has moved its last byte. -/
  | stashFiringComplete (p entry : Nat) (ue : Option Nat)
  /-- GATHER (R240): Shard request copying the served generation, optionally pinned. -/
  | gather (i : Nat) (out : ReadOut)
  /-- GATHERCHK (R241): Shard request copying generation EXPGEN only if a slot holds it. -/
  | gatherchk (i : Nat) (out : ReadOut)
  /-- SHARD_RELEASE (R243): Frees a pin record and lowers its slot's pin count. -/
  | shardRelease (i : Nat)
  /-- GATHER_RECEIPT (R240): Once all data has landed the Blocker writes the receipt with its signal. -/
  | gatherReceipt (i : Nat)
  /-- PIN_TIMER_EXPIRE (R244): A pin record's timer expires. -/
  | pinTimerExpire (b handle : Nat)
  /-- UPDATE (R251): An UPDATE descriptor arrives and is checked and queued. -/
  | update (i : Nat)
  /-- ABORT (R262): An ABORT descriptor names an update to stop. -/
  | abort (i : Nat)
  /-- BLK_ABORT_GO (R262): Host software aborts an update through BLK_ABORT. -/
  | blkAbortGo (rq : Requester) (b : Nat) (v : W32)
  /-- UPDATE_START (R250): A free Blocker starts the oldest eligible update, reading its group entry and header. -/
  | updateStart (u : UpdateReads)
  /-- UPDATE_BLOCK (R254): A 256-element block of an update pass is written. -/
  | updateBlock (b : Nat) (out : ReadOut)
  /-- UPDATE_COMPLETE (R261): The last copy byte lands: publication, header and completion record. -/
  | updateComplete (b : Nat)
  /-- SKN_READ (R265): SKN_CMD READ copies a skein entry into the EDATA words. -/
  | sknRead (rq : Requester) (v : W32)
  /-- SKN_CREATE (R267): SKN_CMD CREATE starts a skein with its prompt groups. -/
  | sknCreate (rq : Requester) (v : W32)
  /-- SKN_CANCEL (R268): SKN_CMD CANCEL ends a skein with HOST_END. -/
  | sknCancel (rq : Requester) (v : W32)
  /-- BATCH_BUILD (R270): During a course the skein unit places skeins and writes next course's batch entries. -/
  | batchBuild (p : Nat)
  /-- RETURN_ACCEPT (R274): The skein unit handles one return record of a batched skein. -/
  | returnAccept (p : Nat) (ue : Option Nat)
  /-- SKEIN_EMIT (R276): An ending skein copies its tokens, writes an output record and frees its pages. -/
  | skeinEmit (k : Nat) (ue : Option Nat)
  /-- EVICT_START (R280): With free pages low, READY skeins begin moving to host slots. -/
  | evictStart (p : Nat)
  /-- EVICT_COMPLETE (R280): A skein's last page is written to the host and it becomes STASHED. -/
  | evictComplete (e : PageReads)
  /-- RESTORE_START (R281): With pages free, a STASHED skein begins moving back. -/
  | restoreStart (p : Nat)
  /-- RESTORE_COMPLETE (R281): A restored skein's last page has landed and it becomes READY. -/
  | restoreComplete (k : Nat)
  /-- SKN_BCFG_EN_WRITE (R282): A write of SKN_BCFG.EN rebuilds the free stack or is refused. -/
  | sknBcfgEnWrite (rq : Requester) (p : Nat) (v : W32)
  /-- MEM_ACCEPT (R291): A controller accepts a packet into its channel's reorder queue. -/
  | memAccept (pid : Nat)
  /-- MEM_CTRL_EN_WRITE (R292): A write of MEM_CTRL.EN starts or stops acceptance. -/
  | memCtrlEnWrite (rq : Requester) (k : Nat) (v : W32)
  /-- BURST_ISSUE (R294): A channel issues the chosen request's burst at a burst slot. -/
  | burstIssue (k ch i aged : Nat) (ecc : Ecc)
  /-- REFRESH (R295): A bank's refresh interval elapses and it is refreshed. -/
  | refresh (k ch bank : Nat)
  /-- SCRUB (R298): The scrub period elapses and the next burst is read. -/
  | scrub (k ch us : Nat)
  /-- TEMP_POLL (R299): The controller polls its stack sensors and updates the throttle state. -/
  | tempPoll (k : Nat) (temp : Int)
  /-- PHY_TRAIN_GO (R301): A write of PHY_TRAIN.GO starts a full training. -/
  | phyTrainGo (rq : Requester) (k : Nat) (v : W32)
  /-- STACK_TRAINING_COMPLETE (R304): A stack's training ends, mapping out channels and writing its record. -/
  | stackTrainingComplete (k : Nat) (lanes : List ((Nat × Nat) × (Nat × Nat)))
  /-- PHY_MRUN_GO (R305): A write of PHY_MRUN.GO starts a margin run. -/
  | phyMrunGo (rq : Requester) (k : Nat) (v : W32)
  /-- MARGIN_RUN_COMPLETE (R305): A margin run ends with its error count and the trained setting restored. -/
  | marginRunComplete (k errs : Nat)
  /-- PLY_ENABLE (R309): A write of PLY_CTRL.EN 1 starts link training. -/
  | plyEnable (rq : Requester) (k : Nat) (v : W32)
  /-- PLY_RETRAIN (R309): A write of PLY_CTRL.RETRAIN retrains the link. -/
  | plyRetrain (rq : Requester) (k : Nat) (v : W32)
  /-- PLY_TRAINING_COMPLETE (R309): Training ends with the link UP or UP4 and the peer recorded. -/
  | plyTrainingComplete (k : Nat) (up4 : Bool) (peer plink : Nat)
  /-- FLIT_RECEIVE (R312): A link flit is checked, acknowledgements and credits taken, and blocks forwarded. -/
  | flitReceive (k : Nat) (flit : BitVec 2048) (corrected unc : Nat)
  /-- NAK (R313): A NAK flit makes the sender replay from ACK + 1. -/
  | nak (k : Nat) (flit : BitVec 2048) (corrected unc : Nat)
  /-- REPLAY_TIMER_EXPIRE (R313): ACK has not advanced for 2 µs and the sender replays. -/
  | replayTimerExpire (k : Nat)
  /-- PLY_LINK_FAIL (R319): The last retraining attempt fails. -/
  | plyLinkFail (k : Nat)
  /-- SPAN_ARRIVE (R324): Group message ARRIVE combining a span's course arrivals. -/
  | spanArrive (i : Nat)
  /-- SPAN_RELEASE (R324): Group message RELEASE completing a span's course. -/
  | spanRelease (i : Nat)
  /-- GRACE (R325): Group message GRACE adding a peer's grace to each member partition. -/
  | grace (i : Nat)
  /-- HB (R330): Twin heartbeat message. -/
  | hb (i : Nat)
  /-- ATTACH_REQ (R331): Twin message requesting attachment with the image digest. -/
  | attachReq (i : Nat)
  /-- ATTACH_ACK (R331): Twin message accepting attachment. -/
  | attachAck (i : Nat)
  /-- ATTACH_NAK (R331): Twin message refusing attachment. -/
  | attachNak (i : Nat)
  /-- MIRROR_READY (R331): Twin message that the initial mirror is complete. -/
  | mirrorReady (i : Nat)
  /-- DETACH_REQ (R331): Message announcing that a module leaves its pair. -/
  | detachReq (i : Nat)
  /-- DRAIN_DONE (R331): Message that the leaving module is drained. -/
  | drainDone (i : Nat)
  /-- HANDOVER (R331): Message asking the confirmer to cover a module. -/
  | handover (i : Nat)
  /-- HANDOVER_ACK (R331): Confirmation that starts twin cover. -/
  | handoverAck (i : Nat)
  /-- HANDOVER_NAK (R331): Refusal of cover that stops mirroring. -/
  | handoverNak (i : Nat)
  /-- HANDBACK (R331): Message returning a covered ID to its module. -/
  | handback (i : Nat)
  /-- RESET_REQ (R323): Message requesting a reset of a named reach. -/
  | resetReq (i : Nat)
  /-- GROUP_JOIN (R332): Message JOIN announcing a module to its manager. -/
  | groupJoin (i : Nat)
  /-- JOIN_ACK (R322): Manager's acknowledgement of a joining module. -/
  | joinAck (i : Nat)
  /-- DISPATCH (R352): Job token delivered to the PF inbox. -/
  | dispatch (i cons : Nat)
  /-- ROLLOUT (R352): Rollout request delivered to the PF inbox. -/
  | rollout (i cons : Nat)
  /-- GEN_PUBLISHED (R326): Message that a generation is DONE on every shard. -/
  | genPublished (i : Nat)
  /-- GEN_ADOPTED (R326): Message that generating partitions have adopted a generation. -/
  | genAdopted (i : Nat)
  /-- TWIN_ATTACH (R331): PLY_TWIN_CTL.CMD ATTACH starts attachment. -/
  | twinAttach (rq : Requester) (v : W32)
  /-- TWIN_DETACH (R331): PLY_TWIN_CTL.CMD DETACH starts draining the module. -/
  | twinDetach (rq : Requester) (v : W32)
  /-- TWIN_PARTNER_LOST (R330): The twin loss time passes without messages from the partner. -/
  | twinPartnerLost
  /-- HEARTBEAT_TIMER (R330): The heartbeat interval elapses and HB or a pin pulse is sent. -/
  | heartbeatTimer (pin : Bool)
  /-- TWIN_HB_PULSE (R414): A low pulse on TWIN_HB is observed from the partner. -/
  | twinHbPulse
  /-- CKPT_ENTRY_COPY (R329): The mirror engine copies one checkpoint entry to the partner. -/
  | ckptEntryCopy
  /-- CONFIG_REQUEST (R336): A PCIe configuration request, answered with RRS until hub firmware is ready. -/
  | configRequest (req : CfgReq)
  /-- BAR2_WRITE (R340): A host write through BAR2 enters the mesh after window checks. -/
  | bar2Write (f ofs n v : Nat) (en : Nat)
  /-- BAR2_READ (R340): A host read through BAR2 after earlier writes are accepted. -/
  | bar2Read (f ofs : Nat) (b : BarRead)
  /-- BAR_READ_TIMEOUT (R341): A BAR read has not completed within 1 ms. -/
  | barReadTimeout (f : Nat)
  /-- DMA_TAIL_DOORBELL (R342): A TAIL doorbell write advances a DMA engine's ring. -/
  | dmaTailDoorbell (f e v : Nat)
  /-- ROLLOUT_CONS_DOORBELL (R350): The host advances CONS of its rollout ring. -/
  | rolloutConsDoorbell (f v : Nat)
  /-- ROLLOUT_MODERATION_TIMER (R350): MODUS µs pass since the first unsignalled record and VECTOR is signalled. -/
  | rolloutModerationTimer (p : Nat)
  /-- DMA_ENABLE (R347): A write of PCI_DMA_CTL.EN 1 starts the engine. -/
  | dmaEnable (rq : Requester) (e : Nat) (v : W32)
  /-- DMA_STOP (R347): A write of PCI_DMA_CTL.STOP stops the engine. -/
  | dmaStop (rq : Requester) (e : Nat) (v : W32)
  /-- DMA_COPY (R346): The engine performs a COPY descriptor. -/
  | dmaCopy (e : Nat) (desc : BitVec 256) (out : ReadOut)
  /-- DMA_FILL (R346): The engine performs a FILL descriptor. -/
  | dmaFill (e : Nat) (desc : BitVec 256)
  /-- DMA_NOP (R346): The engine performs a NOP descriptor. -/
  | dmaNop (e : Nat) (desc : Option (BitVec 256))
  /-- DMA_DESCRIPTOR_COMPLETE (R346): A descriptor's writes are done; the engine writes its record and advances CHEAD. -/
  | dmaDescriptorComplete (e : Nat)
  /-- VF_FLR (R354): A VF function-level reset acts as a PARTITION reset of its partition. -/
  | vfFlr (f : Nat)
  /-- PF_FLR (R354): A PF FLR holds every partition and stops every engine. -/
  | pfFlr
  /-- HOT_RESET (R354): A PCIe hot reset acts as a PF FLR. -/
  | hotReset
  /-- DL_DOWN (R354): Link loss acts as a PF FLR. -/
  | dlDown
  /-- PART_CREATE (R31): Mailbox command creating a partition held in reset. -/
  | partCreate (ring : Bool) (f seq : Nat) (p mask planes first count prof budget : Nat)
  /-- PART_DESTROY (R351): Mailbox command resetting a partition and freeing its resources. -/
  | partDestroy (ring : Bool) (f seq : Nat) (p : Nat)
  /-- PART_HOLD (R351): Mailbox command asserting or releasing a partition's reset hold. -/
  | partHold (ring : Bool) (f seq : Nat) (p : Nat) (hold : Bool)
  /-- WINDOW_SET (R32): Mailbox command setting a stack window and its grants. -/
  | windowSet (ring : Bool) (f seq : Nat) (p w base len grants : Nat)
  /-- STITCH_MAP (R351): Mailbox command mapping logical stitches to physical ones. -/
  | stitchMap (ring : Bool) (f seq : Nat) (p : Nat) (list : List W32)
  /-- DMAE_ASSIGN (R344): Mailbox command assigning a DMA engine to a function. -/
  | dmaeAssign (ring : Bool) (f seq : Nat) (e owner : Nat)
  /-- SHARD_SET (R234): Mailbox command writing a shard-table entry. -/
  | shardSet (ring : Bool) (f seq : Nat) (p b entry : Nat) (valid : Bool) (cur base0 base1 len gen0 gen1 : Nat)
  /-- TENSION_SET (R32): Mailbox command setting a partition's tension budget. -/
  | tensionSet (ring : Bool) (f seq : Nat) (p budget : Nat)
  /-- PLY_SET (R315): Mailbox command setting a Ply window and PLY_INGRANT. -/
  | plySet (ring : Bool) (f seq : Nat) (k n : Nat) (valid : Bool) (p lbase llen pbase ppart grants : Nat)
  /-- GROUP_SET (R321): Mailbox command setting module ID, control tree and spans. -/
  | groupSet (ring : Bool) (f seq : Nat) (gid role up altup down tdown : Nat) (spans : List (Nat × W32 × Nat))
  /-- MSG_SEND (R351): Mailbox command sending DISPATCH or ROLLOUT to a module. -/
  | msgSend (ring : Bool) (f seq : Nat) (kind dst arg : Nat)
  /-- FLASH_WRITE (R386): Mailbox command checking and programming a pattern image copy. -/
  | flashWrite (ring : Bool) (f seq : Nat) (c : Nat) (img : List Byte) (ok : Bool)
  /-- RAM_START (R384): Mailbox command starting from a checked host image. -/
  | ramStart (ring : Bool) (f seq : Nat) (img : List Byte)
  /-- RESTART (R374): Mailbox command asserting the software source with reach COLD. -/
  | restart (ring : Bool) (f seq : Nat)
  /-- BOOT_RECORD (R383): Mailbox command copying the boot record to the host. -/
  | bootRecord (ring : Bool) (f seq : Nat) (buf : Nat)
  /-- IDENTITY (R388): Mailbox command returning the identity key and its state. -/
  | identity (ring : Bool) (f seq : Nat)
  /-- ATTEST (R390): Mailbox command signing an attestation report. -/
  | attest (ring : Bool) (f seq : Nat) (nonce buf : Nat)
  /-- REPROVISION (R389): Mailbox command burning a new key generation on a vendor token. -/
  | reprovision (ring : Bool) (f seq : Nat) (key sig : List Byte)
  /-- DEBUG_NONCE (R391): Mailbox command returning a fresh unlock nonce. -/
  | debugNonce (ring : Bool) (f seq : Nat)
  /-- DEBUG_UNLOCK (R391): Mailbox command opening a debug level on a signed token. -/
  | debugUnlock (ring : Bool) (f seq : Nat) (level : Nat) (key sig : List Byte)
  /-- DEBUG_LOCK (R391): Mailbox command returning the lock to LOCKED. -/
  | debugLock (ring : Bool) (f seq : Nat)
  /-- SVN_COMMIT (R386): Mailbox command raising the fused SVN to the active image's. -/
  | svnCommit (ring : Bool) (f seq : Nat)
  /-- SPILL (R380): Mailbox command copying the skein spill and optionally resuming spilling. -/
  | spill (ring : Bool) (f seq : Nat) (first count buf : Nat) (release : Bool) (ue : List Nat)
  /-- SMB_DEVICE_ID (R353): SMBus command 0x01 returning device ID, stepping and serial. -/
  | smbDeviceId (pec : Bool)
  /-- SMB_STATE (R353): SMBus command 0x02 returning start state and failed starts. -/
  | smbState (pec : Bool)
  /-- SMB_TEMPERATURES (R353): SMBus command 0x03 returning die and stack temperatures. -/
  | smbTemperatures (pec : Bool)
  /-- SMB_POWER (R353): SMBus command 0x04 returning input voltage, current and power. -/
  | smbPower (pec : Bool)
  /-- SMB_THROTTLE (R370): SMBus command 0x05 returning active throttle reasons. -/
  | smbThrottle (pec : Bool)
  /-- SMB_ERRORS (R410): SMBus command 0x06 returning and clearing the error count, releasing ALERT_N. -/
  | smbErrors (pec : Bool)
  /-- SMB_HOST_CAP (R369): SMBus command 0x10 setting the host power cap. -/
  | smbHostCap (pec : Bool) (v : Nat)
  /-- HOSTCAP_WRITE (R369): A write of PWR_HOSTCAP sets or removes the power cap. -/
  | hostcapWrite (rq : Requester) (v : W32)
  /-- POWER_LOSS (R356): The input stays below 38.0 V for 50 µs and the converters stop. -/
  | powerLoss
  /-- RAIL_FAULT (R357): A rail stays outside its window for 10 µs. -/
  | railFault (rail mv : Nat)
  /-- TENSION_RECHECK (R361): A stalled partition's charge is checked again every 1 µs. -/
  | tensionRecheck (p : Nat)
  /-- OVERDRAW_HOLD_END (R362): An overdraw hold expires and condition 4 is given. -/
  | overdrawHoldEnd (p : Nat)
  /-- INPUT_DROOP (R365): The input falls below VTH and all K-dies are stretched. -/
  | inputDroop (vin : Nat)
  /-- INPUT_CURRENT_LIMIT (R365): The limiter stays engaged for 1,500 µs and all K-dies are stretched. -/
  | inputCurrentLimit
  /-- EMERGENCY_STEP_TIMER (R365): During an emergency a further operating-point step down is taken. -/
  | emergencyStepTimer (ev d : Nat)
  /-- EMERGENCY_END (R365): The event's end condition holds and stretching stops. -/
  | emergencyEnd (ev obj vin : Nat)
  /-- GRACE_RESEND_TIMER (R367): A further grace notice is sent while an emergency lasts. -/
  | graceResendTimer
  /-- SENSOR_SAMPLE (R368): Die sensors are sampled and thresholds are judged. -/
  | sensorSample (vin iin pin : Nat) (dies : List (Int × Nat)) (due : Nat)
  /-- ALIGN_HOLD_EXPIRE (R364): An alignment hold runs out before every partition reaches its boundary. -/
  | alignHoldExpire (d : Nat)
  /-- RECOVERY_STEP (R364): Causes clear for PWR_RECOV and an upward step is requested. -/
  | recoveryStep (d : Nat)
  /-- CAP_STEP_TIMER (R369): Each 1 ms above the power limit a step down is requested. -/
  | capStepTimer (pavg : Nat)
  /-- POWER_ON (R374): PWR_OK rises and the power-on source releases. -/
  | powerOn
  /-- PERST_N_ASSERT (R376): PERST_N has been low for 10 µs and asserts its source. -/
  | perstNAssert
  /-- PERST_N_RELEASE (R376): PERST_N has been high for 10 µs and releases its source. -/
  | perstNRelease
  /-- MRESET_N_ASSERT (R376): MRESET_N has been low for 10 µs and asserts its source. -/
  | mresetNAssert
  /-- MRESET_N_RELEASE (R376): MRESET_N has been high for 10 µs and releases its source. -/
  | mresetNRelease
  /-- WDOG_KICK (R374): A write of RST_WDOG.KICK restarts the watchdog time. -/
  | wdogKick (rq : Requester) (v : W32)
  /-- WDOG_EXPIRE (R374): The hub watchdog expires and asserts its source. -/
  | wdogExpire
  /-- SWREQ_TILE (R61): RST_SWREQ GO with reach TILE resets one tile. -/
  | swreqTile (rq : Requester) (v : W32)
  /-- SWREQ_PARTITION (R374): RST_SWREQ GO with reach PARTITION resets one partition. -/
  | swreqPartition (rq : Requester) (v : W32)
  /-- SWREQ_COMPUTE (R374): RST_SWREQ GO with reach COMPUTE. -/
  | swreqCompute (rq : Requester) (v : W32)
  /-- SWREQ_WARM (R374): RST_SWREQ GO with reach WARM. -/
  | swreqWarm (rq : Requester) (v : W32)
  /-- SWREQ_COLD (R374): RST_SWREQ GO with reach COLD. -/
  | swreqCold (rq : Requester) (v : W32)
  /-- RST_PHOLD_WRITE (R374): A write of RST_PHOLD holds or releases partitions in PARTITION reset. -/
  | rstPholdWrite (rq : Requester) (v : W32)
  /-- RESET_EXIT (R375): Every source has released and the exit sequence of the latched reach starts. -/
  | resetExit (code : Nat)
  /-- PCIE_ENDPOINT_RESET_EXIT (R377): The endpoint leaves its own reset domain and starts link training. -/
  | pcieEndpointResetExit
  /-- START (R382): A WARM or COLD exit runs the boot record, image checks, firmware and training. -/
  | start (pll : Bool) (bad : Nat) (recOk : Bool)
  /-- START_READY (R382): Hub firmware writes configuration space, sets READY and appends SUCCESS. -/
  | startReady
  /-- START_TIMEOUT (R382): READY is not reached within 8 s of the exit start. -/
  | startTimeout
  /-- CENSUS_AT_BOUNDARY (R400): CNS_CTRL.GO with MODE 1 arms a census at the next boundary of PART. -/
  | censusAtBoundary (rq : Requester) (v : W32)
  /-- CENSUS_NOW (R400): CNS_CTRL.GO with MODE 2 captures at the next YCLK edge. -/
  | censusNow (rq : Requester) (v : W32)
  /-- CENSUS_CANCEL (R400): CNS_CTRL.CANCEL disarms an armed census. -/
  | censusCancel (rq : Requester) (v : W32)
  /-- CENSUS_DONE (R399): The shadows of a census are written and DONE is set. -/
  | censusDone
  /-- CNS_SDATA_READ (R402): A read of CNS_SDATA returns a shadow and advances OFS under AINC. -/
  | cnsSdataRead (rq : Requester)
  /-- RECORD_FILE (R405): A unit's held error record is filed with the ERR block, its queue, rings and vectors. -/
  | recordFile (i bad : Nat)
  /-- ERR_QPOP (R406): A hub-core write of ERR_QPOP.POP discards the oldest queued record. -/
  | errQpop (rq : Requester) (v : W32)
  /-- TILE_RESET_RELEASE (R374): The software TILE source ends 10 µs after RST_SWREQ.GO and the tile's needles go from RESET to IDLE. -/
  | tileResetRelease (t : Nat)
  /-- HOST_REFCLK_LOSS (R26): The host's 100 MHz reference clock stops, HCLK stops and the PCI block reads as unmapped from the hub cores. -/
  | hostRefclkLoss
  /-- HOST_REFCLK_RETURN (R26): The host's 100 MHz reference clock returns and HCLK runs again. -/
  | hostRefclkReturn
  /-- PLY_LINK_LOSS (R319): A link stops carrying flits and starts retraining, with its queued and unacknowledged packets waiting. -/
  | plyLinkLoss (k : Nat)
  /-- INITIAL_MIRROR_COMPLETE (R331): The module's full mirror to its partner finishes and it sends MIRROR_READY. -/
  | initialMirrorComplete
  /-- TWIN_DRAIN_COMPLETE (R331): A DRAINING module has held its partitions and flushed its checkpoint entry and skein table, and sends DRAIN_DONE. -/
  | twinDrainComplete
  /-- PCIE_LINK_UP (R336): PCIe link training completes, the link reaches DL_Active and PCI_STATUS.LINKUP is set. -/
  | pcieLinkUp (speed width : Nat)
  /-- HOST_COMPLETION (R345): A PCIe completion for a module-issued host read arrives and delivers data, or fails with UR, CA or poison and raises DMA_HOSTERR. -/
  | hostCompletion (i data : Nat) (ok : Bool)
  /-- HOST_COMPLETION_TIMEOUT (R345): A module-issued host read gets no completion within the completion timeout and the request fails with DMA_HOSTERR. -/
  | hostCompletionTimeout (i : Nat)
  /-- VIN_RISE (R415): VIN rises through 39.5 V and the on-module rails start their power-up sequence. -/
  | vinRise (vin : Nat)
  /-- UART_CONSOLE_INPUT (R391): A byte arrives on UART_RX and, at debug level DEBUG or TEST, goes to the hub-firmware console. -/
  | uartConsoleInput (b : Byte)
  /-- MAILBOX_UNKNOWN_CMD (R351): A mailbox request with an unassigned CMD is answered with UNKNOWN_CMD, changes nothing, and signals vector 0. -/
  | mailboxUnknownCmd (ring : Bool) (f seq : Nat) (cmd : Nat)
  deriving DecidableEq, Repr

end Sys2Proof
end

