-- ==== Sys2Proof/Decode.lean ====
section
/-! DEFINITION. The table gives no row any bits: the module's commands are not words of a memory but accesses, packets,
messages and events, so that no word spells one. The tile's 64-bit instruction words are operands of the commands that run
them, and their fields are read in `Machine/Operands.lean`. -/

namespace Sys2Proof

/-- The command that a word spells by the table's bits: none, for the table gives none. -/
def decodeTableWord (_nbits _w : Nat) : Option Instr := none

end Sys2Proof
end

