-- ==== Sys2Proof/Machine/Num.lean ====
section
/-! DEFINITION. Exact arithmetic on the element formats of `05_numerics.md`: every value is held as an exact dyadic
number, every operation is computed exactly and narrowed once, by one rounding function (R104, R120, R121). -/

namespace Sys2Proof.Machine

/-- An exact number: (−1)^neg × m × 2^e. A zero keeps its sign (R104). -/
structure Dy where
  neg : Bool
  m : Nat
  e : Int
  deriving DecidableEq, Repr

/-- The operand classes of R75: NaN (signalling or quiet), infinity, or a finite value. -/
inductive FVal where
  | nan (sig : Bool)
  | inf (neg : Bool)
  | fin (d : Dy)
  deriving DecidableEq, Repr

/-- How a format uses its all-ones exponent (Table 5.1). -/
inductive Specials where
  | ieee       -- infinity and quiet or signalling NaNs
  | ieeeQuiet  -- infinity, and every NaN is quiet
  | nanTop     -- FP8 E4M3: one NaN code per sign, no infinity
  | none       -- FP6 and FP4: every code is finite
  deriving DecidableEq, Repr

/-- The parameters of a floating-point element format (Table 5.1). -/
structure Fmt where
  ebits : Nat
  mbits : Nat
  bias : Nat
  specials : Specials
  maxCode : Nat
  nanCode : Nat
  deriving DecidableEq, Repr

def fmtFP32 : Fmt := ⟨8, 23, 127, .ieee, 0x7F7FFFFF, 0x7FC00000⟩
def fmtBF16 : Fmt := ⟨8, 7, 127, .ieee, 0x7F7F, 0x7FC0⟩
def fmtFP16 : Fmt := ⟨5, 10, 15, .ieeeQuiet, 0x7BFF, 0x7E00⟩
def fmtE5M2 : Fmt := ⟨5, 2, 15, .ieeeQuiet, 0x7B, 0x7E⟩
def fmtE4M3 : Fmt := ⟨4, 3, 7, .nanTop, 0x7E, 0x7F⟩
def fmtE3M2 : Fmt := ⟨3, 2, 3, .none, 0x1F, 0⟩
def fmtE2M3 : Fmt := ⟨2, 3, 1, .none, 0x1F, 0⟩
def fmtE2M1 : Fmt := ⟨2, 1, 1, .none, 0x7, 0⟩

/-- The smallest exponent of a normal value of the format. -/
def fmtEmin (f : Fmt) : Int := 1 - (f.bias : Int)

/-- The sign bit's weight in a code of the format. -/
def fmtSign (f : Fmt) : Nat := 2 ^ (f.ebits + f.mbits)

/-- The value of a code of a floating-point format (R104, Table 5.1). -/
def decodeF (f : Fmt) (code : Nat) : FVal :=
  let mant := code % 2 ^ f.mbits
  let ex := code / 2 ^ f.mbits % 2 ^ f.ebits
  let neg := decide (code / fmtSign f % 2 = 1)
  let top := decide (ex = 2 ^ f.ebits - 1)
  let finite : FVal :=
    if ex = 0 then .fin ⟨neg, mant, fmtEmin f - f.mbits⟩
    else .fin ⟨neg, 2 ^ f.mbits + mant, (ex : Int) - f.bias - f.mbits⟩
  match f.specials with
  | .ieee => if top then (if mant = 0 then .inf neg else .nan (decide (mant < 2 ^ (f.mbits - 1)))) else finite
  | .ieeeQuiet => if top then (if mant = 0 then .inf neg else .nan false) else finite
  | .nanTop => if top && decide (mant = 2 ^ f.mbits - 1) then .nan false else finite
  | .none => finite

/-- How a conversion or an operation rounds: the four modes of RM, ties away from zero (PROFILE A1, Table 3.12), and
stochastic rounding with a 16-bit draw (R121). -/
inductive Rnd where
  | nearest
  | toZero
  | up
  | down
  | nearestAway
  | stochastic (u : Nat)
  deriving DecidableEq, Repr

/-- The rounding mode that an RM field names (Table 3.7's text, R120). -/
def rndOfRM (rm : Nat) : Rnd :=
  match rm with
  | 0 => .nearest
  | 1 => .toZero
  | 2 => .up
  | _ => .down

/-- num / den rounded to an integer, for the magnitude of a value of sign `neg` (R120, R121). -/
def roundNat (r : Rnd) (neg : Bool) (num den : Nat) : Nat :=
  let lo := num / den
  let rem := num % den
  if rem = 0 then lo
  else
    match r with
    | .nearest => if 2 * rem < den then lo else if den < 2 * rem then lo + 1 else lo + lo % 2
    | .nearestAway => if 2 * rem < den then lo else lo + 1
    | .toZero => lo
    | .up => if neg then lo else lo + 1
    | .down => if neg then lo + 1 else lo
    | .stochastic u => if 2 ^ 16 ≤ 2 ^ 16 * rem / den + u then lo + 1 else lo

/-- n × 2^k for k ≥ 0; n itself for a negative k. -/
def shlI (n : Nat) (k : Int) : Nat := n * 2 ^ k.toNat

/-- m1 × 2^e1 ≤ m2 × 2^e2, exactly. -/
def leMag (m1 : Nat) (e1 : Int) (m2 : Nat) (e2 : Int) : Bool :=
  decide (shlI m1 (e1 - min e1 e2) ≤ shlI m2 (e2 - min e1 e2))

/-- floor(log2 (num / den)) for num, den > 0. -/
def floorLog2Rat (num den : Nat) : Int :=
  let l : Int := (Nat.log2 num : Int) - Nat.log2 den
  if leMag den l num 0 then l else l - 1

/-- What one rounding gives: the integer multiple `n` of the quantum 2^q, and whether it differs from the exact value. -/
structure Rounded where
  n : Nat
  q : Int
  inexact : Bool
  deriving DecidableEq, Repr

/-- The multiple of 2^q nearest to num / den × 2^e under the mode. -/
def roundAt (r : Rnd) (neg : Bool) (num den : Nat) (e q : Int) : Rounded :=
  let num' := shlI num (e - q)
  let den' := shlI den (q - e)
  ⟨roundNat r neg num' den', q, decide (num' % den' ≠ 0)⟩

/-- A value narrowed to a format's grid, which is extended without limit beyond the format's largest exponent (R119):
the magnitude's code on that grid, whether it is inexact, and whether the value is tiny under R78. -/
structure Narrowed where
  code : Nat
  inexact : Bool
  tiny : Bool
  deriving DecidableEq, Repr

/-- The code of the magnitude n × 2^q on the format's extended grid. -/
def encMag (f : Fmt) (n : Nat) (q : Int) : Nat :=
  if n < 2 ^ f.mbits then n
  else if n < 2 ^ (f.mbits + 1) then (q + f.mbits + f.bias).toNat * 2 ^ f.mbits + (n - 2 ^ f.mbits)
  else (q + 1 + f.mbits + f.bias).toNat * 2 ^ f.mbits

/-- num / den × 2^e rounded once onto the format's extended grid (R120, R121), with R78's tininess after rounding. -/
def narrow (f : Fmt) (r : Rnd) (neg : Bool) (num den : Nat) (e : Int) : Narrowed :=
  if num = 0 then ⟨0, false, false⟩
  else
    let l := floorLog2Rat num den + e
    let a := roundAt r neg num den e (max l (fmtEmin f) - f.mbits)
    let b := roundAt r neg num den e (l - f.mbits)
    ⟨encMag f a.n a.q, a.inexact, decide (b.n ≠ 0) && !(leMag 1 (fmtEmin f) b.n b.q)⟩

/-- The flag bits of Table 3.6c. -/
def flIV : Nat := 1
def flDZ : Nat := 2
def flOF : Nat := 4
def flUF : Nat := 8
def flISAT : Nat := 16
def flGSAT : Nat := 32
def flPICOT : Nat := 64
def flESC : Nat := 128

/-- A code with the sign bit of its format. -/
def withSign (f : Fmt) (neg : Bool) (code : Nat) : Nat := if neg then fmtSign f + code else code

/-- FP32's canonical quiet NaN (R75). -/
def nan32 : Nat := 0x7FC00000

/-- The FP32 infinity of a sign. -/
def inf32 (neg : Bool) : Nat := withSign fmtFP32 neg 0x7F800000

/-- The FP32 zero of a sign. -/
def zero32 (neg : Bool) : Nat := withSign fmtFP32 neg 0

/-- The exact sum of two numbers, with the sign of an exact zero left to the caller (R78). -/
def addDy (a b : Dy) : Dy :=
  let e := min a.e b.e
  let x := shlI a.m (a.e - e)
  let y := shlI b.m (b.e - e)
  if a.neg = b.neg then ⟨a.neg, x + y, e⟩
  else if y ≤ x then ⟨a.neg, x - y, e⟩
  else ⟨b.neg, y - x, e⟩

/-- The exact product of two numbers. -/
def mulDy (a b : Dy) : Dy := ⟨a.neg != b.neg, a.m * b.m, a.e + b.e⟩

/-- The FP32 result of an exact nonzero number under a rounding mode, with OF and UF (last four rows of Table 3.8). -/
def finish32 (r : Rnd) (d : Dy) : Nat × Nat :=
  let v := narrow fmtFP32 r d.neg d.m 1 d.e
  if fmtFP32.maxCode < v.code then
    match r with
    | .toZero => (withSign fmtFP32 d.neg fmtFP32.maxCode, flOF)
    | .up => (if d.neg then withSign fmtFP32 true fmtFP32.maxCode else inf32 false, flOF)
    | .down => (if d.neg then inf32 true else fmtFP32.maxCode, flOF)
    | _ => (inf32 d.neg, flOF)
  else (withSign fmtFP32 d.neg v.code, if v.tiny && v.inexact then flUF else 0)

/-- a × b + c, rounded once: Table 3.8, the first row that matches (R78). -/
def fma32 (r : Rnd) (a b c : FVal) : Nat × Nat :=
  let isSig : FVal → Bool := fun v => match v with | .nan true => true | _ => false
  let isNan : FVal → Bool := fun v => match v with | .nan _ => true | _ => false
  let isZero : FVal → Bool := fun v => match v with | .fin d => decide (d.m = 0) | _ => false
  let isInf : FVal → Bool := fun v => match v with | .inf _ => true | _ => false
  let sgn : FVal → Bool := fun v => match v with | .nan _ => false | .inf n => n | .fin d => d.neg
  let pneg := sgn a != sgn b
  let pinf := isInf a || isInf b
  if isSig a || isSig b || isSig c then (nan32, flIV)
  else if (isInf a && isZero b) || (isZero a && isInf b) then (nan32, flIV)
  else if isNan a || isNan b || isNan c then (nan32, 0)
  else if pinf && isInf c && (sgn c != pneg) then (nan32, flIV)
  else if pinf then (inf32 pneg, 0)
  else if isInf c then (inf32 (sgn c), 0)
  else
    match a, b, c with
    | .fin x, .fin y, .fin z =>
      let p := mulDy x y
      let t := addDy p z
      if t.m = 0 then
        if p.m = 0 ∧ z.m = 0 ∧ p.neg = z.neg then (zero32 p.neg, 0) else (zero32 (r == .down), 0)
      else finish32 r t
    | _, _, _ => (nan32, 0)

/-- The FP32 value of a code. -/
def val32 (code : Nat) : FVal := decodeF fmtFP32 code

/-- The number 1.0. -/
def oneF : FVal := .fin ⟨false, 1, 0⟩

def fadd32 (r : Rnd) (a b : FVal) : Nat × Nat := fma32 r a oneF b

/-- a − b: an addition of b with its sign inverted; a NaN stays as it is (R78). -/
def fsub32 (r : Rnd) (a b : FVal) : Nat × Nat :=
  let nb : FVal := match b with
    | .nan s => .nan s
    | .inf n => .inf (!n)
    | .fin d => .fin ⟨!d.neg, d.m, d.e⟩
  fma32 r a oneF nb

/-- a × b: FMA with c = +0 under RM 3 and −0 otherwise (R78). -/
def fmul32 (r : Rnd) (a b : FVal) : Nat × Nat := fma32 r a b (.fin ⟨r != .down, 0, 0⟩)

/-- The order of two finite values or infinities: lt, eq or gt; zeros of either sign are equal (R79). -/
def cmpVal (a b : FVal) : Ordering :=
  let key : FVal → Int × Nat × Int := fun v => match v with
    | .nan _ => (0, 0, 0)
    | .inf n => (if n then -2 else 2, 0, 0)
    | .fin d => (if d.m = 0 then 0 else if d.neg then -1 else 1, d.m, d.e)
  let x := key a
  let y := key b
  if x.1 < y.1 then .lt
  else if y.1 < x.1 then .gt
  else if x.1 = 1 then
    (if leMag x.2.1 x.2.2 y.2.1 y.2.2 then (if leMag y.2.1 y.2.2 x.2.1 x.2.2 then .eq else .lt) else .gt)
  else if x.1 = -1 then
    (if leMag x.2.1 x.2.2 y.2.1 y.2.2 then (if leMag y.2.1 y.2.2 x.2.1 x.2.2 then .eq else .gt) else .lt)
  else .eq

def isNanF (v : FVal) : Bool := match v with | .nan _ => true | _ => false
def isSigF (v : FVal) : Bool := match v with | .nan true => true | _ => false
def isInfF (v : FVal) : Bool := match v with | .inf _ => true | _ => false
def isZeroF (v : FVal) : Bool := match v with | .fin d => decide (d.m = 0) | _ => false

/-- The sign of a value that is not a NaN. -/
def signF (v : FVal) : Bool := match v with | .nan _ => false | .inf n => n | .fin d => d.neg

/-- FMIN and FMAX (Table 3.9), on codes, since a number is delivered as it came. -/
def fminmax32 (isMax : Bool) (x y : Nat) : Nat × Nat :=
  let a := val32 x
  let b := val32 y
  let fl := if isSigF a || isSigF b then flIV else 0
  if isNanF a && isNanF b then (nan32, fl)
  else if isNanF a then (y, fl)
  else if isNanF b then (x, fl)
  else if isZeroF a && isZeroF b then
    (zero32 (if isMax then signF a && signF b else signF a || signF b), fl)
  else
    match cmpVal a b with
    | .lt => (if isMax then y else x, fl)
    | .gt => (if isMax then x else y, fl)
    | .eq => (x, fl)

/-- FCMPEQ, FCMPLT and FCMPLE: the predicate bit and the flags (R79). -/
def fcmpEq (a b : FVal) : Bool × Nat :=
  if isNanF a || isNanF b then (false, if isSigF a || isSigF b then flIV else 0)
  else (cmpVal a b == .eq, 0)

def fcmpLt (a b : FVal) : Bool × Nat :=
  if isNanF a || isNanF b then (false, flIV) else (cmpVal a b == .lt, 0)

def fcmpLe (a b : FVal) : Bool × Nat :=
  if isNanF a || isNanF b then (false, flIV) else (cmpVal a b != .gt, 0)

/-- One narrowed element: its code, its flags and whether it is saturated (R119, Table 5.6). -/
structure Elem where
  code : Nat
  flags : Nat
  sat : Bool
  deriving DecidableEq, Repr

/-- Narrowing into BF16, FP8 or an MX element format after scaling by 2^k; UF is raised only where `uf` says so
(Table 5.6, first two columns). -/
def narrowElem (f : Fmt) (uf : Bool) (r : Rnd) (k : Int) (v : FVal) : Elem :=
  match v with
  | .nan s => ⟨f.nanCode, if s then flIV else 0, false⟩
  | .inf n =>
    match f.specials with
    | .ieee | .ieeeQuiet => ⟨withSign f n ((2 ^ f.ebits - 1) * 2 ^ f.mbits), 0, false⟩
    | _ => ⟨withSign f n f.maxCode, flGSAT, true⟩
  | .fin d =>
    let x := narrow f r d.neg d.m 1 (d.e + k)
    if f.maxCode < x.code then ⟨withSign f d.neg f.maxCode, flGSAT, true⟩
    else ⟨withSign f d.neg x.code, if uf && x.tiny && x.inexact then flUF else 0, false⟩

/-- The magnitude rounded to an integer, clamped to `qmax`: the INT and T2 columns of Table 5.6. -/
def narrowInt (r : Rnd) (qmax : Nat) (neg : Bool) (num den : Nat) : Nat × Bool :=
  let q := roundNat r neg num den
  if qmax < q then (qmax, true) else (q, false)

/-- A finite value widened to FP32: exact, or infinity of its sign with OF (R123, Table 5.7). -/
def widenFin (d : Dy) : Nat × Nat :=
  let v := narrow fmtFP32 .nearest d.neg d.m 1 d.e
  if fmtFP32.maxCode < v.code then (inf32 d.neg, flOF) else (withSign fmtFP32 d.neg v.code, 0)

/-- A value widened to FP32 (Table 5.7). -/
def widen32 (v : FVal) : Nat × Nat :=
  match v with
  | .nan s => (nan32, if s then flIV else 0)
  | .inf n => (inf32 n, 0)
  | .fin d => widenFin d

end Sys2Proof.Machine
end

