-- ==== Sys2Proof/Machine/Gauge.lean ====
section
/-! DEFINITION. The gauge unit and the block formats of `05_numerics.md`: Z4 blocks with their scale, fine scales and
picot slots (R105 to R107, R116 to R118), T2 trits (R108), INT groups (R109) and MX blocks (R110, R111, R119). -/

namespace Sys2Proof.Machine

/-- Bits lo + n − 1 to lo of a number. -/
def bitsOf (x lo n : Nat) : Nat := x / 2 ^ lo % 2 ^ n

/-- Byte i of a number read as little-endian bytes. -/
def byteOf (x i : Nat) : Nat := bitsOf x (8 * i) 8

/-- The number whose n-bit digits, least significant first, are the list. -/
def packN (n : Nat) : List Nat → Nat
  | [] => 0
  | d :: ds => d % 2 ^ n + 2 ^ n * packN n ds

/-- The settings a conversion into Z4 reads: CRS_XPOL.PICOT and OUTLIER, PROFILE A1, and the ceiling of R116. -/
structure GaugePol where
  picot : Bool
  outlier : Bool
  a1 : Bool
  ceil : Option Nat
  deriving DecidableEq, Repr

/-- A Z4 block (R105, R107): shared exponent, four fine scales, 32 codes and two picot slots. -/
structure Z4Block where
  e : Nat
  ks : List Nat
  codes : List Nat
  slot0 : Nat
  slot1 : Nat
  deriving DecidableEq, Repr

/-- What a gauge unit reports of one block or of a whole conversion (R117, R122, R127, R128): flags, saturated elements,
picot slots written, escape blocks, NaN source elements, the first escape block, and the first block with a NaN and
that NaN's element. -/
structure GaugeRep where
  flags : Nat
  sat : Nat
  picots : Nat
  escs : Nat
  nans : Nat
  firstEsc : Option Nat
  firstNan : Option (Nat × Nat)
  deriving DecidableEq, Repr

def gaugeRepNone : GaugeRep := ⟨0, 0, 0, 0, 0, none, none⟩

/-- Two reports of consecutive blocks of one instruction together. -/
def gaugeRepAdd (a b : GaugeRep) : GaugeRep :=
  ⟨a.flags ||| b.flags, a.sat + b.sat, a.picots + b.picots, a.escs + b.escs, a.nans + b.nans,
    a.firstEsc.orElse (fun _ => b.firstEsc), a.firstNan.orElse (fun _ => b.firstNan)⟩

/-- The magnitude order of R117: an infinity lies above every finite value. -/
def ltMagF (a b : FVal) : Bool :=
  match a, b with
  | .fin x, .fin y => !(leMag y.m y.e x.m x.e)
  | .fin _, .inf _ => true
  | _, _ => false

/-- The entry of largest magnitude, the first of equal ones (R117). -/
def pickMax : List (Nat × FVal) → Option (Nat × FVal)
  | [] => none
  | x :: xs =>
    match pickMax xs with
    | none => some x
    | some y => if ltMagF x.2 y.2 then some y else some x

/-- The list without the entry of an index. -/
def dropIdx (i : Nat) (xs : List (Nat × FVal)) : List (Nat × FVal) := xs.filter (fun p => p.1 != i)

/-- A list's entries with their places. -/
def indexed {α : Type} (xs : List α) : List (Nat × α) := (List.range xs.length).zip xs

/-- The entry's magnitude as an exact number; 0 where there is none. -/
def magOf (o : Option (Nat × FVal)) : Nat × Int :=
  match o with
  | some (_, .fin d) => (d.m, d.e)
  | _ => (0, 0)

/-- scale(M) of R116: the smallest e in 0 to 254 with M ≤ 11.625 × 2^(e − 127), and 254 where there is none. -/
def gaugeScale (m : Nat × Int) : Nat :=
  if m.1 = 0 then 0
  else ((List.range 255).find? (fun (e : Nat) => leMag (8 * m.1) m.2 93 ((e : Int) - 127))).getD 254

/-- The exponent E that the gauge chooses for a block without a NaN (R116). -/
def gaugeE (pol : GaugePol) (xs : List (Nat × FVal)) : Nat :=
  let fins := xs.filter (fun p => !(isInfF p.2))
  let o1 := pickMax fins
  let r1 := match o1 with | some p => dropIdx p.1 fins | none => fins
  let o2 := pickMax r1
  let r2 := match o2 with | some p => dropIdx p.1 r1 | none => r1
  let m1 := magOf o1
  let m3 := magOf (pickMax r2)
  let e0 := gaugeScale m1
  let s3 := gaugeScale m3
  let e1 :=
    if pol.outlier && pol.picot && !(leMag m1.1 m1.2 (4 * m3.1) m3.2) && leMag m1.1 m1.2 448 ((s3 : Int) - 127)
    then s3 else e0
  match pol.ceil with
  | some c => min e1 (if c = 0xFF then 0xFE else c)
  | none => e1

/-- Whether an element escapes a block of exponent e (R117). -/
def gaugeEscapes (e : Nat) (v : FVal) : Bool :=
  match v with
  | .nan _ => false
  | .inf _ => true
  | .fin d => !(leMag (8 * d.m) d.e 93 ((e : Int) - 127))

/-- The largest E4M3 magnitude code whose value times S does not exceed BF16's largest finite value (R117). -/
def picotLimit (e : Nat) : Nat :=
  ((List.range 0x7F).reverse.find? (fun c =>
    match decodeF fmtE4M3 c with
    | .fin d => leMag d.m (d.e + ((e : Int) - 127)) 255 120
    | _ => false)).getD 0

/-- The picot CODE of an escaping element and whether the gauge clamped it (R117). -/
def picotCode (e : Nat) (r : Rnd) (v : FVal) : Nat × Bool :=
  match v with
  | .fin d =>
    let c := (narrow fmtE4M3 r d.neg d.m 1 (d.e - ((e : Int) - 127))).code
    if picotLimit e < c then (withSign fmtE4M3 d.neg (picotLimit e), true) else (withSign fmtE4M3 d.neg c, false)
  | v => (withSign fmtE4M3 (signF v) (picotLimit e), true)

/-- A picot slot of a code and an element (Table 5.4). -/
def picotSlot (code idx : Nat) : Nat := 0x8000 + 2 ^ 8 * idx + code

/-- The smallest fine scale k in 0 to 15 with m ≤ 6 × (1 + k/16) × S (R118). -/
def fineScale (e : Nat) (m : Nat × Int) : Nat :=
  ((List.range 16).find? (fun k => leMag (16 * m.1) m.2 (6 * (16 + k)) ((e : Int) - 127))).getD 15

/-- The element code of a value in a subgroup of fine scale k (R118). -/
def z4Code (e k : Nat) (r : Rnd) (d : Dy) : Nat :=
  withSign fmtE2M1 d.neg (min 7 (narrow fmtE2M1 r d.neg (16 * d.m) (16 + k) (d.e - ((e : Int) - 127))).code)

/-- PROFILE A1 rounds Z4 ties away from zero in every round-to-nearest conversion (Table 3.12). -/
def z4Rnd (a1 : Bool) (r : Rnd) : Rnd :=
  match r with
  | .nearest => if a1 then .nearestAway else .nearest
  | r => r

/-- The block of R116 for a source with a NaN. -/
def z4NanBlock : Z4Block := ⟨0xFF, [0, 0, 0, 0], List.replicate 32 0, 0, 0⟩

/-- One block of 32 elements through the gauge into Z4 (R116 to R118, Table 5.6); `rnd i` rounds element i, `blk` is the
block's number in the instruction's source. -/
def gaugeZ4 (pol : GaugePol) (rnd : Nat → Rnd) (blk : Nat) (xs : List FVal) : Z4Block × GaugeRep :=
  let ix := indexed xs
  let nans := ix.filter (fun p => isNanF p.2)
  match nans with
  | (i, _) :: _ =>
    (z4NanBlock, ⟨if xs.any isSigF then flIV else 0, 0, 0, 0, nans.length, none, some (blk, i)⟩)
  | [] =>
    let e := gaugeE pol ix
    let esc := ix.filter (fun p => gaugeEscapes e p.2)
    let o0 : Option (Nat × FVal) := if pol.picot then pickMax esc else none
    let rest : List (Nat × FVal) := match o0 with | some p => dropIdx p.1 esc | none => esc
    let o1 : Option (Nat × FVal) := if pol.picot then pickMax rest else none
    let sats : List (Nat × FVal) := match o1 with | some p => dropIdx p.1 rest | none => rest
    let held : Nat → Bool := fun i =>
      (match o0 with | some p => p.1 == i | none => false) || (match o1 with | some p => p.1 == i | none => false)
    let slotOf : Option (Nat × FVal) → Nat × Nat := fun o =>
      match o with
      | some p => let c := picotCode e (rnd p.1) p.2; (picotSlot c.1 p.1, if c.2 then 1 else 0)
      | none => (0, 0)
    let s0 := slotOf o0
    let s1 := slotOf o1
    let isSat : Nat → Bool := fun i => sats.any (fun p => p.1 == i)
    let kOf : Nat → Nat := fun j =>
      let sub := ix.filter (fun p => p.1 / 8 == j)
      if sub.any (fun p => isSat p.1) then 15
      else fineScale e (magOf (pickMax (sub.filter (fun p => !(held p.1)))))
    let ks := [kOf 0, kOf 1, kOf 2, kOf 3]
    let code : Nat × FVal → Nat := fun p =>
      if held p.1 then 0
      else if isSat p.1 then withSign fmtE2M1 (signF p.2) 7
      else match p.2 with
        | .fin d => z4Code e (ks.getD (p.1 / 8) 0) (z4Rnd pol.a1 (rnd p.1)) d
        | _ => 0
    let nsat : Nat := sats.length + s0.2 + s1.2
    let npic : Nat := (if o0.isSome then 1 else 0) + (if o1.isSome then 1 else 0)
    let isEsc := decide (2 < esc.length)
    (⟨e, ks, ix.map code, s0.1, s1.1⟩,
      ⟨(if nsat = 0 then 0 else flGSAT) + (if npic = 0 then 0 else flPICOT) + (if isEsc then flESC else 0),
        if pol.a1 then min 1 nsat else nsat, npic, if isEsc then 1 else 0, 0,
        if isEsc then some blk else none, none⟩)

/-- The scale word of a block (R88's text in `04_matrix_array_and_slip_path.md`). -/
def z4ScaleWord (b : Z4Block) : Nat := b.e % 256 + 256 * packN 4 b.ks

/-- The picot slots of a block as 4 bytes, slot 0 at the lower address (R107). -/
def z4PicotWord (b : Z4Block) : Nat := packN 16 [b.slot0, b.slot1]

/-- The 32-byte block record of R88. -/
def z4Record (b : Z4Block) : Nat :=
  packN 4 b.codes + 2 ^ 128 * z4ScaleWord b + 2 ^ 160 * z4PicotWord b

/-- The value of element i of a Z4 block with codes, scale word and picot word as given (R105, R107). -/
def z4Elem (codes scale picots i : Nat) : FVal :=
  let e := bitsOf scale 0 8
  let s : Int := (e : Int) - 127
  let slot : Nat → Option Nat := fun k =>
    let p := bitsOf picots (16 * k) 16
    if bitsOf p 15 1 = 1 ∧ bitsOf p 8 5 = i then some (bitsOf p 0 8) else none
  if e = 0xFF then .nan false
  else
    match (slot 0).orElse (fun _ => slot 1) with
    | some c =>
      match decodeF fmtE4M3 c with
      | .fin d => .fin ⟨d.neg, d.m, d.e + s⟩
      | v => v
    | none =>
      match decodeF fmtE2M1 (bitsOf codes (4 * i) 4) with
      | .fin d => .fin ⟨d.neg, d.m * (16 + bitsOf scale (8 + 4 * (i / 8)) 4), d.e - 4 + s⟩
      | v => v

/-- Element i of a 32-byte Z4 block record. -/
def z4RecElem (rec i : Nat) : FVal := z4Elem (bitsOf rec 0 128) (bitsOf rec 128 32) (bitsOf rec 160 32) i

/-- The digit of trit n mod 5 in a byte: 0 for trit 0, 1 for +1, 2 for −1; a byte of 243 or above holds zeros (R108). -/
def tritDigit (b n : Nat) : Nat := if 243 ≤ b then 0 else b / 3 ^ (n % 5) % 3

/-- A trit as a value. -/
def tritVal (digit : Nat) : FVal := .fin ⟨digit == 2, if digit = 0 then 0 else 1, 0⟩

/-- Byte b with the digit of trit n replaced; a byte of 243 or above is taken as zeros first (R113). -/
def tritSet (b n digit : Nat) : Nat :=
  let b' := if 243 ≤ b then 0 else b
  b' - (b' / 3 ^ (n % 5) % 3) * 3 ^ (n % 5) + digit * 3 ^ (n % 5)

/-- The largest finite magnitude of a list of elements (M1 of R116 and R119). -/
def maxFinite (xs : List FVal) : Nat × Int :=
  magOf (pickMax ((indexed xs).filter (fun p => !(isInfF p.2) && !(isNanF p.2))))

/-- What a group of elements that no Z4 block holds becomes: a scale code and the element codes. -/
structure GroupOut where
  scale : Nat
  codes : List Nat
  rep : GaugeRep
  deriving DecidableEq, Repr

/-- The report of NaN sources of one group or block (Table 5.6, R127). -/
def nanRep (blk : Nat) (xs : List FVal) : GaugeRep :=
  let nans := (indexed xs).filter (fun p => isNanF p.2)
  ⟨if xs.any isSigF then flIV else 0, 0, 0, 0, nans.length, none, nans.head?.map (fun p => (blk, p.1))⟩

/-- The report of the elements of one group that are not NaN. -/
def elemsRep (es : List Elem) : GaugeRep :=
  ⟨es.foldl (fun a e => a ||| e.flags) 0, (es.filter (fun e => e.sat)).length, 0, 0, 0, none, none⟩

/-- FP8 and BF16 elements: each rounds on its own (R119). -/
def narrowFloats (f : Fmt) (rnd : Nat → Rnd) (blk : Nat) (xs : List FVal) : GroupOut :=
  let es := (indexed xs).map (fun p => narrowElem f true (rnd p.1) 0 p.2)
  ⟨0, es.map (fun e => e.code), gaugeRepAdd (nanRep blk xs) (elemsRep es)⟩

/-- emax of an MX element format (R119). -/
def mxEmax (f : Fmt) : Int := if f = fmtE4M3 then 8 else if f = fmtE5M2 then 15 else if f = fmtE3M2 then 4 else 2

/-- An MX block (R119): the shared scale X and the element codes; of its element formats only E5M2 raises UF (Table 5.6). -/
def narrowMX (f : Fmt) (rnd : Nat → Rnd) (blk : Nat) (xs : List FVal) : GroupOut :=
  if xs.any isNanF then ⟨0xFF, List.replicate xs.length 0, nanRep blk xs⟩
  else
    let m := maxFinite xs
    let x : Nat := if m.1 = 0 then 0 else min 254 (floorLog2Rat m.1 1 + m.2 - mxEmax f + 127).toNat
    let es := (indexed xs).map (fun p => narrowElem f (f == fmtE5M2) (rnd p.1) (127 - x) p.2)
    ⟨x, es.map (fun e => e.code), elemsRep es⟩

/-- The BF16 scale g of an INT group: M1 / Qmax rounded up to a BF16 value (R119). -/
def intScale (qmax : Nat) (m : Nat × Int) : Nat := (narrow fmtBF16 .up false m.1 qmax m.2).code

/-- An INT4 or INT8 group (R109, R119): the BF16 scale and the two's-complement codes. -/
def narrowInts (bits qmax : Nat) (rnd : Nat → Rnd) (blk : Nat) (xs : List FVal) : GroupOut :=
  let g := intScale qmax (maxFinite xs)
  let enc : Bool → Nat → Nat := fun neg q => if neg then (2 ^ bits - q) % 2 ^ bits else q
  let one : Nat × FVal → Elem := fun p =>
    match p.2 with
    | .nan _ => ⟨0, 0, false⟩
    | .inf n => ⟨enc n qmax, flGSAT, true⟩
    | .fin d =>
      match decodeF fmtBF16 g with
      | .fin s =>
        if s.m = 0 then ⟨0, 0, false⟩
        else
          let a := shlI d.m (d.e - s.e)
          let b := shlI s.m (s.e - d.e)
          let q := narrowInt (rnd p.1) qmax d.neg a b
          ⟨enc d.neg q.1, if q.2 then flGSAT else 0, q.2⟩
      | _ => ⟨0, 0, false⟩
  let es := (indexed xs).map one
  ⟨g, es.map (fun e => e.code), gaugeRepAdd (nanRep blk xs) (elemsRep es)⟩

/-- T2 trits under an FP16 scale (R119): the digits of R108. -/
def narrowT2 (scale : Nat) (rnd : Nat → Rnd) (blk : Nat) (xs : List FVal) : GroupOut :=
  match decodeF fmtFP16 scale with
  | .fin s =>
    if s.m = 0 || s.neg then
      ⟨scale, xs.map (fun _ => 0), gaugeRepAdd (nanRep blk xs) ⟨flIV, 0, 0, 0, 0, none, none⟩⟩
    else
      let dig : Bool → Nat → Nat := fun neg q => if q = 0 then 0 else if neg then 2 else 1
      let one : Nat × FVal → Elem := fun p =>
        match p.2 with
        | .nan _ => ⟨0, 0, false⟩
        | .inf n => ⟨dig n 1, flGSAT, true⟩
        | .fin d =>
          let q := narrowInt (rnd p.1) 1 d.neg (shlI d.m (d.e - s.e)) (shlI s.m (s.e - d.e))
          ⟨dig d.neg q.1, if q.2 then flGSAT else 0, q.2⟩
      let es := (indexed xs).map one
      ⟨scale, es.map (fun e => e.code), gaugeRepAdd (nanRep blk xs) (elemsRep es)⟩
  | _ => ⟨scale, xs.map (fun _ => 0), gaugeRepAdd (nanRep blk xs) ⟨flIV, 0, 0, 0, 0, none, none⟩⟩

/-- An element of an MX block widened to its exact value (R110, R123). -/
def mxElem (f : Fmt) (x code : Nat) : FVal :=
  if x = 0xFF then .nan false
  else match decodeF f code with
    | .fin d => .fin ⟨d.neg, d.m, d.e + (x : Int) - 127⟩
    | v => v

/-- The quarter round of the tile generator's mix, one of its ten rounds (R124). -/
def mixRound (x0 x1 x2 x3 k0 k1 : W32) : W32 × W32 × W32 × W32 :=
  let x0 := x0 + x1 + k0
  let x3 := (x3 ^^^ x0).rotateLeft 16
  let x2 := x2 + x3 + k1
  let x1 := (x1 ^^^ x2).rotateLeft 12
  let x0 := x0 + x1
  let x3 := (x3 ^^^ x0).rotateLeft 8
  let x2 := x2 + x3
  let x1 := (x1 ^^^ x2).rotateLeft 7
  (x0, x1, x2, x3)

/-- `n` rounds of the mix, the keys stepped after each (R124). -/
def mixRounds : Nat → W32 → W32 → W32 → W32 → W32 → W32 → W32 × W32 × W32 × W32
  | 0, x0, x1, x2, x3, _, _ => (x0, x1, x2, x3)
  | n + 1, x0, x1, x2, x3, k0, k1 =>
    let y := mixRound x0 x1 x2 x3 k0 k1
    mixRounds n y.1 y.2.1 y.2.2.1 y.2.2.2 (k0 + 0x5851F42D) (k1 + 0x14057B7F)

/-- The generator's 128-bit output for a 64-bit key and a 128-bit counter, word w in bits 32w + 31 to 32w (R124). -/
def mix128 (k0 k1 : W32) (ctr : Nat) : Nat :=
  let c0 : W32 := BitVec.ofNat 32 (bitsOf ctr 0 32)
  let c1 : W32 := BitVec.ofNat 32 (bitsOf ctr 32 32)
  let c2 : W32 := BitVec.ofNat 32 (bitsOf ctr 64 32)
  let c3 : W32 := BitVec.ofNat 32 (bitsOf ctr 96 32)
  let y := mixRounds 10 c0 c1 c2 c3 k0 k1
  packN 32 [(y.1 + c0).toNat, (y.2.1 + c1).toNat, (y.2.2.1 + c2).toNat, (y.2.2.2 + c3).toNat]

end Sys2Proof.Machine
end

