-- ==== Sys2Proof/Config.lean ====
section
/-! DEFINITION. What an implementation fixes (fuses and straps, whose values the spec leaves to manufacture or to the
integrator: DESIGN CHOICE, notes/assumptions/3.md) and the free values: opaque constants without a body. -/

namespace Sys2Proof

/-- FUSE_DEVID.STEPPING: 0x2, B0 (R1). DESIGN CHOICE. -/
def Config.fuseStepping : Nat := 2

/-- FUSE_SERIAL. DESIGN CHOICE. -/
def Config.fuseSerial : Nat := 0

/-- FUSE_RSTMAP with the fused defaults of Table 17.2: bits 3i + 2 to 3i hold the reach of source i; source 5 is not
fused and holds 0. DESIGN CHOICE. -/
def Config.fuseRstmap : Nat :=
  5 + 4 * 2 ^ 3 + 5 * 2 ^ 6 + 3 * 2 ^ 9 + 4 * 2 ^ 12 + 0 * 2 ^ 15 + 3 * 2 ^ 18 + 4 * 2 ^ 21 + 4 * 2 ^ 24

/-- CLU_DARNn.DCOL and FCOL: darned column 6, a row with no bad site (R18). DESIGN CHOICE. -/
def Config.fuseFcol : Nat := 6

/-- FUSE_SEC.KREV: no vendor key revoked. DESIGN CHOICE. -/
def Config.fuseKrev : Nat := 0

/-- FUSE_SEC.SVN: the lowest security version. DESIGN CHOICE. -/
def Config.fuseSvn : Nat := 0

/-- FUSE_SEC.DBGMAX: TEST, so that every level can be reached. DESIGN CHOICE. -/
def Config.fuseDbgmax : Nat := 2

/-- FUSE_SEC.KGEN: identity key generation 0. DESIGN CHOICE. -/
def Config.fuseKgen : Nat := 0

/-- FUSE_KEYHASHk_w: every word zero. DESIGN CHOICE. -/
def Config.fuseKeyhash : Nat := 0

/-- BOOT_STATUS.BAND: band 0, twin side A, boot policy 0b00, not manager capable (R381). DESIGN CHOICE. -/
def Config.strapBand : Nat := 0

/-- BOOT_STATUS.CODE of band 0 (Table 17.5). DESIGN CHOICE. -/
def Config.strapCode : Nat := 0

/-- The free values: number `i` of what the spec leaves open, as an unconstrained number that its user cuts to width
(log entry 4). -/
opaque Config.free : Nat → Nat → Nat

/-- Which function of Table 2.13 the program in a configuration slot's 1 KiB is: 1 exponent, 2 natural logarithm, 3
reciprocal, 4 square root, 5 reciprocal square root, 6 log-probability step, 7 SAMPLE, and any other number for a program
that is none of them. The spec does not give the library's step words (log entry 104). -/
opaque Config.slotFunction : List Byte → Nat

/-- What SAMPLE takes (R273): the logits and the entry's controls, as FP32 and integer codes, and the lane whose draw it
uses. -/
structure SampleIn where
  z : List Nat
  temp : Nat
  topp : Nat
  minp : Nat
  topk : Nat
  key : Nat
  ctr : Nat
  lane : Nat
  deriving DecidableEq, Repr, Inhabited

/-- Where SAMPLE finds its operands, from the lanes of its source registers and the tile's table memory, which the spec does
not say (log entry 104). -/
opaque Config.sampleIn : List Nat → List Byte → SampleIn

/-- What SAMPLE leaves in a lane of its destination: 1 TOKEN, 2 LPF, 3 LPS, and any other number for none of them (log entry
104). -/
opaque Config.sampleOut : Nat → Nat

/-- The identity public key of 60 bytes of a key generation (R388): the spec gives neither the seed nor the derivation
(log entry 62). -/
opaque Config.identityKey : Nat → Nat

/-- The identity key's signature of 2,964 bytes: key generation, leaf and digest signed (R388, R390; log entry 62). -/
opaque Config.identitySig : Nat → Nat → Nat → Nat

/-- The modules that train, and those that generate, in the job of a module: the manager's hub firmware knows them, and the
spec does not say how (R326; log entry 112). -/
opaque Config.jobTrains : Nat → List Nat
opaque Config.jobGenerates : Nat → List Nat

/-- What a LINKPLAN section says, whose layout the spec does not give (Table 17.9): link enables in bits 23:0, UP in 28:24,
ALTUP in 33:29, DOWN in 57:34 and TDOWN in 81:58 of the number (log entry 63). -/
opaque Config.linkPlan : List Byte → Nat

/-- What a PARTDEF section says, whose layout the spec does not give (Table 17.9): register writes, each an offset in the
register space and a word (log entry 63). -/
opaque Config.partDefaults : List Byte → List (Nat × Nat)

end Sys2Proof
end

