-- ==== Sys2Proof/Machine/Regs.lean ====
section
/-! DEFINITION. The register fields of every block, one definition per field, from the field tables that Table 18.1 of
`18_registers_counters_and_errors.md` lists: frame, offset, array, bits, access code (R10) and reset value. Reserved
fields are left out: they read as 0 and ignore writes. -/

namespace Sys2Proof.Machine

/-- The block frames of Table 1.5; `stx` is a partition's stitch translation table, `stc` a die's stitch bank, `pwrd`
and `thmd` the die frames of PWR and THM. -/
inductive Frame where
  | fuse | rst | boot | sec | pwr | thm | cns | err | pci | skn | crs | stx | stc | pwrd | thmd | mem | phy | blk
  | clu | hnk | jnq | mesh | tile | ndl | tst | prl | ply | ary | slp | str
  deriving DecidableEq, Repr

/-- The access codes of Table 0.3. -/
inductive Access where
  | RW | RO | RC | WO | RWD | RWS
  deriving DecidableEq, Repr

/-- Which selector register, if any, names the entry that a register shows. -/
inductive Bank where
  | none | stc | xt | jnq | sh | span | tsel | req
  deriving DecidableEq, Repr

/-- A field's reset value: a constant, or the tile's own numbers (Table 1.3). -/
inductive Init where
  | const (v : Nat) | tileNo | tileCluster | tileDie | tileTic
  deriving DecidableEq, Repr

/-- One register field: `off + n × step` is its offset for index n < `cnt`, `lo + n × lstep` its lowest bit. -/
structure Field where
  id : Nat
  frame : Frame
  off : Nat
  step : Nat
  cnt : Nat
  lo : Nat
  lstep : Nat
  width : Nat
  code : Access
  bank : Bank
  init : Init
  deriving DecidableEq, Repr

/-! ### TILE -/

/-- TILE_ID 11:0, LTILE (Table 1.3, `01_module_organisation.md`). -/
def TILE_ID_LTILE : Field := ⟨1, .tile, 0x0, 0x0, 1, 0, 0, 12, .RO, .none, .tileNo⟩

/-- TILE_ID 18:12, GCLUSTER (Table 1.3, `01_module_organisation.md`). -/
def TILE_ID_GCLUSTER : Field := ⟨2, .tile, 0x0, 0x0, 1, 12, 0, 7, .RO, .none, .tileCluster⟩

/-- TILE_ID 20:19, DIE (Table 1.3, `01_module_organisation.md`). -/
def TILE_ID_DIE : Field := ⟨3, .tile, 0x0, 0x0, 1, 19, 0, 2, .RO, .none, .tileDie⟩

/-- TILE_ID 25:21, TIC (Table 1.3, `01_module_organisation.md`). -/
def TILE_ID_TIC : Field := ⟨4, .tile, 0x0, 0x0, 1, 21, 0, 5, .RO, .none, .tileTic⟩

/-- TILE_ID 29:26, PART (Table 1.3, `01_module_organisation.md`). -/
def TILE_ID_PART : Field := ⟨5, .tile, 0x0, 0x0, 1, 26, 0, 4, .RO, .none, .const 0⟩

/-- TILE_ID 30, PVALID (Table 1.3, `01_module_organisation.md`). -/
def TILE_ID_PVALID : Field := ⟨6, .tile, 0x0, 0x0, 1, 30, 0, 1, .RO, .none, .const 0⟩

/-- TILE_IFILL 6:0, SRCPAGE (Table 2.8, `02_tile.md`). -/
def TILE_IFILL_SRCPAGE : Field := ⟨7, .tile, 0x10, 0x0, 1, 0, 0, 7, .RW, .none, .const 0⟩

/-- TILE_IFILL 10:8, DPAGE (Table 2.8, `02_tile.md`). -/
def TILE_IFILL_DPAGE : Field := ⟨8, .tile, 0x10, 0x0, 1, 8, 0, 3, .RW, .none, .const 0⟩

/-- TILE_IFILL 30, BUSY (Table 2.8, `02_tile.md`). -/
def TILE_IFILL_BUSY : Field := ⟨9, .tile, 0x10, 0x0, 1, 30, 0, 1, .RO, .none, .const 0⟩

/-- TILE_IFILL 31, GO (Table 2.8, `02_tile.md`). -/
def TILE_IFILL_GO : Field := ⟨10, .tile, 0x10, 0x0, 1, 31, 0, 1, .WO, .none, .const 0⟩

/-- TILE_STATUS 0, INTERLOCK (Table 2.14, `02_tile.md`). -/
def TILE_STATUS_INTERLOCK : Field := ⟨11, .tile, 0x4, 0x0, 1, 0, 0, 1, .RO, .none, .const 1⟩

/-- TILE_STATUS 1, WRIGN (Table 2.14, `02_tile.md`). -/
def TILE_STATUS_WRIGN : Field := ⟨12, .tile, 0x4, 0x0, 1, 1, 0, 1, .RC, .none, .const 0⟩

/-- TILE_WRIGN_OFS 14:0 (Table 2.14, `02_tile.md`). -/
def TILE_WRIGN_OFS : Field := ⟨13, .tile, 0x8, 0x0, 1, 0, 0, 15, .RO, .none, .const 0⟩

/-- TILE_STATUS 2, TRAP (Table 2.14, `02_tile.md`). -/
def TILE_STATUS_TRAP : Field := ⟨14, .tile, 0x4, 0x0, 3, 2, 1, 1, .RC, .none, .const 0⟩

/-- TILE_STATUS 5, IBUSY (Table 2.14, `02_tile.md`). -/
def TILE_STATUS_IBUSY : Field := ⟨15, .tile, 0x4, 0x0, 1, 5, 0, 1, .RC, .none, .const 0⟩

/-- TILE_LTAG 3:0, LTAG (Table 3.6b, `03_tile_instruction_set.md`). -/
def TILE_LTAG_LTAG : Field := ⟨16, .tile, 0xc, 0x0, 1, 0, 0, 4, .RWD, .none, .const 0⟩

/-- TILE_CAST 14:0, PTR (Table 7.2, `07_courses_cast_and_stitches.md`). -/
def TILE_CAST_PTR : Field := ⟨17, .tile, 0x14, 0x0, 1, 0, 0, 15, .RWD, .none, .const 0⟩

/-- TILE_CAST 31, EN (Table 7.2, `07_courses_cast_and_stitches.md`). -/
def TILE_CAST_EN : Field := ⟨18, .tile, 0x14, 0x0, 1, 31, 0, 1, .RWD, .none, .const 0⟩

/-- TILE_CSTAT 1:0, STATE (Table 7.2, `07_courses_cast_and_stitches.md`). -/
def TILE_CSTAT_STATE : Field := ⟨19, .tile, 0x18, 0x0, 1, 0, 0, 2, .RO, .none, .const 0⟩

/-- TILE_CSTAT 2, CWAIT (Table 7.2, `07_courses_cast_and_stitches.md`). -/
def TILE_CSTAT_CWAIT : Field := ⟨20, .tile, 0x18, 0x0, 1, 2, 0, 1, .RO, .none, .const 0⟩

/-- TILE_CSTAT 30:16, CPC (Table 7.2, `07_courses_cast_and_stitches.md`). -/
def TILE_CSTAT_CPC : Field := ⟨21, .tile, 0x18, 0x0, 1, 16, 0, 15, .RO, .none, .const 0⟩

/-! ### NDL -/

/-- NDL_BIAS 3:0, WF0 (Table 2.5, `02_tile.md`). -/
def NDL_BIAS_WF0 : Field := ⟨22, .ndl, 0x0, 0x4, 2, 0, 0, 4, .RWS, .none, .const 0x8⟩

/-- NDL_BIAS 7:4, WB0 (Table 2.5, `02_tile.md`). -/
def NDL_BIAS_WB0 : Field := ⟨23, .ndl, 0x0, 0x4, 2, 4, 0, 4, .RWS, .none, .const 0x6⟩

/-- NDL_BIAS 11:8, WU0 (Table 2.5, `02_tile.md`). -/
def NDL_BIAS_WU0 : Field := ⟨24, .ndl, 0x0, 0x4, 2, 8, 0, 4, .RWS, .none, .const 0x2⟩

/-- NDL_BIAS 19:16, WF1 (Table 2.5, `02_tile.md`). -/
def NDL_BIAS_WF1 : Field := ⟨25, .ndl, 0x0, 0x4, 2, 16, 0, 4, .RWS, .none, .const 0x8⟩

/-- NDL_BIAS 23:20, WB1 (Table 2.5, `02_tile.md`). -/
def NDL_BIAS_WB1 : Field := ⟨26, .ndl, 0x0, 0x4, 2, 20, 0, 4, .RWS, .none, .const 0x6⟩

/-- NDL_BIAS 27:24, WU1 (Table 2.5, `02_tile.md`). -/
def NDL_BIAS_WU1 : Field := ⟨27, .ndl, 0x0, 0x4, 2, 24, 0, 4, .RWS, .none, .const 0x2⟩

/-- NDL_STATE 2:0 (Table 2.6, `02_tile.md`). -/
def NDL_STATE : Field := ⟨28, .ndl, 0x8, 0x0, 3, 0, 4, 3, .RO, .none, .const 0⟩

/-- NDL_ENTRY 11:0, PC (Table 2.7, `02_tile.md`). -/
def NDL_ENTRY_PC : Field := ⟨29, .ndl, 0x10, 0x4, 3, 0, 0, 12, .RWD, .none, .const 0⟩

/-- NDL_ENTRY 31, VALID (Table 2.7, `02_tile.md`). -/
def NDL_ENTRY_VALID : Field := ⟨30, .ndl, 0x10, 0x4, 3, 31, 0, 1, .RWD, .none, .const 0⟩

/-- NDL_FLAGS 7:0 (Table 3.6c, `03_tile_instruction_set.md`). -/
def NDL_FLAGS : Field := ⟨31, .ndl, 0x20, 0x4, 3, 0, 0, 8, .RC, .none, .const 0⟩

/-! ### TST -/

/-- TST_CTRL 0, GATHER (Table 2.9, `02_tile.md`). -/
def TST_CTRL_GATHER : Field := ⟨32, .tst, 0x0, 0x0, 1, 0, 0, 1, .RW, .none, .const 1⟩

/-- TST_STATUS 0, WRIGN (Table 2.9, `02_tile.md`). -/
def TST_STATUS_WRIGN : Field := ⟨33, .tst, 0x4, 0x0, 1, 0, 0, 1, .RC, .none, .const 0⟩

/-- TST_WRIGN_OFS 13:0 (Table 2.9, `02_tile.md`). -/
def TST_WRIGN_OFS : Field := ⟨34, .tst, 0x8, 0x0, 1, 0, 0, 14, .RO, .none, .const 0⟩

/-- TST_SATSTICKY 0, COUNT (Table 2.11, `02_tile.md`). -/
def TST_SATSTICKY_COUNT : Field := ⟨35, .tst, 0xc, 0x0, 16, 0, 1, 1, .RC, .none, .const 0⟩

/-- TST_SATSTICKY 16, LATE (Table 2.11, `02_tile.md`). -/
def TST_SATSTICKY_LATE : Field := ⟨36, .tst, 0xc, 0x0, 16, 16, 1, 1, .RC, .none, .const 0⟩

/-- TST_STATUS 1, WWCOL (Table 2.9, `02_tile.md`). -/
def TST_STATUS_WWCOL : Field := ⟨37, .tst, 0x4, 0x0, 1, 1, 0, 1, .RC, .none, .const 0⟩

/-- TST_STATUS 2, GBUSY (Table 2.9, `02_tile.md`). -/
def TST_STATUS_GBUSY : Field := ⟨38, .tst, 0x4, 0x0, 1, 2, 0, 1, .RO, .none, .const 0⟩

/-- TST_STATUS 3, LWCMDIGN (Table 2.9, `02_tile.md`). -/
def TST_STATUS_LWCMDIGN : Field := ⟨39, .tst, 0x4, 0x0, 1, 3, 0, 1, .RC, .none, .const 0⟩

/-- TST_LW_BASE 18:7, BASE (Table 2.11, `02_tile.md`). -/
def TST_LW_BASE_BASE : Field := ⟨40, .tst, 0x100, 0x10, 16, 7, 0, 12, .RWD, .none, .const 0⟩

/-- TST_LW_LEN 19:7, LEN (Table 2.11, `02_tile.md`). -/
def TST_LW_LEN_LEN : Field := ⟨41, .tst, 0x104, 0x10, 16, 7, 0, 13, .RWD, .none, .const 0⟩

/-- TST_LW_CTRL 13:0, STITCH (Table 2.11, `02_tile.md`). -/
def TST_LW_CTRL_STITCH : Field := ⟨42, .tst, 0x108, 0x10, 16, 0, 0, 14, .RWD, .none, .const 0⟩

/-- TST_LW_CTRL 14, UNIT (Table 2.11, `02_tile.md`). -/
def TST_LW_CTRL_UNIT : Field := ⟨43, .tst, 0x108, 0x10, 16, 14, 0, 1, .RWD, .none, .const 0⟩

/-- TST_LW_CTRL 15, AUTOCLOSE (Table 2.11, `02_tile.md`). -/
def TST_LW_CTRL_AUTOCLOSE : Field := ⟨44, .tst, 0x108, 0x10, 16, 15, 0, 1, .RWD, .none, .const 0⟩

/-- TST_LW_CTRL 16, SIGNAL (Table 2.11, `02_tile.md`). -/
def TST_LW_CTRL_SIGNAL : Field := ⟨45, .tst, 0x108, 0x10, 16, 16, 0, 1, .RWD, .none, .const 1⟩

/-- TST_LW_CTRL 18:17, STATE (Table 2.11, `02_tile.md`). -/
def TST_LW_CTRL_STATE : Field := ⟨46, .tst, 0x108, 0x10, 16, 17, 0, 2, .RO, .none, .const 0⟩

/-- TST_LW_COUNT 31:0, COUNT (Table 2.11, `02_tile.md`). -/
def TST_LW_COUNT_COUNT : Field := ⟨47, .tst, 0x10c, 0x10, 16, 0, 0, 32, .RO, .none, .const 0⟩

/-- TST_LW_LATE 31:0, LATE (Table 2.11, `02_tile.md`). -/
def TST_LW_LATE_LATE : Field := ⟨48, .tst, 0x200, 0x4, 16, 0, 0, 32, .RO, .none, .const 0⟩

/-- TST_LW_CMD 3:0, WINDOW (Table 2.11, `02_tile.md`). -/
def TST_LW_CMD_WINDOW : Field := ⟨49, .tst, 0x10, 0x0, 1, 0, 0, 4, .WO, .none, .const 0⟩

/-- TST_LW_CMD 5:4, OP (Table 2.11, `02_tile.md`). -/
def TST_LW_CMD_OP : Field := ⟨50, .tst, 0x10, 0x0, 1, 4, 0, 2, .WO, .none, .const 0⟩

/-! ### PRL -/

/-- PRL_CTRL 0, EN (Table 2.12, `02_tile.md`). -/
def PRL_CTRL_EN : Field := ⟨51, .prl, 0x0, 0x0, 1, 0, 0, 1, .RW, .none, .const 0⟩

/-- PRL_STATUS 0, WRIGN (Table 2.12, `02_tile.md`). -/
def PRL_STATUS_WRIGN : Field := ⟨52, .prl, 0x4, 0x0, 1, 0, 0, 1, .RC, .none, .const 0⟩

/-- PRL_WRIGN_OFS 13:0 (Table 2.12, `02_tile.md`). -/
def PRL_WRIGN_OFS : Field := ⟨53, .prl, 0x8, 0x0, 1, 0, 0, 14, .RO, .none, .const 0⟩

/-- PRL_STATUS 1, LBUSY (Table 2.12, `02_tile.md`). -/
def PRL_STATUS_LBUSY : Field := ⟨54, .prl, 0x4, 0x0, 1, 1, 0, 1, .RO, .none, .const 0⟩

/-- PRL_STATUS 16, SLOTVALID (Table 2.12, `02_tile.md`). -/
def PRL_STATUS_SLOTVALID : Field := ⟨55, .prl, 0x4, 0x0, 16, 16, 1, 1, .RO, .none, .const 0⟩

/-- PRL_LOAD 11:0, SRC (Table 2.12, `02_tile.md`). -/
def PRL_LOAD_SRC : Field := ⟨56, .prl, 0x10, 0x0, 1, 0, 0, 12, .RWD, .none, .const 0⟩

/-- PRL_LOAD 16:12, DST (Table 2.12, `02_tile.md`). -/
def PRL_LOAD_DST : Field := ⟨57, .prl, 0x10, 0x0, 1, 12, 0, 5, .RWD, .none, .const 0⟩

/-- PRL_LOAD 31, GO (Table 2.12, `02_tile.md`). -/
def PRL_LOAD_GO : Field := ⟨58, .prl, 0x10, 0x0, 1, 31, 0, 1, .WO, .none, .const 0⟩

/-- PRL_GSAT 31:0, GSAT (Table 5.8, `05_numerics.md`). -/
def PRL_GSAT_GSAT : Field := ⟨59, .prl, 0x20, 0x0, 1, 0, 0, 32, .RO, .none, .const 0⟩

/-- PRL_GPICOT 31:0, GPICOT (Table 5.8, `05_numerics.md`). -/
def PRL_GPICOT_GPICOT : Field := ⟨60, .prl, 0x24, 0x0, 1, 0, 0, 32, .RO, .none, .const 0⟩

/-- PRL_GESC 31:0, GESC (Table 5.8, `05_numerics.md`). -/
def PRL_GESC_GESC : Field := ⟨61, .prl, 0x28, 0x0, 1, 0, 0, 32, .RO, .none, .const 0⟩

/-- PRL_GNAN 31:0, GNAN (Table 5.8, `05_numerics.md`). -/
def PRL_GNAN_GNAN : Field := ⟨62, .prl, 0x2c, 0x0, 1, 0, 0, 32, .RO, .none, .const 0⟩

/-- PRL_GSTICKY 0, SGSAT (Table 5.8, `05_numerics.md`). -/
def PRL_GSTICKY_SGSAT : Field := ⟨63, .prl, 0x30, 0x0, 1, 0, 0, 1, .RC, .none, .const 0⟩

/-- PRL_GSTICKY 1, SGPICOT (Table 5.8, `05_numerics.md`). -/
def PRL_GSTICKY_SGPICOT : Field := ⟨64, .prl, 0x30, 0x0, 1, 1, 0, 1, .RC, .none, .const 0⟩

/-- PRL_GSTICKY 2, SGESC (Table 5.8, `05_numerics.md`). -/
def PRL_GSTICKY_SGESC : Field := ⟨65, .prl, 0x30, 0x0, 1, 2, 0, 1, .RC, .none, .const 0⟩

/-- PRL_GSTICKY 3, SGNAN (Table 5.8, `05_numerics.md`). -/
def PRL_GSTICKY_SGNAN : Field := ⟨66, .prl, 0x30, 0x0, 1, 3, 0, 1, .RC, .none, .const 0⟩

/-- PRL_RNG_C0 31:0, C0 (Table 5.8, `05_numerics.md`). -/
def PRL_RNG_C0_C0 : Field := ⟨67, .prl, 0x40, 0x0, 1, 0, 0, 32, .RWD, .none, .const 0⟩

/-- PRL_RNG_C1 31:0, C1 (Table 5.8, `05_numerics.md`). -/
def PRL_RNG_C1_C1 : Field := ⟨68, .prl, 0x44, 0x0, 1, 0, 0, 32, .RWD, .none, .const 0⟩

/-- PRL_RNG_C2 31:0, C2 (Table 5.8, `05_numerics.md`). -/
def PRL_RNG_C2_C2 : Field := ⟨69, .prl, 0x48, 0x0, 1, 0, 0, 32, .RWD, .none, .const 0⟩

/-- PRL_RNG_C3 19:0, C3 (Table 5.8, `05_numerics.md`). -/
def PRL_RNG_C3_C3 : Field := ⟨70, .prl, 0x4c, 0x0, 1, 0, 0, 20, .RWD, .none, .const 0⟩

/-- PRL_RNG_C3 31:20, TILE (Table 5.8, `05_numerics.md`). -/
def PRL_RNG_C3_TILE : Field := ⟨71, .prl, 0x4c, 0x0, 1, 20, 0, 12, .RO, .none, .tileNo⟩

/-! ### ARY -/

/-- ARY_STATUS 0, FORM (Table 4.8, `04_matrix_array_and_slip_path.md`). -/
def ARY_STATUS_FORM : Field := ⟨72, .ary, 0x0, 0x0, 1, 0, 0, 1, .RO, .none, .const 0⟩

/-- ARY_STATUS 1, RESHAPE (Table 4.8, `04_matrix_array_and_slip_path.md`). -/
def ARY_STATUS_RESHAPE : Field := ⟨73, .ary, 0x0, 0x0, 1, 1, 0, 1, .RO, .none, .const 0⟩

/-- ARY_STATUS 3:2, BST (Table 4.8, `04_matrix_array_and_slip_path.md`). -/
def ARY_STATUS_BST : Field := ⟨74, .ary, 0x0, 0x0, 2, 2, 10, 2, .RO, .none, .const 0⟩

/-- ARY_STATUS 7:4, BFMT (Table 4.8, `04_matrix_array_and_slip_path.md`). -/
def ARY_STATUS_BFMT : Field := ⟨75, .ary, 0x0, 0x0, 2, 4, 10, 4, .RO, .none, .const 0xF⟩

/-- ARY_STATUS 9:8, BMODE (Table 4.8, `04_matrix_array_and_slip_path.md`). -/
def ARY_STATUS_BMODE : Field := ⟨76, .ary, 0x0, 0x0, 2, 8, 10, 2, .RO, .none, .const 0⟩

/-- ARY_STATUS 20, DRAIN (Table 4.8, `04_matrix_array_and_slip_path.md`). -/
def ARY_STATUS_DRAIN : Field := ⟨77, .ary, 0x0, 0x0, 1, 20, 0, 1, .RO, .none, .const 0⟩

/-- ARY_OPS_LO 31:0, OPS (Table 4.9, `04_matrix_array_and_slip_path.md`). -/
def ARY_OPS_LO_OPS : Field := ⟨78, .ary, 0x8, 0x0, 1, 0, 0, 32, .RO, .none, .const 0⟩

/-- ARY_OPS_HI 31:0, OPS (Table 4.9, `04_matrix_array_and_slip_path.md`). -/
def ARY_OPS_HI_OPS : Field := ⟨79, .ary, 0xc, 0x0, 1, 0, 0, 32, .RO, .none, .const 0⟩

/-! ### SLP -/

/-- SLP_STATUS 0, BUSY (Table 4.9, `04_matrix_array_and_slip_path.md`). -/
def SLP_STATUS_BUSY : Field := ⟨80, .slp, 0x0, 0x0, 1, 0, 0, 1, .RO, .none, .const 0⟩

/-- SLP_READS_LO 31:0, READS (Table 4.9, `04_matrix_array_and_slip_path.md`). -/
def SLP_READS_LO_READS : Field := ⟨81, .slp, 0x8, 0x0, 1, 0, 0, 32, .RO, .none, .const 0⟩

/-- SLP_READS_HI 31:0, READS (Table 4.9, `04_matrix_array_and_slip_path.md`). -/
def SLP_READS_HI_READS : Field := ⟨82, .slp, 0xc, 0x0, 1, 0, 0, 32, .RO, .none, .const 0⟩

/-! ### CRS -/

/-- CRS_XPOL 1:0, GAUGE (Table 5.9, `05_numerics.md`). -/
def CRS_XPOL_GAUGE : Field := ⟨83, .crs, 0x40, 0x0, 1, 0, 0, 2, .RWS, .none, .const 0⟩

/-- CRS_XPOL 2, PICOT (Table 5.9, `05_numerics.md`). -/
def CRS_XPOL_PICOT : Field := ⟨84, .crs, 0x40, 0x0, 1, 2, 0, 1, .RWS, .none, .const 1⟩

/-- CRS_XPOL 3, OUTLIER (Table 5.9, `05_numerics.md`). -/
def CRS_XPOL_OUTLIER : Field := ⟨85, .crs, 0x40, 0x0, 1, 3, 0, 1, .RWS, .none, .const 0⟩

/-- CRS_XPOL 5:4, NAN (Table 5.9, `05_numerics.md`). -/
def CRS_XPOL_NAN : Field := ⟨86, .crs, 0x40, 0x0, 1, 4, 0, 2, .RWS, .none, .const 0⟩

/-- CRS_XPOL 8, TADDR (Table 5.9, `05_numerics.md`). -/
def CRS_XPOL_TADDR : Field := ⟨87, .crs, 0x40, 0x0, 1, 8, 0, 1, .RWS, .none, .const 1⟩

/-- CRS_XPOL 9, TLATE (Table 5.9, `05_numerics.md`). -/
def CRS_XPOL_TLATE : Field := ⟨88, .crs, 0x40, 0x0, 1, 9, 0, 1, .RWS, .none, .const 0⟩

/-- CRS_XPOL 10, TSPAN (Table 5.9, `05_numerics.md`). -/
def CRS_XPOL_TSPAN : Field := ⟨89, .crs, 0x40, 0x0, 1, 10, 0, 1, .RWS, .none, .const 1⟩

/-- CRS_SEED_LO 31:0, SEEDLO (Table 5.9, `05_numerics.md`). -/
def CRS_SEED_LO_SEEDLO : Field := ⟨90, .crs, 0x48, 0x0, 1, 0, 0, 32, .RWS, .none, .const 0⟩

/-- CRS_SEED_HI 31:0, SEEDHI (Table 5.9, `05_numerics.md`). -/
def CRS_SEED_HI_SEEDHI : Field := ⟨91, .crs, 0x4c, 0x0, 1, 0, 0, 32, .RWS, .none, .const 0⟩

/-- CRS_CTRL 4:0, PLANE (Table 7.6, `07_courses_cast_and_stitches.md`). -/
def CRS_CTRL_PLANE : Field := ⟨92, .crs, 0x0, 0x0, 1, 0, 0, 5, .RWD, .none, .const 0⟩

/-- CRS_CTRL 10:8, BTCLASS (Table 7.6, `07_courses_cast_and_stitches.md`). -/
def CRS_CTRL_BTCLASS : Field := ⟨93, .crs, 0x0, 0x0, 1, 8, 0, 3, .RWS, .none, .const 0x7⟩

/-- CRS_CTRL 12, MULTI (Table 7.6, `07_courses_cast_and_stitches.md`). -/
def CRS_CTRL_MULTI : Field := ⟨94, .crs, 0x0, 0x0, 1, 12, 0, 1, .RWD, .none, .const 0⟩

/-- CRS_STATUS 2:0, STATE (Table 7.6, `07_courses_cast_and_stitches.md`). -/
def CRS_STATUS_STATE : Field := ⟨95, .crs, 0x4, 0x0, 1, 0, 0, 3, .RO, .none, .const 0⟩

/-- CRS_STATUS 3, WRIGN (Table 7.6, `07_courses_cast_and_stitches.md`). -/
def CRS_STATUS_WRIGN : Field := ⟨96, .crs, 0x4, 0x0, 1, 3, 0, 1, .RC, .none, .const 0⟩

/-- CRS_WRIGN_OFS 13:0 (Table 7.6, `07_courses_cast_and_stitches.md`). -/
def CRS_WRIGN_OFS : Field := ⟨97, .crs, 0x1c, 0x0, 1, 0, 0, 14, .RO, .none, .const 0⟩

/-- CRS_STATUS 4, BTMO (Table 7.6, `07_courses_cast_and_stitches.md`). -/
def CRS_STATUS_BTMO : Field := ⟨98, .crs, 0x4, 0x0, 1, 4, 0, 1, .RC, .none, .const 0⟩

/-- CRS_STATUS 5, DRIFT (Table 7.6, `07_courses_cast_and_stitches.md`). -/
def CRS_STATUS_DRIFT : Field := ⟨99, .crs, 0x4, 0x0, 1, 5, 0, 1, .RC, .none, .const 0⟩

/-- CRS_STATUS 6, MIXED (Table 7.6, `07_courses_cast_and_stitches.md`). -/
def CRS_STATUS_MIXED : Field := ⟨100, .crs, 0x4, 0x0, 1, 6, 0, 1, .RC, .none, .const 0⟩

/-- CRS_STATUS 7, GRACE (Table 7.6, `07_courses_cast_and_stitches.md`). -/
def CRS_STATUS_GRACE : Field := ⟨101, .crs, 0x4, 0x0, 1, 7, 0, 1, .RC, .none, .const 0⟩

/-- CRS_STATUS 19:16, WAITON (Table 7.6, `07_courses_cast_and_stitches.md`). -/
def CRS_STATUS_WAITON : Field := ⟨102, .crs, 0x4, 0x0, 1, 16, 0, 4, .RO, .none, .const 0⟩

/-- CRS_COURSE_LO 31:0, COURSE (Table 7.6, `07_courses_cast_and_stitches.md`). -/
def CRS_COURSE_LO_COURSE : Field := ⟨103, .crs, 0x8, 0x0, 1, 0, 0, 32, .RO, .none, .const 0⟩

/-- CRS_COURSE_HI 31:0, COURSE (Table 7.6, `07_courses_cast_and_stitches.md`). -/
def CRS_COURSE_HI_COURSE : Field := ⟨104, .crs, 0xc, 0x0, 1, 0, 0, 32, .RO, .none, .const 0⟩

/-- CRS_PLANES 31:0, MASK (Table 7.6, `07_courses_cast_and_stitches.md`). -/
def CRS_PLANES_MASK : Field := ⟨105, .crs, 0x10, 0x0, 1, 0, 0, 32, .RWD, .none, .const 0⟩

/-- CRS_SYNCPOL 0, DHOLD (Table 7.6, `07_courses_cast_and_stitches.md`). -/
def CRS_SYNCPOL_DHOLD : Field := ⟨106, .crs, 0x14, 0x0, 1, 0, 0, 1, .RWS, .none, .const 0⟩

/-- CRS_SYNCPOL 1, MHOLD (Table 7.6, `07_courses_cast_and_stitches.md`). -/
def CRS_SYNCPOL_MHOLD : Field := ⟨107, .crs, 0x14, 0x0, 1, 1, 0, 1, .RWS, .none, .const 0⟩

/-- CRS_GRACE 23:0, GRACE (Table 7.6, `07_courses_cast_and_stitches.md`). -/
def CRS_GRACE_GRACE : Field := ⟨108, .crs, 0x18, 0x0, 1, 0, 0, 24, .RO, .none, .const 0⟩

/-- CRS_TCLASSn 23:0, TMO (Table 7.6, `07_courses_cast_and_stitches.md`). -/
def CRS_TCLASS_TMO : Field := ⟨109, .crs, 0x20, 0x4, 8, 0, 0, 24, .RWS, .none, .const 0x0F4240⟩

/-- CRS_TALLY_SENT 31:0, SENT (Table 7.6, `07_courses_cast_and_stitches.md`). -/
def CRS_TALLY_SENT_SENT : Field := ⟨110, .crs, 0x50, 0x0, 1, 0, 0, 32, .RO, .none, .const 0⟩

/-- CRS_TALLY_LANDED 31:0, LANDED (Table 7.6, `07_courses_cast_and_stitches.md`). -/
def CRS_TALLY_LANDED_LANDED : Field := ⟨111, .crs, 0x54, 0x0, 1, 0, 0, 32, .RO, .none, .const 0⟩

/-! ### CLU -/

/-- CLU_STATUS 0, WRIGN (Table 6.9, `06_cluster_and_cable_mesh.md`). -/
def CLU_STATUS_WRIGN : Field := ⟨112, .clu, 0x0, 0x0, 1, 0, 0, 1, .RC, .none, .const 0⟩

/-- CLU_WRIGN_OFS 13:0 (Table 6.9, `06_cluster_and_cable_mesh.md`). -/
def CLU_WRIGN_OFS : Field := ⟨113, .clu, 0x4, 0x0, 1, 0, 0, 14, .RO, .none, .const 0⟩

/-- CLU_STATUS 1, UE (Table 6.9, `06_cluster_and_cable_mesh.md`). -/
def CLU_STATUS_UE : Field := ⟨114, .clu, 0x0, 0x0, 1, 1, 0, 1, .RC, .none, .const 0⟩

/-- CLU_STATUS 2, DARNBAD (Table 6.9, `06_cluster_and_cable_mesh.md`). -/
def CLU_STATUS_DARNBAD : Field := ⟨115, .clu, 0x0, 0x0, 1, 2, 0, 1, .RO, .none, .const 0⟩

/-- CLU_STATUS 3, TBUSY (Table 6.9, `06_cluster_and_cable_mesh.md`). -/
def CLU_STATUS_TBUSY : Field := ⟨116, .clu, 0x0, 0x0, 1, 3, 0, 1, .RO, .none, .const 0⟩

/-- CLU_MERGECTL 3:0, WINDOW (Table 6.9, `06_cluster_and_cable_mesh.md`). -/
def CLU_MERGECTL_WINDOW : Field := ⟨117, .clu, 0x8, 0x0, 1, 0, 0, 4, .RWS, .none, .const 0x8⟩

/-- CLU_TEST 0, TMODE (Table 6.9, `06_cluster_and_cable_mesh.md`). -/
def CLU_TEST_TMODE : Field := ⟨118, .clu, 0xc, 0x0, 1, 0, 0, 1, .RW, .none, .const 0⟩

/-- CLU_MERGED_LO 31:0, MERGED (Table 6.9, `06_cluster_and_cable_mesh.md`). -/
def CLU_MERGED_LO_MERGED : Field := ⟨119, .clu, 0x10, 0x0, 1, 0, 0, 32, .RO, .none, .const 0⟩

/-- CLU_MERGED_HI 31:0, MERGED (Table 6.9, `06_cluster_and_cable_mesh.md`). -/
def CLU_MERGED_HI_MERGED : Field := ⟨120, .clu, 0x14, 0x0, 1, 0, 0, 32, .RO, .none, .const 0⟩

/-- CLU_ECC_CE 31:0, CE (Table 6.9, `06_cluster_and_cable_mesh.md`). -/
def CLU_ECC_CE_CE : Field := ⟨121, .clu, 0x18, 0x0, 1, 0, 0, 32, .RO, .none, .const 0⟩

/-- CLU_UE_ADDR_LO 31:0, ADDR (Table 6.9, `06_cluster_and_cable_mesh.md`). -/
def CLU_UE_ADDR_LO_ADDR : Field := ⟨122, .clu, 0x1c, 0x0, 1, 0, 0, 32, .RO, .none, .const 0⟩

/-- CLU_UE_ADDR_HI 15:0, ADDR (Table 6.9, `06_cluster_and_cable_mesh.md`). -/
def CLU_UE_ADDR_HI_ADDR : Field := ⟨123, .clu, 0x20, 0x0, 1, 0, 0, 16, .RO, .none, .const 0⟩

/-- CLU_GSAT 31:0, GSAT (Table 6.9, `06_cluster_and_cable_mesh.md`). -/
def CLU_GSAT_GSAT : Field := ⟨124, .clu, 0x30, 0x0, 1, 0, 0, 32, .RO, .none, .const 0⟩

/-- CLU_GPICOT 31:0, GPICOT (Table 6.9, `06_cluster_and_cable_mesh.md`). -/
def CLU_GPICOT_GPICOT : Field := ⟨125, .clu, 0x34, 0x0, 1, 0, 0, 32, .RO, .none, .const 0⟩

/-- CLU_GESC 31:0, GESC (Table 6.9, `06_cluster_and_cable_mesh.md`). -/
def CLU_GESC_GESC : Field := ⟨126, .clu, 0x38, 0x0, 1, 0, 0, 32, .RO, .none, .const 0⟩

/-- CLU_GNAN 31:0, GNAN (Table 6.9, `06_cluster_and_cable_mesh.md`). -/
def CLU_GNAN_GNAN : Field := ⟨127, .clu, 0x3c, 0x0, 1, 0, 0, 32, .RO, .none, .const 0⟩

/-- CLU_SATSTICKY 0, SCE (Table 6.9, `06_cluster_and_cable_mesh.md`). -/
def CLU_SATSTICKY_SCE : Field := ⟨128, .clu, 0x40, 0x0, 1, 0, 0, 1, .RC, .none, .const 0⟩

/-- CLU_SATSTICKY 1, SGSAT (Table 6.9, `06_cluster_and_cable_mesh.md`). -/
def CLU_SATSTICKY_SGSAT : Field := ⟨129, .clu, 0x40, 0x0, 1, 1, 0, 1, .RC, .none, .const 0⟩

/-- CLU_SATSTICKY 2, SGPICOT (Table 6.9, `06_cluster_and_cable_mesh.md`). -/
def CLU_SATSTICKY_SGPICOT : Field := ⟨130, .clu, 0x40, 0x0, 1, 2, 0, 1, .RC, .none, .const 0⟩

/-- CLU_SATSTICKY 3, SGESC (Table 6.9, `06_cluster_and_cable_mesh.md`). -/
def CLU_SATSTICKY_SGESC : Field := ⟨131, .clu, 0x40, 0x0, 1, 3, 0, 1, .RC, .none, .const 0⟩

/-- CLU_SATSTICKY 4, SGNAN (Table 6.9, `06_cluster_and_cable_mesh.md`). -/
def CLU_SATSTICKY_SGNAN : Field := ⟨132, .clu, 0x40, 0x0, 1, 4, 0, 1, .RC, .none, .const 0⟩

/-- CLU_DARNn 2:0, DCOL (Table 6.9, `06_cluster_and_cable_mesh.md`). -/
def CLU_DARN_DCOL : Field := ⟨133, .clu, 0x80, 0x4, 4, 0, 0, 3, .RWD, .none, .const Config.fuseFcol⟩

/-- CLU_DARNn 6:4, FCOL (Table 6.9, `06_cluster_and_cable_mesh.md`). -/
def CLU_DARN_FCOL : Field := ⟨134, .clu, 0x80, 0x4, 4, 4, 0, 3, .RO, .none, .const Config.fuseFcol⟩

/-- CLU_DARNn 14:8, FAIL (Table 6.9, `06_cluster_and_cable_mesh.md`). -/
def CLU_DARN_FAIL : Field := ⟨135, .clu, 0x80, 0x4, 4, 8, 0, 7, .RO, .none, .const 0⟩

/-- CLU_DARNn 31, OVR (Table 6.9, `06_cluster_and_cable_mesh.md`). -/
def CLU_DARN_OVR : Field := ⟨136, .clu, 0x80, 0x4, 4, 31, 0, 1, .RO, .none, .const 0⟩

/-! ### MESH -/

/-- MESH_STATUS 0, UE (Table 6.10, `06_cluster_and_cable_mesh.md`). -/
def MESH_STATUS_UE : Field := ⟨137, .mesh, 0x0, 0x0, 1, 0, 0, 1, .RC, .none, .const 0⟩

/-- MESH_STATUS 1, CREDOV (Table 6.10, `06_cluster_and_cable_mesh.md`). -/
def MESH_STATUS_CREDOV : Field := ⟨138, .mesh, 0x0, 0x0, 1, 1, 0, 1, .RC, .none, .const 0⟩

/-- MESH_CREDSEL 3:0, PORT (Table 6.10, `06_cluster_and_cable_mesh.md`). -/
def MESH_CREDSEL_PORT : Field := ⟨139, .mesh, 0x4, 0x0, 1, 0, 0, 4, .RW, .none, .const 0⟩

/-- MESH_CREDSEL 6:4, VC (Table 6.10, `06_cluster_and_cable_mesh.md`). -/
def MESH_CREDSEL_VC : Field := ⟨140, .mesh, 0x4, 0x0, 1, 4, 0, 3, .RW, .none, .const 0⟩

/-- MESH_CREDVAL 9:0, CREDITS (Table 6.10, `06_cluster_and_cable_mesh.md`). -/
def MESH_CREDVAL_CREDITS : Field := ⟨141, .mesh, 0x8, 0x0, 1, 0, 0, 10, .RO, .none, .const 0⟩

/-- MESH_PKTIN_LO 31:0, PKTIN (Table 6.10, `06_cluster_and_cable_mesh.md`). -/
def MESH_PKTIN_LO_PKTIN : Field := ⟨142, .mesh, 0x10, 0x0, 1, 0, 0, 32, .RO, .none, .const 0⟩

/-- MESH_PKTIN_HI 31:0, PKTIN (Table 6.10, `06_cluster_and_cable_mesh.md`). -/
def MESH_PKTIN_HI_PKTIN : Field := ⟨143, .mesh, 0x14, 0x0, 1, 0, 0, 32, .RO, .none, .const 0⟩

/-- MESH_PKTOUT_LO 31:0, PKTOUT (Table 6.10, `06_cluster_and_cable_mesh.md`). -/
def MESH_PKTOUT_LO_PKTOUT : Field := ⟨144, .mesh, 0x18, 0x0, 1, 0, 0, 32, .RO, .none, .const 0⟩

/-- MESH_PKTOUT_HI 31:0, PKTOUT (Table 6.10, `06_cluster_and_cable_mesh.md`). -/
def MESH_PKTOUT_HI_PKTOUT : Field := ⟨145, .mesh, 0x1c, 0x0, 1, 0, 0, 32, .RO, .none, .const 0⟩

/-- MESH_WAIT_LO 31:0, WAIT (Table 6.10, `06_cluster_and_cable_mesh.md`). -/
def MESH_WAIT_LO_WAIT : Field := ⟨146, .mesh, 0x20, 0x0, 1, 0, 0, 32, .RO, .none, .const 0⟩

/-- MESH_WAIT_HI 31:0, WAIT (Table 6.10, `06_cluster_and_cable_mesh.md`). -/
def MESH_WAIT_HI_WAIT : Field := ⟨147, .mesh, 0x24, 0x0, 1, 0, 0, 32, .RO, .none, .const 0⟩

/-- MESH_CE 31:0, CE (Table 6.10, `06_cluster_and_cable_mesh.md`). -/
def MESH_CE_CE : Field := ⟨148, .mesh, 0x28, 0x0, 1, 0, 0, 32, .RO, .none, .const 0⟩

/-- MESH_SATSTICKY 0, SCE (Table 6.10, `06_cluster_and_cable_mesh.md`). -/
def MESH_SATSTICKY_SCE : Field := ⟨149, .mesh, 0x2c, 0x0, 1, 0, 0, 1, .RC, .none, .const 0⟩

/-! ### STX -/

/-- STC_XT_IDX 13:0, IDX (Table 7.7, `07_courses_cast_and_stitches.md`). -/
def STC_XT_IDX_IDX : Field := ⟨150, .stx, 0x0, 0x0, 1, 0, 0, 14, .RW, .none, .const 0⟩

/-- STC_XT_DATA 13:0, PHYS (Table 7.7, `07_courses_cast_and_stitches.md`). -/
def STC_XT_DATA_PHYS : Field := ⟨151, .stx, 0x4, 0x0, 1, 0, 0, 14, .RWD, .xt, .const 0⟩

/-- STC_XT_DATA 31, VALID (Table 7.7, `07_courses_cast_and_stitches.md`). -/
def STC_XT_DATA_VALID : Field := ⟨152, .stx, 0x4, 0x0, 1, 31, 0, 1, .RWD, .xt, .const 0⟩

/-- STC_XT_STATUS 0, WRIGN (Table 7.7, `07_courses_cast_and_stitches.md`). -/
def STC_XT_STATUS_WRIGN : Field := ⟨153, .stx, 0x8, 0x0, 1, 0, 0, 1, .RC, .none, .const 0⟩

/-- STC_XT_WRIGN_OFS 13:0 (Table 7.7, `07_courses_cast_and_stitches.md`). -/
def STC_XT_WRIGN_OFS : Field := ⟨154, .stx, 0xc, 0x0, 1, 0, 0, 14, .RO, .none, .const 0⟩

/-! ### STC -/

/-- STC_SEL 11:0, INDEX (Table 7.7, `07_courses_cast_and_stitches.md`). -/
def STC_SEL_INDEX : Field := ⟨155, .stc, 0x0, 0x0, 1, 0, 0, 12, .RW, .none, .const 0⟩

/-- STC_CNT 31:0, COUNT (Table 7.7, `07_courses_cast_and_stitches.md`). -/
def STC_CNT_COUNT : Field := ⟨156, .stc, 0x4, 0x0, 1, 0, 0, 32, .RO, .stc, .const 0⟩

/-- STC_QUOTA 31:0, QUOTA (Table 7.7, `07_courses_cast_and_stitches.md`). -/
def STC_QUOTA_QUOTA : Field := ⟨157, .stc, 0x8, 0x0, 1, 0, 0, 32, .RWS, .stc, .const 0⟩

/-- STC_BASE 31:0, BASE (Table 7.7, `07_courses_cast_and_stitches.md`). -/
def STC_BASE_BASE : Field := ⟨158, .stc, 0xc, 0x0, 1, 0, 0, 32, .RWS, .stc, .const 0⟩

/-- STC_CTL 3:0, OWNER (Table 7.7, `07_courses_cast_and_stitches.md`). -/
def STC_CTL_OWNER : Field := ⟨159, .stc, 0x10, 0x0, 1, 0, 0, 4, .RWD, .stc, .const 0⟩

/-- STC_CTL 4, OWNED (Table 7.7, `07_courses_cast_and_stitches.md`). -/
def STC_CTL_OWNED : Field := ⟨160, .stc, 0x10, 0x0, 1, 4, 0, 1, .RWD, .stc, .const 0⟩

/-- STC_CTL 8, CHECK (Table 7.7, `07_courses_cast_and_stitches.md`). -/
def STC_CTL_CHECK : Field := ⟨161, .stc, 0x10, 0x0, 1, 8, 0, 1, .RWS, .stc, .const 0⟩

/-- STC_CTL 9, SEENOBS (Table 7.7, `07_courses_cast_and_stitches.md`). -/
def STC_CTL_SEENOBS : Field := ⟨162, .stc, 0x10, 0x0, 1, 9, 0, 1, .RO, .stc, .const 0⟩

/-- STC_CTL 10, SEENTAKE (Table 7.7, `07_courses_cast_and_stitches.md`). -/
def STC_CTL_SEENTAKE : Field := ⟨163, .stc, 0x10, 0x0, 1, 10, 0, 1, .RO, .stc, .const 0⟩

/-- STC_WAITERS 13:0, NWAIT (Table 7.7, `07_courses_cast_and_stitches.md`). -/
def STC_WAITERS_NWAIT : Field := ⟨164, .stc, 0x14, 0x0, 1, 0, 0, 14, .RO, .stc, .const 0⟩

/-- STC_STATUS 0, WRIGN (Table 7.7, `07_courses_cast_and_stitches.md`). -/
def STC_STATUS_WRIGN : Field := ⟨165, .stc, 0x18, 0x0, 1, 0, 0, 1, .RC, .none, .const 0⟩

/-- STC_WRIGN_OFS 13:0 (Table 7.7, `07_courses_cast_and_stitches.md`). -/
def STC_WRIGN_OFS : Field := ⟨166, .stc, 0x1c, 0x0, 1, 0, 0, 14, .RO, .none, .const 0⟩

/-- STC_STATUS 1, SAT (Table 7.7, `07_courses_cast_and_stitches.md`). -/
def STC_STATUS_SAT : Field := ⟨167, .stc, 0x18, 0x0, 1, 1, 0, 1, .RC, .stc, .const 0⟩

/-! ### STR -/

/-- STR_TABLE 8:0, BASE (Table 8.7, `08_strands_and_join_queues.md`). -/
def STR_TABLE_BASE : Field := ⟨168, .str, 0x0, 0x0, 1, 0, 0, 9, .RWD, .none, .const 0⟩

/-- STR_STATUS 0, WRIGN (Table 8.7, `08_strands_and_join_queues.md`). -/
def STR_STATUS_WRIGN : Field := ⟨169, .str, 0x4, 0x0, 1, 0, 0, 1, .RC, .none, .const 0⟩

/-- STR_WRIGN_OFS 13:0 (Table 8.7, `08_strands_and_join_queues.md`). -/
def STR_WRIGN_OFS : Field := ⟨170, .str, 0x8, 0x0, 1, 0, 0, 14, .RO, .none, .const 0⟩

/-- STR_STATUS 1, CMDIGN (Table 8.7, `08_strands_and_join_queues.md`). -/
def STR_STATUS_CMDIGN : Field := ⟨171, .str, 0x4, 0x0, 1, 1, 0, 1, .RC, .none, .const 0⟩

/-- STR_TXOPEN 31:0, TXOPEN (Table 8.7, `08_strands_and_join_queues.md`). -/
def STR_TXOPEN_TXOPEN : Field := ⟨172, .str, 0xc, 0x0, 1, 0, 0, 32, .RO, .none, .const 0⟩

/-- STR_RXOPEN 31:0, RXOPEN (Table 8.7, `08_strands_and_join_queues.md`). -/
def STR_RXOPEN_RXOPEN : Field := ⟨173, .str, 0x10, 0x0, 1, 0, 0, 32, .RO, .none, .const 0⟩

/-- STR_MSGOUT_LO 31:0, MSGOUT (Table 8.7, `08_strands_and_join_queues.md`). -/
def STR_MSGOUT_LO_MSGOUT : Field := ⟨174, .str, 0x18, 0x0, 1, 0, 0, 32, .RO, .none, .const 0⟩

/-- STR_MSGOUT_HI 31:0, MSGOUT (Table 8.7, `08_strands_and_join_queues.md`). -/
def STR_MSGOUT_HI_MSGOUT : Field := ⟨175, .str, 0x1c, 0x0, 1, 0, 0, 32, .RO, .none, .const 0⟩

/-- STR_MSGIN_LO 31:0, MSGIN (Table 8.7, `08_strands_and_join_queues.md`). -/
def STR_MSGIN_LO_MSGIN : Field := ⟨176, .str, 0x20, 0x0, 1, 0, 0, 32, .RO, .none, .const 0⟩

/-- STR_MSGIN_HI 31:0, MSGIN (Table 8.7, `08_strands_and_join_queues.md`). -/
def STR_MSGIN_HI_MSGIN : Field := ⟨177, .str, 0x24, 0x0, 1, 0, 0, 32, .RO, .none, .const 0⟩

/-- STR_DROP 31:0, DROP (Table 8.7, `08_strands_and_join_queues.md`). -/
def STR_DROP_DROP : Field := ⟨178, .str, 0x28, 0x0, 1, 0, 0, 32, .RO, .none, .const 0⟩

/-- STR_SATSTICKY 0, SDROP (Table 8.7, `08_strands_and_join_queues.md`). -/
def STR_SATSTICKY_SDROP : Field := ⟨179, .str, 0x2c, 0x0, 1, 0, 0, 1, .RC, .none, .const 0⟩

/-! ### JNQ -/

/-- JNQ_SEL 7:0, QUEUE (Table 8.8, `08_strands_and_join_queues.md`). -/
def JNQ_SEL_QUEUE : Field := ⟨180, .jnq, 0x0, 0x0, 1, 0, 0, 8, .RW, .none, .const 0⟩

/-- JNQ_CFG 2:0, TYPE (Table 8.8, `08_strands_and_join_queues.md`). -/
def JNQ_CFG_TYPE : Field := ⟨181, .jnq, 0x4, 0x0, 1, 0, 0, 3, .RWD, .jnq, .const 0⟩

/-- JNQ_CFG 8:4, LEN (Table 8.8, `08_strands_and_join_queues.md`). -/
def JNQ_CFG_LEN : Field := ⟨182, .jnq, 0x4, 0x0, 1, 4, 0, 5, .RWD, .jnq, .const 0x01⟩

/-- JNQ_CFG 9, SIG (Table 8.8, `08_strands_and_join_queues.md`). -/
def JNQ_CFG_SIG : Field := ⟨183, .jnq, 0x4, 0x0, 1, 9, 0, 1, .RWD, .jnq, .const 0⟩

/-- JNQ_CFG 27:16, CONTRIB (Table 8.8, `08_strands_and_join_queues.md`). -/
def JNQ_CFG_CONTRIB : Field := ⟨184, .jnq, 0x4, 0x0, 1, 16, 0, 12, .RWD, .jnq, .const 0x001⟩

/-- JNQ_CFG 31, VALID (Table 8.8, `08_strands_and_join_queues.md`). -/
def JNQ_CFG_VALID : Field := ⟨185, .jnq, 0x4, 0x0, 1, 31, 0, 1, .RWD, .jnq, .const 0⟩

/-- JNQ_ACC 12:0, ACC (Table 8.8, `08_strands_and_join_queues.md`). -/
def JNQ_ACC_ACC : Field := ⟨186, .jnq, 0x8, 0x0, 1, 0, 0, 13, .RWD, .jnq, .const 0⟩

/-- JNQ_DEST_LO 31:8, DEST (Table 8.8, `08_strands_and_join_queues.md`). -/
def JNQ_DEST_LO_DEST : Field := ⟨187, .jnq, 0xc, 0x0, 1, 8, 0, 24, .RWD, .jnq, .const 0⟩

/-- JNQ_DEST_HI 15:0, DEST (Table 8.8, `08_strands_and_join_queues.md`). -/
def JNQ_DEST_HI_DEST : Field := ⟨188, .jnq, 0x10, 0x0, 1, 0, 0, 16, .RWD, .jnq, .const 0⟩

/-- JNQ_STITCH 13:0, STITCH (Table 8.8, `08_strands_and_join_queues.md`). -/
def JNQ_STITCH_STITCH : Field := ⟨189, .jnq, 0x14, 0x0, 1, 0, 0, 14, .RWD, .jnq, .const 0⟩

/-- JNQ_COUNT 11:0, COUNT (Table 8.8, `08_strands_and_join_queues.md`). -/
def JNQ_COUNT_COUNT : Field := ⟨190, .jnq, 0x18, 0x0, 1, 0, 0, 12, .RO, .jnq, .const 0⟩

/-- JNQ_ROUNDS 31:0, ROUNDS (Table 8.8, `08_strands_and_join_queues.md`). -/
def JNQ_ROUNDS_ROUNDS : Field := ⟨191, .jnq, 0x1c, 0x0, 1, 0, 0, 32, .RO, .jnq, .const 0⟩

/-- JNQ_STATUS 0, WRIGN (Table 8.8, `08_strands_and_join_queues.md`). -/
def JNQ_STATUS_WRIGN : Field := ⟨192, .jnq, 0x20, 0x0, 1, 0, 0, 1, .RC, .none, .const 0⟩

/-- JNQ_WRIGN_OFS 13:0 (Table 8.8, `08_strands_and_join_queues.md`). -/
def JNQ_WRIGN_OFS : Field := ⟨193, .jnq, 0x24, 0x0, 1, 0, 0, 14, .RO, .none, .const 0⟩

/-- JNQ_STATUS 1, COPY (Table 8.8, `08_strands_and_join_queues.md`). -/
def JNQ_STATUS_COPY : Field := ⟨194, .jnq, 0x20, 0x0, 1, 1, 0, 1, .RO, .jnq, .const 0⟩

/-- JNQ_STATUS 2, SROUNDS (Table 8.8, `08_strands_and_join_queues.md`). -/
def JNQ_STATUS_SROUNDS : Field := ⟨195, .jnq, 0x20, 0x0, 1, 2, 0, 1, .RC, .none, .const 0⟩

/-- JNQ_STATUS 3, PARTIAL (Table 8.8, `08_strands_and_join_queues.md`). -/
def JNQ_STATUS_PARTIAL : Field := ⟨196, .jnq, 0x20, 0x0, 1, 3, 0, 1, .RC, .none, .const 0⟩

/-! ### SKN -/

/-- SKN_STQ_BASE_LO 31:12, BASE (Table 10.3, `10_training_passes.md`). -/
def SKN_STQ_BASE_LO_BASE : Field := ⟨197, .skn, 0x800, 0x40, 16, 12, 0, 20, .RWS, .none, .const 0⟩

/-- SKN_STQ_BASE_HI 15:0, BASE (Table 10.3, `10_training_passes.md`). -/
def SKN_STQ_BASE_HI_BASE : Field := ⟨198, .skn, 0x804, 0x40, 16, 0, 0, 16, .RWS, .none, .const 0⟩

/-- SKN_STQ_SIZE 15:0, SIZE (Table 10.3, `10_training_passes.md`). -/
def SKN_STQ_SIZE_SIZE : Field := ⟨199, .skn, 0x808, 0x40, 16, 0, 0, 16, .RWS, .none, .const 0⟩

/-- SKN_STQ_PERIOD 31:0, PERIOD (Table 10.3, `10_training_passes.md`). -/
def SKN_STQ_PERIOD_PERIOD : Field := ⟨200, .skn, 0x80c, 0x40, 16, 0, 0, 32, .RWS, .none, .const 0x00000001⟩

/-- SKN_STQ_EPOCH_LO 31:0, EPOCH (Table 10.3, `10_training_passes.md`). -/
def SKN_STQ_EPOCH_LO_EPOCH : Field := ⟨201, .skn, 0x810, 0x40, 16, 0, 0, 32, .RWS, .none, .const 0⟩

/-- SKN_STQ_EPOCH_HI 31:0, EPOCH (Table 10.3, `10_training_passes.md`). -/
def SKN_STQ_EPOCH_HI_EPOCH : Field := ⟨202, .skn, 0x814, 0x40, 16, 0, 0, 32, .RWS, .none, .const 0⟩

/-- SKN_STQ_STATUS 7:0, ACTIVE (Table 10.3, `10_training_passes.md`). -/
def SKN_STQ_STATUS_ACTIVE : Field := ⟨203, .skn, 0x818, 0x40, 16, 0, 0, 8, .RO, .none, .const 0⟩

/-- SKN_STQ_STATUS 8, SLATE (Table 10.3, `10_training_passes.md`). -/
def SKN_STQ_STATUS_SLATE : Field := ⟨204, .skn, 0x818, 0x40, 16, 8, 0, 1, .RC, .none, .const 0⟩

/-- SKN_STQ_STATUS 9, SSKIP (Table 10.3, `10_training_passes.md`). -/
def SKN_STQ_STATUS_SSKIP : Field := ⟨205, .skn, 0x818, 0x40, 16, 9, 0, 1, .RC, .none, .const 0⟩

/-- SKN_STQ_LATE 31:0, LATE (Table 10.3, `10_training_passes.md`). -/
def SKN_STQ_LATE_LATE : Field := ⟨206, .skn, 0x81c, 0x40, 16, 0, 0, 32, .RO, .none, .const 0⟩

/-- SKN_STQ_SKIP 31:0, SKIP (Table 10.3, `10_training_passes.md`). -/
def SKN_STQ_SKIP_SKIP : Field := ⟨207, .skn, 0x820, 0x40, 16, 0, 0, 32, .RO, .none, .const 0⟩

/-- SKN_STATUS 0, WRIGN (Table 12.6, `12_sequence_contexts.md`). -/
def SKN_STATUS_WRIGN : Field := ⟨208, .skn, 0x0, 0x0, 1, 0, 0, 1, .RC, .none, .const 0⟩

/-- SKN_WRIGN_OFS 13:0 (Table 12.6, `12_sequence_contexts.md`). -/
def SKN_WRIGN_OFS : Field := ⟨209, .skn, 0x4, 0x0, 1, 0, 0, 14, .RO, .none, .const 0⟩

/-- SKN_STATUS 1, CBUSY (Table 12.6, `12_sequence_contexts.md`). -/
def SKN_STATUS_CBUSY : Field := ⟨210, .skn, 0x0, 0x0, 1, 1, 0, 1, .RO, .none, .const 0⟩

/-- SKN_ESEL 15:0, SKEIN (Table 12.6, `12_sequence_contexts.md`). -/
def SKN_ESEL_SKEIN : Field := ⟨211, .skn, 0x8, 0x0, 1, 0, 0, 16, .RW, .req, .const 0⟩

/-- SKN_CMD 2:0, OP (Table 12.6, `12_sequence_contexts.md`). -/
def SKN_CMD_OP : Field := ⟨212, .skn, 0xc, 0x0, 1, 0, 0, 3, .WO, .req, .const 0⟩

/-- SKN_EDATAw 31:0, DATA (Table 12.6, `12_sequence_contexts.md`). -/
def SKN_EDATA_DATA : Field := ⟨213, .skn, 0x100, 0x4, 32, 0, 0, 32, .RW, .none, .const 0⟩

/-- SKN_CMDRES 3:0, RESULT (Table 12.7, `12_sequence_contexts.md`). -/
def SKN_CMDRES_RESULT : Field := ⟨214, .skn, 0x10, 0x0, 1, 0, 0, 4, .RO, .req, .const 0⟩

/-- SKN_RANGE 15:0, FIRST (Table 12.8, `12_sequence_contexts.md`). -/
def SKN_RANGE_FIRST : Field := ⟨215, .skn, 0x400, 0x40, 16, 0, 0, 16, .RO, .none, .const 0⟩

/-- SKN_RANGE 31:16, COUNT (Table 12.8, `12_sequence_contexts.md`). -/
def SKN_RANGE_COUNT : Field := ⟨216, .skn, 0x400, 0x40, 16, 16, 0, 16, .RO, .none, .const 0⟩

/-- SKN_BCFG 12:0, BMAX (Table 12.8, `12_sequence_contexts.md`). -/
def SKN_BCFG_BMAX : Field := ⟨217, .skn, 0x404, 0x40, 16, 0, 0, 13, .RWS, .none, .const 0x1000⟩

/-- SKN_BCFG 30:16, PTOK (Table 12.8, `12_sequence_contexts.md`). -/
def SKN_BCFG_PTOK : Field := ⟨218, .skn, 0x404, 0x40, 16, 16, 0, 15, .RWS, .none, .const 0x2000⟩

/-- SKN_BCFG 31, EN (Table 12.8, `12_sequence_contexts.md`). -/
def SKN_BCFG_EN : Field := ⟨219, .skn, 0x404, 0x40, 16, 31, 0, 1, .RW, .none, .const 0⟩

/-- SKN_BATCH_LO 31:20, BASE (Table 12.8, `12_sequence_contexts.md`). -/
def SKN_BATCH_LO_BASE : Field := ⟨220, .skn, 0x408, 0x40, 16, 20, 0, 12, .RWD, .none, .const 0⟩

/-- SKN_BATCH_HI 15:0, BASE (Table 12.8, `12_sequence_contexts.md`). -/
def SKN_BATCH_HI_BASE : Field := ⟨221, .skn, 0x40c, 0x40, 16, 0, 0, 16, .RWD, .none, .const 0⟩

/-- SKN_BSTITCH 13:0, STITCH (Table 12.8, `12_sequence_contexts.md`). -/
def SKN_BSTITCH_STITCH : Field := ⟨222, .skn, 0x410, 0x40, 16, 0, 0, 14, .RWD, .none, .const 0⟩

/-- SKN_GEN 31:0, GENNEXT (Table 12.8, `12_sequence_contexts.md`). -/
def SKN_GEN_GENNEXT : Field := ⟨223, .skn, 0x414, 0x40, 16, 0, 0, 32, .RWS, .none, .const 0⟩

/-- SKN_GENNOW 31:0, GENNOW (Table 12.8, `12_sequence_contexts.md`). -/
def SKN_GENNOW_GENNOW : Field := ⟨224, .skn, 0x418, 0x40, 16, 0, 0, 32, .RO, .none, .const 0⟩

/-- SKN_POOL_LO 31:16, BASE (Table 12.8, `12_sequence_contexts.md`). -/
def SKN_POOL_LO_BASE : Field := ⟨225, .skn, 0x41c, 0x40, 16, 16, 0, 16, .RWD, .none, .const 0⟩

/-- SKN_POOL_HI 15:0, BASE (Table 12.8, `12_sequence_contexts.md`). -/
def SKN_POOL_HI_BASE : Field := ⟨226, .skn, 0x420, 0x40, 16, 0, 0, 16, .RWD, .none, .const 0⟩

/-- SKN_NPAGES 23:0, NPAGES (Table 12.8, `12_sequence_contexts.md`). -/
def SKN_NPAGES_NPAGES : Field := ⟨227, .skn, 0x424, 0x40, 16, 0, 0, 24, .RWD, .none, .const 0⟩

/-- SKN_KVCFG 12:0, KVTOK (Table 12.8, `12_sequence_contexts.md`). -/
def SKN_KVCFG_KVTOK : Field := ⟨228, .skn, 0x428, 0x40, 16, 0, 0, 13, .RWD, .none, .const 0x0100⟩

/-- SKN_KVCFG 23:16, KVPG (Table 12.8, `12_sequence_contexts.md`). -/
def SKN_KVCFG_KVPG : Field := ⟨229, .skn, 0x428, 0x40, 16, 16, 0, 8, .RWD, .none, .const 0x01⟩

/-- SKN_KVCFG 28:24, DMAE (Table 12.8, `12_sequence_contexts.md`). -/
def SKN_KVCFG_DMAE : Field := ⟨230, .skn, 0x428, 0x40, 16, 24, 0, 5, .RWD, .none, .const 0⟩

/-- SKN_WATER 15:0, LOWAT (Table 12.8, `12_sequence_contexts.md`). -/
def SKN_WATER_LOWAT : Field := ⟨231, .skn, 0x42c, 0x40, 16, 0, 0, 16, .RWS, .none, .const 0⟩

/-- SKN_WATER 31:16, HIWAT (Table 12.8, `12_sequence_contexts.md`). -/
def SKN_WATER_HIWAT : Field := ⟨232, .skn, 0x42c, 0x40, 16, 16, 0, 16, .RWS, .none, .const 0⟩

/-- SKN_HKV_LO 31:16, BASE (Table 12.8, `12_sequence_contexts.md`). -/
def SKN_HKV_LO_BASE : Field := ⟨233, .skn, 0x430, 0x40, 16, 16, 0, 16, .RWD, .none, .const 0⟩

/-- SKN_HKV_HI 15:0, BASE (Table 12.8, `12_sequence_contexts.md`). -/
def SKN_HKV_HI_BASE : Field := ⟨234, .skn, 0x434, 0x40, 16, 0, 0, 16, .RWD, .none, .const 0⟩

/-- SKN_HKV_HI 31:16, STRIDE (Table 12.8, `12_sequence_contexts.md`). -/
def SKN_HKV_HI_STRIDE : Field := ⟨235, .skn, 0x434, 0x40, 16, 16, 0, 16, .RWD, .none, .const 0⟩

/-- SKN_FREEPG 23:0, FREE (Table 12.8, `12_sequence_contexts.md`). -/
def SKN_FREEPG_FREE : Field := ⟨236, .skn, 0x438, 0x40, 16, 0, 0, 24, .RO, .none, .const 0⟩

/-- SKN_PSTATUS 0, DEFERRED (Table 12.8, `12_sequence_contexts.md`). -/
def SKN_PSTATUS_DEFERRED : Field := ⟨237, .skn, 0x43c, 0x40, 16, 0, 0, 1, .RC, .none, .const 0⟩

/-- SKN_PSTATUS 1, OFULL (Table 12.8, `12_sequence_contexts.md`). -/
def SKN_PSTATUS_OFULL : Field := ⟨238, .skn, 0x43c, 0x40, 16, 1, 0, 1, .RO, .none, .const 0⟩

/-- SKN_TOK_LO 31:0, TOK (Table 12.9, `12_sequence_contexts.md`). -/
def SKN_TOK_LO_TOK : Field := ⟨239, .skn, 0x200, 0x20, 16, 0, 0, 32, .RO, .none, .const 0⟩

/-- SKN_TOK_HI 31:0, TOK (Table 12.9, `12_sequence_contexts.md`). -/
def SKN_TOK_HI_TOK : Field := ⟨240, .skn, 0x204, 0x20, 16, 0, 0, 32, .RO, .none, .const 0⟩

/-- SKN_DONE_LO 31:0, DONE (Table 12.9, `12_sequence_contexts.md`). -/
def SKN_DONE_LO_DONE : Field := ⟨241, .skn, 0x208, 0x20, 16, 0, 0, 32, .RO, .none, .const 0⟩

/-- SKN_DONE_HI 31:0, DONE (Table 12.9, `12_sequence_contexts.md`). -/
def SKN_DONE_HI_DONE : Field := ⟨242, .skn, 0x20c, 0x20, 16, 0, 0, 32, .RO, .none, .const 0⟩

/-- SKN_DEFER 31:0, DEFER (Table 12.9, `12_sequence_contexts.md`). -/
def SKN_DEFER_DEFER : Field := ⟨243, .skn, 0x210, 0x20, 16, 0, 0, 32, .RO, .none, .const 0⟩

/-- SKN_EVICT 31:0, EVICT (Table 12.9, `12_sequence_contexts.md`). -/
def SKN_EVICT_EVICT : Field := ⟨244, .skn, 0x214, 0x20, 16, 0, 0, 32, .RO, .none, .const 0⟩

/-- SKN_NOPAGE 31:0, NOPAGE (Table 12.9, `12_sequence_contexts.md`). -/
def SKN_NOPAGE_NOPAGE : Field := ⟨245, .skn, 0x218, 0x20, 16, 0, 0, 32, .RO, .none, .const 0⟩

/-- SKN_NORET 31:0, NORET (Table 12.9, `12_sequence_contexts.md`). -/
def SKN_NORET_NORET : Field := ⟨246, .skn, 0x21c, 0x20, 16, 0, 0, 32, .RO, .none, .const 0⟩

/-- SKN_SATSTICKYp 0, SDEFER (Table 12.9, `12_sequence_contexts.md`). -/
def SKN_SATSTICKY_SDEFER : Field := ⟨247, .skn, 0xc00, 0x4, 16, 0, 0, 1, .RC, .none, .const 0⟩

/-- SKN_SATSTICKYp 1, SEVICT (Table 12.9, `12_sequence_contexts.md`). -/
def SKN_SATSTICKY_SEVICT : Field := ⟨248, .skn, 0xc00, 0x4, 16, 1, 0, 1, .RC, .none, .const 0⟩

/-- SKN_SATSTICKYp 2, SNOPAGE (Table 12.9, `12_sequence_contexts.md`). -/
def SKN_SATSTICKY_SNOPAGE : Field := ⟨249, .skn, 0xc00, 0x4, 16, 2, 0, 1, .RC, .none, .const 0⟩

/-- SKN_SATSTICKYp 3, SNORET (Table 12.9, `12_sequence_contexts.md`). -/
def SKN_SATSTICKY_SNORET : Field := ⟨250, .skn, 0xc00, 0x4, 16, 3, 0, 1, .RC, .none, .const 0⟩

/-! ### HNK -/

/-- HNK_STATUS 0, WRIGN (Table 10.5, `10_training_passes.md`). -/
def HNK_STATUS_WRIGN : Field := ⟨251, .hnk, 0x0, 0x0, 1, 0, 0, 1, .RC, .none, .const 0⟩

/-- HNK_WRIGN_OFS 13:0 (Table 10.5, `10_training_passes.md`). -/
def HNK_WRIGN_OFS : Field := ⟨252, .hnk, 0x4, 0x0, 1, 0, 0, 14, .RO, .none, .const 0⟩

/-- HNK_STATUS 1, FBUSY (Table 10.5, `10_training_passes.md`). -/
def HNK_STATUS_FBUSY : Field := ⟨253, .hnk, 0x0, 0x0, 1, 1, 0, 1, .RO, .none, .const 0⟩

/-- HNK_STATUS 2, SNONFIN (Table 10.5, `10_training_passes.md`). -/
def HNK_STATUS_SNONFIN : Field := ⟨254, .hnk, 0x0, 0x0, 1, 2, 0, 1, .RC, .none, .const 0⟩

/-- HNK_FRESH 12:0, FIRST (Table 10.5, `10_training_passes.md`). -/
def HNK_FRESH_FIRST : Field := ⟨255, .hnk, 0x8, 0x0, 1, 0, 0, 13, .RW, .none, .const 0⟩

/-- HNK_FRESH 26:13, COUNT (Table 10.5, `10_training_passes.md`). -/
def HNK_FRESH_COUNT : Field := ⟨256, .hnk, 0x8, 0x0, 1, 13, 0, 14, .RW, .none, .const 0⟩

/-- HNK_FRESH 31, GO (Table 10.5, `10_training_passes.md`). -/
def HNK_FRESH_GO : Field := ⟨257, .hnk, 0x8, 0x0, 1, 31, 0, 1, .WO, .none, .const 0⟩

/-- HNK_ADDS_LO 31:0, ADDS (Table 10.5, `10_training_passes.md`). -/
def HNK_ADDS_LO_ADDS : Field := ⟨258, .hnk, 0x10, 0x0, 1, 0, 0, 32, .RO, .none, .const 0⟩

/-- HNK_ADDS_HI 31:0, ADDS (Table 10.5, `10_training_passes.md`). -/
def HNK_ADDS_HI_ADDS : Field := ⟨259, .hnk, 0x14, 0x0, 1, 0, 0, 32, .RO, .none, .const 0⟩

/-- HNK_NONFIN 31:0, NONFIN (Table 10.5, `10_training_passes.md`). -/
def HNK_NONFIN_NONFIN : Field := ⟨260, .hnk, 0x18, 0x0, 1, 0, 0, 32, .RO, .none, .const 0⟩

/-- HNK_ZBASEn 12:0, ZBASE (Table 10.5, `10_training_passes.md`). -/
def HNK_ZBASE_ZBASE : Field := ⟨261, .hnk, 0x100, 0x8, 16, 0, 0, 13, .RWS, .none, .const 0⟩

/-- HNK_ZLENn 13:0, ZLEN (Table 10.5, `10_training_passes.md`). -/
def HNK_ZLEN_ZLEN : Field := ⟨262, .hnk, 0x104, 0x8, 16, 0, 0, 14, .RWS, .none, .const 0⟩

/-- HNK_ZLENn 31, HARVEST (Table 10.5, `10_training_passes.md`). -/
def HNK_ZLEN_HARVEST : Field := ⟨263, .hnk, 0x104, 0x8, 16, 31, 0, 1, .RWS, .none, .const 0⟩

/-! ### BLK -/

/-- BLK_SH_SEL 11:0, ENTRY (Table 10.9, `10_training_passes.md`). -/
def BLK_SH_SEL_ENTRY : Field := ⟨264, .blk, 0x400, 0x0, 1, 0, 0, 12, .RW, .none, .const 0⟩

/-- BLK_SH_CTL 3:0, PART (Table 10.9, `10_training_passes.md`). -/
def BLK_SH_CTL_PART : Field := ⟨265, .blk, 0x404, 0x0, 1, 0, 0, 4, .RWD, .sh, .const 0⟩

/-- BLK_SH_CTL 4, VALID (Table 10.9, `10_training_passes.md`). -/
def BLK_SH_CTL_VALID : Field := ⟨266, .blk, 0x404, 0x0, 1, 4, 0, 1, .RWD, .sh, .const 0⟩

/-- BLK_SH_CTL 5, CURSLOT (Table 10.9, `10_training_passes.md`). -/
def BLK_SH_CTL_CURSLOT : Field := ⟨267, .blk, 0x404, 0x0, 1, 5, 0, 1, .RWD, .sh, .const 0⟩

/-- BLK_SH_CTL 6, WRITING (Table 10.9, `10_training_passes.md`). -/
def BLK_SH_CTL_WRITING : Field := ⟨268, .blk, 0x404, 0x0, 1, 6, 0, 1, .RO, .sh, .const 0⟩

/-- BLK_SH_CTL 7, UWAIT (Table 10.9, `10_training_passes.md`). -/
def BLK_SH_CTL_UWAIT : Field := ⟨269, .blk, 0x404, 0x0, 1, 7, 0, 1, .RO, .sh, .const 0⟩

/-- BLK_SH_CTL 8, SV0 (Table 10.9, `10_training_passes.md`). -/
def BLK_SH_CTL_SV0 : Field := ⟨270, .blk, 0x404, 0x0, 1, 8, 0, 1, .RO, .sh, .const 0⟩

/-- BLK_SH_CTL 9, SV1 (Table 10.9, `10_training_passes.md`). -/
def BLK_SH_CTL_SV1 : Field := ⟨271, .blk, 0x404, 0x0, 1, 9, 0, 1, .RO, .sh, .const 0⟩

/-- BLK_SH_BASE0_LO 31:8, BASE0 (Table 10.9, `10_training_passes.md`). -/
def BLK_SH_BASE0_LO_BASE0 : Field := ⟨272, .blk, 0x408, 0x0, 1, 8, 0, 24, .RWD, .sh, .const 0⟩

/-- BLK_SH_BASE0_HI 15:0, BASE0 (Table 10.9, `10_training_passes.md`). -/
def BLK_SH_BASE0_HI_BASE0 : Field := ⟨273, .blk, 0x40c, 0x0, 1, 0, 0, 16, .RWD, .sh, .const 0⟩

/-- BLK_SH_BASE1_LO 31:8, BASE1 (Table 10.9, `10_training_passes.md`). -/
def BLK_SH_BASE1_LO_BASE1 : Field := ⟨274, .blk, 0x410, 0x0, 1, 8, 0, 24, .RWD, .sh, .const 0⟩

/-- BLK_SH_BASE1_HI 15:0, BASE1 (Table 10.9, `10_training_passes.md`). -/
def BLK_SH_BASE1_HI_BASE1 : Field := ⟨275, .blk, 0x414, 0x0, 1, 0, 0, 16, .RWD, .sh, .const 0⟩

/-- BLK_SH_LEN 23:0, LEN (Table 10.9, `10_training_passes.md`). -/
def BLK_SH_LEN_LEN : Field := ⟨276, .blk, 0x418, 0x0, 1, 0, 0, 24, .RWD, .sh, .const 0⟩

/-- BLK_SH_GEN0 31:0, GEN0 (Table 10.9, `10_training_passes.md`). -/
def BLK_SH_GEN0_GEN0 : Field := ⟨277, .blk, 0x41c, 0x0, 1, 0, 0, 32, .RWD, .sh, .const 0⟩

/-- BLK_SH_GEN1 31:0, GEN1 (Table 10.9, `10_training_passes.md`). -/
def BLK_SH_GEN1_GEN1 : Field := ⟨278, .blk, 0x420, 0x0, 1, 0, 0, 32, .RWD, .sh, .const 0⟩

/-- BLK_SH_PINS 15:0, PINS0 (Table 10.9, `10_training_passes.md`). -/
def BLK_SH_PINS_PINS0 : Field := ⟨279, .blk, 0x424, 0x0, 1, 0, 0, 16, .RO, .sh, .const 0⟩

/-- BLK_SH_PINS 31:16, PINS1 (Table 10.9, `10_training_passes.md`). -/
def BLK_SH_PINS_PINS1 : Field := ⟨280, .blk, 0x424, 0x0, 1, 16, 0, 16, .RO, .sh, .const 0⟩

/-- BLK_PIN_USED 13:0, USED (Table 10.9, `10_training_passes.md`). -/
def BLK_PIN_USED_USED : Field := ⟨281, .blk, 0x428, 0x0, 1, 0, 0, 14, .RO, .none, .const 0⟩

/-- BLK_PIN_TMO 31:0, TMO (Table 10.9, `10_training_passes.md`). -/
def BLK_PIN_TMO_TMO : Field := ⟨282, .blk, 0x42c, 0x0, 1, 0, 0, 32, .RO, .none, .const 0⟩

/-- BLK_SH_STATUS 0, WRIGN (Table 10.9, `10_training_passes.md`). -/
def BLK_SH_STATUS_WRIGN : Field := ⟨283, .blk, 0x430, 0x0, 1, 0, 0, 1, .RC, .none, .const 0⟩

/-- BLK_SH_WRIGN_OFS 13:0 (Table 10.9, `10_training_passes.md`). -/
def BLK_SH_WRIGN_OFS : Field := ⟨284, .blk, 0x434, 0x0, 1, 0, 0, 14, .RO, .none, .const 0⟩

/-- BLK_SH_STATUS 1, STMO (Table 10.9, `10_training_passes.md`). -/
def BLK_SH_STATUS_STMO : Field := ⟨285, .blk, 0x430, 0x0, 1, 1, 0, 1, .RC, .none, .const 0⟩

/-- BLK_STATUS 0, WRIGN (Table 11.9, `11_blocker.md`). -/
def BLK_STATUS_WRIGN : Field := ⟨286, .blk, 0x0, 0x0, 1, 0, 0, 1, .RC, .none, .const 0⟩

/-- BLK_WRIGN_OFS 13:0 (Table 11.9, `11_blocker.md`). -/
def BLK_WRIGN_OFS : Field := ⟨287, .blk, 0x4, 0x0, 1, 0, 0, 14, .RO, .none, .const 0⟩

/-- BLK_STATUS 1, ACTIVE (Table 11.9, `11_blocker.md`). -/
def BLK_STATUS_ACTIVE : Field := ⟨288, .blk, 0x0, 0x0, 1, 1, 0, 1, .RO, .none, .const 0⟩

/-- BLK_STATUS 3:2, PASS (Table 11.9, `11_blocker.md`). -/
def BLK_STATUS_PASS : Field := ⟨289, .blk, 0x0, 0x0, 1, 2, 0, 2, .RO, .none, .const 0⟩

/-- BLK_STATUS 8, SNONFIN (Table 11.9, `11_blocker.md`). -/
def BLK_STATUS_SNONFIN : Field := ⟨290, .blk, 0x0, 0x0, 1, 8, 0, 1, .RC, .none, .const 0⟩

/-- BLK_STATUS 9, SGSAT (Table 11.9, `11_blocker.md`). -/
def BLK_STATUS_SGSAT : Field := ⟨291, .blk, 0x0, 0x0, 1, 9, 0, 1, .RC, .none, .const 0⟩

/-- BLK_STATUS 10, SGPICOT (Table 11.9, `11_blocker.md`). -/
def BLK_STATUS_SGPICOT : Field := ⟨292, .blk, 0x0, 0x0, 1, 10, 0, 1, .RC, .none, .const 0⟩

/-- BLK_STATUS 11, SGESC (Table 11.9, `11_blocker.md`). -/
def BLK_STATUS_SGESC : Field := ⟨293, .blk, 0x0, 0x0, 1, 11, 0, 1, .RC, .none, .const 0⟩

/-- BLK_STATUS 12, SGNAN (Table 11.9, `11_blocker.md`). -/
def BLK_STATUS_SGNAN : Field := ⟨294, .blk, 0x0, 0x0, 1, 12, 0, 1, .RC, .none, .const 0⟩

/-- BLK_ACTIVE 3:0, PART (Table 11.9, `11_blocker.md`). -/
def BLK_ACTIVE_PART : Field := ⟨295, .blk, 0x8, 0x0, 1, 0, 0, 4, .RO, .none, .const 0⟩

/-- BLK_ACTIVE 31:16, TAG (Table 11.9, `11_blocker.md`). -/
def BLK_ACTIVE_TAG : Field := ⟨296, .blk, 0x8, 0x0, 1, 16, 0, 16, .RO, .none, .const 0⟩

/-- BLK_PROGRESS 31:0, BLOCKS (Table 11.9, `11_blocker.md`). -/
def BLK_PROGRESS_BLOCKS : Field := ⟨297, .blk, 0xc, 0x0, 1, 0, 0, 32, .RO, .none, .const 0⟩

/-- BLK_QDEPTH 8:0, DEPTH (Table 11.9, `11_blocker.md`). -/
def BLK_QDEPTH_DEPTH : Field := ⟨298, .blk, 0x10, 0x0, 1, 0, 0, 9, .RO, .none, .const 0⟩

/-- BLK_ABORT 3:0, PART (Table 11.9, `11_blocker.md`). -/
def BLK_ABORT_PART : Field := ⟨299, .blk, 0x14, 0x0, 1, 0, 0, 4, .WO, .none, .const 0⟩

/-- BLK_ABORT 15, GO (Table 11.9, `11_blocker.md`). -/
def BLK_ABORT_GO : Field := ⟨300, .blk, 0x14, 0x0, 1, 15, 0, 1, .WO, .none, .const 0⟩

/-- BLK_ABORT 31:16, TAG (Table 11.9, `11_blocker.md`). -/
def BLK_ABORT_TAG : Field := ⟨301, .blk, 0x14, 0x0, 1, 16, 0, 16, .WO, .none, .const 0⟩

/-- BLK_UPD_LO 31:0, UPD (Table 11.9, `11_blocker.md`). -/
def BLK_UPD_LO_UPD : Field := ⟨302, .blk, 0x18, 0x0, 1, 0, 0, 32, .RO, .none, .const 0⟩

/-- BLK_UPD_HI 31:0, UPD (Table 11.9, `11_blocker.md`). -/
def BLK_UPD_HI_UPD : Field := ⟨303, .blk, 0x1c, 0x0, 1, 0, 0, 32, .RO, .none, .const 0⟩

/-- BLK_BLOCKS_LO 31:0, BLOCKS (Table 11.9, `11_blocker.md`). -/
def BLK_BLOCKS_LO_BLOCKS : Field := ⟨304, .blk, 0x20, 0x0, 1, 0, 0, 32, .RO, .none, .const 0⟩

/-- BLK_BLOCKS_HI 31:0, BLOCKS (Table 11.9, `11_blocker.md`). -/
def BLK_BLOCKS_HI_BLOCKS : Field := ⟨305, .blk, 0x24, 0x0, 1, 0, 0, 32, .RO, .none, .const 0⟩

/-- BLK_NONFIN 31:0, NONFIN (Table 11.9, `11_blocker.md`). -/
def BLK_NONFIN_NONFIN : Field := ⟨306, .blk, 0x28, 0x0, 1, 0, 0, 32, .RO, .none, .const 0⟩

/-- BLK_GSAT 31:0, GSAT (Table 11.9, `11_blocker.md`). -/
def BLK_GSAT_GSAT : Field := ⟨307, .blk, 0x30, 0x0, 1, 0, 0, 32, .RO, .none, .const 0⟩

/-- BLK_GPICOT 31:0, GPICOT (Table 11.9, `11_blocker.md`). -/
def BLK_GPICOT_GPICOT : Field := ⟨308, .blk, 0x34, 0x0, 1, 0, 0, 32, .RO, .none, .const 0⟩

/-- BLK_GESC 31:0, GESC (Table 11.9, `11_blocker.md`). -/
def BLK_GESC_GESC : Field := ⟨309, .blk, 0x38, 0x0, 1, 0, 0, 32, .RO, .none, .const 0⟩

/-- BLK_GNAN 31:0, GNAN (Table 11.9, `11_blocker.md`). -/
def BLK_GNAN_GNAN : Field := ⟨310, .blk, 0x3c, 0x0, 1, 0, 0, 32, .RO, .none, .const 0⟩

/-- BLK_GTAB_LOp 31:5, BASE (Table 11.9, `11_blocker.md`). -/
def BLK_GTAB_LO_BASE : Field := ⟨311, .blk, 0x100, 0x8, 16, 5, 0, 27, .RWS, .none, .const 0⟩

/-- BLK_GTAB_HIp 15:0, BASE (Table 11.9, `11_blocker.md`). -/
def BLK_GTAB_HI_BASE : Field := ⟨312, .blk, 0x104, 0x8, 16, 0, 0, 16, .RWS, .none, .const 0⟩

/-! ### MEM -/

/-- MEM_CTRL 0, EN (Table 13.9, `13_memory_stacks.md`). -/
def MEM_CTRL_EN : Field := ⟨313, .mem, 0x0, 0x0, 1, 0, 0, 1, .RW, .none, .const 0⟩

/-- MEM_STATUS 0, WRIGN (Table 13.9, `13_memory_stacks.md`). -/
def MEM_STATUS_WRIGN : Field := ⟨314, .mem, 0x4, 0x0, 1, 0, 0, 1, .RC, .none, .const 0⟩

/-- MEM_WRIGN_OFS 13:0 (Table 13.9, `13_memory_stacks.md`). -/
def MEM_WRIGN_OFS : Field := ⟨315, .mem, 0x8, 0x0, 1, 0, 0, 14, .RO, .none, .const 0⟩

/-- MEM_STATUS 1, UE (Table 13.9, `13_memory_stacks.md`). -/
def MEM_STATUS_UE : Field := ⟨316, .mem, 0x4, 0x0, 1, 1, 0, 1, .RC, .none, .const 0⟩

/-- MEM_STATUS 3:2, THR (Table 13.9, `13_memory_stacks.md`). -/
def MEM_STATUS_THR : Field := ⟨317, .mem, 0x4, 0x0, 1, 2, 0, 2, .RO, .none, .const 0⟩

/-- MEM_STATUS 4, HOTREF (Table 13.9, `13_memory_stacks.md`). -/
def MEM_STATUS_HOTREF : Field := ⟨318, .mem, 0x4, 0x0, 1, 4, 0, 1, .RO, .none, .const 0⟩

/-- MEM_STATUS 5, TRAINED (Table 13.9, `13_memory_stacks.md`). -/
def MEM_STATUS_TRAINED : Field := ⟨319, .mem, 0x4, 0x0, 1, 5, 0, 1, .RO, .none, .const 0⟩

/-- MEM_CHMAP 31:0, ACTIVE (Table 13.9, `13_memory_stacks.md`). -/
def MEM_CHMAP_ACTIVE : Field := ⟨320, .mem, 0xc, 0x0, 1, 0, 0, 32, .RO, .none, .const 0⟩

/-- MEM_SPARE 5:0, LANE36 (Table 13.9, `13_memory_stacks.md`). -/
def MEM_SPARE_LANE36 : Field := ⟨321, .mem, 0x10, 0x0, 1, 0, 0, 6, .RO, .none, .const 0x3F⟩

/-- MEM_SPARE 13:8, LANE37 (Table 13.9, `13_memory_stacks.md`). -/
def MEM_SPARE_LANE37 : Field := ⟨322, .mem, 0x10, 0x0, 1, 8, 0, 6, .RO, .none, .const 0x3F⟩

/-- MEM_TEMP 7:0, TEMP (Table 13.9, `13_memory_stacks.md`). -/
def MEM_TEMP_TEMP : Field := ⟨323, .mem, 0x14, 0x0, 1, 0, 0, 8, .RO, .none, .const 0⟩

/-- MEM_TEMP 15:8, PEAK (Table 13.9, `13_memory_stacks.md`). -/
def MEM_TEMP_PEAK : Field := ⟨324, .mem, 0x14, 0x0, 1, 8, 0, 8, .RC, .none, .const 0⟩

/-- MEM_ECC_CE 31:0, CE (Table 13.9, `13_memory_stacks.md`). -/
def MEM_ECC_CE_CE : Field := ⟨325, .mem, 0x18, 0x0, 1, 0, 0, 32, .RO, .none, .const 0⟩

/-- MEM_UE_ADDR_LO 31:0, ADDR (Table 13.9, `13_memory_stacks.md`). -/
def MEM_UE_ADDR_LO_ADDR : Field := ⟨326, .mem, 0x1c, 0x0, 1, 0, 0, 32, .RO, .none, .const 0⟩

/-- MEM_UE_ADDR_HI 15:0, ADDR (Table 13.9, `13_memory_stacks.md`). -/
def MEM_UE_ADDR_HI_ADDR : Field := ⟨327, .mem, 0x20, 0x0, 1, 0, 0, 16, .RO, .none, .const 0⟩

/-- MEM_SCRUB 7:0, PERIOD (Table 13.9, `13_memory_stacks.md`). -/
def MEM_SCRUB_PERIOD : Field := ⟨328, .mem, 0x24, 0x0, 1, 0, 0, 8, .RW, .none, .const 0x02⟩

/-- MEM_SATSTICKY 0, SCE (Table 13.9, `13_memory_stacks.md`). -/
def MEM_SATSTICKY_SCE : Field := ⟨329, .mem, 0x28, 0x0, 1, 0, 0, 1, .RC, .none, .const 0⟩

/-- MEM_RDB_LO 31:0, RDB (Table 13.9, `13_memory_stacks.md`). -/
def MEM_RDB_LO_RDB : Field := ⟨330, .mem, 0x30, 0x0, 1, 0, 0, 32, .RO, .none, .const 0⟩

/-- MEM_RDB_HI 31:0, RDB (Table 13.9, `13_memory_stacks.md`). -/
def MEM_RDB_HI_RDB : Field := ⟨331, .mem, 0x34, 0x0, 1, 0, 0, 32, .RO, .none, .const 0⟩

/-- MEM_WRB_LO 31:0, WRB (Table 13.9, `13_memory_stacks.md`). -/
def MEM_WRB_LO_WRB : Field := ⟨332, .mem, 0x38, 0x0, 1, 0, 0, 32, .RO, .none, .const 0⟩

/-- MEM_WRB_HI 31:0, WRB (Table 13.9, `13_memory_stacks.md`). -/
def MEM_WRB_HI_WRB : Field := ⟨333, .mem, 0x3c, 0x0, 1, 0, 0, 32, .RO, .none, .const 0⟩

/-- MEM_THRUS_LO 31:0, THRUS (Table 13.9, `13_memory_stacks.md`). -/
def MEM_THRUS_LO_THRUS : Field := ⟨334, .mem, 0x40, 0x0, 1, 0, 0, 32, .RO, .none, .const 0⟩

/-- MEM_THRUS_HI 31:0, THRUS (Table 13.9, `13_memory_stacks.md`). -/
def MEM_THRUS_HI_THRUS : Field := ⟨335, .mem, 0x44, 0x0, 1, 0, 0, 32, .RO, .none, .const 0⟩

/-- MEM_FORCEOUT 31:1, MASK (Table 13.9, `13_memory_stacks.md`). -/
def MEM_FORCEOUT_MASK : Field := ⟨336, .mem, 0x48, 0x0, 1, 1, 0, 31, .RWD, .none, .const 0⟩

/-- MEM_QCFG 7:0, AGE (Table 13.9, `13_memory_stacks.md`). -/
def MEM_QCFG_AGE : Field := ⟨337, .mem, 0x4c, 0x0, 1, 0, 0, 8, .RWD, .none, .const 0x0C⟩

/-- MEM_IMAP 1:0, MODE (Table 13.9, `13_memory_stacks.md`). -/
def MEM_IMAP_MODE : Field := ⟨338, .mem, 0x80, 0x0, 1, 0, 0, 2, .RWD, .none, .const 0⟩

/-- MEM_IMAP 3:2, GRAN (Table 13.9, `13_memory_stacks.md`). -/
def MEM_IMAP_GRAN : Field := ⟨339, .mem, 0x80, 0x0, 1, 2, 0, 2, .RWD, .none, .const 0x1⟩

/-- MEM_IMAP 4, ROT (Table 13.9, `13_memory_stacks.md`). -/
def MEM_IMAP_ROT : Field := ⟨340, .mem, 0x80, 0x0, 1, 4, 0, 1, .RWD, .none, .const 1⟩

/-- MEM_TOTAL 8:0, NCH (Table 13.9, `13_memory_stacks.md`). -/
def MEM_TOTAL_NCH : Field := ⟨341, .mem, 0x84, 0x0, 1, 0, 0, 9, .RO, .none, .const 0⟩

/-- MEM_TOTAL 16, DEGRADED (Table 13.9, `13_memory_stacks.md`). -/
def MEM_TOTAL_DEGRADED : Field := ⟨342, .mem, 0x84, 0x0, 1, 16, 0, 1, .RO, .none, .const 0⟩

/-- MEM_PRIOn 13:0, BASE (Table 13.9, `13_memory_stacks.md`). -/
def MEM_PRIO_BASE : Field := ⟨343, .mem, 0xc0, 0x4, 16, 0, 0, 14, .RW, .none, .const 0⟩

/-- MEM_PRIOn 29:16, LEN (Table 13.9, `13_memory_stacks.md`). -/
def MEM_PRIO_LEN : Field := ⟨344, .mem, 0xc0, 0x4, 16, 16, 0, 14, .RW, .none, .const 0⟩

/-- MEM_PRIOn 31, VALID (Table 13.9, `13_memory_stacks.md`). -/
def MEM_PRIO_VALID : Field := ⟨345, .mem, 0xc0, 0x4, 16, 31, 0, 1, .RW, .none, .const 0⟩

/-! ### PHY -/

/-- PHY_STATUS 0, WRIGN (Table 13.10, `13_memory_stacks.md`). -/
def PHY_STATUS_WRIGN : Field := ⟨346, .phy, 0x0, 0x0, 1, 0, 0, 1, .RC, .none, .const 0⟩

/-- PHY_WRIGN_OFS 13:0 (Table 13.10, `13_memory_stacks.md`). -/
def PHY_WRIGN_OFS : Field := ⟨347, .phy, 0x24, 0x0, 1, 0, 0, 14, .RO, .none, .const 0⟩

/-- PHY_STATUS 1, TBUSY (Table 13.10, `13_memory_stacks.md`). -/
def PHY_STATUS_TBUSY : Field := ⟨348, .phy, 0x0, 0x0, 1, 1, 0, 1, .RO, .none, .const 0⟩

/-- PHY_STATUS 2, MBUSY (Table 13.10, `13_memory_stacks.md`). -/
def PHY_STATUS_MBUSY : Field := ⟨349, .phy, 0x0, 0x0, 1, 2, 0, 1, .RO, .none, .const 0⟩

/-- PHY_STATUS 3, TFAIL (Table 13.10, `13_memory_stacks.md`). -/
def PHY_STATUS_TFAIL : Field := ⟨350, .phy, 0x0, 0x0, 1, 3, 0, 1, .RC, .none, .const 0⟩

/-- PHY_TRAIN 0, GO (Table 13.10, `13_memory_stacks.md`). -/
def PHY_TRAIN_GO : Field := ⟨351, .phy, 0x4, 0x0, 1, 0, 0, 1, .WO, .none, .const 0⟩

/-- PHY_MSEL 4:0, CH (Table 13.10, `13_memory_stacks.md`). -/
def PHY_MSEL_CH : Field := ⟨352, .phy, 0x10, 0x0, 1, 0, 0, 5, .RWD, .none, .const 0⟩

/-- PHY_MSEL 10:5, LANE (Table 13.10, `13_memory_stacks.md`). -/
def PHY_MSEL_LANE : Field := ⟨353, .phy, 0x10, 0x0, 1, 5, 0, 6, .RWD, .none, .const 0⟩

/-- PHY_MSEL 12, AXIS (Table 13.10, `13_memory_stacks.md`). -/
def PHY_MSEL_AXIS : Field := ⟨354, .phy, 0x10, 0x0, 1, 12, 0, 1, .RWD, .none, .const 0⟩

/-- PHY_MOFS 7:0, OFS (Table 13.10, `13_memory_stacks.md`). -/
def PHY_MOFS_OFS : Field := ⟨355, .phy, 0x14, 0x0, 1, 0, 0, 8, .RWD, .none, .const 0⟩

/-- PHY_MRUN 15:0, BURSTS (Table 13.10, `13_memory_stacks.md`). -/
def PHY_MRUN_BURSTS : Field := ⟨356, .phy, 0x18, 0x0, 1, 0, 0, 16, .RWD, .none, .const 0x0010⟩

/-- PHY_MRUN 31, GO (Table 13.10, `13_memory_stacks.md`). -/
def PHY_MRUN_GO : Field := ⟨357, .phy, 0x18, 0x0, 1, 31, 0, 1, .WO, .none, .const 0⟩

/-- PHY_MERR 31:0, ERR (Table 13.10, `13_memory_stacks.md`). -/
def PHY_MERR_ERR : Field := ⟨358, .phy, 0x1c, 0x0, 1, 0, 0, 32, .RO, .none, .const 0⟩

/-- PHY_EYE 7:0, WIDTH (Table 13.10, `13_memory_stacks.md`). -/
def PHY_EYE_WIDTH : Field := ⟨359, .phy, 0x20, 0x0, 1, 0, 0, 8, .RO, .none, .const 0⟩

/-- PHY_EYE 15:8, HEIGHT (Table 13.10, `13_memory_stacks.md`). -/
def PHY_EYE_HEIGHT : Field := ⟨360, .phy, 0x20, 0x0, 1, 8, 0, 8, .RO, .none, .const 0⟩

/-! ### PLY -/

/-- PLY_CTRL 0, EN (Table 14.7, `14_ply_links_and_groups.md`). -/
def PLY_CTRL_EN : Field := ⟨361, .ply, 0x0, 0x0, 1, 0, 0, 1, .RW, .none, .const 0⟩

/-- PLY_CTRL 1, RETRAIN (Table 14.7, `14_ply_links_and_groups.md`). -/
def PLY_CTRL_RETRAIN : Field := ⟨362, .ply, 0x0, 0x0, 1, 1, 0, 1, .WO, .none, .const 0⟩

/-- PLY_CTRL 7:4, RETRY (Table 14.7, `14_ply_links_and_groups.md`). -/
def PLY_CTRL_RETRY : Field := ⟨363, .ply, 0x0, 0x0, 1, 4, 0, 4, .RW, .none, .const 0x3⟩

/-- PLY_STATUS 0, WRIGN (Table 14.7, `14_ply_links_and_groups.md`). -/
def PLY_STATUS_WRIGN : Field := ⟨364, .ply, 0x4, 0x0, 1, 0, 0, 1, .RC, .none, .const 0⟩

/-- PLY_WRIGN_OFS 13:0 (Table 14.7, `14_ply_links_and_groups.md`). -/
def PLY_WRIGN_OFS : Field := ⟨365, .ply, 0x8, 0x0, 1, 0, 0, 14, .RO, .none, .const 0⟩

/-- PLY_STATUS 3:1, STATE (Table 14.7, `14_ply_links_and_groups.md`). -/
def PLY_STATUS_STATE : Field := ⟨366, .ply, 0x4, 0x0, 1, 1, 0, 3, .RO, .none, .const 0⟩

/-- PLY_STATUS 4, DOWNEV (Table 14.7, `14_ply_links_and_groups.md`). -/
def PLY_STATUS_DOWNEV : Field := ⟨367, .ply, 0x4, 0x0, 1, 4, 0, 1, .RC, .none, .const 0⟩

/-- PLY_STATUS 5, CREDOV (Table 14.7, `14_ply_links_and_groups.md`). -/
def PLY_STATUS_CREDOV : Field := ⟨368, .ply, 0x4, 0x0, 1, 5, 0, 1, .RC, .none, .const 0⟩

/-- PLY_PEER 11:0, ID (Table 14.7, `14_ply_links_and_groups.md`). -/
def PLY_PEER_ID : Field := ⟨369, .ply, 0xc, 0x0, 1, 0, 0, 12, .RO, .none, .const 0⟩

/-- PLY_PEER 16:12, LINK (Table 14.7, `14_ply_links_and_groups.md`). -/
def PLY_PEER_LINK : Field := ⟨370, .ply, 0xc, 0x0, 1, 12, 0, 5, .RO, .none, .const 0⟩

/-- PLY_PEER 31, VALID (Table 14.7, `14_ply_links_and_groups.md`). -/
def PLY_PEER_VALID : Field := ⟨371, .ply, 0xc, 0x0, 1, 31, 0, 1, .RO, .none, .const 0⟩

/-- PLY_INGRANT 15:0, MASK (Table 14.7, `14_ply_links_and_groups.md`). -/
def PLY_INGRANT_MASK : Field := ⟨372, .ply, 0x10, 0x0, 1, 0, 0, 16, .RW, .none, .const 0⟩

/-- PLY_CREDSEL 1:0, VC (Table 14.7, `14_ply_links_and_groups.md`). -/
def PLY_CREDSEL_VC : Field := ⟨373, .ply, 0x14, 0x0, 1, 0, 0, 2, .RW, .none, .const 0⟩

/-- PLY_CREDVAL 11:0, CREDITS (Table 14.7, `14_ply_links_and_groups.md`). -/
def PLY_CREDVAL_CREDITS : Field := ⟨374, .ply, 0x18, 0x0, 1, 0, 0, 12, .RO, .none, .const 0⟩

/-- PLY_TXFLIT_LO 31:0, TX (Table 14.7, `14_ply_links_and_groups.md`). -/
def PLY_TXFLIT_LO_TX : Field := ⟨375, .ply, 0x20, 0x0, 1, 0, 0, 32, .RO, .none, .const 0⟩

/-- PLY_TXFLIT_HI 31:0, TX (Table 14.7, `14_ply_links_and_groups.md`). -/
def PLY_TXFLIT_HI_TX : Field := ⟨376, .ply, 0x24, 0x0, 1, 0, 0, 32, .RO, .none, .const 0⟩

/-- PLY_RXFLIT_LO 31:0, RX (Table 14.7, `14_ply_links_and_groups.md`). -/
def PLY_RXFLIT_LO_RX : Field := ⟨377, .ply, 0x28, 0x0, 1, 0, 0, 32, .RO, .none, .const 0⟩

/-- PLY_RXFLIT_HI 31:0, RX (Table 14.7, `14_ply_links_and_groups.md`). -/
def PLY_RXFLIT_HI_RX : Field := ⟨378, .ply, 0x2c, 0x0, 1, 0, 0, 32, .RO, .none, .const 0⟩

/-- PLY_FECCW_LO 31:0, CW (Table 14.7, `14_ply_links_and_groups.md`). -/
def PLY_FECCW_LO_CW : Field := ⟨379, .ply, 0x30, 0x0, 1, 0, 0, 32, .RO, .none, .const 0⟩

/-- PLY_FECCW_HI 31:0, CW (Table 14.7, `14_ply_links_and_groups.md`). -/
def PLY_FECCW_HI_CW : Field := ⟨380, .ply, 0x34, 0x0, 1, 0, 0, 32, .RO, .none, .const 0⟩

/-- PLY_FECUNC 31:0, UNC (Table 14.7, `14_ply_links_and_groups.md`). -/
def PLY_FECUNC_UNC : Field := ⟨381, .ply, 0x38, 0x0, 1, 0, 0, 32, .RO, .none, .const 0⟩

/-- PLY_REPLAY 31:0, REPLAY (Table 14.7, `14_ply_links_and_groups.md`). -/
def PLY_REPLAY_REPLAY : Field := ⟨382, .ply, 0x3c, 0x0, 1, 0, 0, 32, .RO, .none, .const 0⟩

/-- PLY_SATSTICKY 0, SUNC (Table 14.7, `14_ply_links_and_groups.md`). -/
def PLY_SATSTICKY_SUNC : Field := ⟨383, .ply, 0x40, 0x0, 1, 0, 0, 1, .RC, .none, .const 0⟩

/-- PLY_SATSTICKY 1, SREPLAY (Table 14.7, `14_ply_links_and_groups.md`). -/
def PLY_SATSTICKY_SREPLAY : Field := ⟨384, .ply, 0x40, 0x0, 1, 1, 0, 1, .RC, .none, .const 0⟩

/-- PLY_WINLOCn 13:0, LBASE (Table 14.7, `14_ply_links_and_groups.md`). -/
def PLY_WINLOC_LBASE : Field := ⟨385, .ply, 0x100, 0x8, 16, 0, 0, 14, .RWD, .none, .const 0⟩

/-- PLY_WINLOCn 27:14, LLEN (Table 14.7, `14_ply_links_and_groups.md`). -/
def PLY_WINLOC_LLEN : Field := ⟨386, .ply, 0x100, 0x8, 16, 14, 0, 14, .RWD, .none, .const 0⟩

/-- PLY_WINLOCn 31:28, PART (Table 14.7, `14_ply_links_and_groups.md`). -/
def PLY_WINLOC_PART : Field := ⟨387, .ply, 0x100, 0x8, 16, 28, 0, 4, .RWD, .none, .const 0⟩

/-- PLY_WINPEERn 21:0, PBASE (Table 14.7, `14_ply_links_and_groups.md`). -/
def PLY_WINPEER_PBASE : Field := ⟨388, .ply, 0x104, 0x8, 16, 0, 0, 22, .RWD, .none, .const 0⟩

/-- PLY_WINPEERn 25:22, PPART (Table 14.7, `14_ply_links_and_groups.md`). -/
def PLY_WINPEER_PPART : Field := ⟨389, .ply, 0x104, 0x8, 16, 22, 0, 4, .RWD, .none, .const 0⟩

/-- PLY_WINPEERn 31, VALID (Table 14.7, `14_ply_links_and_groups.md`). -/
def PLY_WINPEER_VALID : Field := ⟨390, .ply, 0x104, 0x8, 16, 31, 0, 1, .RWD, .none, .const 0⟩

/-- PLY_GCTL 0, EN (Table 14.11, `14_ply_links_and_groups.md`). -/
def PLY_GCTL_EN : Field := ⟨391, .ply, 0x800, 0x0, 1, 0, 0, 1, .RW, .none, .const 0⟩

/-- PLY_GCTL 1, RSTEN (Table 14.11, `14_ply_links_and_groups.md`). -/
def PLY_GCTL_RSTEN : Field := ⟨392, .ply, 0x800, 0x0, 1, 1, 0, 1, .RW, .none, .const 0⟩

/-- PLY_GID 11:0, ID (Table 14.11, `14_ply_links_and_groups.md`). -/
def PLY_GID_ID : Field := ⟨393, .ply, 0x804, 0x0, 1, 0, 0, 12, .RWD, .none, .const 0⟩

/-- PLY_GID 13:12, ROLE (Table 14.11, `14_ply_links_and_groups.md`). -/
def PLY_GID_ROLE : Field := ⟨394, .ply, 0x804, 0x0, 1, 12, 0, 2, .RWD, .none, .const 0⟩

/-- PLY_GID 14, MCAP (Table 14.11, `14_ply_links_and_groups.md`). -/
def PLY_GID_MCAP : Field := ⟨395, .ply, 0x804, 0x0, 1, 14, 0, 1, .RO, .none, .const (Config.strapBand % 2)⟩

/-- PLY_GID 15, SIDE (Table 14.11, `14_ply_links_and_groups.md`). -/
def PLY_GID_SIDE : Field := ⟨396, .ply, 0x804, 0x0, 1, 15, 0, 1, .RO, .none, .const (Config.strapBand / 8 % 2)⟩

/-- PLY_CTREE 4:0, UP (Table 14.11, `14_ply_links_and_groups.md`). -/
def PLY_CTREE_UP : Field := ⟨397, .ply, 0x808, 0x0, 1, 0, 0, 5, .RWD, .none, .const 0x1F⟩

/-- PLY_CTREE 9:5, ALTUP (Table 14.11, `14_ply_links_and_groups.md`). -/
def PLY_CTREE_ALTUP : Field := ⟨398, .ply, 0x808, 0x0, 1, 5, 0, 5, .RWD, .none, .const 0x1F⟩

/-- PLY_CTREE 10, ALT (Table 14.11, `14_ply_links_and_groups.md`). -/
def PLY_CTREE_ALT : Field := ⟨399, .ply, 0x808, 0x0, 1, 10, 0, 1, .RO, .none, .const 0⟩

/-- PLY_CDOWN 23:0, DOWN (Table 14.11, `14_ply_links_and_groups.md`). -/
def PLY_CDOWN_DOWN : Field := ⟨400, .ply, 0x80c, 0x0, 1, 0, 0, 24, .RWD, .none, .const 0⟩

/-- PLY_CTDOWN 23:0, TDOWN (Table 14.11, `14_ply_links_and_groups.md`). -/
def PLY_CTDOWN_TDOWN : Field := ⟨401, .ply, 0x810, 0x0, 1, 0, 0, 24, .RWD, .none, .const 0⟩

/-- PLY_TWIN_CTL 4:0, LINKA (Table 14.11, `14_ply_links_and_groups.md`). -/
def PLY_TWIN_CTL_LINKA : Field := ⟨402, .ply, 0x814, 0x0, 1, 0, 0, 5, .RWD, .none, .const 0x16⟩

/-- PLY_TWIN_CTL 9:5, LINKB (Table 14.11, `14_ply_links_and_groups.md`). -/
def PLY_TWIN_CTL_LINKB : Field := ⟨403, .ply, 0x814, 0x0, 1, 5, 0, 5, .RWD, .none, .const 0x17⟩

/-- PLY_TWIN_CTL 17:10, TMO (Table 14.11, `14_ply_links_and_groups.md`). -/
def PLY_TWIN_CTL_TMO : Field := ⟨404, .ply, 0x814, 0x0, 1, 10, 0, 8, .RWD, .none, .const 0x0A⟩

/-- PLY_TWIN_CTL 30:28, CMD (Table 14.11, `14_ply_links_and_groups.md`). -/
def PLY_TWIN_CTL_CMD : Field := ⟨405, .ply, 0x814, 0x0, 1, 28, 0, 3, .WO, .none, .const 0⟩

/-- PLY_TWIN_STATUS 2:0, STATE (Table 14.11, `14_ply_links_and_groups.md`). -/
def PLY_TWIN_STATUS_STATE : Field := ⟨406, .ply, 0x818, 0x0, 1, 0, 0, 3, .RO, .none, .const 0⟩

/-- PLY_TWIN_STATUS 14:3, PARTNER (Table 14.11, `14_ply_links_and_groups.md`). -/
def PLY_TWIN_STATUS_PARTNER : Field := ⟨407, .ply, 0x818, 0x0, 1, 3, 0, 12, .RO, .none, .const 0⟩

/-- PLY_TWIN_STATUS 15, LINKLOST (Table 14.11, `14_ply_links_and_groups.md`). -/
def PLY_TWIN_STATUS_LINKLOST : Field := ⟨408, .ply, 0x818, 0x0, 1, 15, 0, 1, .RO, .none, .const 0⟩

/-- PLY_TWIN_STATUS 16, PINLOST (Table 14.11, `14_ply_links_and_groups.md`). -/
def PLY_TWIN_STATUS_PINLOST : Field := ⟨409, .ply, 0x818, 0x0, 1, 16, 0, 1, .RO, .none, .const 0⟩

/-- PLY_TWIN_STATUS 17, LOST (Table 14.11, `14_ply_links_and_groups.md`). -/
def PLY_TWIN_STATUS_LOST : Field := ⟨410, .ply, 0x818, 0x0, 1, 17, 0, 1, .RC, .none, .const 0⟩

/-- PLY_TWIN_STATUS 18, CONFLICT (Table 14.11, `14_ply_links_and_groups.md`). -/
def PLY_TWIN_STATUS_CONFLICT : Field := ⟨411, .ply, 0x818, 0x0, 1, 18, 0, 1, .RC, .none, .const 0⟩

/-- PLY_TWIN_STATUS 19, REFUSED (Table 14.11, `14_ply_links_and_groups.md`). -/
def PLY_TWIN_STATUS_REFUSED : Field := ⟨412, .ply, 0x818, 0x0, 1, 19, 0, 1, .RC, .none, .const 0⟩

/-- PLY_MIRROR 13:0, BASE (Table 14.11, `14_ply_links_and_groups.md`). -/
def PLY_MIRROR_BASE : Field := ⟨413, .ply, 0x820, 0x0, 1, 0, 0, 14, .RWD, .none, .const 0⟩

/-- PLY_MIRROR 27:14, LEN (Table 14.11, `14_ply_links_and_groups.md`). -/
def PLY_MIRROR_LEN : Field := ⟨414, .ply, 0x820, 0x0, 1, 14, 0, 14, .RWD, .none, .const 0⟩

/-- PLY_CKPT_LO 31:5, BASE (Table 14.11, `14_ply_links_and_groups.md`). -/
def PLY_CKPT_LO_BASE : Field := ⟨415, .ply, 0x824, 0x0, 1, 5, 0, 27, .RWD, .none, .const 0⟩

/-- PLY_CKPT_HI 15:0, BASE (Table 14.11, `14_ply_links_and_groups.md`). -/
def PLY_CKPT_HI_BASE : Field := ⟨416, .ply, 0x828, 0x0, 1, 0, 0, 16, .RWD, .none, .const 0⟩

/-- PLY_CKPT_CNT 12:0, COUNT (Table 14.11, `14_ply_links_and_groups.md`). -/
def PLY_CKPT_CNT_COUNT : Field := ⟨417, .ply, 0x82c, 0x0, 1, 0, 0, 13, .RWD, .none, .const 0⟩

/-- PLY_CKPT_CNT 21:16, RATE (Table 14.11, `14_ply_links_and_groups.md`). -/
def PLY_CKPT_CNT_RATE : Field := ⟨418, .ply, 0x82c, 0x0, 1, 16, 0, 6, .RW, .none, .const 0x0A⟩

/-- PLY_SPAN_SEL 5:0, ENTRY (Table 14.11, `14_ply_links_and_groups.md`). -/
def PLY_SPAN_SEL_ENTRY : Field := ⟨419, .ply, 0x840, 0x0, 1, 0, 0, 6, .RW, .none, .const 0⟩

/-- PLY_SPAN_CFG 11:0, ID (Table 14.11, `14_ply_links_and_groups.md`). -/
def PLY_SPAN_CFG_ID : Field := ⟨420, .ply, 0x844, 0x0, 1, 0, 0, 12, .RWD, .span, .const 0⟩

/-- PLY_SPAN_CFG 15:12, PART (Table 14.11, `14_ply_links_and_groups.md`). -/
def PLY_SPAN_CFG_PART : Field := ⟨421, .ply, 0x844, 0x0, 1, 12, 0, 4, .RWD, .span, .const 0⟩

/-- PLY_SPAN_CFG 16, MEMBER (Table 14.11, `14_ply_links_and_groups.md`). -/
def PLY_SPAN_CFG_MEMBER : Field := ⟨422, .ply, 0x844, 0x0, 1, 16, 0, 1, .RWD, .span, .const 0⟩

/-- PLY_SPAN_CFG 17, ROOT (Table 14.11, `14_ply_links_and_groups.md`). -/
def PLY_SPAN_CFG_ROOT : Field := ⟨423, .ply, 0x844, 0x0, 1, 17, 0, 1, .RWD, .span, .const 0⟩

/-- PLY_SPAN_CFG 31, VALID (Table 14.11, `14_ply_links_and_groups.md`). -/
def PLY_SPAN_CFG_VALID : Field := ⟨424, .ply, 0x844, 0x0, 1, 31, 0, 1, .RWD, .span, .const 0⟩

/-- PLY_SPAN_DOWN 23:0, DMASK (Table 14.11, `14_ply_links_and_groups.md`). -/
def PLY_SPAN_DOWN_DMASK : Field := ⟨425, .ply, 0x848, 0x0, 1, 0, 0, 24, .RWD, .span, .const 0⟩

/-- PLY_SPAN_STATE 15:0, COURSE (Table 14.11, `14_ply_links_and_groups.md`). -/
def PLY_SPAN_STATE_COURSE : Field := ⟨426, .ply, 0x84c, 0x0, 1, 0, 0, 16, .RO, .span, .const 0⟩

/-- PLY_SPAN_PEND 23:0, PEND (Table 14.11, `14_ply_links_and_groups.md`). -/
def PLY_SPAN_PEND_PEND : Field := ⟨427, .ply, 0x850, 0x0, 1, 0, 0, 24, .RO, .span, .const 0⟩

/-! ### PCI -/

/-- PCI_STATUS 0, WRIGN (Table 15.9, `15_host_interface.md`). -/
def PCI_STATUS_WRIGN : Field := ⟨428, .pci, 0x0, 0x0, 1, 0, 0, 1, .RC, .none, .const 0⟩

/-- PCI_WRIGN_OFS 13:0 (Table 15.9, `15_host_interface.md`). -/
def PCI_WRIGN_OFS : Field := ⟨429, .pci, 0x4, 0x0, 1, 0, 0, 14, .RO, .none, .const 0⟩

/-- PCI_STATUS 3:1, SPEED (Table 15.9, `15_host_interface.md`). -/
def PCI_STATUS_SPEED : Field := ⟨430, .pci, 0x0, 0x0, 1, 1, 0, 3, .RO, .none, .const 0⟩

/-- PCI_STATUS 8:4, WIDTH (Table 15.9, `15_host_interface.md`). -/
def PCI_STATUS_WIDTH : Field := ⟨431, .pci, 0x0, 0x0, 1, 4, 0, 5, .RO, .none, .const 0⟩

/-- PCI_STATUS 9, LINKUP (Table 15.9, `15_host_interface.md`). -/
def PCI_STATUS_LINKUP : Field := ⟨432, .pci, 0x0, 0x0, 1, 9, 0, 1, .RO, .none, .const 0⟩

/-- PCI_STATUS 10, FLR (Table 15.9, `15_host_interface.md`). -/
def PCI_STATUS_FLR : Field := ⟨433, .pci, 0x0, 0x0, 1, 10, 0, 1, .RC, .none, .const 0⟩

/-- PCI_FN_STATUS 0, MBUSY (Table 15.9, `15_host_interface.md`). -/
def PCI_FN_STATUS_MBUSY : Field := ⟨434, .pci, 0x100, 0x40, 17, 0, 0, 1, .RO, .none, .const 0⟩

/-- PCI_FN_STATUS 1, DBIGN (Table 15.9, `15_host_interface.md`). -/
def PCI_FN_STATUS_DBIGN : Field := ⟨435, .pci, 0x100, 0x40, 17, 1, 0, 1, .RC, .none, .const 0⟩

/-- PCI_FN_B2_LO 31:30, BASE (Table 15.9, `15_host_interface.md`). -/
def PCI_FN_B2_LO_BASE : Field := ⟨436, .pci, 0x104, 0x40, 17, 30, 0, 2, .RW, .none, .const 0⟩

/-- PCI_FN_B2_HI 15:0, BASE (Table 15.9, `15_host_interface.md`). -/
def PCI_FN_B2_HI_BASE : Field := ⟨437, .pci, 0x108, 0x40, 17, 0, 0, 16, .RW, .none, .const 0⟩

/-- PCI_FN_MBX_LO 31:12, BASE (Table 15.9, `15_host_interface.md`). -/
def PCI_FN_MBX_LO_BASE : Field := ⟨438, .pci, 0x10c, 0x40, 17, 12, 0, 20, .RW, .none, .const 0⟩

/-- PCI_FN_MBX_HI 14:0, BASE (Table 15.9, `15_host_interface.md`). -/
def PCI_FN_MBX_HI_BASE : Field := ⟨439, .pci, 0x110, 0x40, 17, 0, 0, 15, .RW, .none, .const 0⟩

/-- PCI_RO_BASE_LO 31:12, BASE (Table 15.9, `15_host_interface.md`). -/
def PCI_RO_BASE_LO_BASE : Field := ⟨440, .pci, 0x1000, 0x20, 16, 12, 0, 20, .RWD, .none, .const 0⟩

/-- PCI_RO_BASE_HI 14:0, BASE (Table 15.9, `15_host_interface.md`). -/
def PCI_RO_BASE_HI_BASE : Field := ⟨441, .pci, 0x1004, 0x20, 16, 0, 0, 15, .RWD, .none, .const 0⟩

/-- PCI_RO_CFG 4:0, LOG2 (Table 15.9, `15_host_interface.md`). -/
def PCI_RO_CFG_LOG2 : Field := ⟨442, .pci, 0x1008, 0x20, 16, 0, 0, 5, .RWD, .none, .const 0⟩

/-- PCI_RO_CFG 11:5, VECTOR (Table 15.9, `15_host_interface.md`). -/
def PCI_RO_CFG_VECTOR : Field := ⟨443, .pci, 0x1008, 0x20, 16, 5, 0, 7, .RW, .none, .const 0x03⟩

/-- PCI_RO_CFG 19:12, MODCNT (Table 15.9, `15_host_interface.md`). -/
def PCI_RO_CFG_MODCNT : Field := ⟨444, .pci, 0x1008, 0x20, 16, 12, 0, 8, .RW, .none, .const 0x01⟩

/-- PCI_RO_CFG 31:20, MODUS (Table 15.9, `15_host_interface.md`). -/
def PCI_RO_CFG_MODUS : Field := ⟨445, .pci, 0x1008, 0x20, 16, 20, 0, 12, .RW, .none, .const 0⟩

/-- PCI_RO_PROD 31:0, PROD (Table 15.9, `15_host_interface.md`). -/
def PCI_RO_PROD_PROD : Field := ⟨446, .pci, 0x100c, 0x20, 16, 0, 0, 32, .RO, .none, .const 0⟩

/-- PCI_RO_CONS 31:0, CONS (Table 15.9, `15_host_interface.md`). -/
def PCI_RO_CONS_CONS : Field := ⟨447, .pci, 0x1010, 0x20, 16, 0, 0, 32, .RO, .none, .const 0⟩

/-- PCI_DMA_CTL 0, EN (Table 15.10, `15_host_interface.md`). -/
def PCI_DMA_CTL_EN : Field := ⟨448, .pci, 0x800, 0x40, 32, 0, 0, 1, .RW, .none, .const 0⟩

/-- PCI_DMA_CTL 1, STOP (Table 15.10, `15_host_interface.md`). -/
def PCI_DMA_CTL_STOP : Field := ⟨449, .pci, 0x800, 0x40, 32, 1, 0, 1, .WO, .none, .const 0⟩

/-- PCI_DMA_CTL 12:8, OWNER (Table 15.10, `15_host_interface.md`). -/
def PCI_DMA_CTL_OWNER : Field := ⟨450, .pci, 0x800, 0x40, 32, 8, 0, 5, .RO, .none, .const 0x1F⟩

/-- PCI_DMA_CTL 26:16, VECTOR (Table 15.10, `15_host_interface.md`). -/
def PCI_DMA_CTL_VECTOR : Field := ⟨451, .pci, 0x800, 0x40, 32, 16, 0, 11, .RW, .none, .const 0x003⟩

/-- PCI_DMA_STATUS 1:0, STATE (Table 15.10, `15_host_interface.md`). -/
def PCI_DMA_STATUS_STATE : Field := ⟨452, .pci, 0x804, 0x40, 32, 0, 0, 2, .RO, .none, .const 0⟩

/-- PCI_DMA_STATUS 2, FIRING (Table 15.10, `15_host_interface.md`). -/
def PCI_DMA_STATUS_FIRING : Field := ⟨453, .pci, 0x804, 0x40, 32, 2, 0, 1, .RO, .none, .const 0⟩

/-- PCI_DMA_RBASE_LO 31:12, BASE (Table 15.10, `15_host_interface.md`). -/
def PCI_DMA_RBASE_LO_BASE : Field := ⟨454, .pci, 0x808, 0x40, 32, 12, 0, 20, .RWD, .none, .const 0⟩

/-- PCI_DMA_RBASE_HI 14:0, BASE (Table 15.10, `15_host_interface.md`). -/
def PCI_DMA_RBASE_HI_BASE : Field := ⟨455, .pci, 0x80c, 0x40, 32, 0, 0, 15, .RWD, .none, .const 0⟩

/-- PCI_DMA_RSIZE 4:0, RSIZE (Table 15.10, `15_host_interface.md`). -/
def PCI_DMA_RSIZE_RSIZE : Field := ⟨456, .pci, 0x810, 0x40, 32, 0, 0, 5, .RWD, .none, .const 0x04⟩

/-- PCI_DMA_CBASE_LO 31:12, BASE (Table 15.10, `15_host_interface.md`). -/
def PCI_DMA_CBASE_LO_BASE : Field := ⟨457, .pci, 0x814, 0x40, 32, 12, 0, 20, .RWD, .none, .const 0⟩

/-- PCI_DMA_CBASE_HI 14:0, BASE (Table 15.10, `15_host_interface.md`). -/
def PCI_DMA_CBASE_HI_BASE : Field := ⟨458, .pci, 0x818, 0x40, 32, 0, 0, 15, .RWD, .none, .const 0⟩

/-- PCI_DMA_IDX 15:0, TAIL (Table 15.10, `15_host_interface.md`). -/
def PCI_DMA_IDX_TAIL : Field := ⟨459, .pci, 0x81c, 0x40, 32, 0, 0, 16, .RO, .none, .const 0⟩

/-- PCI_DMA_IDX 31:16, CHEAD (Table 15.10, `15_host_interface.md`). -/
def PCI_DMA_IDX_CHEAD : Field := ⟨460, .pci, 0x81c, 0x40, 32, 16, 0, 16, .RO, .none, .const 0⟩

/-- PCI_DMA_BYTES_LO 31:0, BYTES (Table 15.10, `15_host_interface.md`). -/
def PCI_DMA_BYTES_LO_BYTES : Field := ⟨461, .pci, 0x820, 0x40, 32, 0, 0, 32, .RO, .none, .const 0⟩

/-- PCI_DMA_BYTES_HI 31:0, BYTES (Table 15.10, `15_host_interface.md`). -/
def PCI_DMA_BYTES_HI_BYTES : Field := ⟨462, .pci, 0x824, 0x40, 32, 0, 0, 32, .RO, .none, .const 0⟩

/-! ### PWR -/

/-- PWR_STATUS 0, WRIGN (Table 16.8, `16_power_and_thermal.md`). -/
def PWR_STATUS_WRIGN : Field := ⟨463, .pwr, 0x0, 0x0, 1, 0, 0, 1, .RC, .none, .const 0⟩

/-- PWR_WRIGN_OFS 13:0 (Table 16.8, `16_power_and_thermal.md`). -/
def PWR_WRIGN_OFS : Field := ⟨464, .pwr, 0x4, 0x0, 1, 0, 0, 14, .RO, .none, .const 0⟩

/-- PWR_STATUS 1, EMERG (Table 16.8, `16_power_and_thermal.md`). -/
def PWR_STATUS_EMERG : Field := ⟨465, .pwr, 0x0, 0x0, 1, 1, 0, 1, .RO, .none, .const 0⟩

/-- PWR_STATUS 2, CAPLOW (Table 16.8, `16_power_and_thermal.md`). -/
def PWR_STATUS_CAPLOW : Field := ⟨466, .pwr, 0x0, 0x0, 1, 2, 0, 1, .RO, .none, .const 0⟩

/-- PWR_STATUS 3, SOVER (Table 16.8, `16_power_and_thermal.md`). -/
def PWR_STATUS_SOVER : Field := ⟨467, .pwr, 0x0, 0x0, 1, 3, 0, 1, .RC, .none, .const 0⟩

/-- PWR_INPUT 15:0, VIN (Table 16.8, `16_power_and_thermal.md`). -/
def PWR_INPUT_VIN : Field := ⟨468, .pwr, 0x8, 0x0, 1, 0, 0, 16, .RO, .none, .const 0⟩

/-- PWR_INPUT 31:16, IIN (Table 16.8, `16_power_and_thermal.md`). -/
def PWR_INPUT_IIN : Field := ⟨469, .pwr, 0x8, 0x0, 1, 16, 0, 16, .RO, .none, .const 0⟩

/-- PWR_POWER 15:0, PIN (Table 16.8, `16_power_and_thermal.md`). -/
def PWR_POWER_PIN : Field := ⟨470, .pwr, 0xc, 0x0, 1, 0, 0, 16, .RO, .none, .const 0⟩

/-- PWR_POWER 31:16, PAVG (Table 16.8, `16_power_and_thermal.md`). -/
def PWR_POWER_PAVG : Field := ⟨471, .pwr, 0xc, 0x0, 1, 16, 0, 16, .RO, .none, .const 0⟩

/-- PWR_HOSTCAP 15:0, CAP (Table 16.8, `16_power_and_thermal.md`). -/
def PWR_HOSTCAP_CAP : Field := ⟨472, .pwr, 0x10, 0x0, 1, 0, 0, 16, .RW, .none, .const 0⟩

/-- PWR_DROOP 15:0, VTH (Table 16.8, `16_power_and_thermal.md`). -/
def PWR_DROOP_VTH : Field := ⟨473, .pwr, 0x14, 0x0, 1, 0, 0, 16, .RW, .none, .const 0x0FA0⟩

/-- PWR_GRACE 15:0, US (Table 16.8, `16_power_and_thermal.md`). -/
def PWR_GRACE_US : Field := ⟨474, .pwr, 0x18, 0x0, 1, 0, 0, 16, .RW, .none, .const 0x00C8⟩

/-- PWR_ALIGN 15:0, HOLD (Table 16.8, `16_power_and_thermal.md`). -/
def PWR_ALIGN_HOLD : Field := ⟨475, .pwr, 0x1c, 0x0, 1, 0, 0, 16, .RW, .none, .const 0x0064⟩

/-- PWR_RECOV 15:0, MS (Table 16.8, `16_power_and_thermal.md`). -/
def PWR_RECOV_MS : Field := ⟨476, .pwr, 0x20, 0x0, 1, 0, 0, 16, .RW, .none, .const 0x0001⟩

/-- PWR_THR 7:0, ACTIVE (Table 16.8, `16_power_and_thermal.md`). -/
def PWR_THR_ACTIVE : Field := ⟨477, .pwr, 0x30, 0x0, 1, 0, 0, 8, .RO, .none, .const 0⟩

/-- PWR_THRUSr_LO 31:0, US (Table 16.8, `16_power_and_thermal.md`). -/
def PWR_THRUS_LO_US : Field := ⟨478, .pwr, 0x40, 0x8, 8, 0, 0, 32, .RO, .none, .const 0⟩

/-- PWR_THRUSr_HI 31:0, US (Table 16.8, `16_power_and_thermal.md`). -/
def PWR_THRUS_HI_US : Field := ⟨479, .pwr, 0x44, 0x8, 8, 0, 0, 32, .RO, .none, .const 0⟩

/-- PWR_TSEL 3:0, PART (Table 16.8, `16_power_and_thermal.md`). -/
def PWR_TSEL_PART : Field := ⟨480, .pwr, 0x100, 0x0, 1, 0, 0, 4, .RW, .none, .const 0⟩

/-- PWR_TSEL 15:8, INDEX (Table 16.8, `16_power_and_thermal.md`). -/
def PWR_TSEL_INDEX : Field := ⟨481, .pwr, 0x100, 0x0, 1, 8, 0, 8, .RW, .none, .const 0⟩

/-- PWR_TDATA0 15:0, TC0 (Table 16.8, `16_power_and_thermal.md`). -/
def PWR_TDATA0_TC0 : Field := ⟨482, .pwr, 0x104, 0x0, 1, 0, 0, 16, .RW, .tsel, .const 0⟩

/-- PWR_TDATA0 31:16, TC1 (Table 16.8, `16_power_and_thermal.md`). -/
def PWR_TDATA0_TC1 : Field := ⟨483, .pwr, 0x104, 0x0, 1, 16, 0, 16, .RW, .tsel, .const 0⟩

/-- PWR_TDATA1 15:0, TC2 (Table 16.8, `16_power_and_thermal.md`). -/
def PWR_TDATA1_TC2 : Field := ⟨484, .pwr, 0x108, 0x0, 1, 0, 0, 16, .RW, .tsel, .const 0⟩

/-- PWR_TDATA1 31:16, TC3 (Table 16.8, `16_power_and_thermal.md`). -/
def PWR_TDATA1_TC3 : Field := ⟨485, .pwr, 0x108, 0x0, 1, 16, 0, 16, .RW, .tsel, .const 0⟩

/-- PWR_TDATA2 15:0, SH (Table 16.8, `16_power_and_thermal.md`). -/
def PWR_TDATA2_SH : Field := ⟨486, .pwr, 0x10c, 0x0, 1, 0, 0, 16, .RW, .tsel, .const 0⟩

/-- PWR_BUDGET 14:0, BUDGET (Table 16.8, `16_power_and_thermal.md`). -/
def PWR_BUDGET_BUDGET : Field := ⟨487, .pwr, 0x200, 0x20, 16, 0, 0, 15, .RO, .none, .const 0⟩

/-- PWR_TPOL 0, STALL (Table 16.8, `16_power_and_thermal.md`). -/
def PWR_TPOL_STALL : Field := ⟨488, .pwr, 0x204, 0x20, 16, 0, 0, 1, .RWS, .none, .const 1⟩

/-- PWR_TPOL 1, OTRAP (Table 16.8, `16_power_and_thermal.md`). -/
def PWR_TPOL_OTRAP : Field := ⟨489, .pwr, 0x204, 0x20, 16, 1, 0, 1, .RWS, .none, .const 0⟩

/-- PWR_TPERIOD 8:0, PERIOD (Table 16.8, `16_power_and_thermal.md`). -/
def PWR_TPERIOD_PERIOD : Field := ⟨490, .pwr, 0x208, 0x20, 16, 0, 0, 9, .RWS, .none, .const 0x001⟩

/-- PWR_TEPOCH_LO 31:0, EPOCH (Table 16.8, `16_power_and_thermal.md`). -/
def PWR_TEPOCH_LO_EPOCH : Field := ⟨491, .pwr, 0x20c, 0x20, 16, 0, 0, 32, .RWS, .none, .const 0⟩

/-- PWR_TEPOCH_HI 31:0, EPOCH (Table 16.8, `16_power_and_thermal.md`). -/
def PWR_TEPOCH_HI_EPOCH : Field := ⟨492, .pwr, 0x210, 0x20, 16, 0, 0, 32, .RWS, .none, .const 0⟩

/-- PWR_TLAST 15:0, CHARGED (Table 16.8, `16_power_and_thermal.md`). -/
def PWR_TLAST_CHARGED : Field := ⟨493, .pwr, 0x214, 0x20, 16, 0, 0, 16, .RO, .none, .const 0⟩

/-- PWR_TLAST 31:16, DRAWN (Table 16.8, `16_power_and_thermal.md`). -/
def PWR_TLAST_DRAWN : Field := ⟨494, .pwr, 0x214, 0x20, 16, 16, 0, 16, .RO, .none, .const 0⟩

/-- PWR_OVERDRAW 31:0, COUNT (Table 16.8, `16_power_and_thermal.md`). -/
def PWR_OVERDRAW_COUNT : Field := ⟨495, .pwr, 0x218, 0x20, 16, 0, 0, 32, .RO, .none, .const 0⟩

/-! ### PWRD -/

/-- PWR_DOP 3:0, OP (Table 16.9, `16_power_and_thermal.md`). -/
def PWR_DOP_OP : Field := ⟨496, .pwrd, 0x0, 0x0, 1, 0, 0, 4, .RO, .none, .const 0⟩

/-- PWR_DOP 4, STRETCH (Table 16.9, `16_power_and_thermal.md`). -/
def PWR_DOP_STRETCH : Field := ⟨497, .pwrd, 0x0, 0x0, 1, 4, 0, 1, .RO, .none, .const 0⟩

/-- PWR_DOP 11:8, TARGET (Table 16.9, `16_power_and_thermal.md`). -/
def PWR_DOP_TARGET : Field := ⟨498, .pwrd, 0x0, 0x0, 1, 8, 0, 4, .RO, .none, .const 0⟩

/-- PWR_DOP 12, PEND (Table 16.9, `16_power_and_thermal.md`). -/
def PWR_DOP_PEND : Field := ⟨499, .pwrd, 0x0, 0x0, 1, 12, 0, 1, .RO, .none, .const 0⟩

/-! ### THMD -/

/-- THM_DIE 7:0, TEMP (Table 16.9, `16_power_and_thermal.md`). -/
def THM_DIE_TEMP : Field := ⟨500, .thmd, 0x0, 0x0, 1, 0, 0, 8, .RO, .none, .const 0⟩

/-- THM_DIE 15:8, PEAK (Table 16.9, `16_power_and_thermal.md`). -/
def THM_DIE_PEAK : Field := ⟨501, .thmd, 0x0, 0x0, 1, 8, 0, 8, .RC, .none, .const 0⟩

/-- THM_DIE 20:16, HOTSEN (Table 16.9, `16_power_and_thermal.md`). -/
def THM_DIE_HOTSEN : Field := ⟨502, .thmd, 0x0, 0x0, 1, 16, 0, 5, .RO, .none, .const 0⟩

/-- THM_LIM 7:0, THOT (Table 16.9, `16_power_and_thermal.md`). -/
def THM_LIM_THOT : Field := ⟨503, .thmd, 0x4, 0x0, 1, 0, 0, 8, .RW, .none, .const 0x5F⟩

/-- THM_LIM 15:8, TCRIT (Table 16.9, `16_power_and_thermal.md`). -/
def THM_LIM_TCRIT : Field := ⟨504, .thmd, 0x4, 0x0, 1, 8, 0, 8, .RW, .none, .const 0x69⟩

/-- THM_LIM 23:16, TTRIP (Table 16.9, `16_power_and_thermal.md`). -/
def THM_LIM_TTRIP : Field := ⟨505, .thmd, 0x4, 0x0, 1, 16, 0, 8, .RO, .none, .const 0x73⟩

/-- THM_STATUS 0, WRIGN (Table 16.9, `16_power_and_thermal.md`). -/
def THM_STATUS_WRIGN : Field := ⟨506, .thmd, 0x8, 0x0, 1, 0, 0, 1, .RC, .none, .const 0⟩

/-- THM_WRIGN_OFS 13:0 (Table 16.9, `16_power_and_thermal.md`). -/
def THM_WRIGN_OFS : Field := ⟨507, .thmd, 0xc, 0x0, 1, 0, 0, 14, .RO, .none, .const 0⟩

/-! ### THM -/

/-- THM_H 7:0, TEMP (Table 16.9, `16_power_and_thermal.md`). -/
def THM_H_TEMP : Field := ⟨508, .thm, 0x0, 0x0, 1, 0, 0, 8, .RO, .none, .const 0⟩

/-- THM_H 15:8, PEAK (Table 16.9, `16_power_and_thermal.md`). -/
def THM_H_PEAK : Field := ⟨509, .thm, 0x0, 0x0, 1, 8, 0, 8, .RC, .none, .const 0⟩

/-! ### FUSE -/

/-- FUSE_DEVID 3:0, STEPPING (Table 17.14, `17_reset_boot_and_security.md`). -/
def FUSE_DEVID_STEPPING : Field := ⟨510, .fuse, 0x0, 0x0, 1, 0, 0, 4, .RO, .none, .const Config.fuseStepping⟩

/-- FUSE_DEVID 19:4, DEVICE (Table 17.14, `17_reset_boot_and_security.md`). -/
def FUSE_DEVID_DEVICE : Field := ⟨511, .fuse, 0x0, 0x0, 1, 4, 0, 16, .RO, .none, .const 0x2304⟩

/-- FUSE_SERIAL_LO 31:0, SERIAL (Table 17.14, `17_reset_boot_and_security.md`). -/
def FUSE_SERIAL_LO_SERIAL : Field := ⟨512, .fuse, 0x4, 0x0, 1, 0, 0, 32, .RO, .none, .const (Config.fuseSerial % 2 ^ 32)⟩

/-- FUSE_SERIAL_HI 31:0, SERIAL (Table 17.14, `17_reset_boot_and_security.md`). -/
def FUSE_SERIAL_HI_SERIAL : Field := ⟨513, .fuse, 0x8, 0x0, 1, 0, 0, 32, .RO, .none, .const (Config.fuseSerial / 2 ^ 32)⟩

/-- FUSE_RSTMAP 26:0, MAP (Table 17.14, `17_reset_boot_and_security.md`). -/
def FUSE_RSTMAP_MAP : Field := ⟨514, .fuse, 0xc, 0x0, 1, 0, 0, 27, .RO, .none, .const Config.fuseRstmap⟩

/-- FUSE_BOOT 2:0, FROGN (Table 17.14, `17_reset_boot_and_security.md`). -/
def FUSE_BOOT_FROGN : Field := ⟨515, .fuse, 0x10, 0x0, 1, 0, 0, 3, .RO, .none, .const 3⟩

/-- FUSE_SEC 3:0, KREV (Table 17.14, `17_reset_boot_and_security.md`). -/
def FUSE_SEC_KREV : Field := ⟨516, .fuse, 0x14, 0x0, 1, 0, 0, 4, .RO, .none, .const Config.fuseKrev⟩

/-- FUSE_SEC 9:4, SVN (Table 17.14, `17_reset_boot_and_security.md`). -/
def FUSE_SEC_SVN : Field := ⟨517, .fuse, 0x14, 0x0, 1, 4, 0, 6, .RO, .none, .const Config.fuseSvn⟩

/-- FUSE_SEC 11:10, DBGMAX (Table 17.14, `17_reset_boot_and_security.md`). -/
def FUSE_SEC_DBGMAX : Field := ⟨518, .fuse, 0x14, 0x0, 1, 10, 0, 2, .RO, .none, .const Config.fuseDbgmax⟩

/-- FUSE_SEC 15:12, KGEN (Table 17.14, `17_reset_boot_and_security.md`). -/
def FUSE_SEC_KGEN : Field := ⟨519, .fuse, 0x14, 0x0, 1, 12, 0, 4, .RO, .none, .const Config.fuseKgen⟩

/-- FUSE_KEYHASHk_w 31:0, HASH (Table 17.14, `17_reset_boot_and_security.md`). -/
def FUSE_KEYHASH_HASH : Field := ⟨520, .fuse, 0x40, 0x4, 32, 0, 0, 32, .RO, .none, .const Config.fuseKeyhash⟩

/-! ### RST -/

/-- RST_STATUS 8:0, SRC (Table 17.15, `17_reset_boot_and_security.md`). -/
def RST_STATUS_SRC : Field := ⟨521, .rst, 0x0, 0x0, 1, 0, 0, 9, .RO, .none, .const 0⟩

/-- RST_STATUS 31, WRIGN (Table 17.15, `17_reset_boot_and_security.md`). -/
def RST_STATUS_WRIGN : Field := ⟨522, .rst, 0x0, 0x0, 1, 31, 0, 1, .RC, .none, .const 0⟩

/-- RST_WRIGN_OFS 13:0 (Table 17.15, `17_reset_boot_and_security.md`). -/
def RST_WRIGN_OFS : Field := ⟨523, .rst, 0x14, 0x0, 1, 0, 0, 14, .RO, .none, .const 0⟩

/-- RST_LAST 8:0, SRC (Table 17.15, `17_reset_boot_and_security.md`). -/
def RST_LAST_SRC : Field := ⟨524, .rst, 0x4, 0x0, 1, 0, 0, 9, .RO, .none, .const 1⟩

/-- RST_LAST 11:9, REACH (Table 17.15, `17_reset_boot_and_security.md`). -/
def RST_LAST_REACH : Field := ⟨525, .rst, 0x4, 0x0, 1, 9, 0, 3, .RO, .none, .const 5⟩

/-- RST_SWREQ 2:0, REACH (Table 17.15, `17_reset_boot_and_security.md`). -/
def RST_SWREQ_REACH : Field := ⟨526, .rst, 0x8, 0x0, 1, 0, 0, 3, .WO, .none, .const 0⟩

/-- RST_SWREQ 14:3, TARGET (Table 17.15, `17_reset_boot_and_security.md`). -/
def RST_SWREQ_TARGET : Field := ⟨527, .rst, 0x8, 0x0, 1, 3, 0, 12, .WO, .none, .const 0⟩

/-- RST_SWREQ 31, GO (Table 17.15, `17_reset_boot_and_security.md`). -/
def RST_SWREQ_GO : Field := ⟨528, .rst, 0x8, 0x0, 1, 31, 0, 1, .WO, .none, .const 0⟩

/-- RST_PHOLD 15:0, HOLD (Table 17.15, `17_reset_boot_and_security.md`). -/
def RST_PHOLD_HOLD : Field := ⟨529, .rst, 0xc, 0x0, 1, 0, 0, 16, .RW, .none, .const 0⟩

/-- RST_WDOG 7:0, TMO (Table 17.15, `17_reset_boot_and_security.md`). -/
def RST_WDOG_TMO : Field := ⟨530, .rst, 0x10, 0x0, 1, 0, 0, 8, .RW, .none, .const 0x14⟩

/-- RST_WDOG 31, KICK (Table 17.15, `17_reset_boot_and_security.md`). -/
def RST_WDOG_KICK : Field := ⟨531, .rst, 0x10, 0x0, 1, 31, 0, 1, .WO, .none, .const 0⟩

/-! ### BOOT -/

/-- BOOT_STATUS 1:0, STATE (Table 17.16, `17_reset_boot_and_security.md`). -/
def BOOT_STATUS_STATE : Field := ⟨532, .boot, 0x0, 0x0, 1, 0, 0, 2, .RO, .none, .const 0⟩

/-- BOOT_STATUS 3:2, IMAGE (Table 17.16, `17_reset_boot_and_security.md`). -/
def BOOT_STATUS_IMAGE : Field := ⟨533, .boot, 0x0, 0x0, 1, 2, 0, 2, .RO, .none, .const 0x3⟩

/-- BOOT_STATUS 6:4, FAILS (Table 17.16, `17_reset_boot_and_security.md`). -/
def BOOT_STATUS_FAILS : Field := ⟨534, .boot, 0x0, 0x0, 1, 4, 0, 3, .RO, .none, .const 0⟩

/-- BOOT_STATUS 11:8, BAND (Table 17.16, `17_reset_boot_and_security.md`). -/
def BOOT_STATUS_BAND : Field := ⟨535, .boot, 0x0, 0x0, 1, 8, 0, 4, .RO, .none, .const Config.strapBand⟩

/-- BOOT_STATUS 17:12, CODE (Table 17.16, `17_reset_boot_and_security.md`). -/
def BOOT_STATUS_CODE : Field := ⟨536, .boot, 0x0, 0x0, 1, 12, 0, 6, .RO, .none, .const Config.strapCode⟩

/-- BOOT_DIGESTw 31:0, DIGEST (Table 17.16, `17_reset_boot_and_security.md`). -/
def BOOT_DIGEST_DIGEST : Field := ⟨537, .boot, 0x20, 0x4, 8, 0, 0, 32, .RO, .none, .const 0⟩

/-! ### SEC -/

/-- SEC_STATUS 1:0, DBG (Table 17.16, `17_reset_boot_and_security.md`). -/
def SEC_STATUS_DBG : Field := ⟨538, .sec, 0x0, 0x0, 1, 0, 0, 2, .RO, .none, .const 0⟩

/-- SEC_STATUS 2, RETIRED (Table 17.16, `17_reset_boot_and_security.md`). -/
def SEC_STATUS_RETIRED : Field := ⟨539, .sec, 0x0, 0x0, 1, 2, 0, 1, .RO, .none, .const 0⟩

/-- SEC_LEAVES 20:0, LEFT (Table 17.16, `17_reset_boot_and_security.md`). -/
def SEC_LEAVES_LEFT : Field := ⟨540, .sec, 0x4, 0x0, 1, 0, 0, 21, .RO, .none, .const 0⟩

/-! ### CNS -/

/-- CNS_CTRL 1:0, MODE (Table 18.4, `18_registers_counters_and_errors.md`). -/
def CNS_CTRL_MODE : Field := ⟨541, .cns, 0x0, 0x0, 1, 0, 0, 2, .RW, .none, .const 0⟩

/-- CNS_CTRL 5:2, PART (Table 18.4, `18_registers_counters_and_errors.md`). -/
def CNS_CTRL_PART : Field := ⟨542, .cns, 0x0, 0x0, 1, 2, 0, 4, .RW, .none, .const 0⟩

/-- CNS_CTRL 6, ZERO (Table 18.4, `18_registers_counters_and_errors.md`). -/
def CNS_CTRL_ZERO : Field := ⟨543, .cns, 0x0, 0x0, 1, 6, 0, 1, .RW, .none, .const 0⟩

/-- CNS_CTRL 30, CANCEL (Table 18.4, `18_registers_counters_and_errors.md`). -/
def CNS_CTRL_CANCEL : Field := ⟨544, .cns, 0x0, 0x0, 1, 30, 0, 1, .WO, .none, .const 0⟩

/-- CNS_CTRL 31, GO (Table 18.4, `18_registers_counters_and_errors.md`). -/
def CNS_CTRL_GO : Field := ⟨545, .cns, 0x0, 0x0, 1, 31, 0, 1, .WO, .none, .const 0⟩

/-- CNS_STATUS 0, WRIGN (Table 18.4, `18_registers_counters_and_errors.md`). -/
def CNS_STATUS_WRIGN : Field := ⟨546, .cns, 0x4, 0x0, 1, 0, 0, 1, .RC, .none, .const 0⟩

/-- CNS_WRIGN_OFS 13:0 (Table 18.4, `18_registers_counters_and_errors.md`). -/
def CNS_WRIGN_OFS : Field := ⟨547, .cns, 0x8, 0x0, 1, 0, 0, 14, .RO, .none, .const 0⟩

/-- CNS_STATUS 1, ARMED (Table 18.4, `18_registers_counters_and_errors.md`). -/
def CNS_STATUS_ARMED : Field := ⟨548, .cns, 0x4, 0x0, 1, 1, 0, 1, .RO, .none, .const 0⟩

/-- CNS_STATUS 2, CAPTURING (Table 18.4, `18_registers_counters_and_errors.md`). -/
def CNS_STATUS_CAPTURING : Field := ⟨549, .cns, 0x4, 0x0, 1, 2, 0, 1, .RO, .none, .const 0⟩

/-- CNS_STATUS 3, DONE (Table 18.4, `18_registers_counters_and_errors.md`). -/
def CNS_STATUS_DONE : Field := ⟨550, .cns, 0x4, 0x0, 1, 3, 0, 1, .RC, .none, .const 0⟩

/-- CNS_SEQ 31:0, SEQ (Table 18.4, `18_registers_counters_and_errors.md`). -/
def CNS_SEQ_SEQ : Field := ⟨551, .cns, 0xc, 0x0, 1, 0, 0, 32, .RO, .none, .const 0⟩

/-- CNS_COURSEb_LO 31:0, COURSE (Table 18.4, `18_registers_counters_and_errors.md`). -/
def CNS_COURSE_LO_COURSE : Field := ⟨552, .cns, 0x10, 0x8, 2, 0, 0, 32, .RO, .none, .const 0⟩

/-- CNS_COURSEb_HI 31:0, COURSE (Table 18.4, `18_registers_counters_and_errors.md`). -/
def CNS_COURSE_HI_COURSE : Field := ⟨553, .cns, 0x14, 0x8, 2, 0, 0, 32, .RO, .none, .const 0⟩

/-- CNS_SADDR 29:2, OFS (Table 18.4, `18_registers_counters_and_errors.md`). -/
def CNS_SADDR_OFS : Field := ⟨554, .cns, 0x20, 0x0, 1, 2, 0, 28, .RW, .none, .const 0⟩

/-- CNS_SADDR 30, AINC (Table 18.4, `18_registers_counters_and_errors.md`). -/
def CNS_SADDR_AINC : Field := ⟨555, .cns, 0x20, 0x0, 1, 30, 0, 1, .RW, .none, .const 0⟩

/-- CNS_SADDR 31, BANK (Table 18.4, `18_registers_counters_and_errors.md`). -/
def CNS_SADDR_BANK : Field := ⟨556, .cns, 0x20, 0x0, 1, 31, 0, 1, .RW, .none, .const 0⟩

/-- CNS_SDATA 31:0, DATA (Table 18.4, `18_registers_counters_and_errors.md`). -/
def CNS_SDATA_DATA : Field := ⟨557, .cns, 0x24, 0x0, 1, 0, 0, 32, .RO, .none, .const 0⟩

/-- CNS_SMETA 1:0, CLASS (Table 18.4, `18_registers_counters_and_errors.md`). -/
def CNS_SMETA_CLASS : Field := ⟨558, .cns, 0x28, 0x0, 1, 0, 0, 2, .RO, .none, .const 0⟩

/-- CNS_SMETA 2, STICKY (Table 18.4, `18_registers_counters_and_errors.md`). -/
def CNS_SMETA_STICKY : Field := ⟨559, .cns, 0x28, 0x0, 1, 2, 0, 1, .RO, .none, .const 0⟩

/-! ### ERR -/

/-- ERR_STATUS 0, WRIGN (Table 18.8, `18_registers_counters_and_errors.md`). -/
def ERR_STATUS_WRIGN : Field := ⟨560, .err, 0x0, 0x0, 1, 0, 0, 1, .RC, .none, .const 0⟩

/-- ERR_WRIGN_OFS 13:0 (Table 18.8, `18_registers_counters_and_errors.md`). -/
def ERR_WRIGN_OFS : Field := ⟨561, .err, 0x4, 0x0, 1, 0, 0, 14, .RO, .none, .const 0⟩

/-- ERR_STATUS 1, QOVF (Table 18.8, `18_registers_counters_and_errors.md`). -/
def ERR_STATUS_QOVF : Field := ⟨562, .err, 0x0, 0x0, 1, 1, 0, 1, .RC, .none, .const 0⟩

/-- ERR_STATUS 2, RDROP (Table 18.8, `18_registers_counters_and_errors.md`). -/
def ERR_STATUS_RDROP : Field := ⟨563, .err, 0x0, 0x0, 1, 2, 0, 1, .RC, .none, .const 0⟩

/-- ERR_STATUS 3, SLOST (Table 18.8, `18_registers_counters_and_errors.md`). -/
def ERR_STATUS_SLOST : Field := ⟨564, .err, 0x0, 0x0, 1, 3, 0, 1, .RC, .none, .const 0⟩

/-- ERR_CTRL 0, ALERTEN (Table 18.8, `18_registers_counters_and_errors.md`). -/
def ERR_CTRL_ALERTEN : Field := ⟨565, .err, 0x8, 0x0, 1, 0, 0, 1, .RW, .none, .const 1⟩

/-- ERR_CTRL 1, HUBIRQ (Table 18.8, `18_registers_counters_and_errors.md`). -/
def ERR_CTRL_HUBIRQ : Field := ⟨566, .err, 0x8, 0x0, 1, 1, 0, 1, .RW, .none, .const 1⟩

/-- ERR_QCOUNT 8:0, COUNT (Table 18.8, `18_registers_counters_and_errors.md`). -/
def ERR_QCOUNT_COUNT : Field := ⟨567, .err, 0xc, 0x0, 1, 0, 0, 9, .RO, .none, .const 0⟩

/-- ERR_QRECw 31:0, WORD (Table 18.8, `18_registers_counters_and_errors.md`). -/
def ERR_QREC_WORD : Field := ⟨568, .err, 0x10, 0x4, 4, 0, 0, 32, .RO, .none, .const 0⟩

/-- ERR_QPOP 0, POP (Table 18.8, `18_registers_counters_and_errors.md`). -/
def ERR_QPOP_POP : Field := ⟨569, .err, 0x20, 0x0, 1, 0, 0, 1, .WO, .none, .const 0⟩

/-- ERR_LOST 31:0, LOST (Table 18.8, `18_registers_counters_and_errors.md`). -/
def ERR_LOST_LOST : Field := ⟨570, .err, 0x24, 0x0, 1, 0, 0, 32, .RO, .none, .const 0⟩

/-- ERR_FILED_LO 31:0, FILED (Table 18.8, `18_registers_counters_and_errors.md`). -/
def ERR_FILED_LO_FILED : Field := ⟨571, .err, 0x28, 0x0, 1, 0, 0, 32, .RO, .none, .const 0⟩

/-- ERR_FILED_HI 31:0, FILED (Table 18.8, `18_registers_counters_and_errors.md`). -/
def ERR_FILED_HI_FILED : Field := ⟨572, .err, 0x2c, 0x0, 1, 0, 0, 32, .RO, .none, .const 0⟩

/-- ERR_PHALT 15:0, HALT (Table 18.8, `18_registers_counters_and_errors.md`). -/
def ERR_PHALT_HALT : Field := ⟨573, .err, 0x30, 0x0, 1, 0, 0, 16, .RC, .none, .const 0⟩

/-- ERR_SMB 15:0, COUNT (Table 18.8, `18_registers_counters_and_errors.md`). -/
def ERR_SMB_COUNT : Field := ⟨574, .err, 0x34, 0x0, 1, 0, 0, 16, .RO, .none, .const 0⟩

/-- ERR_SMB 31:16, CODE (Table 18.8, `18_registers_counters_and_errors.md`). -/
def ERR_SMB_CODE : Field := ⟨575, .err, 0x34, 0x0, 1, 16, 0, 16, .RO, .none, .const 0⟩

/-- ERR_RBASEf_LO 31:12, BASE (Table 18.8, `18_registers_counters_and_errors.md`). -/
def ERR_RBASE_LO_BASE : Field := ⟨576, .err, 0x100, 0x20, 17, 12, 0, 20, .RWD, .none, .const 0⟩

/-- ERR_RBASEf_HI 14:0, BASE (Table 18.8, `18_registers_counters_and_errors.md`). -/
def ERR_RBASE_HI_BASE : Field := ⟨577, .err, 0x104, 0x20, 17, 0, 0, 15, .RWD, .none, .const 0⟩

/-- ERR_RCFGf 4:0, LOG2 (Table 18.8, `18_registers_counters_and_errors.md`). -/
def ERR_RCFG_LOG2 : Field := ⟨578, .err, 0x108, 0x20, 17, 0, 0, 5, .RWD, .none, .const 0x04⟩

/-- ERR_RCFGf 12:5, MODCNT (Table 18.8, `18_registers_counters_and_errors.md`). -/
def ERR_RCFG_MODCNT : Field := ⟨579, .err, 0x108, 0x20, 17, 5, 0, 8, .RW, .none, .const 0x01⟩

/-- ERR_RCFGf 31, EN (Table 18.8, `18_registers_counters_and_errors.md`). -/
def ERR_RCFG_EN : Field := ⟨580, .err, 0x108, 0x20, 17, 31, 0, 1, .RW, .none, .const 0⟩

/-- ERR_RPRODf 31:0, PROD (Table 18.8, `18_registers_counters_and_errors.md`). -/
def ERR_RPROD_PROD : Field := ⟨581, .err, 0x10c, 0x20, 17, 0, 0, 32, .RO, .none, .const 0⟩

/-- Fields of the TILE frame. -/
def fieldsTile : List Field :=
  [TILE_ID_LTILE, TILE_ID_GCLUSTER, TILE_ID_DIE, TILE_ID_TIC, TILE_ID_PART, TILE_ID_PVALID,
   TILE_IFILL_SRCPAGE, TILE_IFILL_DPAGE, TILE_IFILL_BUSY, TILE_IFILL_GO, TILE_STATUS_INTERLOCK,
   TILE_STATUS_WRIGN, TILE_WRIGN_OFS, TILE_STATUS_TRAP, TILE_STATUS_IBUSY, TILE_LTAG_LTAG, TILE_CAST_PTR,
   TILE_CAST_EN, TILE_CSTAT_STATE, TILE_CSTAT_CWAIT, TILE_CSTAT_CPC]

/-- Fields of the NDL frame. -/
def fieldsNdl : List Field :=
  [NDL_BIAS_WF0, NDL_BIAS_WB0, NDL_BIAS_WU0, NDL_BIAS_WF1, NDL_BIAS_WB1, NDL_BIAS_WU1, NDL_STATE,
   NDL_ENTRY_PC, NDL_ENTRY_VALID, NDL_FLAGS]

/-- Fields of the TST frame. -/
def fieldsTst : List Field :=
  [TST_CTRL_GATHER, TST_STATUS_WRIGN, TST_WRIGN_OFS, TST_SATSTICKY_COUNT, TST_SATSTICKY_LATE,
   TST_STATUS_WWCOL, TST_STATUS_GBUSY, TST_STATUS_LWCMDIGN, TST_LW_BASE_BASE, TST_LW_LEN_LEN,
   TST_LW_CTRL_STITCH, TST_LW_CTRL_UNIT, TST_LW_CTRL_AUTOCLOSE, TST_LW_CTRL_SIGNAL, TST_LW_CTRL_STATE,
   TST_LW_COUNT_COUNT, TST_LW_LATE_LATE, TST_LW_CMD_WINDOW, TST_LW_CMD_OP]

/-- Fields of the PRL frame. -/
def fieldsPrl : List Field :=
  [PRL_CTRL_EN, PRL_STATUS_WRIGN, PRL_WRIGN_OFS, PRL_STATUS_LBUSY, PRL_STATUS_SLOTVALID, PRL_LOAD_SRC,
   PRL_LOAD_DST, PRL_LOAD_GO, PRL_GSAT_GSAT, PRL_GPICOT_GPICOT, PRL_GESC_GESC, PRL_GNAN_GNAN,
   PRL_GSTICKY_SGSAT, PRL_GSTICKY_SGPICOT, PRL_GSTICKY_SGESC, PRL_GSTICKY_SGNAN, PRL_RNG_C0_C0,
   PRL_RNG_C1_C1, PRL_RNG_C2_C2, PRL_RNG_C3_C3, PRL_RNG_C3_TILE]

/-- Fields of the ARY frame. -/
def fieldsAry : List Field :=
  [ARY_STATUS_FORM, ARY_STATUS_RESHAPE, ARY_STATUS_BST, ARY_STATUS_BFMT, ARY_STATUS_BMODE, ARY_STATUS_DRAIN,
   ARY_OPS_LO_OPS, ARY_OPS_HI_OPS]

/-- Fields of the SLP frame. -/
def fieldsSlp : List Field :=
  [SLP_STATUS_BUSY, SLP_READS_LO_READS, SLP_READS_HI_READS]

/-- Fields of the CRS frame. -/
def fieldsCrs : List Field :=
  [CRS_XPOL_GAUGE, CRS_XPOL_PICOT, CRS_XPOL_OUTLIER, CRS_XPOL_NAN, CRS_XPOL_TADDR, CRS_XPOL_TLATE,
   CRS_XPOL_TSPAN, CRS_SEED_LO_SEEDLO, CRS_SEED_HI_SEEDHI, CRS_CTRL_PLANE, CRS_CTRL_BTCLASS, CRS_CTRL_MULTI,
   CRS_STATUS_STATE, CRS_STATUS_WRIGN, CRS_WRIGN_OFS, CRS_STATUS_BTMO, CRS_STATUS_DRIFT, CRS_STATUS_MIXED,
   CRS_STATUS_GRACE, CRS_STATUS_WAITON, CRS_COURSE_LO_COURSE, CRS_COURSE_HI_COURSE, CRS_PLANES_MASK,
   CRS_SYNCPOL_DHOLD, CRS_SYNCPOL_MHOLD, CRS_GRACE_GRACE, CRS_TCLASS_TMO, CRS_TALLY_SENT_SENT,
   CRS_TALLY_LANDED_LANDED]

/-- Fields of the CLU frame. -/
def fieldsClu : List Field :=
  [CLU_STATUS_WRIGN, CLU_WRIGN_OFS, CLU_STATUS_UE, CLU_STATUS_DARNBAD, CLU_STATUS_TBUSY, CLU_MERGECTL_WINDOW,
   CLU_TEST_TMODE, CLU_MERGED_LO_MERGED, CLU_MERGED_HI_MERGED, CLU_ECC_CE_CE, CLU_UE_ADDR_LO_ADDR,
   CLU_UE_ADDR_HI_ADDR, CLU_GSAT_GSAT, CLU_GPICOT_GPICOT, CLU_GESC_GESC, CLU_GNAN_GNAN, CLU_SATSTICKY_SCE,
   CLU_SATSTICKY_SGSAT, CLU_SATSTICKY_SGPICOT, CLU_SATSTICKY_SGESC, CLU_SATSTICKY_SGNAN, CLU_DARN_DCOL,
   CLU_DARN_FCOL, CLU_DARN_FAIL, CLU_DARN_OVR]

/-- Fields of the MESH frame. -/
def fieldsMesh : List Field :=
  [MESH_STATUS_UE, MESH_STATUS_CREDOV, MESH_CREDSEL_PORT, MESH_CREDSEL_VC, MESH_CREDVAL_CREDITS,
   MESH_PKTIN_LO_PKTIN, MESH_PKTIN_HI_PKTIN, MESH_PKTOUT_LO_PKTOUT, MESH_PKTOUT_HI_PKTOUT, MESH_WAIT_LO_WAIT,
   MESH_WAIT_HI_WAIT, MESH_CE_CE, MESH_SATSTICKY_SCE]

/-- Fields of the STX frame. -/
def fieldsStx : List Field :=
  [STC_XT_IDX_IDX, STC_XT_DATA_PHYS, STC_XT_DATA_VALID, STC_XT_STATUS_WRIGN, STC_XT_WRIGN_OFS]

/-- Fields of the STC frame. -/
def fieldsStc : List Field :=
  [STC_SEL_INDEX, STC_CNT_COUNT, STC_QUOTA_QUOTA, STC_BASE_BASE, STC_CTL_OWNER, STC_CTL_OWNED, STC_CTL_CHECK,
   STC_CTL_SEENOBS, STC_CTL_SEENTAKE, STC_WAITERS_NWAIT, STC_STATUS_WRIGN, STC_WRIGN_OFS, STC_STATUS_SAT]

/-- Fields of the STR frame. -/
def fieldsStr : List Field :=
  [STR_TABLE_BASE, STR_STATUS_WRIGN, STR_WRIGN_OFS, STR_STATUS_CMDIGN, STR_TXOPEN_TXOPEN, STR_RXOPEN_RXOPEN,
   STR_MSGOUT_LO_MSGOUT, STR_MSGOUT_HI_MSGOUT, STR_MSGIN_LO_MSGIN, STR_MSGIN_HI_MSGIN, STR_DROP_DROP,
   STR_SATSTICKY_SDROP]

/-- Fields of the JNQ frame. -/
def fieldsJnq : List Field :=
  [JNQ_SEL_QUEUE, JNQ_CFG_TYPE, JNQ_CFG_LEN, JNQ_CFG_SIG, JNQ_CFG_CONTRIB, JNQ_CFG_VALID, JNQ_ACC_ACC,
   JNQ_DEST_LO_DEST, JNQ_DEST_HI_DEST, JNQ_STITCH_STITCH, JNQ_COUNT_COUNT, JNQ_ROUNDS_ROUNDS,
   JNQ_STATUS_WRIGN, JNQ_WRIGN_OFS, JNQ_STATUS_COPY, JNQ_STATUS_SROUNDS, JNQ_STATUS_PARTIAL]

/-- Fields of the SKN frame. -/
def fieldsSkn0 : List Field :=
  [SKN_STQ_BASE_LO_BASE, SKN_STQ_BASE_HI_BASE, SKN_STQ_SIZE_SIZE, SKN_STQ_PERIOD_PERIOD,
   SKN_STQ_EPOCH_LO_EPOCH, SKN_STQ_EPOCH_HI_EPOCH, SKN_STQ_STATUS_ACTIVE, SKN_STQ_STATUS_SLATE,
   SKN_STQ_STATUS_SSKIP, SKN_STQ_LATE_LATE, SKN_STQ_SKIP_SKIP, SKN_STATUS_WRIGN, SKN_WRIGN_OFS,
   SKN_STATUS_CBUSY, SKN_ESEL_SKEIN, SKN_CMD_OP, SKN_EDATA_DATA, SKN_CMDRES_RESULT, SKN_RANGE_FIRST,
   SKN_RANGE_COUNT, SKN_BCFG_BMAX, SKN_BCFG_PTOK, SKN_BCFG_EN, SKN_BATCH_LO_BASE, SKN_BATCH_HI_BASE,
   SKN_BSTITCH_STITCH, SKN_GEN_GENNEXT, SKN_GENNOW_GENNOW, SKN_POOL_LO_BASE, SKN_POOL_HI_BASE,
   SKN_NPAGES_NPAGES, SKN_KVCFG_KVTOK, SKN_KVCFG_KVPG, SKN_KVCFG_DMAE, SKN_WATER_LOWAT, SKN_WATER_HIWAT,
   SKN_HKV_LO_BASE, SKN_HKV_HI_BASE, SKN_HKV_HI_STRIDE, SKN_FREEPG_FREE]

/-- Fields of the SKN frame. -/
def fieldsSkn1 : List Field :=
  [SKN_PSTATUS_DEFERRED, SKN_PSTATUS_OFULL, SKN_TOK_LO_TOK, SKN_TOK_HI_TOK, SKN_DONE_LO_DONE,
   SKN_DONE_HI_DONE, SKN_DEFER_DEFER, SKN_EVICT_EVICT, SKN_NOPAGE_NOPAGE, SKN_NORET_NORET,
   SKN_SATSTICKY_SDEFER, SKN_SATSTICKY_SEVICT, SKN_SATSTICKY_SNOPAGE, SKN_SATSTICKY_SNORET]

/-- Every field of the SKN frame. -/
def fieldsSkn : List Field := fieldsSkn0 ++ fieldsSkn1

/-- Fields of the HNK frame. -/
def fieldsHnk : List Field :=
  [HNK_STATUS_WRIGN, HNK_WRIGN_OFS, HNK_STATUS_FBUSY, HNK_STATUS_SNONFIN, HNK_FRESH_FIRST, HNK_FRESH_COUNT,
   HNK_FRESH_GO, HNK_ADDS_LO_ADDS, HNK_ADDS_HI_ADDS, HNK_NONFIN_NONFIN, HNK_ZBASE_ZBASE, HNK_ZLEN_ZLEN,
   HNK_ZLEN_HARVEST]

/-- Fields of the BLK frame. -/
def fieldsBlk0 : List Field :=
  [BLK_SH_SEL_ENTRY, BLK_SH_CTL_PART, BLK_SH_CTL_VALID, BLK_SH_CTL_CURSLOT, BLK_SH_CTL_WRITING,
   BLK_SH_CTL_UWAIT, BLK_SH_CTL_SV0, BLK_SH_CTL_SV1, BLK_SH_BASE0_LO_BASE0, BLK_SH_BASE0_HI_BASE0,
   BLK_SH_BASE1_LO_BASE1, BLK_SH_BASE1_HI_BASE1, BLK_SH_LEN_LEN, BLK_SH_GEN0_GEN0, BLK_SH_GEN1_GEN1,
   BLK_SH_PINS_PINS0, BLK_SH_PINS_PINS1, BLK_PIN_USED_USED, BLK_PIN_TMO_TMO, BLK_SH_STATUS_WRIGN,
   BLK_SH_WRIGN_OFS, BLK_SH_STATUS_STMO, BLK_STATUS_WRIGN, BLK_WRIGN_OFS, BLK_STATUS_ACTIVE, BLK_STATUS_PASS,
   BLK_STATUS_SNONFIN, BLK_STATUS_SGSAT, BLK_STATUS_SGPICOT, BLK_STATUS_SGESC, BLK_STATUS_SGNAN,
   BLK_ACTIVE_PART, BLK_ACTIVE_TAG, BLK_PROGRESS_BLOCKS, BLK_QDEPTH_DEPTH, BLK_ABORT_PART, BLK_ABORT_GO,
   BLK_ABORT_TAG, BLK_UPD_LO_UPD, BLK_UPD_HI_UPD]

/-- Fields of the BLK frame. -/
def fieldsBlk1 : List Field :=
  [BLK_BLOCKS_LO_BLOCKS, BLK_BLOCKS_HI_BLOCKS, BLK_NONFIN_NONFIN, BLK_GSAT_GSAT, BLK_GPICOT_GPICOT,
   BLK_GESC_GESC, BLK_GNAN_GNAN, BLK_GTAB_LO_BASE, BLK_GTAB_HI_BASE]

/-- Every field of the BLK frame. -/
def fieldsBlk : List Field := fieldsBlk0 ++ fieldsBlk1

/-- Fields of the MEM frame. -/
def fieldsMem : List Field :=
  [MEM_CTRL_EN, MEM_STATUS_WRIGN, MEM_WRIGN_OFS, MEM_STATUS_UE, MEM_STATUS_THR, MEM_STATUS_HOTREF,
   MEM_STATUS_TRAINED, MEM_CHMAP_ACTIVE, MEM_SPARE_LANE36, MEM_SPARE_LANE37, MEM_TEMP_TEMP, MEM_TEMP_PEAK,
   MEM_ECC_CE_CE, MEM_UE_ADDR_LO_ADDR, MEM_UE_ADDR_HI_ADDR, MEM_SCRUB_PERIOD, MEM_SATSTICKY_SCE,
   MEM_RDB_LO_RDB, MEM_RDB_HI_RDB, MEM_WRB_LO_WRB, MEM_WRB_HI_WRB, MEM_THRUS_LO_THRUS, MEM_THRUS_HI_THRUS,
   MEM_FORCEOUT_MASK, MEM_QCFG_AGE, MEM_IMAP_MODE, MEM_IMAP_GRAN, MEM_IMAP_ROT, MEM_TOTAL_NCH,
   MEM_TOTAL_DEGRADED, MEM_PRIO_BASE, MEM_PRIO_LEN, MEM_PRIO_VALID]

/-- Fields of the PHY frame. -/
def fieldsPhy : List Field :=
  [PHY_STATUS_WRIGN, PHY_WRIGN_OFS, PHY_STATUS_TBUSY, PHY_STATUS_MBUSY, PHY_STATUS_TFAIL, PHY_TRAIN_GO,
   PHY_MSEL_CH, PHY_MSEL_LANE, PHY_MSEL_AXIS, PHY_MOFS_OFS, PHY_MRUN_BURSTS, PHY_MRUN_GO, PHY_MERR_ERR,
   PHY_EYE_WIDTH, PHY_EYE_HEIGHT]

/-- Fields of the PLY frame. -/
def fieldsPly0 : List Field :=
  [PLY_CTRL_EN, PLY_CTRL_RETRAIN, PLY_CTRL_RETRY, PLY_STATUS_WRIGN, PLY_WRIGN_OFS, PLY_STATUS_STATE,
   PLY_STATUS_DOWNEV, PLY_STATUS_CREDOV, PLY_PEER_ID, PLY_PEER_LINK, PLY_PEER_VALID, PLY_INGRANT_MASK,
   PLY_CREDSEL_VC, PLY_CREDVAL_CREDITS, PLY_TXFLIT_LO_TX, PLY_TXFLIT_HI_TX, PLY_RXFLIT_LO_RX,
   PLY_RXFLIT_HI_RX, PLY_FECCW_LO_CW, PLY_FECCW_HI_CW, PLY_FECUNC_UNC, PLY_REPLAY_REPLAY, PLY_SATSTICKY_SUNC,
   PLY_SATSTICKY_SREPLAY, PLY_WINLOC_LBASE, PLY_WINLOC_LLEN, PLY_WINLOC_PART, PLY_WINPEER_PBASE,
   PLY_WINPEER_PPART, PLY_WINPEER_VALID, PLY_GCTL_EN, PLY_GCTL_RSTEN, PLY_GID_ID, PLY_GID_ROLE, PLY_GID_MCAP,
   PLY_GID_SIDE, PLY_CTREE_UP, PLY_CTREE_ALTUP, PLY_CTREE_ALT, PLY_CDOWN_DOWN]

/-- Fields of the PLY frame. -/
def fieldsPly1 : List Field :=
  [PLY_CTDOWN_TDOWN, PLY_TWIN_CTL_LINKA, PLY_TWIN_CTL_LINKB, PLY_TWIN_CTL_TMO, PLY_TWIN_CTL_CMD,
   PLY_TWIN_STATUS_STATE, PLY_TWIN_STATUS_PARTNER, PLY_TWIN_STATUS_LINKLOST, PLY_TWIN_STATUS_PINLOST,
   PLY_TWIN_STATUS_LOST, PLY_TWIN_STATUS_CONFLICT, PLY_TWIN_STATUS_REFUSED, PLY_MIRROR_BASE, PLY_MIRROR_LEN,
   PLY_CKPT_LO_BASE, PLY_CKPT_HI_BASE, PLY_CKPT_CNT_COUNT, PLY_CKPT_CNT_RATE, PLY_SPAN_SEL_ENTRY,
   PLY_SPAN_CFG_ID, PLY_SPAN_CFG_PART, PLY_SPAN_CFG_MEMBER, PLY_SPAN_CFG_ROOT, PLY_SPAN_CFG_VALID,
   PLY_SPAN_DOWN_DMASK, PLY_SPAN_STATE_COURSE, PLY_SPAN_PEND_PEND]

/-- Every field of the PLY frame. -/
def fieldsPly : List Field := fieldsPly0 ++ fieldsPly1

/-- Fields of the PCI frame. -/
def fieldsPci : List Field :=
  [PCI_STATUS_WRIGN, PCI_WRIGN_OFS, PCI_STATUS_SPEED, PCI_STATUS_WIDTH, PCI_STATUS_LINKUP, PCI_STATUS_FLR,
   PCI_FN_STATUS_MBUSY, PCI_FN_STATUS_DBIGN, PCI_FN_B2_LO_BASE, PCI_FN_B2_HI_BASE, PCI_FN_MBX_LO_BASE,
   PCI_FN_MBX_HI_BASE, PCI_RO_BASE_LO_BASE, PCI_RO_BASE_HI_BASE, PCI_RO_CFG_LOG2, PCI_RO_CFG_VECTOR,
   PCI_RO_CFG_MODCNT, PCI_RO_CFG_MODUS, PCI_RO_PROD_PROD, PCI_RO_CONS_CONS, PCI_DMA_CTL_EN, PCI_DMA_CTL_STOP,
   PCI_DMA_CTL_OWNER, PCI_DMA_CTL_VECTOR, PCI_DMA_STATUS_STATE, PCI_DMA_STATUS_FIRING, PCI_DMA_RBASE_LO_BASE,
   PCI_DMA_RBASE_HI_BASE, PCI_DMA_RSIZE_RSIZE, PCI_DMA_CBASE_LO_BASE, PCI_DMA_CBASE_HI_BASE,
   PCI_DMA_IDX_TAIL, PCI_DMA_IDX_CHEAD, PCI_DMA_BYTES_LO_BYTES, PCI_DMA_BYTES_HI_BYTES]

/-- Fields of the PWR frame. -/
def fieldsPwr : List Field :=
  [PWR_STATUS_WRIGN, PWR_WRIGN_OFS, PWR_STATUS_EMERG, PWR_STATUS_CAPLOW, PWR_STATUS_SOVER, PWR_INPUT_VIN,
   PWR_INPUT_IIN, PWR_POWER_PIN, PWR_POWER_PAVG, PWR_HOSTCAP_CAP, PWR_DROOP_VTH, PWR_GRACE_US,
   PWR_ALIGN_HOLD, PWR_RECOV_MS, PWR_THR_ACTIVE, PWR_THRUS_LO_US, PWR_THRUS_HI_US, PWR_TSEL_PART,
   PWR_TSEL_INDEX, PWR_TDATA0_TC0, PWR_TDATA0_TC1, PWR_TDATA1_TC2, PWR_TDATA1_TC3, PWR_TDATA2_SH,
   PWR_BUDGET_BUDGET, PWR_TPOL_STALL, PWR_TPOL_OTRAP, PWR_TPERIOD_PERIOD, PWR_TEPOCH_LO_EPOCH,
   PWR_TEPOCH_HI_EPOCH, PWR_TLAST_CHARGED, PWR_TLAST_DRAWN, PWR_OVERDRAW_COUNT]

/-- Fields of the PWRD frame. -/
def fieldsPwrd : List Field :=
  [PWR_DOP_OP, PWR_DOP_STRETCH, PWR_DOP_TARGET, PWR_DOP_PEND]

/-- Fields of the THMD frame. -/
def fieldsThmd : List Field :=
  [THM_DIE_TEMP, THM_DIE_PEAK, THM_DIE_HOTSEN, THM_LIM_THOT, THM_LIM_TCRIT, THM_LIM_TTRIP, THM_STATUS_WRIGN,
   THM_WRIGN_OFS]

/-- Fields of the THM frame. -/
def fieldsThm : List Field :=
  [THM_H_TEMP, THM_H_PEAK]

/-- Fields of the FUSE frame. -/
def fieldsFuse : List Field :=
  [FUSE_DEVID_STEPPING, FUSE_DEVID_DEVICE, FUSE_SERIAL_LO_SERIAL, FUSE_SERIAL_HI_SERIAL, FUSE_RSTMAP_MAP,
   FUSE_BOOT_FROGN, FUSE_SEC_KREV, FUSE_SEC_SVN, FUSE_SEC_DBGMAX, FUSE_SEC_KGEN, FUSE_KEYHASH_HASH]

/-- Fields of the RST frame. -/
def fieldsRst : List Field :=
  [RST_STATUS_SRC, RST_STATUS_WRIGN, RST_WRIGN_OFS, RST_LAST_SRC, RST_LAST_REACH, RST_SWREQ_REACH,
   RST_SWREQ_TARGET, RST_SWREQ_GO, RST_PHOLD_HOLD, RST_WDOG_TMO, RST_WDOG_KICK]

/-- Fields of the BOOT frame. -/
def fieldsBoot : List Field :=
  [BOOT_STATUS_STATE, BOOT_STATUS_IMAGE, BOOT_STATUS_FAILS, BOOT_STATUS_BAND, BOOT_STATUS_CODE,
   BOOT_DIGEST_DIGEST]

/-- Fields of the SEC frame. -/
def fieldsSec : List Field :=
  [SEC_STATUS_DBG, SEC_STATUS_RETIRED, SEC_LEAVES_LEFT]

/-- Fields of the CNS frame. -/
def fieldsCns : List Field :=
  [CNS_CTRL_MODE, CNS_CTRL_PART, CNS_CTRL_ZERO, CNS_CTRL_CANCEL, CNS_CTRL_GO, CNS_STATUS_WRIGN,
   CNS_WRIGN_OFS, CNS_STATUS_ARMED, CNS_STATUS_CAPTURING, CNS_STATUS_DONE, CNS_SEQ_SEQ, CNS_COURSE_LO_COURSE,
   CNS_COURSE_HI_COURSE, CNS_SADDR_OFS, CNS_SADDR_AINC, CNS_SADDR_BANK, CNS_SDATA_DATA, CNS_SMETA_CLASS,
   CNS_SMETA_STICKY]

/-- Fields of the ERR frame. -/
def fieldsErr : List Field :=
  [ERR_STATUS_WRIGN, ERR_WRIGN_OFS, ERR_STATUS_QOVF, ERR_STATUS_RDROP, ERR_STATUS_SLOST, ERR_CTRL_ALERTEN,
   ERR_CTRL_HUBIRQ, ERR_QCOUNT_COUNT, ERR_QREC_WORD, ERR_QPOP_POP, ERR_LOST_LOST, ERR_FILED_LO_FILED,
   ERR_FILED_HI_FILED, ERR_PHALT_HALT, ERR_SMB_COUNT, ERR_SMB_CODE, ERR_RBASE_LO_BASE, ERR_RBASE_HI_BASE,
   ERR_RCFG_LOG2, ERR_RCFG_MODCNT, ERR_RCFG_EN, ERR_RPROD_PROD]

/-- The fields of a frame. -/
def fieldsOf (f : Frame) : List Field :=
  match f with
  | .tile => fieldsTile
  | .ndl => fieldsNdl
  | .tst => fieldsTst
  | .prl => fieldsPrl
  | .ary => fieldsAry
  | .slp => fieldsSlp
  | .crs => fieldsCrs
  | .clu => fieldsClu
  | .mesh => fieldsMesh
  | .stx => fieldsStx
  | .stc => fieldsStc
  | .str => fieldsStr
  | .jnq => fieldsJnq
  | .skn => fieldsSkn
  | .hnk => fieldsHnk
  | .blk => fieldsBlk
  | .mem => fieldsMem
  | .phy => fieldsPhy
  | .ply => fieldsPly
  | .pci => fieldsPci
  | .pwr => fieldsPwr
  | .pwrd => fieldsPwrd
  | .thmd => fieldsThmd
  | .thm => fieldsThm
  | .fuse => fieldsFuse
  | .rst => fieldsRst
  | .boot => fieldsBoot
  | .sec => fieldsSec
  | .cns => fieldsCns
  | .err => fieldsErr

end Sys2Proof.Machine
end

