-- ==== Sys2Proof/Machine/State.lean ====
section
/-! DEFINITION. The machine's state as plain data: every register through `regs`, every store, buffer, queue and state
machine of the spec, and the queue of waiting commands. INVENTORY.md lists each piece with its rule and reset value. -/

namespace Sys2Proof.Machine

/-- A sparse store of values by key: keys strictly rise and no entry holds the value that an absent key reads as. -/
abbrev SMap (α : Type) := List (Nat × α)

/-- The units that each hold one error record to be filed (Table 18.10). -/
inductive UnitId where
  | tile (t : Nat) | cluster (c : Nat) | bank (d : Nat) | xlat (p : Nat) | root (p : Nat) | blocker (b : Nat)
  | skein | memctl (s : Nat) | link (k : Nat) | group | dma (e : Nat) | endpoint | governor | hubfw
  deriving DecidableEq, Repr

/-- An error record before filing (Table 18.5); `halt` names the partition whose HALTED event waits for it (R409). -/
structure ErrRec where
  code : Nat
  part : Option Nat
  trap : Bool
  fatal : Bool
  object : Nat
  source : Nat
  course : Nat
  halt : Option Nat
  deriving DecidableEq, Repr

/-- A record in its unit's slot, with the LOSS bit it will be filed with (R405). -/
structure Held where
  unit : UnitId
  err : ErrRec
  loss : Bool
  deriving DecidableEq, Repr

/-- A page fill in progress (R45, R46). -/
structure Fill where
  tile : Nat
  src : Nat
  page : Nat
  deriving DecidableEq, Repr

/-- A purl load in progress (R59). -/
structure PrlLoad where
  tile : Nat
  src : Nat
  dst : Nat
  deriving DecidableEq, Repr

/-- An entry of a tile's gather buffer: a 16-byte store entry, its byte enables and its bytes (R52). -/
structure GEntry where
  tile : Nat
  entry : Nat
  en : Nat
  data : Nat
  deriving DecidableEq, Repr

/-- A weight load in a tile's weight-load path, the first in progress and a second waiting (R90). -/
structure WLoad where
  tile : Nat
  needle : Nat
  buf : Nat
  fmt : Nat
  mode : Nat
  base : Nat
  pc : Nat
  deriving DecidableEq, Repr

/-- Accumulator rows of an AMM or SLV in flight: what each entry will read as, and the flags (R69, R76). -/
structure Flight where
  tile : Nat
  needle : Nat
  slv : Bool
  flags : Nat
  vals : List (Nat × W32)
  deriving DecidableEq, Repr

/-- A register of a compiler-scheduled needle whose newest results a read may not see yet (R69): `kind` 0 a scalar
register, 1 a vector register, 2 a predicate; `olds` the values that a read may still find; `left` how many more of the
needle's instructions may find one; `held` the register's newest value while an instruction runs on an older one. -/
structure Young where
  tile : Nat
  nc : Nat
  kind : Nat
  reg : Nat
  olds : List Nat
  left : Nat
  held : Option Nat
  deriving DecidableEq, Repr

/-- A pull or a join contribution that a tile has accepted and not yet injected whole (R152, R194, R423); `who` is the
needle code, or 3 for the cast engine. -/
structure Outbound where
  tile : Nat
  who : Nat
  join : Bool
  src : Nat
  dst : Nat
  bytes : Nat
  tmode : Nat
  sel : Nat
  sig : Bool
  stitch : Nat
  deriving DecidableEq, Repr

/-- The packet types of Table 6.5. -/
inductive PType where
  | wr | rdreq | rdrsp | strand | join
  deriving DecidableEq, Repr

/-- Where a packet stands: in the buffer of router `c` (a cluster, or 96 for the H-die switch) that input `port` fills,
or at its destination unit. -/
inductive Loc where
  | router (c port : Nat)
  | dest
  deriving DecidableEq, Repr

/-- A mesh packet: the header of Table 6.4, its payload, and where it stands. `tally` and `old` say how it counts under
R159 and R424, `who` names the sender's needle (R56), `owner` the tile whose read tag it holds (R152), `en` its byte enables, and
`after` the JOIN packet that lands with it (R197). -/
structure Pkt where
  pid : Nat
  typ : PType
  vch : Nat
  len : Nat
  last : Bool
  sig : Bool
  part : Option Nat
  addr : Nat
  src : Nat
  dst : Nat
  tag : Nat
  stitch : Nat
  tmode : Nat
  crslo : Nat
  data : Nat
  loc : Loc
  tally : Bool
  old : Bool
  who : Nat
  owner : Option Nat
  en : Nat
  after : Option Nat
  deriving DecidableEq, Repr

/-- A stitch operation between its issuer and its bank: an addition (R170). `grp` ties the operations of one packet
together, for R159; `src` and `who` name the source that a record of it gives; `node` is the unit that issues it. -/
structure StOp where
  part : Nat
  lid : Nat
  add : Nat
  src : Nat
  who : Nat
  grp : Nat
  node : Nat
  deriving DecidableEq, Repr

/-- What a waiter waits for (R172, R173, R178). -/
inductive WaitKind where
  | observe (threshold : Nat)
  | take
  | plane
  deriving DecidableEq, Repr

/-- A needle or cast engine recorded at a stitch bank or at a sub-plane (Table 7.4). `key` is the physical stitch, or
the plane. -/
structure Waiter where
  kind : WaitKind
  key : Nat
  part : Nat
  lid : Nat
  tile : Nat
  who : Nat
  cls : Nat
  deriving DecidableEq, Repr

/-- A stack window of a partition (Table 1.8): base and length in 64 MiB units, and the partitions granted reads. -/
structure Window where
  base : Nat
  len : Nat
  grants : Nat
  deriving DecidableEq, Repr

/-- A send endpoint (Table 8.3): 0 CLOSED, 1 OPENING, 2 OPEN, 3 ORPHAN, 4 CLOSING. -/
structure TxEp where
  st : Nat
  dtile : Nat
  dep : Nat
  rbase : Nat
  rsize : Nat
  credits : Nat
  tail : Nat
  mseq : Nat
  deriving DecidableEq, Repr

/-- A receive endpoint (Table 8.4): 0 CLOSED, 1 LISTEN, 2 PENDING, 3 OPEN, 4 ENDED, 5 DRAIN. `unread` is the unread
span and `owed` the units freed since its last CREDIT, in 16-byte units; `held` is PENDING's requester. -/
structure RxEp where
  st : Nat
  rbase : Nat
  rsize : Nat
  stitch : Nat
  stile : Nat
  sep : Nat
  head : Nat
  arrived : Nat
  unread : Nat
  held : Option (Nat × Nat)
  deriving DecidableEq, Repr
/-- A descriptor on its way from a tile to a Blocker (R248): the issuing needle and word index, the address it was read
from and its bytes. -/
structure Desc where
  tile : Nat
  needle : Nat
  pc : Nat
  blk : Nat
  addr : Nat
  data : Nat
  deriving DecidableEq, Repr


/-- A pin record of a Blocker (R243, R244): the partition and tile that hold it, the shard-table entry and slot, its
timeout class, and whether its timer has expired. -/
structure Pin where
  blk : Nat
  handle : Nat
  part : Nat
  tile : Nat
  entry : Nat
  slot : Nat
  cls : Nat
  expired : Bool
  deriving DecidableEq, Repr

/-- A gather whose data packets have been sent: they are those numbered from `lo` up to `hi`; the receipt's address,
words and signal (R240). -/
structure Gth where
  blk : Nat
  part : Nat
  tile : Nat
  lo : Nat
  hi : Nat
  rcpt : Nat
  words : Nat
  sig : Bool
  stitch : Nat
  deriving DecidableEq, Repr

/-- An update of a Blocker (R249 to R262): its descriptor `d`; the pass (0 while queued) and the blocks of it that are
complete; the group entry, header STEP and key read at its start; the values of the start and between lines of R254;
the sums of |W| per output that T2 emission gathers, with whether one met an infinity or a NaN; whether it has begun
to write its slot, and has reported a non-finite gradient; and the STATUS of its record where it has ended and the record
waits until its writes are visible, else 0. -/
structure Upd where
  blk : Nat
  part : Nat
  tile : Nat
  d : Nat
  pass : Nat
  block : Nat
  ge : Nat
  step : Nat
  key : Nat
  mature : Bool
  k1 : Nat
  k2 : Nat
  rs : Nat
  fac : Nat
  sw : List Nat
  su : List Nat
  sums : SMap (Nat × Bool × Bool)
  writing : Bool
  nonfin : Bool
  fin : Nat
  deriving DecidableEq, Repr

/-- A request in a channel's reorder queue (R291 to R298): 0 a read, 1 a write, 2 a corrected write-back, 3 a scrub read; its
class, the channel address of its next burst, the bursts left, how often it was passed, and for a read the data it returns. -/
structure MReq where
  stack : Nat
  ch : Nat
  kind : Nat
  cls : Nat
  addr : Nat
  left : Nat
  passed : Nat
  data : Nat
  pkt : Pkt
  deriving DecidableEq, Repr

/-- An entry of a decode batch: the partition, the course it is batched in, its slot, and the skein in it; 65535 where
the skein has been cancelled (R268, R270). -/
structure BSlot where
  part : Nat
  course : Nat
  slot : Nat
  skein : Nat
  deriving DecidableEq, Repr

/-- A return record read into the skein unit's buffer (R272), with the batch's header GEN and course. -/
structure Ret where
  part : Nat
  course : Nat
  gen : Nat
  slot : Nat
  skein : Nat
  words : Nat
  deriving DecidableEq, Repr

/-- A skein's pages on their way back from the host: page-table entry and the page allocated for it (R281). -/
structure Move where
  skein : Nat
  pages : List (Nat × Nat)
  deriving DecidableEq, Repr

/-- A stash firing: partition, schedule entry, the entry's 32 bytes, the READY course, and whether it is complete (R218
to R221). -/
structure Firing where
  part : Nat
  entry : Nat
  d : Nat
  ready : Nat
  done : Bool
  deriving DecidableEq, Repr

/-- Who reads host memory (R345, R349). -/
inductive HKind where
  | mesh (p : Pkt)
  | dma (e : Nat)
  | firing (p entry : Nat)
  | restore (skein : Nat)
  deriving DecidableEq, Repr

/-- A read of host memory under way: host address, the module address its data goes to, the bytes still to come, the DMA
engine and partition it runs for, and a signal for its last packets. -/
structure HRead where
  kind : HKind
  src : Nat
  dst : Nat
  len : Nat
  eng : Nat
  part : Option Nat
  sig : Bool
  stitch : Nat
  deriving DecidableEq, Repr

/-- Memory requests that the endpoint has sent to the host for one transfer: whether they write, the function whose requester ID
they carry (R337), the host address and the bytes, and which of them carry Relaxed Ordering (R349): 0 none, 1 all, 2 all but
the last. -/
structure HostReq where
  write : Bool
  fn : Nat
  addr : Nat
  len : Nat
  ro : Nat
  deriving DecidableEq, Repr

/-- What waits for a Ply link on a virtual channel: a mesh packet by its number, or none for a group message or a mirror
write, and its slots of 16 bytes (R311, R314). -/
structure LItem where
  link : Nat
  vc : Nat
  pid : Option Nat
  slots : List (BitVec 128)
  deriving DecidableEq, Repr

/-- A DATA flit: of a link's replay buffer, or received; with the slots of its whole block where this module formed it
(R311, R313). -/
structure LFlit where
  link : Nat
  seq : Nat
  vc : Nat
  first : Bool
  last : Bool
  slots : List (BitVec 128)
  block : Nat
  deriving DecidableEq, Repr

/-- A pending aligned step of a K-die: its throttle reason and direction (R364). -/
structure AStep where
  die : Nat
  reason : Nat
  up : Bool
  deriving DecidableEq, Repr

/-- A descriptor that a DMA engine performs (R346): its engine, ring index and 32 bytes, the bytes whose packets were
written whole, and whether STOP was registered before it completed. -/
structure Dma where
  eng : Nat
  idx : Nat
  d : Nat
  bytes : Nat
  stop : Bool
  deriving DecidableEq, Repr

/-- The twin logic's own flags (R330, R331): ATTACH_ACK sent, MIRROR_READY sent and received, the partner lost, a message
and a pulse heard in the present loss time, DRAIN_DONE sent, and the covered ID plus 1. -/
structure Twin where
  acked : Bool
  readySent : Bool
  readyGot : Bool
  lost : Bool
  heard : Bool
  pulsed : Bool
  drained : Bool
  covered : Nat
  deriving DecidableEq, Repr

/-- A boot-record sector (R383): whether its header is valid, its sequence, and the entries written. -/
structure BootSec where
  valid : Bool
  seq : Nat
  entries : List (BitVec 128)
  deriving DecidableEq, Repr

/-- State of Ply links, module groups and the twin pair (`14_ply_links_and_groups.md`). -/
structure PlyState where
  /-- What waits for the Ply links, in order (R314). -/
  lqueue : List LItem
  /-- The replay buffers: DATA flits sent and not acknowledged, in order (R313). -/
  replay : List LFlit
  /-- The next FSEQ of each link's sender (R311). -/
  lseq : SMap Nat
  /-- Slots debited and not returned, by link and virtual channel (R314). -/
  lcred : SMap Nat
  /-- The next FSEQ expected of each link's receiver (R312). -/
  lexpect : SMap Nat
  /-- Links whose receiver has sent a NAK and discards until the expected FSEQ (R312). -/
  lnak : SMap Bool
  /-- Flits of blocks received and not yet forwarded (R314). -/
  lbuf : List LFlit
  /-- Slots freed and not yet returned to the peer, by link and virtual channel (R311, R314). -/
  lfreed : SMap Nat
  /-- Packets landed and not yet returned in a delivery count, by link and sending partition (R318). -/
  landedFor : SMap Nat
  /-- Every flit sent, with its link, in order (R311): the model's own output. -/
  sent : List (Nat × BitVec 2048)
  /-- Packets in the hands of a link and not acknowledged by a delivery count: link, partition and number (R318). -/
  away : List (Nat × Nat × Nat)
  /-- The sequence of each link's last replay and how often in a row it was replayed from (R313). -/
  replayRun : SMap (Nat × Nat)
  /-- Group messages received, with their links, in order (R322). -/
  msgs : List (Nat × BitVec 128)
  /-- The links on which each span entry has had its ARRIVE for the course being combined (R324). -/
  spanGot : SMap Nat
  /-- Span entries that have sent ARRIVE or RELEASE for the course being combined (R324). -/
  spanSent : SMap Bool
  /-- The twin logic's flags (R330, R331). -/
  twin : Twin
  /-- Links that have carried a flit in the present loss time (R331). -/
  heardOn : SMap Bool
  /-- Links that carried nothing in the last loss time (R331). -/
  silent : SMap Bool
  /-- Modules that have sent DETACH_REQ (R331). -/
  detached : List Nat
  /-- Modules that have announced themselves by JOIN (R322, R332). -/
  members : List Nat
  /-- The generation of the last GEN_PUBLISHED of each module, plus 1 (R326). -/
  published : SMap Nat
  /-- The generation of the last GEN_ADOPTED of each module, plus 1 (R326). -/
  adopted : SMap Nat
  /-- The checkpoint entry that the mirror engine copies next (R328). -/
  ckptNext : Nat
  /-- The place and contents of the checkpoint entry whose index record is invalid while its Blocker updates it (R329). -/
  ckptOpen : Option (Nat × Nat)
  /-- Whether the manager has answered JOIN (R322). -/
  joined : Bool
  /-- Low pulses driven on TWIN_HB (R330): the model's own output. -/
  pulses : Nat
  deriving DecidableEq, Repr

/-- State of the host interface (`15_host_interface.md`). -/
structure HostState where
  /-- Whether the host's reference clock runs (R26). -/
  hclk : Bool
  /-- Whether hub firmware has written the configuration space (R336). -/
  cfgReady : Bool
  /-- The answer to the last configuration request: 1 Request Retry Status, 2 answered, 3 Unsupported Request; and the data of
  the last answered read of a configuration field or of a doorbell (R335, R336, R342): the model's own output. -/
  cfgAnswer : Nat
  cfgData : Nat
  /-- The VFs enabled (R337). -/
  numVFs : Nat
  /-- The log2 of each function's BAR2 size above 1 GiB (Table 15.2). -/
  b2size : SMap Nat
  /-- The functions for which the host has disabled Relaxed Ordering (R349). -/
  roOff : SMap Bool
  /-- The data of the last BAR2 read: the model's own output. -/
  barData : Nat
  /-- The answer to the last BAR2 read: 1 data, 2 Completer Abort (R341): the model's own output. -/
  barAnswer : Nat
  /-- Every memory request sent to the host, oldest first (R337, R346, R349): the model's own output. -/
  sent : List HostReq
  /-- BAR reads not yet complete: function, offset and bytes (R341). -/
  barWait : List (Nat × Nat × Nat)
  /-- Register writes that wait for a K-die's frames to leave COMPUTE reset (R341): requester, offset, word and byte enables. -/
  barWrites : List (Requester × Nat × W32 × Nat)
  /-- Functions whose mailbox request is in progress, in the order of their doorbells (R342, R351). -/
  doorbell : List Nat
  /-- The producer count of the PF's inbox (R352). -/
  inboxProd : Nat
  /-- Descriptors that the DMA engines perform, in ring order (R346). -/
  dmas : List Dma
  /-- The bytes of the last SMBus reply, first byte least significant: the model's own output. -/
  smbReply : Nat
  /-- Bytes the hub-firmware console has taken from UART_RX (R391). -/
  uartOut : List Byte
  /-- The error records printed on the UART, whose text the spec does not give (R392): the model's own output. -/
  printed : List ErrRec
  deriving DecidableEq, Repr

/-- State of the governor (`16_power_and_thermal.md`). -/
structure PowerState where
  /-- The units each tile has used in its course (R362). -/
  usage : SMap Nat
  /-- The operating point of each K-die at the start of each partition's course (R362). -/
  opStart : SMap Nat
  /-- The check of each partition's next course: 0 not made, 1 stalled, 2 accepted (R361). -/
  tension : SMap Nat
  /-- The charge accepted for each partition's next course (R361). -/
  chargeNext : SMap Nat
  /-- The draw found for each partition's present course plus 1, or 0 where none has been (R362). -/
  draw : SMap Nat
  /-- The bytes that each stack has accepted and each Ply link carried for a partition in its course (R362). -/
  moved : SMap Nat
  /-- For a partition that waits at its boundary for an aligned step, the records of its batches not read and the entries not
  accepted (R271, R272, R364). -/
  turnArgs : SMap (Nat × Nat)
  /-- The charge accepted for each partition's present course plus 1, or 0 where none was checked (R362). -/
  chargeNow : SMap Nat
  /-- Partitions held by an overdraw (R362). -/
  odHold : SMap Bool
  /-- Partitions whose draw of this course has been checked (R362). -/
  odDone : SMap Bool
  /-- Partitions held for an aligned step (R364). -/
  alignHold : SMap Bool
  /-- The operating-point ceiling of each K-die and throttle reason (R370). -/
  ceiling : SMap Nat
  /-- K-dies stretched, by throttle reason (R365). -/
  stretch : SMap Bool
  /-- Emergency events in force: the row of Table 16.6, and the die or stack (R365). -/
  emerg : List (Nat × Nat)
  /-- Pending aligned steps, at most one a K-die (R364). -/
  steps : List AStep
  /-- K-dies whose thermal cause stands (R368). -/
  hotDie : SMap Bool
  /-- Whether PAVG has exceeded the limit and not cleared (R369). -/
  capOver : Bool
  /-- Milliseconds in a row in which PAVG has stayed below 0.95 of the limit (R369). -/
  capCalm : Nat
  /-- Partitions that hold a grace received from another module in their course (R370). -/
  peerGrace : SMap Bool
  /-- Whether THERMTRIP_N is driven low (R368). -/
  thermTrip : Bool
  /-- 0 unpowered, 1 rails rising, 2 PWR_OK high (R374, R415). -/
  power : Nat
  deriving DecidableEq, Repr

/-- State of reset, start-up and trust (`17_reset_boot_and_security.md`), and the census of R399. -/
structure BootState where
  /-- The latched reach of the reset the module is in, or 0 (R375). -/
  latched : Nat
  /-- The sources asserted since the module entered reset (Table 17.15). -/
  lastSrc : Nat
  /-- The reach of the start under way, 4 or 5, or 0 (R382). -/
  exiting : Nat
  /-- Whether the PCI Express endpoint is in reset (R377). -/
  endpointRst : Bool
  /-- Tiles held by a software TILE source (R374). -/
  swTiles : List Nat
  /-- Partitions held by a software PARTITION source or an FLR (R354, R374). -/
  swParts : List Nat
  /-- The code of the fatal error or START_FAIL that caused the last reset (Table 17.7). -/
  fatalCode : Nat
  /-- The two boot-record sectors in flash (R383). -/
  bootSecs : List BootSec
  /-- The records of the two signature-state sectors in flash (R388). -/
  sigSecs : List (List (BitVec 256))
  /-- The next leaf of the identity key (R388). -/
  nextLeaf : Nat
  /-- The TOP held in flash (R388). -/
  sigTop : Nat
  /-- The copies in flash: each byte exclusive-or 0xFF, so that erased flash is not listed (R382). -/
  flash : SMap Byte
  /-- The host image that RAM_START has taken. -/
  hostImage : List Byte
  /-- The active image's register initialisation list: address, exits, value and mask (Table 17.9). -/
  initList : List (Nat × Nat × Nat × Nat)
  /-- The active image's security version. -/
  activeSvn : Nat
  /-- The nonce of the last DEBUG_NONCE while it may serve (R391). -/
  nonce : Option Nat
  /-- Whether the hub watchdog's time runs (Table 17.15). -/
  wdogRuns : Bool
  /-- The shadow banks: the register fields at the capture edge (R399). -/
  shadow : SMap (SMap Nat)
  /-- Shadow banks that hold a census (R400). -/
  shadowOk : SMap Bool
  /-- The partition and the ZERO bit of an armed boundary census (R400). -/
  armed : Option (Nat × Bool)
  deriving DecidableEq, Repr

/-- The state of the module. -/
structure State where
  /-- The commands that wait, first in, first out. -/
  pending : List Instr
  /-- Every register field by key (`fkey`); an absent key reads as the field's reset value. -/
  regs : SMap Nat
  /-- The pending value of every RWS field written and not yet in effect (R10, R419). -/
  rws : SMap Nat
  /-- The holding registers of R12 and R395, by block and requester. -/
  holding : SMap Nat
  /-- The word the last register read returned: the model's own output. -/
  rdata : W32
  /-- The bytes of stack memory, tile stores, cluster stores and hank buffers by module address (Table 1.4). -/
  mem : SMap Byte
  /-- The bytes of host memory that the module has written. -/
  hostMem : SMap Byte
  /-- The record each unit holds to be filed (R405). -/
  held : List Held
  /-- Units that have dropped a record since the last one they filed (R405). -/
  lossy : List UnitId
  /-- The ERR block's queue of filed records, oldest first (R406). -/
  errQueue : List (List W32)
  /-- The number of free values taken: the model's own. -/
  freeIdx : Nat
  /-- Scalar registers s0 to s31 of each needle (Table 2.1). -/
  sreg : SMap W32
  /-- Address registers a0 to a15. -/
  areg : SMap W64
  /-- The 64 lanes of vector registers v0 to v31. -/
  vreg : SMap W32
  /-- Predicate registers p0 to p7. -/
  preg : SMap W64
  /-- The program counter of each needle (R62). -/
  pcs : SMap Nat
  /-- The instruction buffers (Table 2.1). -/
  ibuf : SMap W64
  /-- Instruction-buffer pages that are valid (R45). -/
  ipage : SMap Bool
  /-- Page fills in progress (R45). -/
  fills : List Fill
  /-- The arbiters' signed accumulators (R42). -/
  arb : SMap Int
  /-- The gather buffers, oldest entry first (R52). -/
  gather : List GEntry
  /-- Configuration slots and table memory (R58, R59). -/
  prl : SMap Byte
  /-- Purl loads in progress (R59). -/
  prlLoads : List PrlLoad
  /-- Accumulator entries, results in flight included (R86). -/
  acc : SMap W32
  /-- Accumulator entries as they read before the results in flight (R69). -/
  accR : SMap W32
  /-- The FP16 scale latch of each accumulator entry (R93). -/
  latch : SMap Nat
  /-- The contents of the two weight buffers, as Table 4.2 images. -/
  wbuf : SMap Byte
  /-- The form recorded with each weight buffer: true for shallow (R90). -/
  wform : SMap Bool
  /-- The weight-load paths, the load in progress first (R90). -/
  wloads : List WLoad
  /-- Registers of compiler-scheduled needles that a read may still find with an older value (R69). -/
  young : List Young
  /-- AMM and SLV results in flight, oldest first (R69, R76). -/
  flights : List Flight
  /-- The generator key each tile has taken (R126). -/
  genKey : SMap W64
  /-- Each tile's own course number (R162, R163). -/
  tcourse : SMap Nat
  /-- The read tags in use of each tile, as 64 bits (R152). -/
  tags : SMap Nat
  /-- Transfers accepted and not yet injected whole (R423). -/
  outb : List Outbound
  /-- Tiles whose cast program has ended, or that have none (R158). -/
  castDone : SMap Bool
  /-- The packets in the mesh and at their destinations, in order of injection. -/
  net : List Pkt
  /-- The number of the next packet: the model's own. -/
  nextPid : Nat
  /-- Flit credits debited and not returned, by router output and virtual channel (R146). -/
  credUsed : SMap Nat
  /-- Round-robin places of the router outputs, by virtual channel (R148). -/
  rrPtr : SMap Nat
  /-- Response packets granted in a row at each router output (R148). -/
  respRun : SMap Nat
  /-- Round-robin places of the cluster stores' bank groups and the hank buffers' banks (R135, R227). -/
  turn : SMap Nat
  /-- ASHPs that wait for the array to drain: tile and needle code (R97). -/
  ashps : List (Nat × Nat)
  /-- Needles and cast engines that wait for their tile's outbound unit, in order of arrival (R423). -/
  outWait : List (Nat × Nat)
  /-- Open merge entries: cluster, line and the data of the line (R137). -/
  merge : List (Nat × Nat × Nat)
  /-- Partitions that exist (R30). -/
  parts : SMap Bool
  /-- The owner of each cluster, p + 1, or 0 (R30). -/
  clPart : SMap Nat
  /-- PROFILE of each partition (R2). -/
  profile : SMap Nat
  /-- Stack windows, 8 per partition (Table 1.8). -/
  windows : SMap Window
  /-- Tiles that a course release has not yet reached (R162). -/
  releases : List Nat
  /-- Partitions whose generator key changed at the last boundary (R126). -/
  newKey : SMap Bool
  /-- Partitions whose group barrier has released this course (R160). -/
  grpRel : SMap Bool
  /-- Partitions whose barrier timer runs (R179). -/
  btRun : SMap Bool
  /-- Stitch additions on the stitch network, in order of issue (R170). -/
  stops : List StOp
  /-- Waiters recorded at the banks and sub-planes, in order (R172, R173, R178). -/
  waiters : List Waiter
  /-- Tile and needle code of waiters released and not yet reached (Table 7.5). -/
  released : List (Nat × Nat)
  /-- Send endpoints (Table 8.3). -/
  tx : SMap TxEp
  /-- Receive endpoints (Table 8.4). -/
  rx : SMap RxEp
  /-- Freshen commands in progress: cluster, first line and count (R229). -/
  freshen : List (Nat × Nat × Nat)
  /-- Stalled SENDs: tile, needle code, timeout class (R189). -/
  stalls : List (Nat × Nat × Nat)
  /-- Join credits in use of each tile, in flits (R194). -/
  joinCred : SMap Nat
  /-- Hank-buffer lines whose FRESH bit is clear. -/
  fresh : SMap Bool
  /-- MSI-X vectors whose mask bit is clear, by function and vector (R343). -/
  vecMask : SMap Bool
  /-- MSI-X pending bits (R343). -/
  vecPend : SMap Bool
  /-- MSI-X messages sent, by function and vector: the model's own output. -/
  vecSent : SMap Nat
  /-- Records filed for a function since its vector 1 was last signalled (R408). -/
  vecCnt : SMap Nat
  /-- The hub interrupt line (Table 18.3). -/
  hubIrq : Bool
  /-- Descriptors on their way to Blockers, in order of issue (R248). -/
  descs : List Desc
  /-- The Blockers' pin records in use (R243). -/
  pins : List Pin
  /-- The generation plus 1 in force for a reader partition since its last boundary, where a publication has come since, by Blocker, entry and partition (R236). -/
  inForce : SMap Nat
  /-- Gathers whose data is on its way (R240). -/
  gathers : List Gth
  /-- The Blockers' updates, queued and active, in order of arrival (R249, R250). -/
  upds : List Upd
  /-- The generator count of each Blocker and partition (R260). -/
  blkRng : SMap Nat
  /-- Tile and needle code of needles in WAIT that enter TRAP when the wait ends (R241). -/
  trapLater : List (Nat × Nat)
  /-- The controllers' reorder queues, in order of acceptance (R291). -/
  memq : List MReq
  /-- The open row plus 1 of each bank, by stack, channel and bank (R294). -/
  openRow : SMap Nat
  /-- The channel address of the next scrub read of each channel (R298). -/
  scrubPtr : SMap Nat
  /-- The trained eye of each lane, width and height, by stack, channel and lane (R302). -/
  eyes : SMap (Nat × Nat)
  /-- The training in progress on each stack: 1 by PHY_TRAIN.GO, 2 COLD, 3 WARM (R301). -/
  training : SMap Nat
  /-- The hub firmware's error records kept for READY (R304, R392). -/
  bootRecs : List ErrRec
  /-- The skein table (Table 12.1). -/
  skeins : SMap (BitVec 1024)
  /-- The KV groups allocated to each skein (R269). -/
  groups : SMap Nat
  /-- Entries placed in the batches being built, in order (R270). -/
  built : List BSlot
  /-- Entries of the committed batches of the courses in progress (R271). -/
  batched : List BSlot
  /-- The header GEN of each partition's committed batch (R271). -/
  batchGen : SMap Nat
  /-- Skeins left out of the batch being built, for want of a group (R270). -/
  leftOut : List Nat
  /-- Return records read and not yet accepted, in slot order (R272). -/
  rets : List Ret
  /-- Partitions whose free pages have fallen below LOWAT and not yet come back to HIWAT (R280). -/
  evicting : SMap Bool
  /-- Restores under way (R281). -/
  moves : List Move
  /-- Rollout records written since each ring's vector was last signalled (R350). -/
  roPend : SMap Nat
  /-- Whether skein-entry writes are copied to the spill regions (R380). -/
  spilling : Bool
  /-- Whether this module's state is being mirrored to its partner (R328, R331). -/
  mirroring : Bool
  /-- Writes to the partner's mirror region not yet queued on a twin link: offset, bytes and data (R327, R328). -/
  mirrorQ : List (Nat × Nat × Nat)
  /-- Stash firings that move or wait for their READY course, in order (R218). -/
  firings : List Firing
  /-- The schedule pointer of each partition (R218). -/
  stqPtr : SMap Nat
  /-- Reads of host memory under way (R345, R349). -/
  hreads : List HRead
  /-- Ply links, module groups and the twin pair (`14_ply_links_and_groups.md`). -/
  ply : PlyState
  /-- The host interface (`15_host_interface.md`). -/
  hst : HostState
  /-- The governor (`16_power_and_thermal.md`). -/
  pw : PowerState
  /-- Reset, start-up and trust (`17_reset_boot_and_security.md`), and the census of R399. -/
  bt : BootState
  deriving DecidableEq, Repr

/-- Why the machine stops for good. Every constructor's docstring says who raises it and how it differs from the
hardware. -/
inductive Fault where
  /-- VIN_RISE with an input above the 48.0 V of Table 19.7: R416 says that behaviour beyond its limits is not specified.
  Safe: the hardware may go on. -/
  | outsideRatings
  deriving DecidableEq, Repr

/-- Why a command has no meaning. -/
inductive Refusal where
  /-- A row of the table that this model has not reached, by its mnemonic. Safe: the hardware goes on. -/
  | notModelled (mnemonic : String)
  deriving DecidableEq, Repr

/-- The module right after power-on reset is released and before the start runs (R373, Table 17.3 COLD column): every
register at its reset value, stores zeroed, no partition, no command waiting. -/
def State.reset : State where
  pending := []
  regs := []
  rws := []
  holding := []
  rdata := 0
  mem := []
  hostMem := []
  held := []
  lossy := []
  errQueue := []
  freeIdx := 0
  sreg := []
  areg := []
  vreg := []
  preg := []
  pcs := []
  ibuf := []
  ipage := []
  fills := []
  arb := []
  gather := []
  prl := []
  prlLoads := []
  acc := []
  accR := []
  latch := []
  wbuf := []
  wform := []
  wloads := []
  young := []
  flights := []
  genKey := []
  tcourse := []
  tags := []
  outb := []
  castDone := []
  net := []
  nextPid := 0
  credUsed := []
  rrPtr := []
  respRun := []
  turn := []
  ashps := []
  outWait := []
  merge := []
  parts := []
  clPart := []
  profile := []
  windows := []
  releases := []
  newKey := []
  grpRel := []
  btRun := []
  stops := []
  waiters := []
  released := []
  tx := []
  rx := []
  freshen := []
  stalls := []
  joinCred := []
  fresh := []
  vecMask := []
  vecPend := []
  vecSent := []
  vecCnt := []
  hubIrq := false
  descs := []
  pins := []
  inForce := []
  gathers := []
  upds := []
  blkRng := []
  trapLater := []
  memq := []
  openRow := []
  scrubPtr := []
  eyes := []
  training := []
  bootRecs := []
  skeins := []
  groups := []
  built := []
  batched := []
  batchGen := []
  leftOut := []
  rets := []
  evicting := []
  moves := []
  roPend := []
  spilling := false
  mirroring := false
  mirrorQ := []
  firings := []
  stqPtr := []
  hreads := []
  ply := { lqueue := [], replay := [], lseq := [], lcred := [], lexpect := [], lnak := [], lbuf := [], lfreed := [], landedFor := [], sent := [], away := [], replayRun := [], msgs := [], spanGot := [], spanSent := [], twin := ⟨false, false, false, false, false, false, false, 0⟩, heardOn := [], silent := [], detached := [], members := [], published := [], adopted := [], ckptNext := 0, ckptOpen := none, joined := false, pulses := 0 }
  hst := { hclk := true, cfgReady := false, cfgAnswer := 0, cfgData := 0, numVFs := 0, b2size := [], roOff := [], barData := 0, barAnswer := 0, sent := [], barWait := [], barWrites := [], doorbell := [], inboxProd := 0, dmas := [], smbReply := 0, uartOut := [], printed := [] }
  pw := { usage := [], opStart := [], tension := [], chargeNext := [], draw := [], moved := [], turnArgs := [], chargeNow := [], odHold := [], odDone := [], alignHold := [], ceiling := [], stretch := [], emerg := [], steps := [], hotDie := [], capOver := false, capCalm := 0, peerGrace := [], thermTrip := false, power := 2 }
  bt := { latched := 0, lastSrc := 0, exiting := 5, endpointRst := false, swTiles := [], swParts := [], fatalCode := 0, bootSecs := [], sigSecs := [], nextLeaf := 0, sigTop := 0, flash := [], hostImage := [], initList := [], activeSvn := 0, nonce := none, wdogRuns := false, shadow := [], shadowOk := [], armed := none }

end Sys2Proof.Machine
end

