-- ==== Sys2Proof/Machine/Ops.lean ====
section
/-! DEFINITION. The named operations over the state: sparse maps, register fields and counters (R10, R12, R396, R397),
memory and the address map (R20 to R23, R284 to R290), error records (R403 to R409), needle traps and the cast branch
(R129). -/

namespace Sys2Proof.Machine

/-! ### Sparse maps -/

/-- The value of a key, if the map lists it. -/
def mapFind {α : Type} : SMap α → Nat → Option α
  | [], _ => none
  | (k', v) :: m, k => if k' = k then some v else mapFind m k

/-- The value of a key; `d` where the map lists none. -/
def mapGet {α : Type} (d : α) (m : SMap α) (k : Nat) : α := (mapFind m k).getD d

/-- The map without a key. -/
def mapDel {α : Type} (m : SMap α) (k : Nat) : SMap α := m.filter (fun p => decide (p.1 ≠ k))

/-- The map with a value at a key, keys kept rising. -/
def mapIns {α : Type} : SMap α → Nat → α → SMap α
  | [], k, v => [(k, v)]
  | (k', v') :: m, k, v =>
    if k < k' then (k, v) :: (k', v') :: m
    else if k = k' then (k, v) :: m
    else (k', v') :: mapIns m k v

/-- The map with a value at a key, in canonical form: a value equal to `d` is not listed. -/
def mapSet {α : Type} [DecidableEq α] (d : α) (m : SMap α) (k : Nat) (v : α) : SMap α :=
  if v = d then mapDel m k else mapIns m k v

/-- Every key from lo to lo + n − 1 forgotten, so that it reads as the map's default. -/
def mapClear {α : Type} (m : SMap α) (lo n : Nat) : SMap α := m.filter (fun p => decide (p.1 < lo ∨ lo + n ≤ p.1))

/-- Strictly rising keys, each above `lo`. -/
def mapSorted {α : Type} : Nat → SMap α → Bool
  | _, [] => true
  | lo, (k, _) :: m => decide (lo ≤ k) && mapSorted (k + 1) m

/-- The canonical form of a sparse map with default `d` (R20: an address reads one value). -/
def mapWf {α : Type} [DecidableEq α] (d : α) (m : SMap α) : Bool := mapSorted 0 m && m.all (fun p => decide (p.2 ≠ d))

/-- The canonical form of the module's memory. -/
abbrev Memory.wf (m : SMap Byte) : Bool := mapWf 0 m

/-! ### Register fields -/

/-- A field's reset value in unit u (Table 1.3 for the tile's own numbers). -/
def initOf (f : Field) (u : Nat) : Nat :=
  match f.init with
  | .const v => v
  | .tileNo => u
  | .tileCluster => u / 24
  | .tileDie => u / 576
  | .tileTic => u % 24

/-- The key of field f of unit u at index n. -/
def fkey (f : Field) (u n : Nat) : Nat := f.id + 1024 * (u + 4096 * n)

/-- The value of a register field. -/
def rd (s : State) (f : Field) (u n : Nat) : Nat := mapGet (initOf f u) s.regs (fkey f u n)

/-- A register field set by its unit, cut to the field's width. -/
def wr (s : State) (f : Field) (u n v : Nat) : State :=
  { s with regs := mapSet (initOf f u) s.regs (fkey f u n) (v % 2 ^ f.width) }

/-- A one-bit field as a Bool. -/
def rdB (s : State) (f : Field) (u n : Nat) : Bool := rd s f u n == 1

/-- Bits set in a field, the others kept. -/
def wrOr (s : State) (f : Field) (u n bits : Nat) : State := wr s f u n (rd s f u n ||| bits)

/-- A field given back its reset value. -/
def wrReset (s : State) (f : Field) (u n : Nat) : State := { s with regs := mapDel s.regs (fkey f u n) }

/-- The value an RWS field will have after the next boundary: the pending one, or the one in effect (R419). -/
def rdNext (s : State) (f : Field) (u n : Nat) : Nat := (mapFind s.rws (fkey f u n)).getD (rd s f u n)

/-- A write of an RWS field, kept for the next boundary (R10). -/
def wrNext (s : State) (f : Field) (u n v : Nat) : State :=
  { s with rws := mapIns s.rws (fkey f u n) (v % 2 ^ f.width) }

/-- The pending writes of one RWS field taken into effect. -/
def commitField (f : Field) (u n : Nat) (s : State) : State :=
  match mapFind s.rws (fkey f u n) with
  | some v => wr { s with rws := mapDel s.rws (fkey f u n) } f u n v
  | none => s

/-- A list of RWS fields of unit u taken into effect, for every index below the field's count. -/
def commitFields (fs : List Field) (u : Nat) (s : State) : State :=
  fs.foldl (fun s f => (List.range f.cnt).foldl (fun s n => commitField f u n s) s) s

/-- A class S counter increased by k, saturating, with its sticky bit (R396). -/
def incS (s : State) (f st : Field) (u n k : Nat) : State :=
  let v := rd s f u n + k
  if v < 2 ^ 32 then wr s f u n v
  else wr (wr s f u n (2 ^ 32 - 1)) st u (if st.cnt = 1 then 0 else n) 1

/-- A class M counter increased by k, modulo 2^64 (R397). -/
def incM (s : State) (lo hi : Field) (u n k : Nat) : State :=
  let v := rd s lo u n + 2 ^ 32 * rd s hi u n + k
  wr (wr s lo u n (v % 2 ^ 32)) hi u n (v / 2 ^ 32 % 2 ^ 32)

/-- A 64-bit value of two halves. -/
def rd64 (s : State) (lo hi : Field) (u n : Nat) : Nat := rd s lo u n + 2 ^ 32 * rd s hi u n

/-- Both halves of a 64-bit value set. -/
def wr64 (s : State) (lo hi : Field) (u n v : Nat) : State := wr (wr s lo u n v) hi u n (v / 2 ^ 32)

/-! ### Interrupts -/

/-- Whether function f has MSI-X vector v: in frog mode the PF's vector 0 alone (R343, R384). -/
def vecThere (s : State) (f v : Nat) : Bool :=
  if rd s BOOT_STATUS_STATE 0 0 = 2 then f == 0 && v == 0 else decide (v < (if f = 0 then 128 else 120))

/-- Vector v of function f signalled: a message, or the pending bit while it is masked (R343). -/
def signalVec (f v : Nat) (s : State) : State :=
  let k := f * 2048 + v
  if !(vecThere s f v) then s
  else if mapGet false s.vecMask k then { s with vecSent := mapSet 0 s.vecSent k (mapGet 0 s.vecSent k + 1) }
  else { s with vecPend := mapSet false s.vecPend k true }

/-- Vector 1 of function f signalled; its record count restarts (R408). -/
def signalErr (f : Nat) (s : State) : State :=
  signalVec f 1 { s with vecCnt := mapSet 0 s.vecCnt f 0 }

/-- The HALTED event of partition p (Table 18.3, R409). -/
def signalHalted (p : Nat) (s : State) : State :=
  signalErr (p + 1) (signalErr 0 { wrOr s ERR_PHALT_HALT 0 0 (2 ^ p) with hubIrq := true })

/-! ### Error records -/

/-- A record raised by a unit: held for filing, or dropped where the unit's slot is full (R405). Hub firmware holds
its records in a list, and never drops one. -/
def raise (u : UnitId) (e : ErrRec) (s : State) : State :=
  if (decide (u = .hubfw) || !(s.held.any (fun h => decide (h.unit = u)))) then
    { s with held := s.held ++ [⟨u, e, s.lossy.contains u⟩], lossy := s.lossy.filter (fun x => decide (x ≠ u)) }
  else
    let s1 := incS { s with lossy := s.lossy.filter (fun x => decide (x ≠ u)) ++ [u] } ERR_LOST_LOST ERR_STATUS_SLOST 0 0 1
    match e.halt with
    | some p => signalHalted p s1
    | none => s1

/-- The number of a needle in NDL_STATE, NDL_FLAGS and error records (Table 2.6, R404). -/
def needleCode : Needle → Nat
  | .front => 0
  | .back => 1
  | .update => 2

/-- The partition that owns a cluster (R30). -/
def partOfCluster (s : State) (c : Nat) : Option Nat :=
  match mapGet 0 s.clPart c with
  | 0 => none
  | p + 1 => some p

/-- The partition that owns a tile: that of its cluster (R17, R30). -/
def partOfTile (s : State) (t : Nat) : Option Nat := partOfCluster s (t / 24)

/-- A partition's course number. -/
def courseOf (s : State) (p : Nat) : Nat := rd64 s CRS_COURSE_LO_COURSE CRS_COURSE_HI_COURSE p 0

/-- Whether a partition is held in PARTITION reset (Table 7.1). -/
def inReset (s : State) (p : Nat) : Bool := rd s CRS_STATUS_STATE p 0 == 0

/-- The low 32 bits of a partition's course in a tile's own view (Table 18.5, R163). -/
def tileCourse (s : State) (t : Nat) : Nat := mapGet 0 s.tcourse t

/-- A record of a tile's own partition and course. -/
def tileRec (s : State) (t code : Nat) (trap : Bool) (object source : Nat) : ErrRec :=
  ⟨code, partOfTile s t, trap, false, object, source, if (partOfTile s t).isSome then tileCourse s t % 2 ^ 32 else 0, none⟩

/-- A record about partition p in the view of the root. -/
def partRec (s : State) (p code : Nat) (trap : Bool) (object source : Nat) : ErrRec :=
  ⟨code, some p, trap, false, object, source, courseOf s p % 2 ^ 32, none⟩

/-- A record that concerns no partition. -/
def plainRec (code : Nat) (fatal : Bool) (object source : Nat) : ErrRec :=
  ⟨code, none, false, fatal, object, source, 0, none⟩

/-- The needle states of Table 2.6. -/
def nsReset : Nat := 0
def nsIdle : Nat := 1
def nsRun : Nat := 2
def nsWait : Nat := 3
def nsDone : Nat := 4
def nsTrap : Nat := 5

/-- The class 0x02 object of a tile and an item (Table 18.7). -/
def tileObj (t item : Nat) : Nat := t + 2 ^ 16 * (item % 2 ^ 12)

/-- The class 0x02 source of a node and a needle code (Table 18.7). -/
def tileSrc (node nc : Nat) : Nat := node + 2 ^ 12 * nc

/-- A needle of tile t enters TRAP (Table 2.2, R41). -/
def enterTrap (t nc : Nat) (s : State) : State := wr (wr s NDL_STATE t nc nsTrap) TILE_STATUS_TRAP t nc 1

/-- A trapping error of a needle: its record, and the needle to TRAP (R60, R129). -/
def trapNeedle (t nc code object source : Nat) (s : State) : State :=
  enterTrap t nc (raise (.tile t) (tileRec s t code true object source) s)

/-- A non-trapping error of a tile (R60). -/
def tileError (t code object source : Nat) (s : State) : State :=
  raise (.tile t) (tileRec s t code false object source) s

/-- Partition p enters HALTED; its HALTED event follows the record raised with it (Table 7.1, R409). -/
def haltWith (p : Nat) (u : UnitId) (e : ErrRec) (s : State) : State :=
  if rd s CRS_STATUS_STATE p 0 == 1 || rd s CRS_STATUS_STATE p 0 == 2 then
    wr (raise u { e with trap := true, halt := some p } s) CRS_STATUS_STATE p 0 3
  else raise u { e with trap := true } s

/-- The cast branch of R129: the record of an error of a cast program or a shared unit, and the partition HALTED. -/
def castBranch (p : Option Nat) (u : UnitId) (e : ErrRec) (s : State) : State :=
  match p with
  | some p => haltWith p u e s
  | none => raise u e s

/-- An error of needle code nc of tile t that traps, or that only records (R128): codes 0 to 2 trap the needle, code 3
takes the cast branch. -/
def tileFail (t nc code : Nat) (trap : Bool) (object source : Nat) (s : State) : State :=
  if !trap then tileError t code object source s
  else if nc < 3 then trapNeedle t nc code object source s
  else castBranch (partOfTile s t) (.tile t) (tileRec s t code true object source) s

/-! ### Memory -/

/-- The module address of a tile's store, a cluster's window and the register space (Table 1.4). -/
def storeBase (t : Nat) : Nat := 0x010000000000 + 0x100000 * t
def clusterBase (c : Nat) : Nat := 0x011000000000 + 0x1000000 * c
def regBase : Nat := 0x012000000000
def hostBase : Nat := 0x800000000000

/-- Whether channel c of stack k is in service (MEM_CHMAP). -/
def chActive (s : State) (k c : Nat) : Bool := rd s MEM_CHMAP_ACTIVE k 0 / 2 ^ c % 2 == 1

/-- The capacity of stack memory in bytes (R21, R284). -/
def capacity (s : State) : Nat := 2 ^ 31 * rd s MEM_TOTAL_NCH 0 0

/-- The channels in service of a set of stacks in channel-major order (R286). -/
def chanTable (s : State) (sts : List Nat) : List (Nat × Nat) :=
  (List.range 32).flatMap (fun c => (sts.filter (fun k => chActive s k c)).map (fun k => (k, c)))

/-- The stacks of each interleave region under MEM_IMAP.MODE (Table 13.2). -/
def imapSets (s : State) : List (List Nat) :=
  match rd s MEM_IMAP_MODE 0 0 with
  | 0 => [List.range 12]
  | 1 => (List.range 4).map (fun k => [3 * k, 3 * k + 1, 3 * k + 2])
  | _ => (List.range 12).map (fun k => [k])

/-- The size of a region whose set is the list of stacks (R285). -/
def regionSize (s : State) (sts : List Nat) : Nat :=
  2 ^ 31 * (chanTable s sts).length - 2 ^ 27 * (sts.filter (fun k => chActive s k 0)).length

/-- The stack, channel and channel address of offset r in a region (R286). -/
def inRegion (s : State) (sts : List Nat) (r : Nat) : Nat × Nat × Nat :=
  let tab := chanTable s sts
  let n := tab.length
  let z := (sts.filter (fun k => chActive s k 0)).length
  let g := 2 ^ (match rd s MEM_IMAP_GRAN 0 0 with | 0 => 8 | 1 => 12 | _ => 16)
  let q0 := 2 ^ 31 / g - 2 ^ 27 / g
  let low := q0 * n * g
  let gr := if r < low then r / g else (r - low) / g
  let a := if r < low then n else n - z
  let t := if r < low then tab else tab.filter (fun e => e.2 ≠ 0)
  let q := if r < low then gr / a else q0 + gr / a
  let u := if rd s MEM_IMAP_ROT 0 0 == 1 then (gr % a + 13 * q) % a else gr % a
  let e := t.getD u (0, 0)
  (e.1, e.2, q * g + r % g)

/-- The place in the regions of an address below the privileged region (R285). -/
def findRegion (s : State) : List (List Nat) → Nat → Option (Nat × Nat × Nat)
  | [], _ => none
  | st :: rest, r => if r < regionSize s st then some (inRegion s st r) else findRegion s rest (r - regionSize s st)

/-- The stack, channel and channel address of a stack-memory address (R285, R286, R289). -/
def dramOf (s : State) (a : Nat) : Option (Nat × Nat × Nat) :=
  let cap := capacity s
  if cap ≤ a then none
  else if a + 0x60000000 < cap then findRegion s (imapSets s) a
  else some ((a + 0x60000000 - cap) / 2 ^ 27, 0, 0x78000000 + (a + 0x60000000 - cap) % 2 ^ 27)

/-- What a module address names (Table 1.4): a tile store, cluster store or hank buffer with the offset in it, stack
memory, the register space, host memory, or nothing. -/
inductive Target where
  | store (t off : Nat)
  | cstore (c off : Nat)
  | hank (c off : Nat)
  | stack (a : Nat)
  | reg (ofs : Nat)
  | host (h : Nat)
  | unmapped
  deriving DecidableEq, Repr

/-- The target of an address (R20, R21). -/
def target (s : State) (a : Nat) : Target :=
  if a < 0xC000000000 then (if a < capacity s then .stack a else .unmapped)
  else if storeBase 0 ≤ a ∧ a < storeBase 2304 then
    if a % 0x100000 < 0x80000 then .store (a / 0x100000 % 0x10000) (a % 0x100000) else .unmapped
  else if clusterBase 0 ≤ a ∧ a < clusterBase 96 then
    let c := a / 0x1000000 % 0x1000
    let x := a % 0x1000000
    if x < 0x800000 then .cstore c x else if x < 0xA00000 then .hank c (x % 0x800000) else .unmapped
  else if regBase ≤ a ∧ a < regBase + 0x40000000 then .reg (a % 0x40000000)
  else if hostBase ≤ a ∧ a < hostBase + 2 ^ 47 then .host (a % 2 ^ 47)
  else .unmapped

/-- The key of an address in `mem`: stack memory is kept by DRAM place, so that a change of MEM_IMAP moves every
address (R288); every other store is kept by module address. -/
def memKey (s : State) (a : Nat) : Nat :=
  if a < 0xC000000000 then
    match dramOf s a with
    | some (k, c, x) => 2 ^ 52 + 2 ^ 31 * (k * 32 + c) + x
    | none => a
  else a

/-- One byte of the module's memory (Table 1.4). -/
def rdByte (s : State) (a : Nat) : Byte := mapGet 0 s.mem (memKey s a)

/-- One byte of the module's memory written. -/
def wrByte (s : State) (a : Nat) (b : Byte) : State := { s with mem := mapSet 0 s.mem (memKey s a) b }

/-- n bytes from an address as a little-endian number. -/
def rdLE (s : State) : Nat → Nat → Nat
  | _, 0 => 0
  | a, n + 1 => (rdByte s a).toNat + 256 * rdLE s (a + 1) n

/-- n bytes of a little-endian number written from an address on, those whose bit of `en` is set. -/
def wrEn : Nat → Nat → Nat → Nat → State → State
  | _, 0, _, _, s => s
  | a, n + 1, v, en, s =>
    wrEn (a + 1) n (v / 256) (en / 2) (if en % 2 = 1 then wrByte s a (BitVec.ofNat 8 v) else s)

/-- n bytes of a little-endian number written from an address on. -/
def wrLE (a n v : Nat) (s : State) : State := wrEn a n v (2 ^ n - 1) s

/-- One byte of host memory as the module has last written it. -/
def rdHost (s : State) (h : Nat) : Byte := mapGet 0 s.hostMem h

/-- n bytes put in host memory. -/
def putHost : Nat → Nat → Nat → State → State
  | _, 0, _, s => s
  | h, n + 1, v, s => putHost (h + 1) n (v / 256) { s with hostMem := mapSet 0 s.hostMem h (BitVec.ofNat 8 v) }

/-- The function whose requester ID a request for a partition carries, the PF's for none (R337). -/
def fnOf (part : Option Nat) : Nat := match part with | some p => p + 1 | none => 0

/-- A read request to the host for function f (R337). -/
def askHost (f h n : Nat) (s : State) : State := { s with hst.sent := s.hst.sent ++ [⟨false, f, h, n, 0⟩] }

/-- n bytes posted to host memory with function f's requester ID; `ro` says which of the writes carry Relaxed Ordering while
the function has it enabled, as `HostReq` does (R337, R349). -/
def postHost (f ro h n v : Nat) (s : State) : State :=
  if n = 0 then s
  else
    let s1 := putHost h n v s
    { s1 with hst.sent := s1.hst.sent ++ [⟨true, f, h, n, if mapGet false s.hst.roOff f then 0 else ro⟩] }

/-! ### A tile's store behind its gather buffer (R52, R53) -/

/-- The gather entries of the half-row of an offset, written to the store as one wide access (R52, R53). -/
def flushHalf (t half : Nat) (s : State) : State :=
  let mine : GEntry → Bool := fun g => g.tile == t && g.entry / 8 == half
  let s1 := (s.gather.filter mine).foldl (fun s g => wrEn (storeBase t + g.entry * 16) 16 g.data g.en s) s
  { s1 with gather := s1.gather.filter (fun g => !(mine g)) }

/-- Every half-row that n bytes from an offset touch, flushed. -/
def flushRange (t off n : Nat) (s : State) : State :=
  (List.range ((off % 128 + n + 127) / 128)).foldl (fun s i => flushHalf t (off / 128 + i) s) s

/-- Every gather entry of a tile flushed, the half-row of the oldest first (R52). -/
def flushAll (t : Nat) (s : State) : State :=
  (s.gather.filter (fun g => g.tile == t)).foldl (fun s g => flushHalf t (g.entry / 8) s) s

/-- A byte of a tile's store as either port reads it: buffered bytes over the store's (R53). -/
def storeByte (s : State) (t off : Nat) : Nat :=
  match s.gather.find? (fun g => g.tile == t && g.entry == off / 16 && g.en / 2 ^ (off % 16) % 2 == 1) with
  | some g => byteOf g.data (off % 16)
  | none => (rdByte s (storeBase t + off)).toNat

/-- n bytes of a tile's store, little-endian. -/
def storeLE (s : State) (t : Nat) : Nat → Nat → Nat
  | _, 0 => 0
  | off, n + 1 => storeByte s t off + 256 * storeLE s t (off + 1) n

/-- n bytes of any store for a transfer, tile stores through their gather buffer. -/
def srcLE (s : State) (a n : Nat) : Nat :=
  match target s a with
  | .store t off => storeLE s t off n
  | _ => rdLE s a n

/-- The half-rows that n bytes from an address cover whole: reads of those through a tile's external port are wide (R47). -/
def wholeHalves (off n : Nat) : List Nat :=
  (List.range (n / 128 + 1)).filterMap (fun i =>
    let h := (off + 127) / 128 + i
    if (h + 1) * 128 ≤ off + n then some h else none)

/-- What a read of n bytes from address a does to the store it reads: a wide access reaches its half-row only after the
gather buffer has flushed what it holds of it (R53). -/
def flushRead (a n : Nat) (s : State) : State :=
  match target s a with
  | .store t off => (wholeHalves off n).foldl (fun s h => flushHalf t h s) s
  | _ => s

/-! ### CRC-32 -/

/-- One bit through the CRC-32 of IEEE 802.3, polynomial 0x04C11DB7 in reflected form. -/
def crcBit (c b : Nat) : Nat := if (c ^^^ b) % 2 = 1 then (c / 2) ^^^ 0xEDB88320 else c / 2

/-- The CRC of n bits, least significant first. -/
def crcBits : Nat → Nat → Nat → Nat
  | _, 0, c => c
  | v, n + 1, c => crcBits (v / 2) n (crcBit c (v % 2))

/-- CRC-32 of the low n bytes of a number (PRESUMED: as of a flit, for every CRC-32 of the module). -/
def crc32 (n v : Nat) : Nat := 0xFFFFFFFF ^^^ crcBits v (8 * n) 0xFFFFFFFF

/-! ### Windows and refusals -/

/-- Whether window w, in 64 MiB units, holds an address. -/
def inWindow (w : Window) (a : Nat) : Bool := decide (0x4000000 * w.base ≤ a ∧ a < 0x4000000 * (w.base + w.len))

/-- Whether Ply window entry n of link k holds an address (R315). -/
def plyHolds (s : State) (k n a : Nat) : Bool :=
  rdB s PLY_WINPEER_VALID k n && inWindow ⟨rd s PLY_WINLOC_LBASE k n, rd s PLY_WINLOC_LLEN k n, 0⟩ a

/-- The link and entry of the Ply window of partition p that holds an address (R315). -/
def plyEntryOf (s : State) (p a : Nat) : Option (Nat × Nat) :=
  ((List.range 24).flatMap (fun k => (List.range 16).map (fun n => (k, n)))).find? (fun e =>
    rd s PLY_WINLOC_PART e.1 e.2 == p && plyHolds s e.1 e.2 a)

/-- The Ply link to which a stack window that holds the address is bound for partition p. -/
def plyLinkOf (s : State) (p a : Nat) : Option Nat := (plyEntryOf s p a).map (·.1)

/-- Whether an address lies in a Ply window of any partition. -/
def inPly (s : State) (a : Nat) : Bool := (List.range 16).any (fun p => (plyLinkOf s p a).isSome)

/-- Whether partition p may read (or write) an address, Ply windows apart (R22, R30, Table 1.8, R290, R349). -/
def inWindows (s : State) (p a : Nat) (write : Bool) : Bool :=
  match target s a with
  | .store t _ => partOfTile s t == some p
  | .cstore c _ => partOfCluster s c == some p
  | .hank c _ => partOfCluster s c == some p
  | .stack a =>
    decide (a + 0x60000000 < capacity s) &&
    ((List.range 8).any (fun i => inWindow (mapGet ⟨0, 0, 0⟩ s.windows (p * 8 + i)) a) ||
      (!write && s.windows.any (fun e => inWindow e.2 a && e.2.grants / 2 ^ p % 2 == 1)))
  | .host _ => true
  | _ => false

/-- Whether partition p may read (or write) an address other than through a Ply window (R315). -/
def allowed (s : State) (p a : Nat) (write : Bool) : Bool := inWindows s p a write && !(inPly s a)

/-- Whether partition p may push to an address: its own Ply windows take write packets of tiles, cast engines and join
units (R315). -/
def allowedPush (s : State) (p a : Nat) : Bool := inWindows s p a true && (!(inPly s a) || (plyLinkOf s p a).isSome)

/-- The base of the first 16-byte unit of a range that partition p may not push to, which ADDR_WINDOW then names as
`firstRefused` has it. -/
def firstRefusedPush (s : State) (p a n : Nat) : Option Nat :=
  ((List.range ((n + 15) / 16)).map (fun i => a + 16 * i)).find? (fun x => !(allowedPush s p x))

/-- The base of the first 16-byte unit of a range that partition p may not access, in ascending order (R166). A refused
access of several units names this address in its ADDR_WINDOW record: R22 says only 'the address'. DESIGN CHOICE
(log entry 96). -/
def firstRefused (s : State) (p a n : Nat) (write : Bool) : Option Nat :=
  ((List.range ((n + 15) / 16)).map (fun i => a + 16 * i)).find? (fun x => !(allowed s p x write))

/-- ADDR_WINDOW's object and source (Table 18.7). -/
def awObj (a : Nat) : Nat := a % 2 ^ 32
def awSrc (node a : Nat) : Nat := node + 2 ^ 12 * (a / 2 ^ 32 % 2 ^ 16)

/-- Whether ADDR_WINDOW traps for the partition of tile t (CRS_XPOL.TADDR, R128). -/
def taddr (s : State) (t : Nat) : Bool :=
  match partOfTile s t with
  | some p => rdB s CRS_XPOL_TADDR p 0
  | none => false

/-- A refused access of a tile's needle or cast engine: ADDR_WINDOW, trapping as the policy says (R22, R411). -/
def refuseTile (t nc a : Nat) (s : State) : State := tileFail t nc 0x0101 (taddr s t) (awObj a) (awSrc t a) s

/-- PROFILE A1 or stepping A1: whether a tile of partition p has A1 behaviour (R83, R73). -/
def a1Of (s : State) (p : Option Nat) : Bool :=
  rd s FUSE_DEVID_STEPPING 0 0 == 1 || (match p with | some p => mapGet 0 s.profile p == 1 | none => false)

end Sys2Proof.Machine
end

