-- ==== Sys2Proof/Machine/Slots.lean ====
section
/-! DEFINITION. The shard table as both the register views and the Blockers see it (R234 to R238, R243). -/

namespace Sys2Proof.Machine

/-- The Blocker's update in progress (R250). -/
def activeUpd (s : State) (b : Nat) : Option Upd := s.upds.find? (fun u => u.blk == b && decide (0 < u.pass))

/-- Fields of an UPDATE descriptor that the register views also need (Table 11.2). -/
def uTag (u : Upd) : Nat := u.d / 2 ^ 64 % 2 ^ 16
def uEntry (u : Upd) : Nat := u.d / 2 ^ 16 % 2 ^ 12
def uEmits (u : Upd) : Bool := u.d / 2 ^ 5 % 4 != 0
def uMaddr (d : Nat) : Nat := bitsOf d 128 48

/-- Pins on a slot (R243). -/
def pinCount (s : State) (b e slot : Nat) : Nat :=
  (s.pins.filter (fun p => p.blk == b && p.entry == e && p.slot == slot)).length

/-- The base of a slot. -/
def slotBase (s : State) (b e slot : Nat) : Nat :=
  if slot = 0 then rd s BLK_SH_BASE0_LO_BASE0 b e * 2 ^ 8 + 2 ^ 32 * rd s BLK_SH_BASE0_HI_BASE0 b e
  else rd s BLK_SH_BASE1_LO_BASE1 b e * 2 ^ 8 + 2 ^ 32 * rd s BLK_SH_BASE1_HI_BASE1 b e

/-- The GEN register of a slot, and its validity bit (R238). -/
def slotGen (s : State) (b e slot : Nat) : Nat := if slot = 0 then rd s BLK_SH_GEN0_GEN0 b e else rd s BLK_SH_GEN1_GEN1 b e
def slotValid (s : State) (b e slot : Nat) : Bool := if slot = 0 then rdB s BLK_SH_CTL_SV0 b e else rdB s BLK_SH_CTL_SV1 b e

/-- The current generation of a shard. -/
def currentGen (s : State) (b e : Nat) : Nat := slotGen s b e (rd s BLK_SH_CTL_CURSLOT b e)

/-- Whether partition q has a read-only grant to the window of a shard's slots (R236). -/
def slotGranted (s : State) (b e q : Nat) : Bool :=
  (List.range 8).any (fun i =>
    let w := mapGet ⟨0, 0, 0⟩ s.windows (rd s BLK_SH_CTL_PART b e * 8 + i)
    inWindow w (slotBase s b e 0) && w.grants / 2 ^ q % 2 == 1)

/-- The key of an in-force record. -/
def forceKey (b e q : Nat) : Nat := (b * 4096 + e) * 16 + q

/-- The served generation for partition q (R236). -/
def servedGen (s : State) (b e q : Nat) : Nat :=
  match mapGet 0 s.inForce (forceKey b e q) with
  | 0 => currentGen s b e
  | g + 1 => if q = rd s BLK_SH_CTL_PART b e then currentGen s b e else g

/-- Whether a slot is held: pinned, or in force for a reader partition (R237). -/
def slotHeld (s : State) (b e slot : Nat) : Bool :=
  pinCount s b e slot != 0 ||
  (slotValid s b e slot && (List.range 16).any (fun q =>
    mapGet false s.parts q && slotGranted s b e q && q != rd s BLK_SH_CTL_PART b e &&
      servedGen s b e q == slotGen s b e slot))

/-- Whether an update must wait for its shard's other slot (R237, R250). -/
def updWaits (s : State) (u : Upd) : Bool :=
  uEmits u && !u.writing && slotHeld s u.blk (uEntry u) (1 - rd s BLK_SH_CTL_CURSLOT u.blk (uEntry u))

/-- Fields of a checkpoint list entry (Table 14.9). -/
def ckMaddr (e : Nat) : Nat := bitsOf e 0 48
def ckBlk (e : Nat) : Nat := bitsOf e 56 8

/-- Whether the Blocker of checkpoint entry e has an active update of its layer. -/
def ckBusy (s : State) (e : Nat) : Bool := (activeUpd s (ckBlk e)).any (fun u => uMaddr u.d == ckMaddr e)

/-- Whether the mirror engine holds a Blocker back from an update: the copy of its layer is under way (R329). -/
def ckHolds (s : State) (u : Upd) : Bool :=
  match s.ply.ckptOpen with
  | some (_, e) => s.mirroring && ckBlk e == u.blk && ckMaddr e == uMaddr u.d && !(ckBusy s e)
  | none => false

/-- Whether a queued update is ineligible (R250, R329). -/
def ineligible (s : State) (u : Upd) : Bool := updWaits s u || ckHolds s u

end Sys2Proof.Machine
end

