-- ==== Sys2Proof/Machine/Library.lean ====
section
/-! DEFINITION. The Pleric library slots of the purl fabric (Tables 2.13 and 3.10, R80) and SAMPLE (R273): their exact values
in fixed point, and the results within the errors that the spec allows. -/

namespace Sys2Proof.Machine

/-! ### Exponent and logarithm in fixed point

A real x is held as the whole part of x × 2^320. Every FP32 value is exact there; the functions below err by less than
2^−300, far below the spacing at which a result is judged (DESIGN CHOICE, log entry 104). -/

def fxBits : Nat := 320
def fxOne : Nat := 2 ^ fxBits

/-- The terms of z + z³/3 + z⁵/5 + …, from the power `p` with divisor `d` on. -/
def atanhSum : Nat → Nat → Nat → Nat → Nat
  | 0, _, _, _ => 0
  | k + 1, p, z2, d => p / d + atanhSum k (p * z2 / fxOne) z2 (d + 2)

/-- ln y for 1 ≤ y ≤ 2. -/
def fxLnUnit (y : Nat) : Nat :=
  let z := (y - fxOne) * fxOne / (y + fxOne)
  2 * atanhSum 104 z (z * z / fxOne) 1

/-- ln 2. -/
def fxLn2 : Nat := fxLnUnit (2 * fxOne)

/-- ln (m × 2^e) for m > 0. -/
def fxLn (m : Nat) (e : Int) : Int :=
  ((m.log2 : Int) + e) * fxLn2 + fxLnUnit (m * fxOne / 2 ^ m.log2)

/-- The terms of 1 + r + r²/2 + …, from the term `x` with divisor `k` of the next on. -/
def expSum : Nat → Nat → Nat → Nat → Nat
  | 0, _, _, _ => 0
  | n + 1, x, r, k => x + expSum n (x * r / fxOne / k) r (k + 1)

/-- e^x as a number from 1 to 2 and a power of two. -/
def fxExp (x : Int) : Nat × Int :=
  let n := x / fxLn2
  (expSum 76 fxOne (x - n * fxLn2).toNat 1, n)

/-- e^x of an x ≤ 0 in fixed point; nothing is left of it below −1,000. -/
def fxExpSmall (x : Int) : Nat :=
  if x < -1000 * (fxOne : Int) then 0 else let r := fxExp x; r.1 / 2 ^ (-r.2).toNat

/-- A finite value in fixed point. -/
def fxOf (d : Dy) : Int :=
  let n := shlI d.m (d.e + fxBits) / 2 ^ (-(d.e + fxBits)).toNat
  if d.neg then -(n : Int) else n

/-- The whole part of the square root of n, whose root has at most b bits. -/
def rootBits : Nat → Nat → Nat → Nat
  | 0, _, r => r
  | b + 1, n, r => rootBits b n (if (r + 2 ^ b) * (r + 2 ^ b) ≤ n then r + 2 ^ b else r)

/-! ### Results within an error -/

/-- An FP32 magnitude within k units in the last place of a value that lies at code c (`exact`) or between c and the next:
which one is a free value, never above the largest finite (R80). -/
def ulpPick (k c : Nat) (exact : Bool) (fr : Nat) : Nat :=
  let lo : Int := c - k + (if exact then 0 else 1)
  min fmtFP32.maxCode (lo + (fr % (2 * k + (if exact then 1 else 0)) : Nat)).toNat

/-- A result within k units of num / den × 2^e, in sign `neg`; `exact` says that the fraction is no approximation. -/
def pickNear (k : Nat) (neg : Bool) (num den : Nat) (e : Int) (exact : Bool) (fr : Nat) : Nat :=
  let v := narrow fmtFP32 .toZero false num den e
  let c := ulpPick k v.code (exact && !v.inexact) (fr / 2)
  withSign fmtFP32 (if num = 0 then fr % 2 == 1 else neg) c

/-- The functions of one input (Table 2.13). -/
inductive LibFn where
  | exp | ln | rcp | sqrt | rsqrt
  deriving DecidableEq, Repr

/-- Rows ±∞ of Table 3.10. -/
def libInf (f : LibFn) (neg : Bool) : Nat × Nat :=
  match f with
  | .exp => if neg then (zero32 false, 0) else (inf32 false, 0)
  | .rcp => (zero32 neg, 0)
  | .rsqrt => if neg then (nan32, flIV) else (zero32 false, 0)
  | _ => if neg then (nan32, flIV) else (inf32 false, 0)

/-- Rows ±0 of Table 3.10. -/
def libZero (f : LibFn) (neg : Bool) : Nat × Nat :=
  match f with
  | .exp => (0x3F800000, 0)
  | .ln => (inf32 true, flDZ)
  | .sqrt => (zero32 neg, 0)
  | _ => (inf32 neg, flDZ)

/-- e^x of a nonzero x: its thresholds, and else a result within 2 ulp (R80, Table 3.10). -/
def libExp (x : Nat) (d : Dy) (fr : Nat) : Nat × Nat :=
  if x < 0x00800000 then (0x3F800000, 0)
  else if !d.neg && decide (0x42B17218 ≤ x) then (inf32 false, flOF)
  else if d.neg && leMag 10398 0 (d.m * 100) d.e then (zero32 false, flUF)
  else
    let r := fxExp (fxOf d)
    (pickNear 2 false r.1 fxOne r.2 false fr, 0)

/-- 1/x of a nonzero x: an infinity with OF where it exceeds the largest finite value. -/
def libRcp (d : Dy) (k fr : Nat) : Nat × Nat :=
  let v := narrow fmtFP32 .toZero false 1 d.m (-d.e)
  if fmtFP32.maxCode < v.code ∨ (v.code = fmtFP32.maxCode ∧ v.inexact = true) then (inf32 d.neg, flOF)
  else (pickNear k d.neg 1 d.m (-d.e) true fr, 0)

/-- √x and 1/√x of a positive x. -/
def libRoot (recip : Bool) (d : Dy) (k fr : Nat) : Nat :=
  let m := if d.e % 2 = 0 then d.m else 2 * d.m
  let e := (if d.e % 2 = 0 then d.e else d.e - 1) / 2
  let n := if recip then 2 ^ 200 / m else m * 2 ^ 200
  let r := rootBits 120 n 0
  let exact := if recip then r * r * m == 2 ^ 200 else r * r == n
  pickNear k false r 1 ((if recip then -e else e) - 100) exact fr

/-- A library function of one FP32 code: its result and flags (Tables 2.13 and 3.10). `fr` picks among the results that the
stated error allows; a subnormal input has the 2 ulp of R80. -/
def libUnary (f : LibFn) (x fr : Nat) : Nat × Nat :=
  match val32 x with
  | .nan sig => (nan32, if sig then flIV else 0)
  | .inf neg => libInf f neg
  | .fin d =>
    let k := if x % 2 ^ 31 < 0x00800000 then 2 else 1
    if d.m = 0 then libZero f d.neg
    else match f with
      | .exp => libExp x d fr
      | .rcp => libRcp d k fr
      | .ln => if d.neg then (nan32, flIV) else
          let l := fxLn d.m d.e
          (pickNear 2 (decide (l < 0)) l.natAbs 1 (-fxBits) (d.m.log2 == 0 && d.e == 0 || x == 0x3F800000) fr, 0)
      | .sqrt => if d.neg then (nan32, flIV) else (libRoot false d k fr, 0)
      | .rsqrt => if d.neg then (nan32, flIV) else (libRoot true d 2 fr, 0)

/-! ### Log-probabilities -/

/-- The finite values of a list in fixed point; a −∞ is left out. -/
def fxFinite (vs : List FVal) : List Int := vs.filterMap (fun v => match v with | .fin d => some (fxOf d) | _ => none)

/-- The largest of a list. -/
def fxMax (xs : List Int) : Int := xs.foldl max (xs.headD 0)

/-- ln Σ e^(x − m), for the largest value m. -/
def fxLogSum (xs : List Int) : Int :=
  fxLn ((xs.map (fun x => fxExpSmall (x - fxMax xs))).sum) (-fxBits)

/-- x − m − ln Σ e^(x − m) in FP32, within 4 ulp; a free value where it lies beyond FP32's range, of which the spec says
nothing. -/
def logProbLane (xs : List Int) (x : Int) (fr : Nat) : Nat :=
  let l := fxLogSum xs
  let v := (fxMax xs + l - x).toNat
  if fmtFP32.maxCode < (narrow fmtFP32 .toZero false v 1 (-fxBits)).code then fr % 2 ^ 32
  else pickNear 4 true v 1 (-fxBits) (l == 0) fr

/-- The log-probability step of 64 lanes: their results, and its flags (R80). -/
def logProb (codes : List Nat) (fr : Nat → Nat) : List Nat × Nat :=
  let vs := codes.map val32
  let noneLeft := vs.all (fun v => isInfF v)
  let pinf := vs.any (fun v => isInfF v && !(signF v))
  if vs.any isNanF || pinf || noneLeft then
    (codes.map (fun _ => nan32), if vs.any isSigF || ((pinf || noneLeft) && !(vs.any isNanF)) then flIV else 0)
  else
    let xs := fxFinite vs
    ((indexed vs).map (fun p => match p.2 with | .fin d => logProbLane xs (fxOf d) (fr p.1) | _ => inf32 true), 0)

/-! ### SAMPLE (R273) -/

/-- What SAMPLE gives: TOKEN, LPF, LPS and its flags. -/
structure Sampled where
  token : Nat
  lpf : Nat
  lps : Nat
  flags : Nat
  deriving DecidableEq, Repr

/-- A token in an order of falling values: before the first that is less, so that equal ones keep their order. -/
def insertToken (z : Int × Nat) : List (Int × Nat) → List (Int × Nat)
  | [] => [z]
  | y :: ys => if y.1 < z.1 then z :: y :: ys else y :: insertToken z ys

/-- The tokens of finite value in falling order, ties to the lower index (R273, steps 3 and 6). -/
def tokenOrder (vs : List FVal) : List (Int × Nat) :=
  ((indexed vs).filterMap (fun p => match p.2 with | .fin d => some (fxOf d, p.1) | _ => none)).foldl
    (fun l z => insertToken z l) []

/-- A finite FP32 code as a numerator and a denominator. -/
def ratOf (code : Nat) : Nat × Nat :=
  match val32 code with | .fin d => (shlI d.m d.e, 2 ^ (-d.e).toNat) | _ => (0, 1)

/-- The shortest prefix of a list of weights whose sum `acc` reaches num / den of `total`. -/
def topPrefix (num den total : Nat) : Nat → List (Nat × Nat) → List (Nat × Nat)
  | _, [] => []
  | acc, x :: xs =>
    if num * total ≤ den * (acc + x.1) then [x] else x :: topPrefix num den total (acc + x.1) xs

/-- The first token whose running sum exceeds u / 2^24 of `total`, or the last. -/
def drawToken (u total : Nat) : Nat → Nat × Nat → List (Nat × Nat) → Nat × Nat
  | _, x, [] => x
  | acc, x, y :: ys => if u * total < 2 ^ 24 * (acc + x.1) then x else drawToken u total (acc + x.1) y ys

/-- The weights e^(y − max y) of the tokens kept by TOPK, MINP and TOPP, in falling order (R273, steps 2 to 6). -/
def keptTokens (i : SampleIn) (ord : List (Int × Nat)) : List (Nat × Nat) :=
  let t := ratOf i.temp
  let top := (ord.headD (0, 0)).1
  let kept := if i.topk = 0 then ord else ord.take i.topk
  let ws := kept.map (fun z => (fxExpSmall ((z.1 - top) * t.2 / t.1), z.2))
  let mp := ratOf i.minp
  let ms := if mp.1 = 0 then ws else ws.filter (fun w => decide (mp.1 * (ws.headD (0, 0)).1 ≤ mp.2 * w.1))
  let tp := ratOf i.topp
  if tp.1 < tp.2 then topPrefix tp.1 tp.2 (ws.map (·.1)).sum 0 ms else ms

/-- u of R273: bits 31:8 of the lane's draw d exclusive-or h, word 0 of mix(KEY, CTR). -/
def sampleU (i : SampleIn) (d : Nat) : Nat :=
  let h := mix128 (BitVec.ofNat 32 i.key) (BitVec.ofNat 32 (i.key / 2 ^ 32)) (i.ctr % 2 ^ 64)
  bitsOf (d ^^^ bitsOf h 0 32) 8 24

/-- SAMPLE of finite logits and −∞, of which at least one is finite. -/
def sampleFinite (i : SampleIn) (ord : List (Int × Nat)) (d : Nat) (fr : Nat → Nat) : Sampled :=
  let all := ord.map (·.1)
  let lpf : Int × Nat → Nat := fun z => logProbLane all z.1 (fr 1)
  let best := ord.headD (0, 0)
  if (ratOf i.temp).1 = 0 then ⟨best.2, lpf best, 0, 0⟩
  else
    let ks := keptTokens i ord
    let total := (ks.map (·.1)).sum
    let tk := drawToken (sampleU i d) total 0 (ks.headD (0, 0)) (ks.drop 1)
    let l := fxLn tk.1 0 - fxLn total 0
    ⟨tk.2, lpf ((ord.find? (fun z => z.2 == tk.2)).getD best),
      pickNear 4 true (-l).toNat 1 (-fxBits) (l == 0) (fr 2), 0⟩

/-- SAMPLE (R273). Where a logit is +∞, or none is finite, the spec states no result: TOKEN, LPF and LPS are free values. -/
def sample (i : SampleIn) (d : Nat) (fr : Nat → Nat) : Sampled :=
  let vs := i.z.map val32
  if vs.any isNanF then ⟨0, nan32, nan32, if vs.any isSigF then flIV else 0⟩
  else if vs.any (fun v => isInfF v && !(signF v)) || vs.all isInfF then ⟨fr 0 % 2 ^ 32, fr 1 % 2 ^ 32, fr 2 % 2 ^ 32, 0⟩
  else sampleFinite i (tokenOrder vs) d fr

end Sys2Proof.Machine
end

