-- ==== Sys2Proof/Machine/Flags.lean ====
section
/-! DEFINITION. The integer functions of Table 3.6 with their one flag, and the FP32 functions of Table 3.7. -/

namespace Sys2Proof.Machine

/-- A signed value clamped to 32 bits, and ISAT where it is clamped (Table 3.6). -/
def clamp32 (v : Int) : W32 × Nat :=
  if (2 : Int) ^ 31 ≤ v then (0x7FFFFFFF, flISAT)
  else if v < -(2 : Int) ^ 31 then (0x80000000, flISAT)
  else (BitVec.ofInt 32 v, 0)

/-- Integer function fn of a and b, with its flags (R77, Table 3.6). -/
def intFn (fn : Nat) (a b : W32) : W32 × Nat :=
  match fn with
  | 0 => (a + b, 0)
  | 1 => (a - b, 0)
  | 2 => (a * b, 0)
  | 3 => (a &&& b, 0)
  | 4 => (a ||| b, 0)
  | 5 => (a ^^^ b, 0)
  | 6 => (a <<< (b.toNat % 64), 0)
  | 7 => (a >>> (b.toNat % 64), 0)
  | 8 => (a.sshiftRight (b.toNat % 64), 0)
  | 9 => clamp32 (a.toInt + b.toInt)
  | 10 => clamp32 (a.toInt - b.toInt)
  | 11 => (if a.toInt ≤ b.toInt then a else b, 0)
  | 12 => (if a.toInt ≤ b.toInt then b else a, 0)
  | 13 => (if a.toInt < b.toInt then 1 else 0, 0)
  | _ => (if a.toNat < b.toNat then 1 else 0, 0)

/-- The comparison a branch names (Table 3.3, BR, functions 0 to 6). -/
def brCond (fn : Nat) (a b : W32) : Bool :=
  match fn with
  | 0 => true
  | 1 => decide (a = b)
  | 2 => decide (a ≠ b)
  | 3 => decide (a.toInt < b.toInt)
  | 4 => decide (b.toInt ≤ a.toInt)
  | 5 => decide (a.toNat < b.toNat)
  | _ => decide (b.toNat ≤ a.toNat)

/-- An FP32 code with its sign bit cleared. -/
def absCode (x : Nat) : Nat := x % 2 ^ 31

/-- An FP32 code with its sign bit inverted. -/
def negCode (x : Nat) : Nat := if x / 2 ^ 31 % 2 = 1 then x % 2 ^ 31 else x + 2 ^ 31

/-- The results of lanes `i` where bit i of the mask is 1, gathered with one function: their flags together. -/
def laneFlags (mask : Nat) (f : Nat → Nat) : Nat :=
  (List.range 64).foldl (fun a i => if mask / 2 ^ i % 2 = 1 then a ||| f i else a) 0

/-- A predicate whose bits in the mask are those of f, the others kept (Table 3.7, FCMP). -/
def predBits (old mask : Nat) (f : Nat → Bool) : Nat :=
  packN 1 ((List.range 64).map (fun i =>
    if mask / 2 ^ i % 2 = 1 then (if f i then 1 else 0) else old / 2 ^ i % 2))

end Sys2Proof.Machine
end

