-- ==== Sys2Proof/Machine/Flit.lean ====
section
/-! DEFINITION. The flits that a Ply link sends (R311): their form, and what every one of them returns to the peer (R312,
R314, R318). -/

namespace Sys2Proof.Machine

/-- PLY_STATUS.STATE of link k (Table 14.7). -/
def linkState (s : State) (k : Nat) : Nat := rd s PLY_STATUS_STATE k 0

/-- Whether link k carries flits. -/
def linkUp (s : State) (k : Nat) : Bool := linkState s k == 2 || linkState s k == 3

/-- The key of a link and virtual channel. -/
def lvKey (k vc : Nat) : Nat := k * 4 + vc

/-- The CRC-32 of a flit with its CRC field taken as zero (Table 14.2). -/
def flitCrc (x : Nat) : Nat := 0xFFFFFFFF ^^^ crcBits (x - 2 ^ 96 * bitsOf x 96 32) 2048 0xFFFFFFFF

/-- A flit with its CRC in place. -/
def sealFlit (x : Nat) : Nat := x + 2 ^ 96 * flitCrc x

/-- What a flit returns to its peer: the last sequence accepted in order, slots freed by virtual channel, and a delivery
count (Table 14.2). -/
structure Returns where
  ack : Nat
  slots : List Nat
  part : Nat
  count : Nat
  deriving DecidableEq, Repr

/-- The sending partition whose delivery count goes out next: the lowest that has one (DESIGN CHOICE, log 111). -/
def dueParts (s : State) (k : Nat) : List Nat :=
  (List.range 16).filter (fun p => decide (0 < mapGet 0 s.ply.landedFor (k * 16 + p)))

/-- What the next flit of link k returns. -/
def nextReturns (s : State) (k : Nat) : Returns :=
  let p := (dueParts s k).headD 0
  { ack := (mapGet 0 s.ply.lexpect k + 4095) % 4096
    slots := (List.range 4).map (fun vc => min 255 (mapGet 0 s.ply.lfreed (lvKey k vc)))
    part := p
    count := min 4095 (mapGet 0 s.ply.landedFor (k * 16 + p)) }

/-- A flit of a kind: its header in slot 0, and its slots. -/
def flitWord (kind : Nat) (f : LFlit) (r : Returns) : Nat :=
  sealFlit (kind + 2 ^ 4 * f.seq + 2 ^ 16 * r.ack + 2 ^ 28 * f.vc + 2 ^ 30 * (if f.first then 1 else 0) +
    2 ^ 31 * (if f.last then 1 else 0) + 2 ^ 32 * packN 8 r.slots + 2 ^ 64 * f.slots.length + 2 ^ 68 * r.part +
    2 ^ 72 * r.count + 2 ^ 128 * packN 128 (f.slots.map (fun x => x.toNat)))

/-- The contents of an IDLE or NAK flit of link k. -/
def emptyFlit (k : Nat) : LFlit := ⟨k, 0, 0, false, false, [], 0⟩

/-- A flit sent on link k: what it returns is no longer owed. -/
def sendFlit (kind : Nat) (f : LFlit) (s : State) : State :=
  let k := f.link
  let r := nextReturns s k
  { s with
    ply.lfreed := (List.range 4).foldl (fun m vc =>
      mapSet 0 m (lvKey k vc) (mapGet 0 m (lvKey k vc) - r.slots.getD vc 0)) s.ply.lfreed
    ply.landedFor := mapSet 0 s.ply.landedFor (k * 16 + r.part) (mapGet 0 s.ply.landedFor (k * 16 + r.part) - r.count)
    ply.sent := s.ply.sent ++ [(k, BitVec.ofNat 2048 (flitWord kind f r))] }

/-- What link k still owes its peer: slots and delivery counts. -/
def owed (s : State) (k : Nat) : Nat :=
  ((List.range 4).map (fun vc => mapGet 0 s.ply.lfreed (lvKey k vc))).sum +
    ((List.range 16).map (fun p => mapGet 0 s.ply.landedFor (k * 16 + p))).sum

/-- IDLE flits sent until nothing is owed. -/
def idleOut : Nat → Nat → State → State
  | 0, _, s => s
  | n + 1, k, s => if owed s k = 0 then s else idleOut n k (sendFlit 2 (emptyFlit k) s)

/-- What link k owes goes out with its IDLE flits, while it carries flits (R313). -/
def sendOwed (k : Nat) (s : State) : State := if linkUp s k then idleOut (owed s k) k s else s

end Sys2Proof.Machine
end

