-- ==== Sys2Proof/Machine/Mesh.lean ====
section
/-! DEFINITION. The shared operations of the cable mesh (`06_cluster_and_cable_mesh.md`): nodes, destination nodes and
routes (R142, R145), injection and the tallies (R159, R424), and packet signals on the stitch network (R167, R170). -/

namespace Sys2Proof.Machine

/-! ### Nodes (Table 6.3) -/

def nodeBlocker (b : Nat) : Nat := 0x900 + b
def nodeSkein : Nat := 0x910
def nodeDma (e : Nat) : Nat := 0x920 + e
def nodeLink (k : Nat) : Nat := 0x940 + k
def nodeHub (k : Nat) : Nat := 0x960 + k
def nodeCluster (c : Nat) : Nat := 0xA00 + c
def nodeMem (k : Nat) : Nat := 0xB00 + k
def nodeHdie : Nat := 0xC00

/-- The place of a node: the cluster that holds it, the stack beside which it stands, or the H-die. -/
inductive Place where
  | cluster (c : Nat)
  | stack (k : Nat)
  | hdie
  deriving DecidableEq, Repr

/-- Where a node stands (Table 6.3). -/
def placeOf (node : Nat) : Place :=
  if node < 2304 then .cluster (node / 24)
  else if 0x900 ≤ node ∧ node < 0x90C then .stack (node - 0x900)
  else if 0xA00 ≤ node ∧ node < 0xA60 then .cluster (node - 0xA00)
  else if 0xB00 ≤ node ∧ node < 0xB0C then .stack (node - 0xB00)
  else .hdie

/-- The die of a place; 4 is the H-die. -/
def dieOf : Place → Nat
  | .cluster c => c / 24
  | .stack k => k / 3
  | .hdie => 4

/-- The destination node of an address accessed for partition p (R142, R285, R315). -/
def destNode (s : State) (p : Option Nat) (a : Nat) : Nat :=
  match target s a with
  | .store t _ => t
  | .cstore c _ => nodeCluster c
  | .hank c _ => nodeCluster c
  | .stack a =>
    match p.bind (fun p => plyLinkOf s p a) with
    | some _ => nodeHdie
    | none => match dramOf s a with | some (k, _, _) => nodeMem k | none => nodeHdie
  | _ => nodeHdie

/-- What counts as one destination node for the signal of a transfer: for a Ply window the link and the peer's node of the
translated address (R167, R316). -/
def sigNode (s : State) (p : Option Nat) (a : Nat) : Nat × Nat :=
  match p.bind (fun p => plyEntryOf s p a) with
  | some (k, n) =>
    (k + 1, destNode s none (2 ^ 26 * rd s PLY_WINPEER_PBASE k n + a - 2 ^ 26 * rd s PLY_WINLOC_LBASE k n))
  | none => (0, destNode s p a)

/-! ### Routes (R141, R145) -/

/-- Router outputs by MESH_CREDSEL.PORT (Table 6.10). -/
def portColUp : Nat := 0
def portColDown : Nat := 1
def portRowUp : Nat := 2
def portRowDown : Nat := 3
def portCluster : Nat := 4
def portHoriz : Nat := 5
def portVert : Nat := 6
def portHdie : Nat := 7
def portMem : Nat := 8

/-- The router (row × 6 + column) of attachment i of a bridge or controller (Table 6.2). -/
def attachRouter (port : Nat) (third i : Nat) : Nat :=
  match port with
  | 5 => (i % 4) * 6
  | 6 => i % 6
  | 7 => match i % 4 with | 0 => 0 | 1 => 1 | 2 => 6 | _ => 7
  | _ => match third with
    | 0 => 18 + i % 2
    | 1 => 21 + i % 2
    | _ => if i % 2 = 0 then 11 else 17

/-- The bridge port by which a packet on die d toward die td leaves die d (R145, step 1). -/
def bridgePort (d td : Nat) : Nat :=
  if td = 4 then portHdie else if (d ^^^ td) = 2 then portVert else portHoriz

/-- The exit of a packet from die d: the die-local router and the port there (R145, steps 1 and 2). -/
def dieExit (d src dst : Nat) : Nat × Nat :=
  let pl := placeOf dst
  if dieOf pl = d then
    match pl with
    | .cluster c => (c % 24, portCluster)
    | .stack k => (attachRouter portMem (k % 3) (src ^^^ dst), portMem)
    | .hdie => (0, portHdie)
  else
    let p := bridgePort d (dieOf pl)
    (attachRouter p 0 (src ^^^ dst), p)

/-- The senders of links beside the 96 routers and the H-die switch, 96: the cluster switches, the tiles' own ends of their
tile links, and the attachments of the units beside a stack (R133, R141, R146). -/
def switchOf (c : Nat) : Nat := 128 + c
def tileEnd (t : Nat) : Nat := 256 + t
def stackEnd (k : Nat) : Nat := 2560 + k

/-- A cluster switch's connections: 0 to 23 its tile links, 24 its cluster port, 25 its own units. -/
def swPort : Nat := 24
def swUnits : Nat := 25

/-- The output that a packet takes at a sender c: at a router along the row to the exit's column, then along the column
(R145); at the H-die switch the K-die bridge; at a cluster switch the tile link, cluster port or unit; at a stack the
attachment. -/
def nextPort (c src dst : Nat) : Nat :=
  if c = 96 then dieOf (placeOf dst)
  else if 2560 ≤ c then (src ^^^ dst) % 2
  else if 256 ≤ c then 0
  else if 128 ≤ c then
    if placeOf dst = .cluster (c - 128) then (if dst < 2304 then dst % 24 else swUnits) else swPort
  else
    let ex := dieExit (c / 24) src dst
    let r := c % 24
    if r % 6 < ex.1 % 6 then portColUp
    else if ex.1 % 6 < r % 6 then portColDown
    else if r / 6 < ex.1 / 6 then portRowUp
    else if ex.1 / 6 < r / 6 then portRowDown
    else ex.2

/-- Where output `port` of sender c leads: the next buffer and the input that fills it, or the destination unit. -/
def hopTo (c port src dst : Nat) : Loc :=
  if c = 96 then .router (port * 24 + attachRouter portHdie 0 (src ^^^ dst)) portHdie
  else if 2560 ≤ c then .router ((c - 2560) / 3 * 24 + attachRouter portMem ((c - 2560) % 3) port) portMem
  else if 256 ≤ c then .router (switchOf ((c - 256) / 24)) ((c - 256) % 24)
  else if 128 ≤ c then (if port = swPort then .router (c - 128) portCluster else .dest)
  else
    match port with
    | 0 => .router (c + 1) portColDown
    | 1 => .router (c - 1) portColUp
    | 2 => .router (c + 6) portRowDown
    | 3 => .router (c - 6) portRowUp
    | 4 => .router (switchOf c) swPort
    | 5 => .router ((c / 24 ^^^ 1) * 24 + c % 24) portHoriz
    | 6 => .router ((c / 24 ^^^ 2) * 24 + c % 24) portVert
    | 7 => if placeOf dst = .hdie then .dest else .router 96 (c / 24)
    | _ => .dest

/-- The buffer size that a link's credits start at (Table 6.6). -/
def creditSize (c port : Nat) : Nat :=
  if c = 96 ∨ 2560 ≤ c then 544 else if 128 ≤ c then 68 else if port < 5 then 68 else 544

/-- Whether an output is a link, under credits and the error-correcting code: all but a cluster switch's own units. -/
def isLink (c port : Nat) : Bool := !(decide (128 ≤ c ∧ c < 256) && port == swUnits)

/-- Whether router c has an output (Table 6.2). -/
def hasOutput (c port : Nat) : Bool :=
  let r := c % 24
  match port with
  | 0 => decide (r % 6 < 5)
  | 1 => decide (0 < r % 6)
  | 2 => decide (r / 6 < 3)
  | 3 => decide (0 < r / 6)
  | 4 => true
  | 5 => decide (r % 6 = 0)
  | 6 => decide (r / 6 = 0)
  | 7 => [0, 1, 6, 7].contains r
  | 8 => [18, 19, 21, 22, 11, 17].contains r
  | _ => false

/-- Whether a sender has an output that is a link (R133, R141). -/
def hasLink (c port : Nat) : Bool :=
  if c < 96 then hasOutput (c % 24) port
  else if c = 96 then decide (port < 4)
  else if c < 128 then false
  else if c < 224 then decide (port < 25)
  else if c < 256 then false
  else if c < 2560 then port == 0
  else decide (c < 2572) && decide (port < 2)

/-- The key of an output and virtual channel. -/
def vcKey (c port vc : Nat) : Nat := (c * 32 + port) * 8 + vc

/-- Flit credits held for an output and virtual channel (R146). -/
def creditsOf (s : State) (c port vc : Nat) : Nat := creditSize c port - mapGet 0 s.credUsed (vcKey c port vc)

/-- The virtual channel of a packet: requests 0 to 2, responses 3 to 5 (Table 6.10, R145). -/
def vcOf (p : Pkt) : Nat := if p.typ = .rdrsp then 3 + p.vch else p.vch

/-! ### Injection and landing -/

/-- The header fields that a sender fills; the rest is fixed at injection. -/
def pkt0 (typ : PType) (part : Option Nat) (src addr data len : Nat) : Pkt :=
  ⟨0, typ, 0, len, false, false, part, addr, src, 0, 0, 0, 0, 0, data, .dest, false, false, 7, none, 2 ^ (16 * len) - 1, none⟩

/-- Whether a packet counts in the tallies of its partition: one of the tallied types, sent by a tile, a cast engine
or an inbound Ply link while the partition is not held in reset (R159, R424). -/
def tallied (s : State) (p : Pkt) : Bool :=
  (p.typ == .wr || p.typ == .strand || p.typ == .join) &&
  (decide (p.src < 2304) || decide (0x940 ≤ p.src ∧ p.src < 0x958)) &&
  (match p.part with | some q => !(inReset s q) | none => false)

/-- A tally of the partition increased by one (R159). -/
def bumpTally (f : Field) (p : Option Nat) (s : State) : State :=
  match p with
  | some q => wr s f q 0 (rd s f q 0 + 1)
  | none => s

/-- A packet enters the network: in the hands of its source until the first link's credits admit it, or, between two units
beside one stack or on the H-die, at its unit (R133, R142, R146, R159). -/
def inject (p : Pkt) (s : State) : State :=
  let dst := destNode s p.part p.addr
  let a := placeOf p.src
  let b := placeOf dst
  let loc : Loc :=
    match a with
    | .cluster c => if p.src < 2304 then .router (tileEnd p.src) 0 else .router (switchOf c) swUnits
    | .stack k => if a = b then .dest else .router (stackEnd k) 0
    | .hdie => if a = b then .dest else .router 96 4
  let q := { p with pid := s.nextPid, dst := dst, loc := loc, tally := tallied s p }
  let s1 := { s with net := s.net ++ [q], nextPid := s.nextPid + 1 }
  if q.tally then bumpTally CRS_TALLY_SENT_SENT q.part s1 else s1

/-- A packet that an inbound Ply link injected counts for its sending partition, whose number it holds as its tag;
the count goes out with the link's next flit (R311, R318). -/
def countDelivery (p : Pkt) (s : State) : State :=
  if 0x940 ≤ p.src ∧ p.src < 0x958 ∧ p.typ = .wr then
    let k := (p.src - 0x940) * 16 + p.tag
    sendOwed (p.src - 0x940) { s with ply.landedFor := mapSet 0 s.ply.landedFor k (mapGet 0 s.ply.landedFor k + 1) }
  else s

/-- A packet leaves the network and counts as landed, if it is tallied (R159, R318, R424). -/
def landOne (p : Pkt) (s : State) : State :=
  let s1 := countDelivery p { s with net := s.net.filter (fun q => decide (q.pid ≠ p.pid)) }
  if p.tally && !p.old then bumpTally CRS_TALLY_LANDED_LANDED p.part s1 else s1

/-- A packet has landed; the JOIN packet whose round it copies lands with the last of the copy (R159, R197). -/
def landPkt (p : Pkt) (s : State) : State :=
  let s1 := landOne p s
  match p.after with
  | some j =>
    if s1.net.any (fun q => q.after == some j) then s1
    else match s1.net.find? (fun q => q.pid == j) with
      | some q => landOne q s1
      | none => s1
  | none => s1

/-- A packet has been disposed of, with the stitch additions its destination makes for it; it counts as landed once the
last of them has been applied at its bank (R159, R167). -/
def landWith (p : Pkt) (ops : List StOp) (s : State) : State :=
  match ops with
  | [] => landPkt p s
  | _ =>
    if p.tally || p.after.isSome then
      { s with
        net := s.net.map (fun q => if q.pid = p.pid then { q with dst := 0xFFF } else q)
        stops := s.stops ++ ops.map (fun o => { o with grp := p.pid + 1 }) }
    else let s1 := landPkt p s; { s1 with stops := s1.stops ++ ops }

/-- Whether the unit at a node runs: a cluster in COMPUTE or wider reset, or of a K-die that frog mode holds in reset, serves
nothing until the reset ends (R151, R384). -/
def unitUp (s : State) (node : Nat) : Bool :=
  match placeOf node with | .cluster _ => decide (s.bt.latched < 3) && rd s BOOT_STATUS_STATE 0 0 != 2 | _ => true

/-- The packet of a number, once it stands at its destination and that runs. -/
def arrived (s : State) (pid : Nat) : Option Pkt :=
  s.net.find? (fun p => p.pid == pid && p.loc == .dest && p.dst != 0xFFF && unitUp s p.dst)

/-! ### The order of service (R135, R149, R227)

`State.net` keeps every packet in the order in which it came to where it stands. -/

/-- The service of a cluster that a packet is for: 0 the cluster store, 1 the hank buffer, 2 the join unit. -/
def serviceOf (p : Pkt) : Nat := if p.typ = .join then 2 else if p.addr % 0x1000000 < 0x800000 then 0 else 1

/-- The packets that wait at a cluster's unit, transposing reads apart, which their own unit serves. -/
def waitingUnit (s : State) (c u : Nat) : List Pkt :=
  s.net.filter (fun q => q.loc == .dest && q.dst == nodeCluster c && serviceOf q == u && !(q.typ == .rdreq && q.tmode != 0))

/-- The source of a cluster store by which a packet comes: the tile link of a tile of the cluster, or the cluster port. -/
def storeSource (c : Nat) (p : Pkt) : Nat := if p.src < 2304 ∧ p.src / 24 = c then p.src % 24 else 24

/-- The oldest waiting packet of each source of a cluster store. -/
def storeHeads (c : Nat) : List Pkt → List Pkt
  | [] => []
  | p :: ps => p :: (storeHeads c ps).filter (fun q => storeSource c q != storeSource c p)

/-- The bank group of a packet for a cluster store (R134). -/
def bankGroup (p : Pkt) : Nat := p.addr / 256 % 8

/-- The key of a round-robin place: unit 0 the bank groups of a cluster store, unit 1 the banks of a hank buffer. -/
def turnKey (u c b : Nat) : Nat := (u * 96 + c) * 8 + b

/-- Whether a packet is its source's oldest at a cluster store (R135, R137). -/
def storeOldest (s : State) (c : Nat) (p : Pkt) : Bool := (storeHeads c (waitingUnit s c 0)).contains p

/-- Whether a cluster store grants packet p next: it is its source's oldest, and either it has waited 32 KCLK cycles, or its
source comes next among those whose oldest packet is for the same bank group (R135). -/
def storeGrants (s : State) (c : Nat) (p : Pkt) (aged : Bool) : Bool :=
  let hs := (storeHeads c (waitingUnit s c 0)).filter (fun q => bankGroup q == bankGroup p)
  let last := mapGet 24 s.turn (turnKey 0 c (bankGroup p))
  hs.contains p && (aged ||
    ((List.range 25).findSome? (fun i => hs.find? (fun q => storeSource c q == (last + 1 + i) % 25)) == some p))

/-- The store's round-robin place after a grant. -/
def storeServed (c : Nat) (p : Pkt) (s : State) : State :=
  { s with turn := mapSet 24 s.turn (turnKey 0 c (bankGroup p)) (storeSource c p) }

/-- The addition that a packet's own SIG makes, issued by its destination (R167). -/
def sigOps (p : Pkt) : List StOp :=
  match p.sig, p.part with
  | true, some q => [⟨q, p.stitch, 1, p.src, 7, 0, p.dst⟩]
  | _, _ => []

/-! ### Transfers -/

/-- The course bits of a sender: a tile's own course, else its partition's (Table 6.4, R163). -/
def crsloOf (s : State) (src : Nat) (p : Option Nat) : Nat :=
  if src < 2304 then tileCourse s src % 256 else match p with | some q => courseOf s q % 256 | none => 0

/-- The bytes of the line of `a` that a transfer of `n` bytes from there covers (R144). -/
def chunkLen (a n : Nat) : Nat := min n (256 - a % 256)

/-- The pieces of a transfer: source address, destination address and length, none crossing a line of either side
(R144). -/
def pieces : Nat → Nat → Nat → Nat → List (Nat × Nat × Nat)
  | 0, _, _, _ => []
  | fuel + 1, a, d, n =>
    if n = 0 then []
    else
      let k := min (chunkLen a n) (chunkLen d n)
      (a, d, k) :: pieces fuel (a + k) (d + k) (n - k)

/-- Whether a piece is the last of its transfer to its destination node (R167). -/
def lastToNode (s : State) (p : Option Nat) (d : Nat) (rest : List (Nat × Nat × Nat)) : Bool :=
  !(rest.any (fun r => sigNode s p r.2.1 == sigNode s p d))

/-- A push: the bytes that `get` gives go to DADDR as WR packets, the last to each node carrying SIG (R164, R166, R167);
each piece is read as its store's ports read it (R53). -/
def pushPieces (get : Nat → Nat → Nat) (s0 : State) (part : Option Nat) (src who : Nat) (sig : Bool) (stitch : Nat) :
    List (Nat × Nat × Nat) → State → State
  | [], s => s
  | (a, d, k) :: rest, s =>
    let last := lastToNode s0 part d rest
    let p := { pkt0 .wr part src d (get a k) ((k + 15) / 16) with
      last := rest.isEmpty, sig := sig && last, stitch := stitch, crslo := crsloOf s0 src part, who := who }
    pushPieces get s0 part src who sig stitch rest (inject p (flushRead a k s))

/-- A packet's data posted to host address h: the last packet of its transfer without Relaxed Ordering (R349). -/
def postPkt (p : Pkt) (h : Nat) (s : State) : State := postHost (fnOf p.part) (if p.last then 0 else 1) h (p.len * 16) p.data s

/-- The payload of a read request (Table 6.5). -/
def rdreqData (raddr rlen sel : Nat) : Nat := raddr + 2 ^ 48 * rlen + 2 ^ 53 * sel

/-- The read response to a request, written at RADDR with the request's LAST, SIG, STITCH and CRSLO (Table 6.5). -/
def response (q : Pkt) (node data : Nat) : Pkt :=
  { pkt0 .rdrsp q.part node (bitsOf q.data 0 48) data (bitsOf q.data 48 5) with
    last := q.last, sig := q.sig, stitch := q.stitch, crslo := q.crslo, tag := q.tag, owner := q.owner, who := q.who }

/-- The lowest free read tag of a tile (R152). -/
def freeTag (s : State) (t : Nat) : Option Nat := (List.range 64).find? (fun i => mapGet 0 s.tags t / 2 ^ i % 2 == 0)

/-- A tile's read tag taken or returned (R152). -/
def setTag (t i : Nat) (used : Bool) (s : State) : State :=
  let m := mapGet 0 s.tags t
  { s with tags := mapSet 0 s.tags t (if used then m ||| 2 ^ i else m - (m / 2 ^ i % 2) * 2 ^ i) }

/-- The node that serves a read at an address: its destination node, which is also the key of a pull's last packet per
written node (R167). -/
def pullStep (o : Outbound) (s : State) : Option (State × Outbound) :=
  match freeTag s o.tile with
  | none => none
  | some tag =>
    let part := partOfTile s o.tile
    let k := if o.tmode = 0 then min (chunkLen o.src o.bytes) (chunkLen o.dst o.bytes) else o.bytes
    let rest := if o.tmode = 0 then pieces 4096 (o.src + k) (o.dst + k) (o.bytes - k) else []
    let p := { pkt0 .rdreq part o.tile o.src (rdreqData o.dst (if o.tmode = 0 then k / 16 else 0) o.sel) 1 with
      last := decide (o.bytes ≤ k), sig := o.sig && lastToNode s part o.dst rest, stitch := o.stitch, tmode := o.tmode,
      tag := tag, owner := some o.tile, who := o.who, crslo := crsloOf s o.tile part }
    some (inject p (setTag o.tile tag true s), { o with src := o.src + k, dst := o.dst + k, bytes := o.bytes - k })

/-- One JOIN packet of a contribution, while the tile holds 17 flits of join credit (R194); its line is read wide. -/
def joinStep (o : Outbound) (s : State) : Option (State × Outbound) :=
  if 34 < mapGet 0 s.joinCred o.tile + 17 then none
  else
    let part := partOfTile s o.tile
    let p := { pkt0 .join part o.tile o.dst (srcLE s o.src 256) 16 with
      last := decide (o.bytes ≤ 256), who := o.who, crslo := crsloOf s o.tile part }
    let s1 := flushRead o.src 256 s
    some (inject p { s1 with joinCred := mapSet 0 s1.joinCred o.tile (mapGet 0 s1.joinCred o.tile + 17) },
      { o with src := o.src + 256, dst := o.dst + 256, bytes := o.bytes - 256 })

/-- A tile's accepted transfer injected as far as read tags or join credits allow (R152, R194, R423). -/
def pumpOne : Nat → Outbound → State → State × Option Outbound
  | 0, o, s => (s, some o)
  | fuel + 1, o, s =>
    if o.bytes = 0 then (s, none)
    else
      match (if o.join then joinStep o s else pullStep o s) with
      | none => (s, some o)
      | some (s', o') => pumpOne fuel o' s'

/-- Every accepted transfer of tile t pumped, in order of acceptance (R423). -/
def pump (t : Nat) (s : State) : State :=
  let step : State × List Outbound → Outbound → State × List Outbound := fun acc o =>
    if o.tile = t then
      match pumpOne 4097 o acc.1 with
      | (s', some o') => (s', acc.2 ++ [o'])
      | (s', none) => (s', acc.2)
    else (acc.1, acc.2 ++ [o])
  let r := s.outb.foldl step (s, [])
  { r.1 with outb := r.2 }

/-! ### Stitches -/

/-- The physical stitch behind a partition's logical identifier, while its entry is valid (R169). -/
def xlat (s : State) (p lid : Nat) : Option Nat :=
  let phys := rd s STC_XT_DATA_PHYS p lid
  if rdB s STC_XT_DATA_VALID p lid && rdB s STC_CTL_OWNED (phys / 4096) (phys % 4096) &&
      rd s STC_CTL_OWNER (phys / 4096) (phys % 4096) == p then some phys
  else none

/-- An addition sent to the stitch network by a needle or a cast engine (R170, R171). -/
def sendStitch (p lid k tile who : Nat) (s : State) : State := { s with stops := s.stops ++ [⟨p, lid, k, tile, who, 0, tile⟩] }

/-- The stitch additions of a tile's needles and cast engine not yet applied (R171). -/
def stitchesOut (s : State) (t : Nat) : Nat := (s.stops.filter (fun o => o.src == t && decide (o.who < 4))).length

/-- STITCH_UNMAPPED (R169, R183). -/
def unmappedRec (s : State) (p lid src who : Nat) (trap : Bool) : ErrRec :=
  partRec s p 0x0404 trap (lid + 2 ^ 16 * p) (src + 2 ^ 12 * who)

end Sys2Proof.Machine
end

