-- ==== Sys2Proof/Machine/Tile.lean ====
section
/-! DEFINITION. The shared operations of a tile (`02_tile.md`, `08_strands_and_join_queues.md`): needle registers, the
arbiters (R42), the tile store with its gather buffer (R47 to R53), landing windows (R54 to R57), strand endpoints as
the store's engine port and packets meet them (R184 to R193), and resets of a tile (R61). -/

namespace Sys2Proof.Machine

/-! ### Needle registers (R39) -/

/-- The key of needle nc of tile t. -/
def nkey (t nc : Nat) : Nat := t * 4 + nc

/-- A scalar register; s0 reads as zero. -/
def getS (s : State) (t nc r : Nat) : W32 := if r = 0 then 0 else mapGet 0 s.sreg (nkey t nc * 32 + r)

/-- A scalar register written; a write to s0 is discarded. -/
def setS (t nc r : Nat) (v : W32) (s : State) : State :=
  if r = 0 then s else { s with sreg := mapSet 0 s.sreg (nkey t nc * 32 + r) v }

/-- An address register. -/
def getA (s : State) (t nc r : Nat) : Nat := (mapGet 0 s.areg (nkey t nc * 16 + r)).toNat

/-- An address register written: bits 63:48 stay zero (Table 3.3, AALU). -/
def setA (t nc r v : Nat) (s : State) : State :=
  { s with areg := mapSet 0 s.areg (nkey t nc * 16 + r) (BitVec.ofNat 64 (v % 2 ^ 48)) }

/-- A lane of a vector register. -/
def getLane (s : State) (t nc r i : Nat) : W32 := mapGet 0 s.vreg ((nkey t nc * 32 + r) * 64 + i)

/-- A lane of a vector register written. -/
def setLane (t nc r i : Nat) (v : W32) (s : State) : State :=
  { s with vreg := mapSet 0 s.vreg ((nkey t nc * 32 + r) * 64 + i) v }

/-- The lanes of a vector register in order. -/
def getLanes (s : State) (t nc r : Nat) : List W32 := (List.range 64).map (fun i => getLane s t nc r i)

/-- A vector register as 256 bytes, lane i at bytes 4i to 4i + 3. -/
def getVec (s : State) (t nc r : Nat) : Nat := packN 32 ((getLanes s t nc r).map BitVec.toNat)

/-- Lane i set to `f i` wherever bit i of the mask is 1 (R64). -/
def setLanes (t nc r mask : Nat) (f : Nat → Nat) (s : State) : State :=
  (List.range 64).foldl (fun s i => if mask / 2 ^ i % 2 = 1 then setLane t nc r i (BitVec.ofNat 32 (f i)) s else s) s

/-- A predicate register; p0 reads as all ones. -/
def getP (s : State) (t nc r : Nat) : Nat := if r = 0 then 2 ^ 64 - 1 else (mapGet 0 s.preg (nkey t nc * 8 + r)).toNat

/-- A predicate register written; a write to p0 is discarded. -/
def setP (t nc r v : Nat) (s : State) : State :=
  if r = 0 then s else { s with preg := mapSet 0 s.preg (nkey t nc * 8 + r) (BitVec.ofNat 64 v) }

/-- A vector register written from 256 bytes, in the lanes of a mask. -/
def setVec (t nc r mask v : Nat) (s : State) : State := setLanes t nc r mask (fun i => bitsOf v (32 * i) 32) s

/-- Every lane. -/
def allLanes : Nat := 2 ^ 64 - 1

/-! ### When a result becomes readable (R69, R70, R74, Table 3.5)

A tile keeps no clock here. In interlocked operation a needle stalls until what it reads is readable, so a result is
written at once. In compiler-scheduled operation an instruction that issues fewer than L places after the writer of a
register of latency L may read it before the cycle start + L, and then finds the value that the register held before:
which of the two it finds depends on the cycles that the needle has stalled, and is a free value (log entry 64). -/

/-- Latencies of Table 3.5; LP is at most the 64 steps of a slot, each lengthened to at most 64 cycles (R58). -/
def latLS : Nat := 1
def latLM : Nat := 3
def latLV : Nat := 4
def latLF : Nat := 4
def latLC : Nat := 6
def latLP : Nat := 4096 + 3

/-- Kinds of register. -/
def kindS : Nat := 0
def kindV : Nat := 1
def kindP : Nat := 2

/-- A register of a kind as a number, and one written. -/
def regGet (s : State) (t nc kind r : Nat) : Nat :=
  if kind = kindS then (getS s t nc r).toNat else if kind = kindV then getVec s t nc r else getP s t nc r
def regPut (t nc kind r v : Nat) (s : State) : State :=
  if kind = kindS then setS t nc r (BitVec.ofNat 32 v) s
  else if kind = kindV then setVec t nc r allLanes v s else setP t nc r v s

/-- Whether an entry is of needle nc of tile t, and of one of its registers. -/
def ofNeedle (t nc : Nat) (y : Young) : Bool := y.tile == t && y.nc == nc
def ofReg (t nc kind r : Nat) (y : Young) : Bool := ofNeedle t nc y && y.kind == kind && y.reg == r

/-- A register that an instruction reads as older put back to its newest value. -/
def restoreReg (y : Young) (s : State) : State :=
  match y.held with
  | some v => regPut y.tile y.nc y.kind y.reg v s
  | none => s

/-- A result of latency L written to a register: its older values stay readable for L − 1 further instructions, and of two
results under way the one that becomes readable last stands (Table 3.5's text). -/
def writeReady (t nc kind r lat : Nat) (write : State → State) (s : State) : State :=
  if rdB s TILE_STATUS_INTERLOCK t 0 then write s
  else match s.young.find? (ofReg t nc kind r) with
    | none =>
      if lat ≤ 1 then write s
      else
        let s1 := write s
        { s1 with young := s1.young ++ [⟨t, nc, kind, r, [regGet s t nc kind r], lat, none⟩] }
    | some y =>
      let s0 := restoreReg y s
      let old := regGet s0 t nc kind r
      let s1 := write s0
      let new := regGet s1 t nc kind r
      let oldLast := decide (lat < y.left) && Config.free s1.freeIdx 0 % 2 == 1
      let s2 := if oldLast then regPut t nc kind r old s1 else s1
      { s2 with
        freeIdx := s2.freeIdx + 1
        young := s2.young.map (fun z => if ofReg t nc kind r z then
          { y with olds := (if oldLast then new else old) :: y.olds, left := max y.left lat, held := none } else z) }

/-- The registers as an instruction of needle nc finds them: each that has older values in reach holds its newest value or
one of those, which is a free value. -/
def seen (t nc : Nat) (s : State) : State :=
  if !(s.young.any (ofNeedle t nc)) then s
  else
    let one : State × Nat → Young → State × Nat := fun x y =>
      if !(ofNeedle t nc y) then x
      else
        let k := Config.free s.freeIdx x.2 % (y.olds.length + 1)
        if k = 0 then (x.1, x.2 + 1)
        else
          let s1 := regPut t nc y.kind y.reg (y.olds.getD (k - 1) 0) x.1
          ({ s1 with young := s1.young.map (fun z =>
            if ofReg t nc y.kind y.reg z then { z with held := some (regGet x.1 t nc y.kind y.reg) } else z) }, x.2 + 1)
    (s.young.foldl one ({ s with freeIdx := s.freeIdx + 1 }, 0)).1

/-- The registers after the instruction: those it found older and did not write hold their newest value again, and where
it has issued (`moved`) every entry of the needle is one instruction nearer to its end. -/
def settle (t nc : Nat) (moved : Bool) (s : State) : State :=
  if !(s.young.any (ofNeedle t nc)) then s
  else
    let s1 := (s.young.filter (ofNeedle t nc)).foldl (fun s y => restoreReg y s) s
    let age : Young → Young := fun y =>
      if ofNeedle t nc y then { y with held := none, left := if moved then y.left - 1 else y.left } else y
    { s1 with young := (s1.young.map age).filter (fun y => y.left != 0) }

/-- A needle's program counter (R62). -/
def getPC (s : State) (t nc : Nat) : Nat := mapGet 0 s.pcs (nkey t nc)

/-- A needle's program counter set, modulo 4,096 (R62). -/
def setPC (t nc v : Nat) (s : State) : State := { s with pcs := mapSet 0 s.pcs (nkey t nc) (v % 4096) }

/-- The needle goes on to the next word. -/
def advance (t nc : Nat) (s : State) : State := setPC t nc (getPC s t nc + 1) s

/-- A needle's state (Table 2.6). -/
def needleState (s : State) (t nc : Nat) : Nat := rd s NDL_STATE t nc

/-! ### Arbiters (R42) -/

/-- The weight of needle nc at a unit: 0 array, 1 slip path, 2 purl fabric, 3 engine port (Table 2.3, Table 2.5). -/
def weightOf (s : State) (t unit nc : Nat) : Nat :=
  let reg := unit / 2
  match unit % 2, nc with
  | 0, 0 => rd s NDL_BIAS_WF0 t reg
  | 0, 1 => rd s NDL_BIAS_WB0 t reg
  | 0, _ => rd s NDL_BIAS_WU0 t reg
  | _, 0 => rd s NDL_BIAS_WF1 t reg
  | _, 1 => rd s NDL_BIAS_WB1 t reg
  | _, _ => rd s NDL_BIAS_WU1 t reg

def accKey (t unit nc : Nat) : Nat := (t * 4 + unit) * 4 + nc

/-- The arbiter's accumulator of a needle. -/
def accOf (s : State) (t unit nc : Nat) : Int := mapGet 0 s.arb (accKey t unit nc)

/-- The winner of a grant point among the requesting needles, and their accumulators after it (R42). -/
def arbitrate (s : State) (t unit : Nat) (reqs : List Nat) : Option (Nat × State) :=
  let ws := reqs.filter (fun n => decide (0 < weightOf s t unit n))
  match ws with
  | [] => reqs.head?.map (fun n => (n, s))
  | w0 :: _ =>
    let s1 := ws.foldl (fun s' n =>
      { s' with arb := mapSet 0 s'.arb (accKey t unit n) (accOf s' t unit n + weightOf s t unit n) }) s
    let best := ws.foldl (fun b n => if accOf s1 t unit b < accOf s1 t unit n then n else b) w0
    let total := (ws.map (fun n => weightOf s t unit n)).sum
    some (best, { s1 with arb := mapSet 0 s1.arb (accKey t unit best) (accOf s1 t unit best - total) })

/-- The needles of a three-bit request mask, in the order front, back, update. -/
def reqList (rq : Nat) : List Nat := [0, 1, 2].filter (fun n => rq / 2 ^ n % 2 = 1)

/-! ### The tile store (R47 to R53) -/

/-- The offset in the tile's own store of a range, when it lies wholly there (R66). -/
def ownOff (t a n : Nat) : Option Nat :=
  if storeBase t ≤ a ∧ a + n ≤ storeBase t + 0x80000 then some (a - storeBase t) else none

/-- A narrow write on the external port while GATHER is 1: merged into the gather buffer, which flushes when it holds a
whole half-row or is full (R52). -/
def gatherPut (t entry en data : Nat) (s : State) : State :=
  let mine : GEntry → Bool := fun g => g.tile == t && g.entry == entry
  let s1 :=
    if s.gather.any mine then
      { s with gather := s.gather.map (fun g => if mine g then
          { g with en := g.en ||| en, data := packN 8 ((List.range 16).map (fun i =>
              if en / 2 ^ i % 2 = 1 then byteOf data i else byteOf g.data i)) } else g) }
    else { s with gather := s.gather ++ [⟨t, entry, en, data⟩] }
  let own : List GEntry := s1.gather.filter (fun g => g.tile == t)
  if (own.filter (fun g => g.entry / 8 == entry / 8)).length = 8 || decide (8 ≤ own.length) then flushAll t s1 else s1

/-- Bytes written through the external port, one 16-byte entry after another: each is narrow, and is gathered while GATHER
is 1 (R47, R52, R53). -/
def extNarrow (t : Nat) : Nat → Nat → Nat → Nat → State → State
  | _, 0, _, _, s => s
  | off, n + 1, v, en, s =>
    let e := en % 2 ^ 16
    let s1 :=
      if rdB s TST_CTRL_GATHER t 0 then
        (if e = 0 then s else gatherPut t (off / 16) e (v % 2 ^ 128) s)
      else wrEn (storeBase t + off) 16 v e (flushHalf t (off / 128) s)
    extNarrow t (off + 16) n (v / 2 ^ 128) (en / 2 ^ 16) s1

/-- A packet's bytes written through the external port: each half-row that it covers whole, every byte enabled, as one
wide access, which the gather buffer's entries precede; the rest entry by entry (R47, R49, R53). The spec does not say
how a packet that is not wholly aligned pieces of 128 bytes splits: DESIGN CHOICE (log entry 16). `m` half-rows are left. -/
def extWritePkt (t : Nat) : Nat → Nat → Nat → Nat → Nat → State → State
  | 0, _, _, _, _, s => s
  | m + 1, off, n, v, en, s =>
    let k := min n (128 - off % 128)
    let s1 :=
      if k = 128 ∧ en % 2 ^ 128 = 2 ^ 128 - 1 then wrLE (storeBase t + off) 128 v (flushHalf t (off / 128) s)
      else extNarrow t off ((k + 15) / 16) v en s
    extWritePkt t m (off + k) (n - k) (v / 2 ^ (8 * k)) (en / 2 ^ k) s1

/-! ### Landing windows (R54 to R57) -/

/-- A landing window's base and length in bytes; a range beyond the store counts as length 0 (Table 2.11). -/
def winBase (s : State) (t n : Nat) : Nat := rd s TST_LW_BASE_BASE t n * 128
def winLen (s : State) (t n : Nat) : Nat :=
  let l := rd s TST_LW_LEN_LEN t n * 128
  if 0x80000 < winBase s t n + l then 0 else l

def winState (s : State) (t n : Nat) : Nat := rd s TST_LW_CTRL_STATE t n

/-- Whether two byte ranges share a byte; a range of no bytes meets none. -/
def meets (a n b m : Nat) : Bool := decide (0 < n ∧ 0 < m ∧ a < b + m ∧ b < a + n)

/-- The lowest-numbered OPEN or CLOSED window that a range meets: a packet partly in the ranges of several raises one
WINDOW_SPAN, which names this one. The spec does not say how many records there are. DESIGN CHOICE (log entry 97). -/
def windowHit (s : State) (t off n : Nat) : Option Nat :=
  (List.range 16).find? (fun w => winState s t w != 0 && meets off n (winBase s t w) (winLen s t w))

/-- A landing window opened, closed or released (Table 2.10, R55): op 1 opens, 2 closes, 3 releases. -/
def windowCmd (t w op nc : Nat) (s : State) : State :=
  let st := winState s t w
  let ign := wr s TST_STATUS_LWCMDIGN t 0 1
  match op with
  | 1 =>
    if st = 1 ∨ winLen s t w = 0 then ign
    else if (List.range 16).any (fun v =>
        v != w && winState s t v != 0 && meets (winBase s t w) (winLen s t w) (winBase s t v) (winLen s t v)) then
      tileError t 0x0203 (tileObj t w) (tileSrc t nc) s
    else wr (wr s TST_LW_COUNT_COUNT t w 0) TST_LW_CTRL_STATE t w 1
  | 2 => if st = 1 then wr s TST_LW_CTRL_STATE t w 2 else ign
  | 3 => if st = 2 then wr s TST_LW_CTRL_STATE t w 0 else ign
  | _ => s

/-! ### Strand endpoints (R184 to R193) -/

def txNone : TxEp := ⟨0, 0, 0, 0, 0, 0, 0, 0⟩
def rxNone : RxEp := ⟨0, 0, 0, 0, 0, 0, 0, 0, 0, none⟩
/-- A closed RX endpoint: of its descriptor only ARRIVED keeps its value, until the next CMD OPEN (Table 8.4). -/
def rxClosed (e : RxEp) : RxEp := { rxNone with arrived := e.arrived }
def getTx (s : State) (t n : Nat) : TxEp := mapGet txNone s.tx (t * 32 + n)
def getRx (s : State) (t n : Nat) : RxEp := mapGet rxNone s.rx (t * 32 + n)

/-- The offset of a tile's strand table (Table 8.7). -/
def tableOff (s : State) (t : Nat) : Nat := rd s STR_TABLE_BASE t 0 * 1024

/-- A field's bit set or cleared. -/
def wrBit (f : Field) (u i : Nat) (b : Bool) (s : State) : State :=
  let v := rd s f u 0
  wr s f u 0 (if b then v ||| 2 ^ i else v - (v / 2 ^ i % 2) * 2 ^ i)

/-- A TX endpoint's state set, with the endpoint's words of its descriptor and STR_TXOPEN (R184, Table 8.1). -/
def setTx (t n : Nat) (e : TxEp) (s : State) : State :=
  let off := tableOff s t + n * 16
  let v := e.st + 2 ^ 4 * (e.credits % 2 ^ 16) + 2 ^ 32 * (e.rbase + 2 ^ 12 * e.rsize) +
    2 ^ 64 * (e.tail + 2 ^ 16 * (e.mseq % 2 ^ 16))
  let s1 := wrLE (storeBase t + off + 4) 12 v (flushHalf t (off / 128) s)
  wrBit STR_TXOPEN_TXOPEN t n (e.st != 0) { s1 with tx := mapSet txNone s1.tx (t * 32 + n) e }

/-- An RX endpoint's state set, with word 3 of its descriptor and STR_RXOPEN (R184, Table 8.1). -/
def setRx (t n : Nat) (e : RxEp) (s : State) : State :=
  let off := tableOff s t + 0x200 + n * 16
  let s1 := wrLE (storeBase t + off + 12) 4 (e.st + 2 ^ 3 * e.arrived) (flushHalf t (off / 128) s)
  wrBit STR_RXOPEN_RXOPEN t n (e.st != 0) { s1 with rx := mapSet rxNone s1.rx (t * 32 + n) e }

/-- The size of a ring in 16-byte units. -/
def ringUnits (e : RxEp) : Nat := e.rsize * 16

/-- Whether a byte range meets the unread span of an OPEN or ENDED ring (R191). -/
def meetsUnread (e : RxEp) (off n : Nat) : Bool :=
  (e.st == 3 || e.st == 4) &&
  (List.range ((off % 16 + n + 15) / 16)).any (fun i =>
    let x := off / 16 + i
    decide (e.rbase * 16 ≤ x ∧ x < e.rbase * 16 + ringUnits e) &&
    decide ((x - e.rbase * 16 + ringUnits e - e.head) % ringUnits e < e.unread))

/-- The RX endpoint of a tile whose unread span a range meets. -/
def overrunAt (s : State) (t off n : Nat) : Option Nat := (List.range 32).find? (fun m => meetsUnread (getRx s t m) off n)

/-- STRAND records name the tile and endpoint as object (bit 21 for RX) and the peer tile as source (R199, R404). -/
def strandObj (t ep : Nat) (rx : Bool) : Nat := t + 2 ^ 16 * (ep + (if rx then 32 else 0))

/-- A control flit's payload (Table 8.2). -/
def ctlFlit (kind sep rep credits rbase rsize : Nat) : Nat :=
  kind + 2 ^ 4 * sep + 2 ^ 9 * rep + 2 ^ 16 * credits + 2 ^ 32 * rbase + 2 ^ 48 * rsize

/-- A control packet from tile t to offset 0 of a peer's store (R185). -/
def sendCtl (t peer data : Nat) (s : State) : State :=
  let part := partOfTile s t
  inject { pkt0 .strand part t (storeBase peer) data 1 with last := true, crslo := crsloOf s t part } s

/-- CMD OPEN or CLOSE at a TX descriptor (Table 8.3). -/
def txCommand (t n w0 nc : Nat) (s : State) : State :=
  let e := getTx s t n
  let cmdign := wr s STR_STATUS_CMDIGN t 0 1
  match bitsOf w0 30 2 with
  | 1 =>
    if e.st ≠ 0 then cmdign
    else
      let d := bitsOf w0 0 12
      if d < 2304 && partOfTile s d == partOfTile s t && (partOfTile s t).isSome then
        sendCtl t d (ctlFlit 1 n (bitsOf w0 12 5) 0 0 0) (setTx t n { txNone with st := 1, dtile := d, dep := bitsOf w0 12 5 } s)
      else tileError t 0x0213 (strandObj t n false) (tileSrc d nc) s
  | 2 =>
    if e.st = 0 ∨ e.st = 4 then cmdign
    else sendCtl t e.dtile (ctlFlit 5 n e.dep 0 0 0) (setTx t n { e with st := 4 } s)
  | 3 => cmdign
  | _ => s

/-- Whether an RX open is valid (R187). -/
def rxValid (s : State) (t n rbase rsize : Nat) : Bool :=
  decide (1 ≤ rbase ∧ 1 ≤ rsize ∧ rbase + rsize ≤ 2048) &&
  !((List.range 32).any (fun m =>
    m != n && (let e := getRx s t m; (e.st == 1 || e.st == 3 || e.st == 4 || e.st == 5) &&
      meets (rbase * 256) (rsize * 256) (e.rbase * 256) (e.rsize * 256)))) &&
  !(meets (rbase * 256) (rsize * 256) (tableOff s t) 1024)

/-- HEAD of an RX descriptor set to 0, as an open does (Table 8.4). -/
def clearHead (t n : Nat) (s : State) : State :=
  let off := tableOff s t + 0x200 + n * 16 + 8
  wrLE (storeBase t + off) 2 (storeLE s t off 2 / 2 ^ 15 * 2 ^ 15) (flushHalf t (off / 128) s)

/-- CMD OPEN or CLOSE at an RX descriptor (Table 8.4). -/
def rxCommand (t n w0 nc : Nat) (s : State) : State :=
  let e := getRx s t n
  let w1 := storeLE s t (tableOff s t + 0x200 + n * 16 + 4) 4
  let cmdign := wr s STR_STATUS_CMDIGN t 0 1
  let rb := bitsOf w0 0 11
  let rs := bitsOf w0 12 11
  let latched : RxEp := ⟨1, rb, rs, bitsOf w1 0 14, bitsOf w1 14 12, bitsOf w1 26 5, 0, 0, 0, none⟩
  match bitsOf w0 30 2 with
  | 1 =>
    if e.st ≠ 0 ∧ e.st ≠ 2 then cmdign
    else if !(rxValid s t n rb rs) then tileError t 0x0214 (strandObj t n true) (tileSrc (bitsOf w1 14 12) nc) s
    else
      match e.held with
      | some (pt, pe) =>
        if pt = latched.stile ∧ pe = latched.sep then
          sendCtl t pt (ctlFlit 2 pe n 0 rb rs) (setRx t n { latched with st := 3 } (clearHead t n s))
        else sendCtl t pt (ctlFlit 3 pe n 0 0 0) (setRx t n latched (clearHead t n s))
      | none => setRx t n latched (clearHead t n s)
  | 2 =>
    match e.st with
    | 3 => sendCtl t e.stile (ctlFlit 7 e.sep n 0 0 0) (setRx t n { e with st := 5 } s)
    | 4 => setRx t n (rxClosed e) s
    | 1 => setRx t n (rxClosed e) s
    | 2 =>
      match e.held with
      | some (pt, pe) => sendCtl t pt (ctlFlit 3 pe n 0 0 0) (setRx t n (rxClosed e) s)
      | none => setRx t n (rxClosed e) s
    | _ => cmdign
  | 3 => cmdign
  | _ => s

/-- A HEAD write (R192): the units freed go back to the sender as a CREDIT; an invalid write traps its needle. -/
def headWrite (t n h nc : Nat) (s : State) : State :=
  let e := getRx s t n
  if e.st ≠ 3 ∧ e.st ≠ 4 then s
  else
    let adv := (h + ringUnits e - e.head) % ringUnits e
    if h < ringUnits e ∧ adv ≤ e.unread then
      let s1 := setRx t n { e with head := h, unread := e.unread - adv } s
      if e.st = 3 ∧ adv ≠ 0 then sendCtl t e.stile (ctlFlit 4 e.sep n adv 0 0) s1 else s1
    else trapNeedle t nc 0x0215 (strandObj t n true) (tileSrc e.stile nc) s

/-- The endpoints' response to an engine-port write: every needle word that the write includes a byte of (R184). -/
def endpointAct (t off n nc : Nat) (s : State) : State :=
  let tb := tableOff s t
  let hit : Nat → Bool := fun o => meets off n o 4
  let tx := (List.range 32).foldl (fun s m =>
    if hit (tb + m * 16) then txCommand t m (storeLE s t (tb + m * 16) 4) nc s else s) s
  (List.range 32).foldl (fun s m =>
    let o := tb + 0x200 + m * 16
    let s1 := if hit o then rxCommand t m (storeLE s t o 4) nc s else s
    if hit (o + 8) then headWrite t m (bitsOf (storeLE s t (o + 8) 4) 0 15) nc s1 else s1) tx

/-- A write of n bytes through the engine port by needle nc: refused where it meets an unread span (R191); else the
half-rows are flushed, the bytes written and the endpoints act (R53, R184). The Bool says whether it was done. -/
def engineWrite (t off n v nc : Nat) (s : State) : State × Bool :=
  match overrunAt s t off n with
  | some m => (trapNeedle t nc 0x0216 (strandObj t m true) (tileSrc (getRx s t m).stile nc) s, false)
  | none =>
    let s1 := wrLE (storeBase t + off) n v (flushRange t off n s)
    (if meets off n (tableOff s1 t) 1024 then endpointAct t off n nc s1 else s1, true)

/-! ### Waits of a needle that its tile's state shows (R97, R423) -/

/-- The ASHPs that wait, and ARY_STATUS.RESHAPE with them (R97, Table 4.8). -/
def setAshps (t : Nat) (l : List (Nat × Nat)) (s : State) : State :=
  wr { s with ashps := l } ARY_STATUS_RESHAPE t 0 (if l.any (fun x => x.1 == t) then 1 else 0)

/-- An ASHP of needle nc waits for its grant, or waits no more. -/
def ashpWaits (t nc : Nat) (s : State) : State := setAshps t (s.ashps.filter (fun x => x != (t, nc)) ++ [(t, nc)]) s
def ashpDone (t nc : Nat) (s : State) : State := setAshps t (s.ashps.filter (fun x => x != (t, nc))) s

/-- What waits of a needle forgotten, as it stops. -/
def dropWaits (t nc : Nat) (s : State) : State :=
  let s1 : State := { s with outWait := s.outWait.filter (fun x => x != (t, nc)) }
  if s1.ashps.contains (t, nc) then ashpDone t nc s1 else s1

/-- An instruction of needle nc at its tile's outbound unit (R423): the unit takes one at a time, in the order in which they
reached it. One that must wait is put down in that order and changes nothing else. -/
def outbound (t nc : Nat) (act : State → State) (s : State) : State :=
  let busy := s.outb.any (fun o => o.tile == t && decide (o.who < 3))
  let next := match s.outWait.find? (fun x => x.1 == t) with | some x => x.2 == nc | none => true
  if busy || !next then
    (if s.outWait.contains (t, nc) then s else { s with outWait := s.outWait ++ [(t, nc)] })
  else act { s with outWait := s.outWait.filter (fun x => x != (t, nc)) }

/-! ### Flags (R76) -/

/-- A needle's sticky flags set. -/
def setFlags (t nc fl : Nat) (s : State) : State := if fl = 0 then s else wrOr s NDL_FLAGS t nc fl

/-! ### The generator (R124, R125) -/

/-- The tile generator's 116-bit count (Table 5.8). -/
def rngCount (s : State) (t : Nat) : Nat :=
  rd s PRL_RNG_C0_C0 t 0 + 2 ^ 32 * rd s PRL_RNG_C1_C1 t 0 + 2 ^ 64 * rd s PRL_RNG_C2_C2 t 0 + 2 ^ 96 * rd s PRL_RNG_C3_C3 t 0

/-- The count set, modulo 2^116. -/
def setRngCount (t v : Nat) (s : State) : State :=
  wr (wr (wr (wr s PRL_RNG_C0_C0 t 0 v) PRL_RNG_C1_C1 t 0 (v / 2 ^ 32)) PRL_RNG_C2_C2 t 0 (v / 2 ^ 64))
    PRL_RNG_C3_C3 t 0 (v / 2 ^ 96)

/-- The tile generator's output for a count (R124). -/
def rngOut (s : State) (t count : Nat) : Nat :=
  let key := (mapGet 0 s.genKey t).toNat
  mix128 (BitVec.ofNat 32 key) (BitVec.ofNat 32 (key / 2 ^ 32)) (count % 2 ^ 116 + 2 ^ 116 * t)

/-- The 16-bit draw of element i of a reservation of base b (R125). -/
def rngDraw (s : State) (t b i : Nat) : Nat := bitsOf (rngOut s t (b + i / 8)) (16 * (i % 8)) 16

/-- The gauge counters of the tile, and the report's flags and policy errors, for an instruction of needle nc at word
index pc (R127, R128, Table 18.7). The Bool asks for the record of R129 to trap once the result is written. -/
def gaugeCount (t : Nat) (r : GaugeRep) (s : State) : State :=
  let s1 := incS s PRL_GSAT_GSAT PRL_GSTICKY_SGSAT t 0 r.sat
  let s2 := incS s1 PRL_GPICOT_GPICOT PRL_GSTICKY_SGPICOT t 0 r.picots
  let s3 := incS s2 PRL_GESC_GESC PRL_GSTICKY_SGESC t 0 r.escs
  incS s3 PRL_GNAN_GNAN PRL_GSTICKY_SGNAN t 0 r.nans

/-- The OBJECT and SOURCE words of GAUGE_ESC and NAN_MET (Table 18.7). -/
def gaugeObj (t elem blk : Nat) : Nat := t + 2 ^ 16 * elem + 2 ^ 21 * (blk % 2 ^ 11)
def gaugeSrc (t nc pc : Nat) : Nat := t + 2 ^ 12 * nc + 2 ^ 16 * pc

/-- The policy's response to escape blocks and NaN sources (R128): at most one record each, the needle to TRAP where
the policy says so. Of an instruction that meets both, GAUGE_ESC is raised first, so that where the tile's slot has room
for one record NAN_MET is the one dropped: the spec gives no order. DESIGN CHOICE (log entry 103). -/
def gaugePolicy (t nc pc : Nat) (r : GaugeRep) (s : State) : State :=
  let p := (partOfTile s t).getD 0
  let pol := rd s CRS_XPOL_GAUGE p 0
  let npol := rd s CRS_XPOL_NAN p 0
  let s1 := match r.firstEsc with
    | some b => if pol = 0 then s else tileFail t nc 0x020D (decide (2 ≤ pol)) (gaugeObj t 0 b) (gaugeSrc t nc pc) s
    | none => s
  match r.firstNan with
  | some (b, e) => if npol = 0 then s1 else tileFail t nc 0x020E (decide (2 ≤ npol)) (gaugeObj t e b) (gaugeSrc t nc pc) s1
  | none => s1

/-- The gauge settings of a tile's partition (R116, R117, Table 3.12). -/
def gaugePolOf (s : State) (t : Nat) (ceil : Option Nat) : GaugePol :=
  let p := (partOfTile s t).getD 0
  ⟨rdB s CRS_XPOL_PICOT p 0, rdB s CRS_XPOL_OUTLIER p 0, a1Of s (partOfTile s t), ceil⟩

/-! ### Resets of a tile -/

/-- A needle's registers cleared and its PC set to 0 (Table 2.2). -/
def clearNeedle (t nc : Nat) (s : State) : State :=
  { s with
    sreg := mapClear s.sreg (nkey t nc * 32) 32
    areg := mapClear s.areg (nkey t nc * 16) 16
    vreg := mapClear s.vreg (nkey t nc * 2048) 2048
    preg := mapClear s.preg (nkey t nc * 8) 8
    young := s.young.filter (fun y => !(ofNeedle t nc y))
    pcs := mapClear s.pcs (nkey t nc) 1 }

/-- The waiters of a tile withdrawn without error (Table 7.4). -/
def dropWaiters (t : Nat) (s : State) : State :=
  { s with
    waiters := s.waiters.filter (fun w => w.tile != t)
    released := s.released.filter (fun w => w.1 != t)
    trapLater := s.trapLater.filter (fun w => w.1 != t)
    stalls := s.stalls.filter (fun w => w.1 != t) }

/-- The strand endpoints of a tile under a TILE reset: TX endpoints close, RX endpoints orphan (Tables 8.3, 8.4). -/
def resetEndpoints (t : Nat) (s : State) : State :=
  let s1 := (List.range 32).foldl (fun s n =>
    let e := getTx s t n
    if e.st = 1 ∨ e.st = 2 ∨ e.st = 3 then sendCtl t e.dtile (ctlFlit 5 n e.dep 0 0 0) (setTx t n { e with st := 4 } s) else s) s
  (List.range 32).foldl (fun s n =>
    let e := getRx s t n
    match e.st with
    | 3 => sendCtl t e.stile (ctlFlit 7 e.sep n 0 0 0) (setRx t n { e with st := 5 } s)
    | 4 => setRx t n (rxClosed e) s
    | 1 => setRx t n (rxClosed e) s
    | 2 =>
      match e.held with
      | some (pt, pe) => sendCtl t pt (ctlFlit 3 pe n 0 0 0) (setRx t n (rxClosed e) s)
      | none => setRx t n (rxClosed e) s
    | _ => s) s1

/-- What a TILE or wider reset does to a tile's core (R61, R94, Table 4.3, R73): needles, instruction buffer, gather
buffer, landing windows, slots, flags, arbiters, array and slip path; store and table memory are kept. -/
def resetTileCore (t : Nat) (s : State) : State :=
  let s0 := dropWaiters t ([0, 1, 2].foldl (fun s n => clearNeedle t n s) s)
  let s1 : State := { s0 with
    ipage := mapClear s0.ipage (t * 8) 8
    ibuf := mapClear s0.ibuf (t * 4096) 4096
    fills := s0.fills.filter (fun f => f.tile != t)
    prlLoads := s0.prlLoads.filter (fun f => f.tile != t)
    gather := s0.gather.filter (fun g => g.tile != t)
    arb := mapClear s0.arb (t * 16) 16
    acc := mapClear s0.acc (16384 * t) 16384
    accR := mapClear s0.accR (16384 * t) 16384
    latch := mapClear s0.latch (16384 * t) 16384
    wbuf := mapClear s0.wbuf (16384 * t) 16384
    wform := mapClear s0.wform (t * 2) 2
    wloads := s0.wloads.filter (fun w => w.tile != t)
    flights := s0.flights.filter (fun f => f.tile != t)
    outb := s0.outb.filter (fun o => o.tile != t)
    ashps := s0.ashps.filter (fun x => x.1 != t)
    outWait := s0.outWait.filter (fun x => x.1 != t)
    castDone := mapClear s0.castDone t 1 }
  let fields : List Field := [TST_CTRL_GATHER, TST_LW_BASE_BASE, TST_LW_LEN_LEN, TST_LW_CTRL_STITCH, TST_LW_CTRL_UNIT,
    TST_LW_CTRL_AUTOCLOSE, TST_LW_CTRL_SIGNAL, TST_LW_CTRL_STATE, TST_LW_COUNT_COUNT, TST_LW_LATE_LATE, PRL_CTRL_EN,
    PRL_STATUS_LBUSY, PRL_STATUS_SLOTVALID, NDL_FLAGS, NDL_STATE, TILE_IFILL_BUSY, TILE_STATUS_INTERLOCK, TILE_LTAG_LTAG,
    ARY_STATUS_FORM, ARY_STATUS_RESHAPE, ARY_STATUS_BST, ARY_STATUS_BFMT, ARY_STATUS_BMODE, TILE_CSTAT_STATE,
    TILE_CSTAT_CWAIT, TILE_CSTAT_CPC]
  fields.foldl (fun s f => (List.range f.cnt).foldl (fun s n => wrReset s f t n) s) s1

/-- A TILE reset (R61). -/
def resetTile (t : Nat) (s : State) : State := resetEndpoints t (resetTileCore t s)

end Sys2Proof.Machine
end

