-- ==== Sys2Proof/Machine/Operands.lean ====
section
/-! DEFINITION. Instruction words (`03_tile_instruction_set.md`): the fields of Tables 3.1 and 3.2, the words that R63
refuses, the guard (R64), effective addresses (R66), and how a word issues (R45, R46, R62 to R64, R68). -/

namespace Sys2Proof.Machine

/-! ### Fields -/

/-- A field of an instruction word. -/
def wf (w : W64) (lo n : Nat) : Nat := bitsOf w.toNat lo n

def wOP (w : W64) : Nat := wf w 58 6
def wFN (w : W64) : Nat := wf w 54 4
def wPG (w : W64) : Nat := wf w 51 3
def wRD (w : W64) : Nat := wf w 46 5
def wRA (w : W64) : Nat := wf w 41 5
def wRB (w : W64) : Nat := wf w 36 5
def wRC (w : W64) : Nat := wf w 31 5
def wRM (w : W64) : Nat := wf w 29 2
def wEXT (w : W64) : Nat := wf w 0 29
def wIMM (w : W64) : Nat := wf w 0 32
def wAN (w : W64) : Nat := wf w 42 4
def wBRA (w : W64) : Nat := wf w 46 5
def wBRB (w : W64) : Nat := wf w 41 5
def wTARGET (w : W64) : Nat := wf w 0 12
def wCOUNT (w : W64) : Nat := wf w 31 15
def wTCLASS (w : W64) : Nat := wf w 28 3
def wSTITCH (w : W64) : Nat := wf w 0 14
def wAD (w : W64) : Nat := wf w 38 4
def wTGT (w : W64) : Nat := wf w 30 8
def wFMT1 (w : W64) : Nat := wf w 38 4
def wFMT2 (w : W64) : Nat := wf w 34 4
def wMODE (w : W64) : Nat := wf w 32 2
def wBUF (w : W64) : Nat := wf w 31 1
def wN (w : W64) : Nat := wf w 16 13
def wACC (w : W64) : Nat := wf w 8 8
def wPD (w : W64) : Nat := wf w 28 3
def wSLOT (w : W64) : Nat := wf w 21 4

/-- SRCF, DSTF and G of a CVT (R82). -/
def wSRCF (w : W64) : Nat := wf w 25 4
def wDSTF (w : W64) : Nat := wf w 21 4
def wG (w : W64) : Nat := wf w 20 1

/-- A 32-bit field as a signed number. -/
def sx32 (v : Nat) : Int := (BitVec.ofNat 32 v).toInt

/-- Whether a word carries an opcode and a function of a table row. -/
def isOp (w : W64) (op : Nat) (fn : Nat → Bool) : Bool := wOP w == op && fn (wFN w)

/-! ### Words that R63 refuses -/

/-- The part count of a CVT's narrow format (Table 5.5). -/
def cvtParts (f : Nat) : Nat :=
  match f with
  | 1 | 6 | 8 | 9 => 2
  | 5 => 16
  | _ => 4

/-- Whether a CVT word is one that Table 5.5, R112 and R115 accept. -/
def cvtLawful (w : W64) : Bool :=
  let src := wSRCF w
  let dst := wDSTF w
  wf w 0 20 == 0 && decide (src ≤ 12) && decide (dst ≤ 12) &&
  (if src = 4 ∧ dst = 4 then decide (wRM w < 2) && wG w == 0 && wRB w == 0 && wRC w == 0
   else if src = 0 ∧ dst ≠ 0 then
     decide (wRC w < 16) && decide (wRC w < cvtParts dst) && (wRB w == 0 || dst == 4 || dst == 5) &&
     (wG w == 0 || decide (dst < 8))
   else if dst = 0 ∧ src ≠ 0 then
     decide (wRC w < 16) && decide (wRC w < cvtParts src) && wRB w == 0 && wG w == 0
   else false)

/-- A weight format that AWL and SLV take (Table 3.4). -/
def fmtWeight (f : Nat) : Bool := decide (1 ≤ f ∧ f ≤ 5)

/-- An activation format that AMM and SLV take (Table 3.4). -/
def fmtAct (f : Nat) : Bool := decide (1 ≤ f ∧ f ≤ 4)

/-- Whether a word with an assigned opcode and function has every reserved bit zero and every register, TGT, SLOT and
format code in range (R63, Tables 3.2 to 3.4, R91, R96). -/
def lawful (w : W64) : Bool :=
  let fn := wFN w
  let rPlain := wEXT w == 0 && wRM w == 0
  let aRes := wf w 29 2 == 0 && wf w 0 8 == 0
  match wOP w with
  | 0x01 => wf w 0 51 == 0
  | 0x02 => wf w 12 29 == 0 && (decide (fn < 7) || (decide (wBRA w < 8) && wBRB w == 0))
  | 0x03 => rPlain
  | 0x04 => rPlain && (decide (fn < 15) || (wRA w == 0 && wRB w == 0))
  | 0x05 => wf w 32 9 == 0
  | 0x06 => rPlain && (decide (1 < fn) || decide (wRD w < 16)) && (fn == 1 || decide (wRA w < 16))
  | 0x07 => wf w 32 9 == 0 && decide (wRD w < 16) && decide (wRA w < 16)
  | 0x08 | 0x09 | 0x0A | 0x0B => wf w 32 10 == 0
  | 0x0C => wEXT w == 0 && (decide (fn < 6) || decide (8 < fn) || decide (wRD w < 8))
  | 0x0D => rPlain
  | 0x0E => cvtLawful w
  | 0x0F => wf w 0 21 == 0
  | 0x10 => aRes && fmtWeight (wFMT1 w)
  | 0x11 => aRes && fmtAct (wFMT2 w) && decide (wMODE w < 2)
  | 0x12 => aRes && (decide (fn ≠ 2) || (decide (wMODE w < 2) && decide (1 ≤ wFMT1 w ∧ wFMT1 w ≤ 4)))
  | 0x13 => aRes && decide (wMODE w < 2)
  | 0x14 => aRes && fmtWeight (wFMT1 w) && fmtAct (wFMT2 w) && decide (wMODE w < 2)
  | 0x18 => wf w 14 14 == 0
  | 0x19 => wf w 14 14 == 0 && (fn == 0 || wCOUNT w == 0)
  | 0x1A => wf w 14 14 == 0 && wf w 4 10 == 0 && wCOUNT w == 0 && wTCLASS w == 0
  | 0x1B => wf w 14 16 == 0
  | 0x1C => wf w 14 16 == 0 && decide (wTGT w < 32)
  | 0x1D => wf w 14 16 == 0
  | 0x1E => wf w 14 16 == 0 && decide (wTGT w < 12)
  | 0x1F => wf w 32 9 == 0 && wf w 11 21 == 0 && wf w 7 1 == 0
  | _ => false

/-- Whether Table 3.3 assigns the word's opcode and function, and its MODE where a row names it (AWL MODE 3). -/
def assigned (w : W64) : Bool :=
  let fn := wFN w
  match wOP w with
  | 0x02 => decide (fn < 9)
  | 0x04 | 0x0D => true
  | 0x05 => decide (fn < 15)
  | 0x06 => decide (fn < 4)
  | 0x08 => decide (fn < 5)
  | 0x09 | 0x12 | 0x1A => decide (fn < 3)
  | 0x0C => decide (fn < 11)
  | 0x10 => fn == 0 && decide (wMODE w < 3)
  | 0x18 | 0x19 | 0x1B => decide (fn < 2)
  | 0x01 | 0x03 | 0x07 | 0x0A | 0x0B | 0x0E | 0x0F | 0x11 | 0x13 | 0x14 | 0x1C | 0x1D | 0x1E | 0x1F => fn == 0
  | _ => false

/-! ### Issue -/

/-- The lanes in which a word executes: its guard predicate (R64). -/
def guardMask (s : State) (t nc : Nat) (w : W64) : Nat := getP s t nc (wPG w)

/-- Whether the guard lets a word execute: bit 0, or any lane for the vector and purl classes (R64). -/
def guardOn (s : State) (t nc : Nat) (w : W64) : Bool :=
  if 0x0C ≤ wOP w ∧ wOP w ≤ 0x0F then guardMask s t nc w != 0 else guardMask s t nc w % 2 == 1

/-- Whether needle nc of tile t stands before a word that it can fetch: it is in RUN, holds no transfer whose source is
still being read (R423), and no fill of its PC's page is in progress (R46). -/
def canFetch (s : State) (t nc : Nat) : Bool :=
  decide (t < 2304) && needleState s t nc == nsRun && !(s.outb.any (fun o => o.tile == t && o.who == nc)) &&
  !(s.fills.any (fun f => f.tile == t && f.page == getPC s t nc / 512))

/-- Whether the page of needle nc's PC is valid (R45). -/
def pageValid (s : State) (t nc : Nat) : Bool := mapGet false s.ipage (t * 8 + getPC s t nc / 512)

/-- The word at needle nc's PC. -/
def wordAt (s : State) (t nc : Nat) : W64 := mapGet 0 s.ibuf (t * 4096 + getPC s t nc)

/-- A trapping error of needle nc whose record names the word index (R63, Table 18.7). -/
def trapAtPC (t nc code : Nat) (s : State) : State :=
  trapNeedle t nc code (tileObj t (getPC s t nc)) (tileSrc t nc) s

/-- Needle n of tile t issues word w, which a row's command names. `row` says that the word is that row's; a word it
cannot issue leaves everything unchanged, an invalid page raises IBUF_MISS, a word that R63 refuses ILLEGAL_OP, and a
false guard only moves the PC on (R45, R46, R62 to R64). Registers are read as R69 has them. -/
def issue (t : Nat) (n : Needle) (w : W64) (row ok : Bool) (act : State → State) (s : State) : State :=
  let nc := needleCode n
  if !(canFetch s t nc) then s
  else if !(pageValid s t nc) then trapAtPC t nc 0x0201 s
  else if wordAt s t nc != w || !row then s
  else if !ok then trapAtPC t nc 0x0208 s
  else
    let s1 := seen t nc s
    let s2 := if !(guardOn s1 t nc w) then advance t nc s1 else act s1
    settle t nc (getPC s2 t nc != getPC s t nc || needleState s2 t nc != nsRun) s2

/-- A tile's use of a unit in its course noted for the overdraw check (R362): bit 0 the purl fabric, bit 1 the slip path,
and from bit 2 on the credits of the array row of its highest-cost format. -/
def noteUse (t purl slip cost : Nat) (s : State) : State :=
  let v := mapGet 0 s.pw.usage t
  { s with pw.usage := mapSet 0 s.pw.usage t (max (v % 2) purl + 2 * max (v / 2 % 2) slip + 4 * max (v / 4) cost) }

/-- The needle that a grant point of an arbitrated unit grants, and the state with the arbiter's accumulators after it:
`rq` names the needles that request (R42). The unit's effect runs when the granted needle is n. -/
def granted (t : Nat) (n : Needle) (unit rq : Nat) (act : State → State) (s : State) : State :=
  match arbitrate s t unit (reqList rq) with
  | some (win, s1) =>
    if win ≠ needleCode n then s
    else if unit = 1 then noteUse t 0 1 0 (act s1)
    else if unit = 2 then noteUse t 1 0 0 (act s1)
    else act s1
  | none => s

/-- Units of Table 2.3. -/
def unitArray : Nat := 0
def unitSlip : Nat := 1
def unitPurl : Nat := 2
def unitEngine : Nat := 3

/-- A signed sum into an address register: modulo 2^48 (Table 3.3, AALU). -/
def addrAdd (a : Nat) (d : Int) : Nat := (((a : Int) + d) % (2 : Int) ^ 48).toNat

/-- An effective address a[AN] + OFS, modulo 2^48 (R66). -/
def effAddr (s : State) (t nc : Nat) (w : W64) : Nat := addrAdd (getA s t nc (wAN w)) (sx32 (wIMM w))

end Sys2Proof.Machine
end

