-- ==== Sys2Proof/Machine/Scalar.lean ====
section
/-! DEFINITION. Control flow, the scalar and address instructions, and the loads and stores of a needle (Tables 3.3 and
3.6, R62, R65, R66, R72, R76, R77). -/

namespace Sys2Proof.Machine

/-! ### Control flow -/

/-- ILL: opcode 0x00, and every word whose opcode or function Table 3.3 does not assign, raises ILLEGAL_OP. -/
def execIll (t : Nat) (n : Needle) (w : W64) (s : State) : Host.Outcome State Fault Refusal :=
  .next (issue t n w (!(assigned w)) false id s)

/-- Every register of a needle at its newest value, with no older one in reach (R72). -/
def readAll (t nc : Nat) (s : State) : State :=
  let s1 := (s.young.filter (ofNeedle t nc)).foldl (fun s y => restoreReg y s) s
  { s1 with young := s1.young.filter (fun y => !(ofNeedle t nc y)) }

/-- The effect of END: the needle enters DONE with its PC at the next word (Table 2.2), once no AMM or SLV result of
the needle is in flight; every other result has then become readable (R72). -/
def endEffect (t nc : Nat) (s : State) : State :=
  if s.flights.any (fun f => f.tile == t && f.needle == nc) then s
  else wr (advance t nc (readAll t nc s)) NDL_STATE t nc nsDone

/-- END. -/
def execEnd (t : Nat) (n : Needle) (w : W64) (s : State) : Host.Outcome State Fault Refusal :=
  .next (issue t n w (isOp w 0x01 (· == 0)) (lawful w) (endEffect t (needleCode n)) s)

/-- Whether a branch word is taken (Table 3.3, BR). -/
def brTaken (s : State) (t nc : Nat) (w : W64) : Bool :=
  match wFN w with
  | 7 => getP s t nc (wBRA w) % 2 == 1
  | 8 => getP s t nc (wBRA w) % 2 == 0
  | fn => brCond fn (getS s t nc (wBRA w)) (getS s t nc (wBRB w))

/-- The effect of BR. -/
def brEffect (t nc : Nat) (w : W64) (s : State) : State :=
  if brTaken s t nc w then setPC t nc (wTARGET w) s else advance t nc s

/-- BR. -/
def execBr (t : Nat) (n : Needle) (w : W64) (s : State) : Host.Outcome State Fault Refusal :=
  .next (issue t n w (isOp w 0x02 (fun f => decide (f < 9))) (lawful w) (brEffect t (needleCode n) w) s)

/-- The effect of JR: a target above 4,095 raises ILLEGAL_OP. -/
def jrEffect (t nc : Nat) (w : W64) (s : State) : State :=
  let v := (getS s t nc (wRA w)).toNat
  if v < 4096 then setPC t nc v s else trapAtPC t nc 0x0208 s

/-- JR. -/
def execJr (t : Nat) (n : Needle) (w : W64) (s : State) : Host.Outcome State Fault Refusal :=
  .next (issue t n w (isOp w 0x03 (· == 0)) (lawful w) (jrEffect t (needleCode n) w) s)

/-! ### Scalar and address arithmetic -/

/-- A scalar result written with its flags, and the needle goes on. -/
def scalarResult (t nc rd : Nat) (r : W32 × Nat) (s : State) : State :=
  advance t nc (setFlags t nc r.2 (writeReady t nc kindS rd latLS (setS t nc rd r.1) s))

/-- The effect of SALU. -/
def saluEffect (t nc : Nat) (w : W64) (s : State) : State :=
  scalarResult t nc (wRD w) (intFn (wFN w) (getS s t nc (wRA w)) (getS s t nc (wRB w))) s

/-- SALU. -/
def execSalu (t : Nat) (n : Needle) (w : W64) (s : State) : Host.Outcome State Fault Refusal :=
  .next (issue t n w (isOp w 0x04 (fun f => decide (f < 15))) (lawful w) (saluEffect t (needleCode n) w) s)

/-- The effect of SALUI. -/
def saluiEffect (t nc : Nat) (w : W64) (s : State) : State :=
  scalarResult t nc (wRD w) (intFn (wFN w) (getS s t nc (wRA w)) (BitVec.ofNat 32 (wIMM w))) s

/-- SALUI. -/
def execSalui (t : Nat) (n : Needle) (w : W64) (s : State) : Host.Outcome State Fault Refusal :=
  .next (issue t n w (isOp w 0x05 (fun f => decide (f < 15))) (lawful w) (saluiEffect t (needleCode n) w) s)

/-- The effect of SFLG: the needle's flags into s[RD], then cleared (R76). -/
def sflgEffect (t nc : Nat) (w : W64) (s : State) : State :=
  advance t nc (wr (writeReady t nc kindS (wRD w) latLS (setS t nc (wRD w) (BitVec.ofNat 32 (rd s NDL_FLAGS t nc))) s) NDL_FLAGS t nc 0)

/-- SFLG. -/
def execSflg (t : Nat) (n : Needle) (w : W64) (s : State) : Host.Outcome State Fault Refusal :=
  .next (issue t n w (isOp w 0x04 (· == 15)) (lawful w) (sflgEffect t (needleCode n) w) s)

/-- The effect of AALU ADD. -/
def aaluAddEffect (t nc : Nat) (w : W64) (s : State) : State :=
  advance t nc (setA t nc (wRD w) (addrAdd (getA s t nc (wRA w)) (getS s t nc (wRB w)).toInt) s)

/-- AALU ADD. -/
def execAaluAdd (t : Nat) (n : Needle) (w : W64) (s : State) : Host.Outcome State Fault Refusal :=
  .next (issue t n w (isOp w 0x06 (· == 0)) (lawful w) (aaluAddEffect t (needleCode n) w) s)

/-- The effect of AALU MOVSA. -/
def movsaEffect (t nc : Nat) (w : W64) (s : State) : State :=
  advance t nc (setA t nc (wRD w) (getS s t nc (wRA w)).toNat s)

/-- AALU MOVSA. -/
def execMovsa (t : Nat) (n : Needle) (w : W64) (s : State) : Host.Outcome State Fault Refusal :=
  .next (issue t n w (isOp w 0x06 (· == 1)) (lawful w) (movsaEffect t (needleCode n) w) s)

/-- The effect of AALU MOVLO. -/
def movloEffect (t nc : Nat) (w : W64) (s : State) : State :=
  scalarResult t nc (wRD w) (BitVec.ofNat 32 (getA s t nc (wRA w) % 2 ^ 32), 0) s

/-- AALU MOVLO. -/
def execMovlo (t : Nat) (n : Needle) (w : W64) (s : State) : Host.Outcome State Fault Refusal :=
  .next (issue t n w (isOp w 0x06 (· == 2)) (lawful w) (movloEffect t (needleCode n) w) s)

/-- The effect of AALU MOVHI. -/
def movhiEffect (t nc : Nat) (w : W64) (s : State) : State :=
  scalarResult t nc (wRD w) (BitVec.ofNat 32 (getA s t nc (wRA w) / 2 ^ 32 % 2 ^ 16), 0) s

/-- AALU MOVHI. -/
def execMovhi (t : Nat) (n : Needle) (w : W64) (s : State) : Host.Outcome State Fault Refusal :=
  .next (issue t n w (isOp w 0x06 (· == 3)) (lawful w) (movhiEffect t (needleCode n) w) s)

/-- The effect of AALUI. -/
def aaluiEffect (t nc : Nat) (w : W64) (s : State) : State :=
  advance t nc (setA t nc (wRD w) (addrAdd (getA s t nc (wRA w)) (sx32 (wIMM w))) s)

/-- AALUI. -/
def execAalui (t : Nat) (n : Needle) (w : W64) (s : State) : Host.Outcome State Fault Refusal :=
  .next (issue t n w (isOp w 0x07 (· == 0)) (lawful w) (aaluiEffect t (needleCode n) w) s)

/-! ### Loads and stores (R66) -/

/-- The size of an LD's or ST's access and whether it sign-extends. -/
def ldSize (fn : Nat) : Nat × Bool :=
  match fn with
  | 0 => (1, false)
  | 1 => (1, true)
  | 2 => (2, false)
  | 3 => (2, true)
  | _ => (4, false)

/-- A loaded value extended to 32 bits. -/
def extendLd (fn v : Nat) : W32 :=
  match ldSize fn with
  | (1, true) => (BitVec.ofNat 8 v).signExtend 32
  | (2, true) => (BitVec.ofNat 16 v).signExtend 32
  | _ => BitVec.ofNat 32 v

/-- An effective address with the bits below the access size ignored. -/
def alignTo (a n : Nat) : Nat := a - a % n

/-- The effect of LD: a refused load writes zero. -/
def ldEffect (t nc : Nat) (w : W64) (s : State) : State :=
  let n := (ldSize (wFN w)).1
  let a := alignTo (effAddr s t nc w) n
  match ownOff t a n with
  | some off =>
    advance t nc (writeReady t nc kindS (wRD w) latLM (setS t nc (wRD w) (extendLd (wFN w) (storeLE s t off n))) s)
  | none => advance t nc (writeReady t nc kindS (wRD w) latLM (setS t nc (wRD w) 0) (refuseTile t nc a s))

/-- LD. -/
def execLd (t : Nat) (n : Needle) (w : W64) (rq : Nat) (s : State) : Host.Outcome State Fault Refusal :=
  .next (issue t n w (isOp w 0x08 (fun f => decide (f < 5))) (lawful w)
    (granted t n unitEngine rq (ldEffect t (needleCode n) w)) s)

/-- The effect of ST. -/
def stEffect (t nc : Nat) (w : W64) (s : State) : State :=
  let n := 2 ^ wFN w
  let a := alignTo (effAddr s t nc w) n
  match ownOff t a n with
  | some off => advance t nc (engineWrite t off n ((getS s t nc (wRD w)).toNat % 2 ^ (8 * n)) nc s).1
  | none => advance t nc (refuseTile t nc a s)

/-- ST. -/
def execSt (t : Nat) (n : Needle) (w : W64) (rq : Nat) (s : State) : Host.Outcome State Fault Refusal :=
  .next (issue t n w (isOp w 0x09 (fun f => decide (f < 3))) (lawful w)
    (granted t n unitEngine rq (stEffect t (needleCode n) w)) s)

/-- The effect of LDV: the row's gathered bytes are flushed first (R53). -/
def ldvEffect (t nc : Nat) (w : W64) (s : State) : State :=
  let a := alignTo (effAddr s t nc w) 256
  match ownOff t a 256 with
  | some off =>
    let s1 := flushRange t off 256 s
    advance t nc (writeReady t nc kindV (wRD w) latLV (setVec t nc (wRD w) allLanes (storeLE s1 t off 256)) s1)
  | none => advance t nc (writeReady t nc kindV (wRD w) latLV (setVec t nc (wRD w) allLanes 0) (refuseTile t nc a s))

/-- LDV. -/
def execLdv (t : Nat) (n : Needle) (w : W64) (rq : Nat) (s : State) : Host.Outcome State Fault Refusal :=
  .next (issue t n w (isOp w 0x0A (· == 0)) (lawful w) (granted t n unitEngine rq (ldvEffect t (needleCode n) w)) s)

/-- The effect of STV. -/
def stvEffect (t nc : Nat) (w : W64) (s : State) : State :=
  let a := alignTo (effAddr s t nc w) 256
  match ownOff t a 256 with
  | some off => advance t nc (engineWrite t off 256 (getVec s t nc (wRD w)) nc s).1
  | none => advance t nc (refuseTile t nc a s)

/-- STV. -/
def execStv (t : Nat) (n : Needle) (w : W64) (rq : Nat) (s : State) : Host.Outcome State Fault Refusal :=
  .next (issue t n w (isOp w 0x0B (· == 0)) (lawful w) (granted t n unitEngine rq (stvEffect t (needleCode n) w)) s)

end Sys2Proof.Machine
end

