-- ==== Sys2Proof/Machine/Vector.lean ====
section
/-! DEFINITION. The purl fabric's instructions: VFP, VINT, VBC, CVT and PRUN (R58, R59, R75 to R80, R82, R112 to R115,
R125). -/

namespace Sys2Proof.Machine

/-! ### FP32 and integer lanes -/

/-- A lane of a vector register as an FP32 code. -/
def laneCode (s : State) (t nc r i : Nat) : Nat := (getLane s t nc r i).toNat

/-- A lane-by-lane result of class LF: `f i` is lane i's code and flags (R64, R76). -/
def laneResult (t nc : Nat) (w : W64) (f : Nat → Nat × Nat) (s : State) : State :=
  let m := guardMask s t nc w
  advance t nc (setFlags t nc (laneFlags m (fun i => (f i).2))
    (writeReady t nc kindV (wRD w) latLF (setLanes t nc (wRD w) m (fun i => (f i).1)) s))

/-- The effect of a VFP function of v[RA], v[RB] and v[RC] under RM. -/
def vfpEffect (op : Rnd → Nat → Nat → Nat → Nat × Nat) (t nc : Nat) (w : W64) (s : State) : State :=
  laneResult t nc w (fun i =>
    op (rndOfRM (wRM w)) (laneCode s t nc (wRA w) i) (laneCode s t nc (wRB w) i) (laneCode s t nc (wRC w) i)) s

/-- The effect of a VFP compare: p[RD] in the guarded lanes, with the flags of each. -/
def vcmpEffect (op : FVal → FVal → Bool × Nat) (t nc : Nat) (w : W64) (s : State) : State :=
  let m := guardMask s t nc w
  let f : Nat → Bool × Nat := fun i => op (val32 (laneCode s t nc (wRA w) i)) (val32 (laneCode s t nc (wRB w) i))
  advance t nc (setFlags t nc (laneFlags m (fun i => (f i).2))
    (writeReady t nc kindP (wRD w) latLF
      (fun s => setP t nc (wRD w) (predBits (getP s t nc (wRD w)) m (fun i => (f i).1)) s) s))

/-- A VFP word of function fn issued through the purl fabric's arbiter. -/
def issueVfp (fn : Nat) (eff : Nat → Nat → W64 → State → State) (t : Nat) (n : Needle) (w : W64) (rq : Nat) (s : State) :
    State :=
  issue t n w (isOp w 0x0C (· == fn)) (lawful w) (granted t n unitPurl rq (eff t (needleCode n) w)) s

/-- FADD: a + b. -/
def execFadd (t : Nat) (n : Needle) (w : W64) (rq : Nat) (s : State) : Host.Outcome State Fault Refusal :=
  .next (issueVfp 0 (vfpEffect (fun r a b _ => fadd32 r (val32 a) (val32 b))) t n w rq s)

/-- FSUB: a − b. -/
def execFsub (t : Nat) (n : Needle) (w : W64) (rq : Nat) (s : State) : Host.Outcome State Fault Refusal :=
  .next (issueVfp 1 (vfpEffect (fun r a b _ => fsub32 r (val32 a) (val32 b))) t n w rq s)

/-- FMUL: a × b. -/
def execFmul (t : Nat) (n : Needle) (w : W64) (rq : Nat) (s : State) : Host.Outcome State Fault Refusal :=
  .next (issueVfp 2 (vfpEffect (fun r a b _ => fmul32 r (val32 a) (val32 b))) t n w rq s)

/-- FMA: a × b + c. -/
def execFma (t : Nat) (n : Needle) (w : W64) (rq : Nat) (s : State) : Host.Outcome State Fault Refusal :=
  .next (issueVfp 3 (vfpEffect (fun r a b c => fma32 r (val32 a) (val32 b) (val32 c))) t n w rq s)

/-- FMIN. -/
def execFmin (t : Nat) (n : Needle) (w : W64) (rq : Nat) (s : State) : Host.Outcome State Fault Refusal :=
  .next (issueVfp 4 (vfpEffect (fun _ a b _ => fminmax32 false a b)) t n w rq s)

/-- FMAX. -/
def execFmax (t : Nat) (n : Needle) (w : W64) (rq : Nat) (s : State) : Host.Outcome State Fault Refusal :=
  .next (issueVfp 5 (vfpEffect (fun _ a b _ => fminmax32 true a b)) t n w rq s)

/-- FCMPEQ. -/
def execFcmpeq (t : Nat) (n : Needle) (w : W64) (rq : Nat) (s : State) : Host.Outcome State Fault Refusal :=
  .next (issueVfp 6 (vcmpEffect fcmpEq) t n w rq s)

/-- FCMPLT. -/
def execFcmplt (t : Nat) (n : Needle) (w : W64) (rq : Nat) (s : State) : Host.Outcome State Fault Refusal :=
  .next (issueVfp 7 (vcmpEffect fcmpLt) t n w rq s)

/-- FCMPLE. -/
def execFcmple (t : Nat) (n : Needle) (w : W64) (rq : Nat) (s : State) : Host.Outcome State Fault Refusal :=
  .next (issueVfp 8 (vcmpEffect fcmpLe) t n w rq s)

/-- FNEG: the sign bit inverted, a NaN's payload kept, no flag. -/
def execFneg (t : Nat) (n : Needle) (w : W64) (rq : Nat) (s : State) : Host.Outcome State Fault Refusal :=
  .next (issueVfp 9 (vfpEffect (fun _ a _ _ => (negCode a, 0))) t n w rq s)

/-- FABS: the sign bit cleared, a NaN's payload kept, no flag. -/
def execFabs (t : Nat) (n : Needle) (w : W64) (rq : Nat) (s : State) : Host.Outcome State Fault Refusal :=
  .next (issueVfp 10 (vfpEffect (fun _ a _ _ => (absCode a, 0))) t n w rq s)

/-- The effect of VINT: Table 3.6 per lane. -/
def vintEffect (t nc : Nat) (w : W64) (s : State) : State :=
  laneResult t nc w (fun i =>
    let r := intFn (wFN w) (getLane s t nc (wRA w) i) (getLane s t nc (wRB w) i)
    (r.1.toNat, r.2)) s

/-- VINT. -/
def execVint (t : Nat) (n : Needle) (w : W64) (rq : Nat) (s : State) : Host.Outcome State Fault Refusal :=
  .next (issue t n w (isOp w 0x0D (fun f => decide (f < 15))) (lawful w)
    (granted t n unitPurl rq (vintEffect t (needleCode n) w)) s)

/-- The effect of VBC: every lane := s[RA]. -/
def vbcEffect (t nc : Nat) (w : W64) (s : State) : State :=
  laneResult t nc w (fun _ => ((getS s t nc (wRA w)).toNat, 0)) s

/-- VBC. -/
def execVbc (t : Nat) (n : Needle) (w : W64) (rq : Nat) (s : State) : Host.Outcome State Fault Refusal :=
  .next (issue t n w (isOp w 0x0D (· == 15)) (lawful w) (granted t n unitPurl rq (vbcEffect t (needleCode n) w)) s)

/-! ### Conversions -/

/-- The floating-point format of a format code (Table 3.4). -/
def fmtOfCode (c : Nat) : Fmt :=
  match c with
  | 1 => fmtBF16
  | 2 | 8 => fmtE4M3
  | 3 | 9 => fmtE5M2
  | 0xA => fmtE3M2
  | 0xB => fmtE2M3
  | 0xC => fmtE2M1
  | _ => fmtFP32

/-- The size of a part of a narrow format in bytes (Table 5.5); a T2 part is a record. -/
def partSize (c : Nat) : Nat :=
  match c with
  | 1 | 6 | 8 | 9 => 128
  | _ => 64

/-- 32 elements narrowed into format c as block `blk` of an instruction: the bytes of the block's half part and the
report. A T2 half part is its list of digits, as base-4 digits. -/
def narrow32 (c : Nat) (pol : GaugePol) (scale : Nat) (rnd : Nat → Rnd) (blk : Nat) (xs : List FVal) : Nat × GaugeRep :=
  match c with
  | 1 => let g := narrowFloats fmtBF16 rnd blk xs; (packN 16 g.codes, g.rep)
  | 2 => let g := narrowFloats fmtE4M3 rnd blk xs; (packN 8 g.codes, g.rep)
  | 3 => let g := narrowFloats fmtE5M2 rnd blk xs; (packN 8 g.codes, g.rep)
  | 4 => let g := gaugeZ4 pol rnd blk xs; (z4Record g.1, g.2)
  | 5 => let g := narrowT2 scale rnd blk xs; (packN 2 g.codes, g.rep)
  | 6 => let g := narrowInts 8 127 rnd blk xs; (packN 8 g.codes + 2 ^ 256 * g.scale, g.rep)
  | 7 => let g := narrowInts 4 7 rnd blk xs; (packN 4 g.codes + 2 ^ 128 * g.scale, g.rep)
  | 0xA | 0xB => let g := narrowMX (fmtOfCode c) rnd blk xs; (packN 6 g.codes + 2 ^ 192 * g.scale, g.rep)
  | 0xC => let g := narrowMX fmtE2M1 rnd blk xs; (packN 4 g.codes + 2 ^ 128 * g.scale, g.rep)
  | _ => let g := narrowMX (fmtOfCode c) rnd blk xs; (packN 8 g.codes + 2 ^ 256 * g.scale, g.rep)

/-- `n` bytes of a number replaced from byte `at` on. -/
def putBytes (x pos n v : Nat) : Nat := x - bitsOf x (8 * pos) (8 * n) * 2 ^ (8 * pos) + v % 2 ^ (8 * n) * 2 ^ (8 * pos)

/-- A 64 B record with the digits of trits `first` on replaced by the 64 of a part, and the scale (R113). -/
def putTrits (rec first digits scale : Nat) : Nat :=
  let r := (List.range 64).foldl (fun r i =>
    let b := (first + i) / 5
    putBytes r b 1 (tritSet (byteOf r b) (first + i) (bitsOf digits (2 * i) 2))) rec
  putBytes r 52 2 scale

/-- The whole destination register of a narrowing CVT, given its old value and both half parts (R112, R113). -/
def putPart (c p old h0 h1 scale : Nat) : Nat :=
  if c = 5 then
    putBytes old (64 * (p / 4)) 64 (putTrits (bitsOf old (512 * (p / 4)) 512) (64 * (p % 4)) (h0 + 2 ^ 64 * h1) scale)
  else
    let half := partSize c / 2
    putBytes old (p * partSize c) (partSize c) (h0 + 2 ^ (8 * half) * h1)

/-- The rounding of source element i of a conversion whose reservation has base b (R121, R125). -/
def rndAt (s : State) (t g rm b i : Nat) : Rnd := if g = 1 then .stochastic (rngDraw s t b i) else rndOfRM rm

/-- Half part b of a narrowing CVT: 32 source elements in the destination's format, and their report (R112, R116 to R122). -/
def narrowHalf (s : State) (t nc : Nat) (w : W64) (b : Nat) : Nat × GaugeRep :=
  let x := (getS s t nc (wRB w)).toNat
  let ceil := if wDSTF w = 4 ∧ bitsOf x 8 1 = 1 then some (bitsOf x 0 8) else none
  let base := rngCount s t
  narrow32 (wDSTF w) (gaugePolOf s t ceil) (x % 2 ^ 16) (fun i => rndAt s t (wG w) (wRM w) base (32 * b + i)) b
    ((((getLanes s t nc (wRA w)).map (fun v => val32 v.toNat)).drop (32 * b)).take 32)

/-- What a narrowing CVT makes of a destination register that holds `old` (R112, R113). -/
def narrowValue (s : State) (t nc : Nat) (w : W64) (old : Nat) : Nat :=
  putPart (wDSTF w) (wRC w) old (narrowHalf s t nc w 0).1 (narrowHalf s t nc w 1).1
    ((getS s t nc (wRB w)).toNat % 2 ^ 16)

/-- The narrowing CVT (R112 to R114, R116 to R122, R125, R127, R128). -/
def cvtNarrow (t nc : Nat) (w : W64) (s : State) : State :=
  let rep := gaugeRepAdd (narrowHalf s t nc w 0).2 (narrowHalf s t nc w 1).2
  let s1 := if wG w = 1 then setRngCount t (rngCount s t + 8) s else s
  let s2 := writeReady t nc kindV (wRD w) latLC
    (fun s' => setVec t nc (wRD w) (guardMask s t nc w) (narrowValue s t nc w (getVec s' t nc (wRD w))) s') s1
  gaugePolicy t nc (getPC s t nc) rep (gaugeCount t rep (setFlags t nc rep.flags (advance t nc s2)))

/-- Element i of a part p of a register in narrow format c, widened to FP32 with its flags (R104, R123, Table 5.7). -/
def widenElem (c p v i : Nat) : Nat × Nat :=
  let part := bitsOf v (8 * p * partSize c) (8 * partSize c)
  let blk := bitsOf part (4 * partSize c * (i / 32)) (4 * partSize c)
  let k := i % 32
  let times : Int → FVal → Nat × Nat := fun q g =>
    fmul32 .nearest (.fin ⟨decide (q < 0), q.natAbs, 0⟩) g
  match c with
  | 1 | 2 | 3 => widen32 (decodeF (fmtOfCode c) (bitsOf part (8 * partSize c / 64 * i) (8 * partSize c / 64)))
  | 4 => widen32 (z4RecElem blk k)
  | 5 =>
    let rec64 := bitsOf v (512 * (p / 4)) 512
    let trit := 64 * (p % 4) + i
    let d := tritDigit (byteOf rec64 (trit / 5)) trit
    if d = 0 then (0, 0) else times (if d = 1 then 1 else -1) (decodeF fmtFP16 (bitsOf rec64 416 16))
  | 6 => times (BitVec.ofNat 8 (byteOf blk k)).toInt (decodeF fmtBF16 (bitsOf blk 256 16))
  | 7 => times (BitVec.ofNat 4 (bitsOf blk (4 * k) 4)).toInt (decodeF fmtBF16 (bitsOf blk 128 16))
  | 0xA | 0xB => widen32 (mxElem (fmtOfCode c) (bitsOf blk 192 8) (bitsOf blk (6 * k) 6))
  | 0xC => widen32 (mxElem fmtE2M1 (bitsOf blk 128 8) (bitsOf blk (4 * k) 4))
  | _ => widen32 (mxElem (fmtOfCode c) (bitsOf blk 256 8) (bitsOf blk (8 * k) 8))

/-- The widening CVT (R114, R123): flags use every source element, whatever the guard (R113). -/
def cvtWiden (t nc : Nat) (w : W64) (s : State) : State :=
  let v := getVec s t nc (wRA w)
  let f : Nat → Nat × Nat := fun i => widenElem (wSRCF w) (wRC w) v i
  advance t nc (setFlags t nc (laneFlags allLanes (fun i => (f i).2))
    (writeReady t nc kindV (wRD w) latLC (setLanes t nc (wRD w) (guardMask s t nc w) (fun i => (f i).1)) s))

/-- Whether a word is a repack of Z4 (R115). -/
def isRepack (w : W64) : Bool := wSRCF w == 4 && wDSTF w == 4

/-- CVT between FP32 and a narrow format. -/
def execCvt (t : Nat) (n : Needle) (w : W64) (rq : Nat) (s : State) : Host.Outcome State Fault Refusal :=
  .next (issue t n w (isOp w 0x0E (· == 0) && (!(isRepack w) || decide (1 < wRM w))) (lawful w)
    (granted t n unitPurl rq (if wSRCF w = 0 then cvtNarrow t (needleCode n) w else cvtWiden t (needleCode n) w)) s)

/-- The 8 block records of a storage unit and its sidecar (R106, R115, Table 5.3). -/
def z4Unpack (v : Nat) : Nat :=
  packN 256 ((List.range 8).map (fun b =>
    bitsOf v (128 * b) 128 + 2 ^ 128 * byteOf v (128 + b) + 2 ^ 136 * bitsOf v (8 * 136 + 16 * b) 16 +
      2 ^ 160 * bitsOf v (8 * 152 + 32 * b) 32))

/-- The storage unit and sidecar of 8 block records (R106, R115). -/
def z4Pack (v : Nat) : Nat :=
  let r : Nat → Nat := fun b => bitsOf v (256 * b) 256
  packN 128 ((List.range 8).map r) + 2 ^ 1024 * packN 8 ((List.range 8).map (fun b => bitsOf (r b) 128 8)) +
    2 ^ 1088 * packN 16 ((List.range 8).map (fun b => bitsOf (r b) 136 16)) +
    2 ^ 1216 * packN 32 ((List.range 8).map (fun b => bitsOf (r b) 160 32))

/-- The effect of a repack by `f`. -/
def repackEffect (f : Nat → Nat) (t nc : Nat) (w : W64) (s : State) : State :=
  advance t nc (writeReady t nc kindV (wRD w) latLC
    (setVec t nc (wRD w) (guardMask s t nc w) (f (getVec s t nc (wRA w)))) s)

/-- CVT from Z4 to Z4 with RM 0: a storage unit into block records. -/
def execZ4Unpack (t : Nat) (n : Needle) (w : W64) (rq : Nat) (s : State) : Host.Outcome State Fault Refusal :=
  .next (issue t n w (isOp w 0x0E (· == 0) && isRepack w && wRM w == 0) (lawful w)
    (granted t n unitPurl rq (repackEffect z4Unpack t (needleCode n) w)) s)

/-- CVT from Z4 to Z4 with RM 1: block records into a storage unit. -/
def execZ4Pack (t : Nat) (n : Needle) (w : W64) (rq : Nat) (s : State) : Host.Outcome State Fault Refusal :=
  .next (issue t n w (isOp w 0x0E (· == 0) && isRepack w && wRM w == 1) (lawful w)
    (granted t n unitPurl rq (repackEffect z4Pack t (needleCode n) w)) s)

/-! ### Slot runs -/

/-- The bytes of a configuration slot and of the table memory of a tile (R59). -/
def slotBytes (s : State) (t slot : Nat) : List Byte :=
  (List.range 1024).map (fun i => mapGet 0 s.prl (32768 * t + 1024 * slot + i))
def tableBytes (s : State) (t : Nat) : List Byte :=
  (List.range 16384).map (fun i => mapGet 0 s.prl (32768 * t + 16384 + i))

/-- What a run leaves: its destination lanes, its flags and its drawing steps. -/
structure RunOut where
  lanes : List Nat
  flags : Nat
  draws : Nat
  deriving DecidableEq, Repr

/-- A run of a function of one input, lane by lane on v[RA] (PRESUMED, log entry 104); a lane that the guard shuts out
raises nothing. -/
def runUnary (f : LibFn) (s : State) (t nc : Nat) (w : W64) : RunOut :=
  let rs := (List.range 64).map (fun l => libUnary f (laneCode s t nc (wRA w) l) (Config.free s.freeIdx l))
  ⟨rs.map (·.1), laneFlags (guardMask s t nc w) (fun l => (rs.getD l (0, 0)).2), 0⟩

/-- SAMPLE as a run: one drawing step; the lanes in which it leaves nothing named are free values. -/
def runSample (s : State) (t nc : Nat) (w : W64) : RunOut :=
  let i := Config.sampleIn ((getLanes s t nc (wRA w)).map BitVec.toNat ++ (getLanes s t nc (wRB w)).map BitVec.toNat)
    (tableBytes s t)
  let l := i.lane % 64
  let r := sample i (bitsOf (rngOut s t (rngCount s t + l / 4)) (32 * (l % 4)) 32) (fun k => Config.free s.freeIdx (256 + k))
  ⟨(List.range 64).map (fun k =>
    match Config.sampleOut k with | 1 => r.token | 2 => r.lpf | 3 => r.lps | _ => Config.free s.freeIdx k), r.flags, 1⟩

/-- What a run of the word's slot leaves: a library function's results (R80, R273); of any other program, which only its step
words tell and the spec does not give, free values: lanes, flags among IV, DZ, OF, UF and ISAT, and up to 64 drawing steps
(log entry 4). -/
def runOut (s : State) (t nc : Nat) (w : W64) : RunOut :=
  match Config.slotFunction (slotBytes s t (wSLOT w)) with
  | 1 => runUnary .exp s t nc w
  | 2 => runUnary .ln s t nc w
  | 3 => runUnary .rcp s t nc w
  | 4 => runUnary .sqrt s t nc w
  | 5 => runUnary .rsqrt s t nc w
  | 6 =>
    let r := logProb ((getLanes s t nc (wRA w)).map BitVec.toNat) (fun l => Config.free s.freeIdx l)
    ⟨r.1, r.2, 0⟩
  | 7 => runSample s t nc w
  | _ => ⟨(List.range 64).map (fun l => Config.free s.freeIdx l), Config.free s.freeIdx 129 % 32, Config.free s.freeIdx 128 % 65⟩

/-- A run's results written: the destination lanes under the guard; the predicate's bits, of which no table says what a
program leaves in them, as free values; the draws reserved (R125) and the flags (R76). -/
def runResult (t nc : Nat) (w : W64) (s : State) : State :=
  let i := s.freeIdx
  let m := guardMask s t nc w
  let o := runOut s t nc w
  let s1 := writeReady t nc kindV (wRD w) latLP (setLanes t nc (wRD w) m (fun l => o.lanes.getD l 0))
    { s with freeIdx := i + 1 }
  let s2 := writeReady t nc kindP (wPD w) latLP
    (fun s => setP t nc (wPD w) (predBits (getP s t nc (wPD w)) m (fun l => Config.free i (64 + l) % 2 == 1)) s) s1
  advance t nc (setFlags t nc o.flags (setRngCount t (rngCount s t + 16 * o.draws) s2))

/-- The effect of PRUN (R59): PRL_OFF while EN is 0, else PRL_SLOT_EMPTY for an unloaded slot, else the run. -/
def prunEffect (t nc : Nat) (w : W64) (s : State) : State :=
  if !(rdB s PRL_CTRL_EN t 0) then trapAtPC t nc 0x0207 s
  else if !(rdB s PRL_STATUS_SLOTVALID t (wSLOT w)) then trapAtPC t nc 0x0206 s
  else runResult t nc w s

/-- PRUN. -/
def execPrun (t : Nat) (n : Needle) (w : W64) (rq : Nat) (s : State) : Host.Outcome State Fault Refusal :=
  .next (issue t n w (isOp w 0x0F (· == 0)) (lawful w) (granted t n unitPurl rq (prunEffect t (needleCode n) w)) s)

end Sys2Proof.Machine
end

