-- ==== Sys2Proof/Machine/Array.lean ====
section
/-! DEFINITION. The matrix array and the slip path (`04_matrix_array_and_slip_path.md`): weight loads, transposing loads,
AMM, SLV, ADR and ASHP (R67, R71, R81, R85 to R101). -/

namespace Sys2Proof.Machine

/-! ### Products and accumulation -/

/-- A weight and an activation element; `none` is a T2 trit of 0, which contributes nothing (Table 3.11). -/
abbrev Prod := Option (FVal × FVal)

/-- The exact sum of finite products; `none` for no product at all. -/
def sumDy : List Dy → Dy
  | [] => ⟨false, 0, 0⟩
  | d :: ds => ds.foldl addDy d

/-- The exact sum of a group with R81's sign of zero: that of the products when all are zeros of one sign, else +0. -/
def groupSum (ps : List Dy) : Dy :=
  let t := sumDy ps
  if t.m = 0 then
    ⟨ps.all (fun d => d.m == 0) && ps.all (fun d => d.neg) && !ps.isEmpty, 0, 0⟩
  else t

/-- An FP32 result with the array's flush: below 2^−126 in magnitude, zero of its sign and UF (R81). A magnitude just below
2^−126 is judged after it is rounded on FP32's subnormal grid, where it may reach 2^−126 and is then kept; the spec says
'rounded result' and not on which grid. DESIGN CHOICE (log entry 100). -/
def flush32 (d : Dy) : Nat × Nat :=
  let v := narrow fmtFP32 .nearest d.neg d.m 1 d.e
  if fmtFP32.maxCode < v.code then (inf32 d.neg, flOF)
  else if v.code < 0x800000 then (zero32 d.neg, flUF)
  else (withSign fmtFP32 d.neg v.code, 0)

/-- One group added to an accumulator entry (R81, Table 3.11, the first row that matches). -/
def accGroup (entry : Nat) (group : List Prod) : Nat × Nat :=
  let ps := group.filterMap id
  let acc := val32 entry
  let prodSign : FVal × FVal → Bool := fun p => signF p.1 != signF p.2
  let infs := ps.filter (fun p => isInfF p.1 || isInfF p.2)
  match ps with
  | [] => (entry, 0)
  | _ =>
    if ps.any (fun p => isSigF p.1 || isSigF p.2) then (nan32, flIV)
    else if ps.any (fun p => isNanF p.1 || isNanF p.2) || isNanF acc then (nan32, 0)
    else if ps.any (fun p => (isInfF p.1 && isZeroF p.2) || (isZeroF p.1 && isInfF p.2)) then (nan32, flIV)
    else
      let signs := infs.map prodSign ++ (if isInfF acc then [signF acc] else [])
      match signs with
      | sg :: rest => if rest.any (fun x => x != sg) then (nan32, flIV) else (inf32 sg, 0)
      | [] =>
        let fin : FVal → Dy := fun v => match v with | .fin d => d | _ => ⟨false, 0, 0⟩
        let g := groupSum (ps.map (fun p => mulDy (fin p.1) (fin p.2)))
        let a := fin acc
        let t := addDy a g
        if t.m = 0 then (zero32 (a.m == 0 && g.m == 0 && a.neg && g.neg), 0) else flush32 t

/-- Groups added to an entry in order, flags together (R92). -/
def accGroups (entry : Nat) (groups : List (List Prod)) : Nat × Nat :=
  groups.foldl (fun e g => let r := accGroup e.1 g; (r.1, e.2 ||| r.2)) (entry, 0)

/-! ### Images -/

/-- Products per processing element (Table 4.1). -/
def prodsPer (fmt : Nat) : Nat := match fmt with | 4 => 4 | 5 => 8 | _ => 1

/-- The inner dimension of a form (Table 4.1). -/
def innerDim (shallow : Bool) (fmt : Nat) : Nat := (if shallow then 8 else 32) * prodsPer fmt

/-- The outputs of a form. -/
def outputs (shallow : Bool) : Nat := if shallow then 256 else 64

/-- The size of a weight image (Table 4.2). -/
def imageSize (fmt : Nat) : Nat := match fmt with | 4 => 0x1800 | 2 | 3 => 0x800 | _ => 0x1000

/-- The value of a T2 record's trit k without its scale; `none` for 0 (R108). -/
def tritWeight (byte k : Nat) : Option FVal := let d := tritDigit byte k; if d = 0 then none else some (tritVal d)

/-- Element k of output n of an image whose bytes `get off len` reads; `none` is a trit of 0 (Table 4.2). -/
def imageElem (get : Nat → Nat → Nat) (shallow : Bool) (fmt n k : Nat) : Option FVal :=
  match fmt with
  | 4 =>
    let b := (if shallow then n else n * 4 + k / 32) * 4
    some (z4Elem (get ((if shallow then n * 16 else n * 64) + k / 32 * 16) 16) (get (0x1000 + b) 4) (get (0x1400 + b) 4) (k % 32))
  | 5 => tritWeight (get (n * 64 + k / 5) 1) k
  | 1 => some (decodeF fmtBF16 (get ((if shallow then n * 16 else n * 64) + 2 * k) 2))
  | _ => some (decodeF (fmtOfCode fmt) (get ((if shallow then n * 8 else n * 32) + k) 1))

/-- The FP16 scale latched for output n: a T2 record's, or 1.0 (R93). -/
def imageScale (get : Nat → Nat → Nat) (fmt n : Nat) : Nat := if fmt = 5 then get (n * 64 + 52) 2 else 0x3C00

/-- Element k of an activation vector of format fmt whose bytes `get off len` reads (R88). -/
def actElem (get : Nat → Nat → Nat) (fmt k : Nat) : FVal :=
  match fmt with
  | 4 => z4RecElem (get (k / 32 * 32) 32) (k % 32)
  | 1 => decodeF fmtBF16 (get (2 * k) 2)
  | _ => decodeF (fmtOfCode fmt) (get k 1)

/-- The bytes of an activation vector of L elements. -/
def actSize (fmt l : Nat) : Nat := match fmt with | 4 => l | 1 => 2 * l | _ => l

/-- The pairings that the array and the slip path accept (R67). -/
def pairs (wt act : Nat) : Bool :=
  match wt with
  | 5 => act == 4 || act == 2 || act == 3
  | 4 => act == 4
  | 1 => act == 1
  | _ => act == 2 || act == 3

/-! ### Accumulator bank -/

def accKeyOf (t row e : Nat) : Nat := 16384 * t + row * 64 + e

/-- n bytes of weight buffer b. -/
def wbufLE (s : State) (t b : Nat) : Nat → Nat → Nat
  | _, 0 => 0
  | off, n + 1 => (mapGet 0 s.wbuf (16384 * t + b * 8192 + off)).toNat + 256 * wbufLE s t b (off + 1) n

/-- Entries written by an AMM or SLV: the value each will read as, at once in `acc`, and in flight to `accR` (R69, R94). -/
def putFlight (t nc : Nat) (slv : Bool) (fl : Nat) (vals : List (Nat × W32)) (s : State) : State :=
  { s with
    acc := vals.foldl (fun m p => mapSet 0 m p.1 p.2) s.acc
    flights := s.flights ++ [⟨t, nc, slv, fl, vals⟩] }

/-- Latches set by a START instruction (R93), with its grant: the spec does not say when a latch changes, and an ADR before
the START's results are readable pairs the old entries with the new latches. DESIGN CHOICE (log entry 101). -/
def putLatches (ls : List (Nat × Nat)) (s : State) : State :=
  { s with latch := ls.foldl (fun m p => mapSet 0x3C00 m p.1 p.2) s.latch }

/-- The row and entry of output c of vector i in a form (R86). -/
def ammPlace (shallow : Bool) (acc i c : Nat) : Nat × Nat :=
  if shallow then (acc + 4 * i + c / 64, c % 64) else (acc + i, c)

/-! ### Weight loads -/

/-- The effect of AWL (R71, R85, R89, R90, R98 to R100): accepted into the weight-load path, or an error that leaves the
buffer unchanged; the shape is judged before the alignment, and that before the address (log entry 10). In MODE 1 and 2 FMT1
may be any weight code and is not used: the spec does not say what it must hold. DESIGN CHOICE (log entry 102). -/
def awlEffect (t nc : Nat) (w : W64) (s : State) : State :=
  let mode := wMODE w
  let fmt := if mode = 1 then 1 else if mode = 2 then 4 else wFMT1 w
  let base := getA s t nc (wAN w)
  let sel := match mode with | 0 => 0 | 1 => base % 4 | _ => base % 2
  let b := wBUF w
  let shallow := rdB s ARY_STATUS_FORM t 0
  let size := match mode with | 0 => imageSize fmt | 1 => 0x1800 | _ => 0x3000
  if shallow && (decide (mode ≠ 0) || wFMT1 w == 5) then trapAtPC t nc 0x020B s
  else if base % 256 ≠ sel then trapAtPC t nc 0x020C s
  else
    match ownOff t (base - sel) size with
    | none => advance t nc (refuseTile t nc base s)
    | some _ =>
      advance t nc { wr (wr (wr s ARY_STATUS_BST t b 1) ARY_STATUS_BFMT t b fmt) ARY_STATUS_BMODE t b mode with
        wform := mapSet false s.wform (t * 2 + b) shallow
        wloads := s.wloads ++ [⟨t, nc, b, fmt, mode, base, getPC s t nc⟩] }

/-- AWL in one of its modes: it waits while the weight-load path holds two (R90) or an ASHP is in force (R97). -/
def issueAwl (mode : Nat) (t : Nat) (n : Needle) (w : W64) (rq : Nat) (s : State) : State :=
  issue t n w (isOp w 0x10 (· == 0) && wMODE w == mode) (lawful w)
    (fun s =>
      if 2 ≤ (s.wloads.filter (fun x => x.tile == t)).length || rdB s ARY_STATUS_RESHAPE t 0 then s
      else granted t n unitEngine rq (awlEffect t (needleCode n) w) s) s

/-- AWL MODE 0. -/
def execAwl (t : Nat) (n : Needle) (w : W64) (rq : Nat) (s : State) : Host.Outcome State Fault Refusal :=
  .next (issueAwl 0 t n w rq s)

/-- AWL MODE 1, EXACT. -/
def execAwlExact (t : Nat) (n : Needle) (w : W64) (rq : Nat) (s : State) : Host.Outcome State Fault Refusal :=
  .next (issueAwl 1 t n w rq s)

/-- AWL MODE 2, REBLOCK. -/
def execAwlReblock (t : Nat) (n : Needle) (w : W64) (rq : Nat) (s : State) : Host.Outcome State Fault Refusal :=
  .next (issueAwl 2 t n w rq s)

/-- A value rounded to nearest into BF16, infinity with OF beyond its range (R98). -/
def toBF16 (v : FVal) : Nat × Nat :=
  match v with
  | .fin d =>
    let x := narrow fmtBF16 .nearest d.neg d.m 1 d.e
    if fmtBF16.maxCode < x.code then (withSign fmtBF16 d.neg 0x7F80, flOF) else (withSign fmtBF16 d.neg x.code, 0)
  | .inf n => (withSign fmtBF16 n 0x7F80, 0)
  | .nan _ => (0x7FC0, 0)

/-- The 4 KiB BF16 image of an EXACT load with quarter q, and its flags (R98). -/
def exactImage (get : Nat → Nat → Nat) (q : Nat) : Nat × Nat :=
  let one : Nat → Nat × Nat := fun i =>
    match imageElem get false 4 (32 * (q / 2) + i % 32) (64 * (q % 2) + i / 32) with
    | some v => toBF16 v
    | none => (0, 0)
  let es := (List.range 2048).map one
  (packN 16 (es.map (·.1)), es.foldl (fun a e => a ||| e.2) 0)

/-- A Z4 image of 64 outputs from their blocks in order (Table 4.2, normal form). -/
def z4Image (bs : List Z4Block) : Nat :=
  packN 128 (bs.map (fun b => packN 4 b.codes)) + 2 ^ (8 * 0x1000) * packN 32 (bs.map z4ScaleWord) +
    2 ^ (8 * 0x1400) * packN 32 (bs.map z4PicotWord)

/-- The blocks of a REBLOCK of 128 inner elements `elem out k`, for 64 outputs, and their report (R99). -/
def reblock (pol : GaugePol) (elem : Nat → Nat → FVal) : List Z4Block × GaugeRep :=
  let rs := (List.range 256).map (fun i =>
    gaugeZ4 pol (fun _ => .nearest) i ((List.range 32).map (fun k => elem (i / 4) (32 * (i % 4) + k))))
  (rs.map (·.1), rs.foldl (fun a r => gaugeRepAdd a r.2) gaugeRepNone)

/-- The Z4 image of a REBLOCK load with half h of forward K, and its report (R99). -/
def reblockImage (get : Nat → Nat → Nat) (pol : GaugePol) (h : Nat) : Nat × GaugeRep :=
  let r := reblock pol (fun out k =>
    ((imageElem (fun o n => get (0x1800 * (k / 64) + o) n) false 4 (k % 64) (64 * h + out))).getD (.fin ⟨false, 0, 0⟩))
  (z4Image r.1, r.2)

/-- A weight buffer's contents replaced by an image of n bytes. -/
def putImage (t b : Nat) : Nat → Nat → Nat → State → State
  | _, 0, _, s => s
  | off, n + 1, v, s =>
    putImage t b (off + 1) n (v / 256) { s with wbuf := mapSet 0 s.wbuf (16384 * t + b * 8192 + off) (BitVec.ofNat 8 v) }

/-- The load at the head of a tile's weight-load path, written into its buffer (Table 4.3, R98, R99). -/
def finishLoad (x : WLoad) (s : State) : State :=
  let sel := match x.mode with | 0 => 0 | 1 => x.base % 4 | _ => x.base % 2
  let size := match x.mode with | 0 => imageSize x.fmt | 1 => 0x1800 | _ => 0x3000
  let off := x.base - sel - storeBase x.tile
  let s1 := flushRange x.tile off size s
  let get : Nat → Nat → Nat := fun o n => storeLE s1 x.tile (off + o) n
  match x.mode with
  | 0 => putImage x.tile x.buf 0 size (get 0 size) s1
  | 1 => let r := exactImage get sel; setFlags x.tile x.needle r.2 (putImage x.tile x.buf 0 0x1000 r.1 s1)
  | _ =>
    let r := reblockImage get (gaugePolOf s1 x.tile none) sel
    gaugePolicy x.tile x.needle x.pc r.2
      (gaugeCount x.tile r.2 (setFlags x.tile x.needle r.2.flags (putImage x.tile x.buf 0 0x1800 r.1 s1)))

/-- WEIGHT_LOAD_COMPLETE: the load in progress ends and its format stands recorded (R67); its buffer is READY unless the
second load is for it too. -/
def weightLoadDone (t : Nat) (s : State) : State :=
  match s.wloads.find? (fun x => x.tile == t) with
  | none => s
  | some x =>
    let rest := s.wloads.erase x
    let s1 := wr (finishLoad x { s with wloads := rest }) ARY_STATUS_BFMT t x.buf x.fmt
    if rest.any (fun y => y.tile == t && y.buf == x.buf) then s1 else wr s1 ARY_STATUS_BST t x.buf 2

/-- WEIGHT_LOAD_COMPLETE. -/
def execWeightLoadComplete (t : Nat) (s : State) : Host.Outcome State Fault Refusal := .next (weightLoadDone t s)

/-! ### AMM -/

/-- The groups of one output: element r·q to r·q + q − 1 of each processing-element row (R92). -/
def groupsOf (q k : Nat) (wt : Nat → Option FVal) (act : Nat → FVal) : List (List Prod) :=
  (List.range (k / q)).map (fun r => (List.range q).map (fun j => (wt (r * q + j)).map (fun x => (x, act (r * q + j)))))

/-- The entries that an AMM writes, with their latches and flags (R81, R86, R91 to R93). -/
def ammCompute (s : State) (t : Nat) (w : W64) (shallow : Bool) (off : Nat) : List (Nat × W32) × List (Nat × Nat) × Nat :=
  let fmt := wFMT1 w
  let k := innerDim shallow fmt
  let vs := actSize (wFMT2 w) k
  let wget := wbufLE s t (wBUF w)
  let start := wMODE w == 1
  let one : Nat → Nat → (Nat × Nat) × Nat := fun i c =>
    let pl := ammPlace shallow (wACC w) i c
    let key := accKeyOf t pl.1 pl.2
    let e0 := if start then 0 else (mapGet 0 s.acc key).toNat
    (accGroups e0 (groupsOf (prodsPer fmt) k (imageElem wget shallow fmt c)
      (actElem (fun o n => storeLE s t (off + i * vs + o) n) (wFMT2 w))), key)
  let rs := (List.range (wN w)).flatMap (fun i => (List.range (outputs shallow)).map (fun c => (one i c, c)))
  (rs.map (fun r => (r.1.2, BitVec.ofNat 32 r.1.1.1)),
    if start then rs.map (fun r => (r.1.2, imageScale wget fmt r.2)) else [],
    rs.foldl (fun a r => a ||| r.1.1.2) 0)

/-- The credits of the array row of a weight format (Table 16.2). -/
def arrayCost (fmt : Nat) : Nat := match fmt with | 4 | 5 => 8 | 1 => 5 | _ => 6

/-- The effect of AMM at its grant (R67, R86, R89, R91). Of several errors the first of range, format, alignment and address
is raised: the spec gives no order. DESIGN CHOICE (log entry 10). -/
def ammEffect (t nc : Nat) (w : W64) (s : State) : State :=
  let shallow := rdB s ARY_STATUS_FORM t 0
  let rows := if shallow then 4 * wN w else wN w
  let vs := actSize (wFMT2 w) (innerDim shallow (wFMT1 w))
  let base := getA s t nc (wAN w)
  if wN w = 0 ∨ 256 < wACC w + rows then trapAtPC t nc 0x0208 s
  else if rd s ARY_STATUS_BST t (wBUF w) = 0 ∨ rd s ARY_STATUS_BFMT t (wBUF w) ≠ wFMT1 w ∨ !(pairs (wFMT1 w) (wFMT2 w)) then
    trapAtPC t nc 0x0209 s
  else if base % min vs 128 ≠ 0 then trapAtPC t nc 0x020C s
  else
    match ownOff t base (wN w * vs) with
    | none => advance t nc (refuseTile t nc base s)
    | some off =>
      let s1 := if 128 ≤ vs then flushRange t off (wN w * vs) s else s
      let r := ammCompute s1 t w shallow off
      noteUse t 0 0 (arrayCost (wFMT1 w)) <| advance t nc (incM (putLatches r.2.1 (putFlight t nc false r.2.2 r.1 s1)) ARY_OPS_LO_OPS ARY_OPS_HI_OPS t 0
        (wN w * (if wFMT1 w = 1 then 2 else 1)))

/-- AMM: it waits for a buffer that is LOADING (R71). -/
def execAmm (t : Nat) (n : Needle) (w : W64) (rq : Nat) (s : State) : Host.Outcome State Fault Refusal :=
  .next (issue t n w (isOp w 0x11 (· == 0)) (lawful w)
    (fun s => if rd s ARY_STATUS_BST t (wBUF w) = 1 then s else granted t n unitArray rq (ammEffect t (needleCode n) w) s) s)

/-- An older result in flight of the tile once a newer one has become readable: of the entries that both wrote, the newer
value holds both contributions (R94). -/
def lateFlight (t : Nat) (vals : List (Nat × W32)) (g : Flight) : Flight :=
  if g.tile = t then { g with vals := g.vals.filter (fun p => !(vals.any (fun q => q.1 == p.1))) } else g

/-- The oldest result in flight of a tile's array, or of its slip path, becomes readable, with its flags (R69, R76, R102). -/
def arrayReady (t : Nat) (slv : Bool) (s : State) : State :=
  match s.flights.find? (fun f => f.tile == t && f.slv == slv) with
  | none => s
  | some f =>
    let older := s.flights.takeWhile (fun g => g != f)
    let newer := (s.flights.dropWhile (fun g => g != f)).drop 1
    setFlags t f.needle f.flags { s with
      flights := older.map (lateFlight t f.vals) ++ newer
      accR := f.vals.foldl (fun m p => mapSet 0 m p.1 p.2) s.accR }

/-- ARRAY_RESULT_READY: the next result of the tile's slip path or array. -/
def execArrayResultReady (a : ArrayOut) (s : State) : Host.Outcome State Fault Refusal := .next (arrayReady a.t a.slv s)

/-! ### ADR -/

/-- An accumulator entry times its latch (R93), with its flags. -/
def scaled (s : State) (t row e : Nat) : Nat × Nat :=
  let k := accKeyOf t row e
  fmul32 .nearest (val32 (mapGet 0 s.accR k).toNat) (decodeF fmtFP16 (mapGet 0x3C00 s.latch k))

/-- The 64 scaled entries of a row, and their flags. -/
def scaledRow (s : State) (t row : Nat) : List Nat × Nat :=
  let es := (List.range 64).map (scaled s t row)
  (es.map (·.1), es.foldl (fun a e => a ||| e.2) 0)

/-- The size of a row image (R96). -/
def rowImage (w : W64) : Nat :=
  if wFN w = 2 then (if wFMT1 w = 1 then 128 else 64) else 256

/-- Row `row` written by ADR FN 0 or 1 at store offset off (R96). -/
def adrRow (fn t nc row off : Nat) (s : State) : State :=
  let r := scaledRow s t row
  let old := storeLE s t off 256
  let out := if fn = 0 then r.1.map (fun x => (x, 0)) else
    (indexed r.1).map (fun p => fadd32 .nearest (val32 p.2) (val32 (bitsOf old (32 * p.1) 32)))
  let s1 := setFlags t nc (out.foldl (fun a e => a ||| e.2) r.2) s
  (engineWrite t off 256 (packN 32 (out.map (·.1))) nc s1).1

/-- Row number i of an ADR FN 2, converted and written at off, with the report so far (R96, R125). -/
def adrConvRow (t nc : Nat) (w : W64) (i off : Nat) (sr : State × GaugeRep) : State × GaugeRep :=
  let s := sr.1
  let r := scaledRow s t (wACC w + i)
  let base := rngCount s t
  let vals := r.1.map val32
  let g := wMODE w
  let half : Nat → Nat × GaugeRep := fun b =>
    narrow32 (wFMT1 w) (gaugePolOf s t none) 0 (fun e => rndAt s t g 0 base (32 * b + e)) (2 * i + b)
      ((vals.drop (32 * b)).take 32)
  let h0 := half 0
  let h1 := half 1
  let rep := gaugeRepAdd h0.2 h1.2
  let s1 := if g = 1 then setRngCount t (base + 8) s else s
  let s2 := setFlags t nc (r.2 ||| rep.flags) s1
  ((engineWrite t off (rowImage w) (h0.1 + 2 ^ (4 * rowImage w) * h1.1) nc s2).1, gaugeRepAdd sr.2 rep)

/-- Whether an ADR must wait under the scoreboard: it reads a row that an AMM or SLV of its needle has in flight (R74). -/
def adrHeld (s : State) (t nc : Nat) (w : W64) : Bool :=
  rdB s TILE_STATUS_INTERLOCK t 0 &&
  s.flights.any (fun f => f.tile == t && f.needle == nc && f.vals.any (fun v =>
    let row := v.1 % 16384 / 64
    decide (wACC w ≤ row ∧ row < wACC w + wN w)))

/-- The effect of ADR at its grant (R89, R96); the range is judged before the alignment, and that before the address (log
entry 10). -/
def adrEffect (t nc : Nat) (w : W64) (s : State) : State :=
  let base := getA s t nc (wAN w)
  let n := wN w
  if n = 0 ∨ 256 < wACC w + n then trapAtPC t nc 0x0208 s
  else if base % rowImage w ≠ 0 then trapAtPC t nc 0x020C s
  else
    match ownOff t base (n * rowImage w) with
    | none => advance t nc (refuseTile t nc base s)
    | some off =>
      if wFN w = 2 then
        let r := (List.range n).foldl (fun sr i => adrConvRow t nc w i (off + i * rowImage w) sr) (s, gaugeRepNone)
        gaugePolicy t nc (getPC s t nc) r.2 (gaugeCount t r.2 (advance t nc r.1))
      else
        advance t nc ((List.range n).foldl (fun s i => adrRow (wFN w) t nc (wACC w + i) (off + i * 256) s) s)

/-- An ADR word of function fn. -/
def issueAdr (fn : Nat) (t : Nat) (n : Needle) (w : W64) (rq : Nat) (s : State) : State :=
  issue t n w (isOp w 0x12 (· == fn)) (lawful w)
    (fun s => if adrHeld s t (needleCode n) w then s else granted t n unitArray rq (adrEffect t (needleCode n) w) s) s

/-- ADR FN 0: store FP32 rows. -/
def execAdrStore (t : Nat) (n : Needle) (w : W64) (rq : Nat) (s : State) : Host.Outcome State Fault Refusal :=
  .next (issueAdr 0 t n w rq s)

/-- ADR FN 1: add FP32 rows into the store. -/
def execAdrAdd (t : Nat) (n : Needle) (w : W64) (rq : Nat) (s : State) : Host.Outcome State Fault Refusal :=
  .next (issueAdr 1 t n w rq s)

/-- ADR FN 2: convert rows through the gauge. -/
def execAdrConvert (t : Nat) (n : Needle) (w : W64) (rq : Nat) (s : State) : Host.Outcome State Fault Refusal :=
  .next (issueAdr 2 t n w rq s)

/-! ### ASHP and SLV -/

/-- The effect of ASHP (R97, Table 4.3): a change of form empties both buffers. -/
def ashpEffect (t nc : Nat) (w : W64) (s : State) : State :=
  if rd s ARY_STATUS_FORM t 0 = wMODE w then advance t nc s
  else
    let e : Nat → State → State := fun b s => wr (wr s ARY_STATUS_BST t b 0) ARY_STATUS_BFMT t b 0xF
    advance t nc (wr (e 1 (e 0 s)) ARY_STATUS_FORM t 0 (wMODE w))

/-- ASHP: it waits for every weight load to end and every AMM to become readable, and no AWL is accepted while it waits
(R97). -/
def execAshp (t : Nat) (n : Needle) (w : W64) (rq : Nat) (s : State) : Host.Outcome State Fault Refusal :=
  .next (issue t n w (isOp w 0x13 (· == 0)) (lawful w)
    (fun s =>
      let nc := needleCode n
      if s.wloads.any (fun x => x.tile == t) || s.flights.any (fun f => f.tile == t && !f.slv) then ashpWaits t nc s
      else granted t n unitArray rq (fun s => ashpEffect t nc w (ashpDone t nc s)) (ashpWaits t nc s)) s)

/-- The length of an SLV's activation slice and the bytes of one weight row (Table 4.6). -/
def slvLen (fmt : Nat) : Nat := if fmt = 1 then 128 else 256
def slvRowBytes (fmt : Nat) : Nat := match fmt with | 4 => 192 | 5 => 64 | _ => 256

/-- Element k of weight row j of a slab of n rows (Table 4.6). -/
def slabElem (get : Nat → Nat → Nat) (fmt n j k : Nat) : Option FVal :=
  match fmt with
  | 4 =>
    some (z4Elem (get (j * 128 + k / 32 * 16) 16) (get (n * 128 + j * 32 + k / 32 * 4) 4)
      (get (n * 160 + j * 32 + k / 32 * 4) 4) (k % 32))
  | 5 => tritWeight (get (j * 64 + k / 5) 1) k
  | 1 => some (decodeF fmtBF16 (get (j * 256 + 2 * k) 2))
  | _ => some (decodeF (fmtOfCode fmt) (get (j * 256 + k) 1))

/-- The entries that an SLV writes, with their latches and flags (R92, R93, R101). -/
def slvCompute (s : State) (t nc : Nat) (w : W64) (off : Nat) : List (Nat × W32) × List (Nat × Nat) × Nat :=
  let fmt := wFMT1 w
  let get : Nat → Nat → Nat := fun o n => storeLE s t (off + o) n
  let v := getVec s t nc (wBRA w)
  let act := actElem (fun o n => bitsOf v (8 * o) (8 * n)) (wFMT2 w)
  let start := wMODE w == 1
  let one : Nat → (Nat × Nat) × Nat := fun j =>
    let key := accKeyOf t (wACC w + j / 64) (j % 64)
    let e0 := if start then 0 else (mapGet 0 s.acc key).toNat
    (accGroup e0 ((List.range (slvLen fmt)).map (fun k => (slabElem get fmt (wN w) j k).map (fun x => (x, act k)))), key)
  let rs := (List.range (wN w)).map (fun j => (one j, j))
  (rs.map (fun r => (r.1.2, BitVec.ofNat 32 r.1.1.1)),
    if start then rs.map (fun r => (r.1.2, imageScale get fmt r.2)) else [],
    rs.foldl (fun a r => a ||| r.1.1.2) 0)

/-- The element accesses of an SLV (Table 4.6). -/
def slvReads (fmt n : Nat) : Nat := match fmt with | 4 => n | 5 => (n + 1) / 2 | _ => 2 * n

/-- The effect of SLV at its grant (R67, R89, R101). Of several errors the first of range, pairing, alignment and address is
raised. DESIGN CHOICE (log entry 10). -/
def slvEffect (t nc : Nat) (w : W64) (s : State) : State :=
  let base := getA s t nc (wAN w)
  let n := wN w
  let size := n * slvRowBytes (wFMT1 w)
  if n = 0 ∨ 16384 < wACC w * 64 + n then trapAtPC t nc 0x0208 s
  else if !(pairs (wFMT1 w) (wFMT2 w)) then trapAtPC t nc 0x0209 s
  else if base % 256 ≠ 0 then trapAtPC t nc 0x020C s
  else
    match ownOff t base size with
    | none => advance t nc (refuseTile t nc base s)
    | some off =>
      let s1 := flushRange t off size s
      let r := slvCompute s1 t nc w off
      noteUse t 0 0 (arrayCost (wFMT1 w)) <| advance t nc (incM (putLatches r.2.1 (putFlight t nc true r.2.2 r.1 s1)) SLP_READS_LO_READS SLP_READS_HI_READS t 0
        (slvReads (wFMT1 w) n))

/-- SLV. -/
def execSlv (t : Nat) (n : Needle) (w : W64) (rq : Nat) (s : State) : Host.Outcome State Fault Refusal :=
  .next (issue t n w (isOp w 0x14 (· == 0)) (lawful w) (granted t n unitSlip rq (slvEffect t (needleCode n) w)) s)

end Sys2Proof.Machine
end

