-- ==== Sys2Proof/Machine/Sync.lean ====
section
/-! DEFINITION. Stitches at their banks (R169 to R177), the waits and signals of needles, and the transfers they issue:
XFER, SEND, JQ and BKICK (R166, R188, R189, R194, R248, R423). -/

namespace Sys2Proof.Machine

/-! ### Stitch banks -/

/-- COUNT of a physical stitch. -/
def stCount (s : State) (ph : Nat) : Nat := rd s STC_CNT_COUNT (ph / 4096) (ph % 4096)

/-- COUNT set. -/
def setCount (ph v : Nat) (s : State) : State := wr s STC_CNT_COUNT (ph / 4096) (ph % 4096) v

/-- Whether a waiter is recorded at a physical stitch. -/
def atStitch (ph : Nat) (w : Waiter) : Bool := decide (w.kind ≠ .plane) && w.key == ph

/-- Waiters released: removed from the bank, on their way to their tiles (Table 7.5). -/
def releaseWaiters (p : Waiter → Bool) (s : State) : State :=
  { s with
    waiters := s.waiters.filter (fun w => !(p w))
    released := s.released ++ (s.waiters.filter p).map (fun w => (w.tile, w.who)) }

/-- An addition of k to a physical stitch (R170, R173): takers first, in order, then COUNT, then the observers. -/
def addStitch (ph k : Nat) (s : State) : State :=
  let takers := s.waiters.filter (fun w => atStitch ph w && decide (w.kind = .take))
  let freed := takers.take k
  let s1 := releaseWaiters (fun w => freed.contains w) s
  let v := stCount s ph + (k - freed.length)
  let s2 := if v < 2 ^ 32 then setCount ph v s1
    else wr (setCount ph (2 ^ 32 - 1) s1) STC_STATUS_SAT (ph / 4096) (ph % 4096) 1
  let c := stCount s2 ph
  releaseWaiters (fun w => atStitch ph w && (match w.kind with | .observe t => decide (t ≤ c) | _ => false)) s2

/-- An operation applied: its packet has landed once the last operation of its group is (R159). -/
def groupDone (g : Nat) (s : State) : State :=
  if g = 0 || s.stops.any (fun o => o.grp == g) then s
  else match s.net.find? (fun p => p.pid + 1 == g) with
    | some p => landPkt p s
    | none => s

/-- The effect of an addition reaching its bank: applied, or STITCH_UNMAPPED and discarded (R169, R170). -/
def applyOp (o : StOp) (s : State) : State :=
  let s1 := match xlat s o.part o.lid with
    | some ph => addStitch ph o.add s
    | none => raise (.xlat o.part) (unmappedRec s o.part o.lid o.src o.who false) s
  groupDone o.grp s1

/-- Whether an operation earlier in the list comes from the same unit and goes to the same stitch (R170). A unit is a node:
a tile's needles and cast engine, or the port at which it takes packets, are one each. -/
def opHeld (s : State) (o : StOp) (earlier : List StOp) : Bool :=
  earlier.any (fun e => e.node == o.node && decide (e.who < 4) == decide (o.who < 4) && e.part == o.part &&
    decide (xlat s e.part e.lid = xlat s o.part o.lid))

/-- STITCH_ADDITION: operation number i of those under way is applied at its bank. -/
def execStitchAddition (i : Nat) (s : State) : Host.Outcome State Fault Refusal :=
  .next (match s.stops[i]? with
    | some o => if opHeld s o (s.stops.take i) then s else applyOp o { s with stops := s.stops.eraseIdx i }
    | none => s)

/-- A wait reaching its bank (R172, R173, Table 7.4): whether it is released at once, and the state after it. -/
def bankWait (w : Waiter) (s : State) : Bool × State :=
  let d := w.key / 4096
  let i := w.key % 4096
  let c := stCount s w.key
  match w.kind with
  | .observe t =>
    let s1 := wr s STC_CTL_SEENOBS d i 1
    if t ≤ c then (true, s1) else (false, { s1 with waiters := s1.waiters ++ [w] })
  | _ =>
    let s1 := wr s STC_CTL_SEENTAKE d i 1
    if 1 ≤ c then (true, setCount w.key (c - 1) s1) else (false, { s1 with waiters := s1.waiters ++ [w] })

/-- Whether a stitch operation of tile t must wait to issue: 16 are outstanding (R171), or one of the tile's own earlier
operations to the same stitch is still under way (R170). -/
def stitchHeld (s : State) (t p lid : Nat) (isWait : Bool) : Bool :=
  decide (16 ≤ stitchesOut s t) || (isWait && opHeld s ⟨p, lid, 0, t, 0, 0, t⟩ s.stops)

/-! ### SIG and WAIT -/

/-- The effect of SIG (R170). -/
def sigEffect (t nc : Nat) (w : W64) (s : State) : State :=
  let p := (partOfTile s t).getD 0
  let k := if wFN w = 0 then wCOUNT w else (getS s t nc (wBRA w)).toNat
  if stitchHeld s t p (wSTITCH w) false then s else advance t nc (sendStitch p (wSTITCH w) k t nc s)

/-- SIG. -/
def execSig (t : Nat) (n : Needle) (w : W64) (s : State) : Host.Outcome State Fault Refusal :=
  .next (issue t n w (isOp w 0x18 (fun f => decide (f < 2))) (lawful w) (sigEffect t (needleCode n) w) s)

/-- The effect of a WAIT of a kind (R169, R172, R173, Table 2.2). -/
def waitEffect (kind : WaitKind) (t nc : Nat) (w : W64) (s : State) : State :=
  let p := (partOfTile s t).getD 0
  let lid := wSTITCH w
  if stitchHeld s t p lid true then s
  else
    match xlat s p lid with
    | none => enterTrap t nc (raise (.xlat p) (unmappedRec s p lid t nc true) s)
    | some ph =>
      match bankWait ⟨kind, ph, p, lid, t, nc, wTCLASS w⟩ s with
      | (true, s1) => advance t nc s1
      | (false, s1) => wr (advance t nc s1) NDL_STATE t nc nsWait

/-- WAIT FN 0: observe until the count is at least COUNT. -/
def execWaitObserve (t : Nat) (n : Needle) (w : W64) (s : State) : Host.Outcome State Fault Refusal :=
  .next (issue t n w (isOp w 0x19 (· == 0)) (lawful w) (waitEffect (.observe (wCOUNT w)) t (needleCode n) w) s)

/-- WAIT FN 1: take one unit. -/
def execWaitTake (t : Nat) (n : Needle) (w : W64) (s : State) : Host.Outcome State Fault Refusal :=
  .next (issue t n w (isOp w 0x19 (· == 1)) (lawful w) (waitEffect .take t (needleCode n) w) s)

/-- The cast engine of a tile goes on after its wait (Table 7.2). -/
def castResume (t : Nat) (s : State) : State :=
  wr (wr s TILE_CSTAT_CWAIT t 0 0) TILE_CSTAT_CPC t 0 (rd s TILE_CSTAT_CPC t 0 + 1)

/-- The cast engine of a tile stops in HALTED (Table 7.2). -/
def castStop (t : Nat) (s : State) : State := wr (wr s TILE_CSTAT_CWAIT t 0 0) TILE_CSTAT_STATE t 0 3

/-- The wait of a needle ends: it runs on, or enters TRAP where an error of its descriptor came meanwhile (R241). -/
def endWait (t nc : Nat) (s : State) : State :=
  if needleState s t nc ≠ nsWait then s
  else if s.trapLater.contains (t, nc) then enterTrap t nc { s with trapLater := s.trapLater.filter (fun x => x != (t, nc)) }
  else wr s NDL_STATE t nc nsRun

/-- WAITER_RELEASE: a release reaches its tile, whose needle runs on, or whose cast engine does (Table 2.2, R164). -/
def execWaiterRelease (t who : Nat) (s : State) : Host.Outcome State Fault Refusal :=
  .next (if s.released.contains (t, who) then
      let s1 := { s with released := s.released.erase (t, who) }
      if who < 3 then endWait t who s1 else castResume t s1
    else s)

/-- WAIT_TIMER_EXPIRE: a recorded waiter's timer expires (R177, R178): WAIT_TIMEOUT, the needle to TRAP or the cast
branch. -/
def execWaitTimerExpire (t who : Nat) (s : State) : Host.Outcome State Fault Refusal :=
  .next (match s.waiters.find? (fun w => w.tile == t && w.who == who) with
    | none => s
    | some w =>
      let s1 := { s with waiters := s.waiters.erase w }
      let pl := decide (w.kind = .plane)
      let unit : UnitId := if pl then .root w.part else .bank (w.key / 4096)
      let e := partRec s w.part 0x0401 true ((if pl then w.key else w.lid) + 2 ^ 16 * w.part) (t + 2 ^ 12 * who)
      if who < 3 then enterTrap t who (raise unit e { s1 with trapLater := s1.trapLater.filter (fun x => x != (t, who)) }) else castStop t (haltWith w.part unit e s1))

/-! ### Transfers -/

/-- The first address of a transfer that its tile refuses: source and destination ranges, in ascending order (R166). -/
def transferRefused (s : State) (t a d n : Nat) : Option Nat :=
  let p := (partOfTile s t).getD 16
  -- a push may go through a Ply window (R315)
  let dst := if (ownOff t a 1).isSome then firstRefusedPush s p d n else firstRefused s p d n true
  match firstRefused s p a n false, dst with
  | some x, some y => some (min x y)
  | some x, none => some x
  | none, y => y

/-- A transfer of n bytes: a push of the tile's own store, or a pull (R164, R166, R167). -/
def transfer (t who a d n : Nat) (sig : Bool) (stitch : Nat) (s : State) : State :=
  if (ownOff t a 1).isSome then
    pushPieces (fun x k => srcLE s x k) s (partOfTile s t) t who sig stitch (pieces (n + 1) a d n) s
  else pump t { s with outb := s.outb ++ [⟨t, who, false, a, d, n, 0, 0, sig, stitch⟩] }

/-- The effect of XFER (R166). -/
def xferEffect (t nc : Nat) (w : W64) (s : State) : State :=
  let n := (getS s t nc (wBRA w)).toNat
  let a := getA s t nc (wAN w)
  let d := getA s t nc (wAD w)
  if n % 16 ≠ 0 ∨ n < 16 ∨ 65536 < n ∨ a % 16 ≠ 0 ∨ d % 16 ≠ 0 then trapAtPC t nc 0x0208 s
  else
    match transferRefused s t a d n with
    | some x => advance t nc (refuseTile t nc x s)
    | none => advance t nc (transfer t nc a d n (wFN w == 1) (wSTITCH w) s)

/-- XFER. -/
def execXfer (t : Nat) (n : Needle) (w : W64) (s : State) : Host.Outcome State Fault Refusal :=
  .next (issue t n w (isOp w 0x1B (fun f => decide (f < 2))) (lawful w) (outbound t (needleCode n) (xferEffect t (needleCode n) w)) s)

/-! ### SEND -/

/-- A message's record header (Table 8.5). -/
def recordHeader (kind sep stile len16 mseq crslo : Nat) : Nat :=
  kind + 2 ^ 8 * sep + 2 ^ 16 * stile + 2 ^ 32 * len16 + 2 ^ 64 * (mseq % 2 ^ 32) + 2 ^ 96 * crslo

/-- The data packets of one record whose bytes are `v`, landing at address d (R190). -/
def recordPackets (t nc d n v : Nat) (s : State) : State :=
  (pieces (n + 1) d d n).foldl (fun s p =>
    inject { pkt0 .strand (partOfTile s t) t p.1 (bitsOf v (8 * (p.1 - d)) (8 * p.2.2)) (p.2.2 / 16) with
      last := decide (p.1 + p.2.2 = d + n), who := nc, crslo := crsloOf s t (partOfTile s t) } s) s

/-- Whether a record of R bytes fits before the end of the ring (R189, Table 3.12). -/
def recordFits (s : State) (t : Nat) (e : TxEp) (r : Nat) : Bool :=
  let room := e.rsize * 256 - e.tail * 16
  if a1Of s (partOfTile s t) then decide (r < room) else decide (r ≤ room)

/-- The credits that a record needs, in 16 B units (R189). -/
def recordNeed (s : State) (t : Nat) (e : TxEp) (r : Nat) : Nat :=
  if recordFits s t e r then r / 16 else (e.rsize * 256 - e.tail * 16 + r) / 16

/-- A message of n bytes from store offset off sent on an OPEN endpoint (R188 to R190). -/
def sendMessage (t nc ep off n : Nat) (s : State) : State :=
  let e := getTx s t ep
  let r := n + 16
  let ring := storeBase e.dtile + e.rbase * 256
  let crslo := crsloOf s t (partOfTile s t)
  let hdr := recordHeader 1 ep t (n / 16) e.mseq crslo
  let v := hdr + 2 ^ 128 * storeLE s t off n
  let units := e.rsize * 16
  let need := recordNeed s t e r
  let fits := recordFits s t e r
  let s1 := if fits then s else
    recordPackets t nc (ring + e.tail * 16) 16 (recordHeader 2 ep t (units - e.tail) 0 crslo) s
  let pos := if fits then e.tail else 0
  let tail := (pos + r / 16) % units
  incM (setTx t ep { e with credits := e.credits - need, tail := tail, mseq := (e.mseq + 1) % 2 ^ 32 }
    (flushRead (storeBase t + off) n (recordPackets t nc (ring + pos * 16) r v s1))) STR_MSGOUT_LO_MSGOUT STR_MSGOUT_HI_MSGOUT t 0 1

/-- A needle's stall entry removed. -/
def unstall (t nc : Nat) (s : State) : State := { s with stalls := s.stalls.filter (fun x => !(x.1 == t && x.2.1 == nc)) }

/-- The stall of a SEND recorded, with the class that its descriptor holds as the stall begins (R189). -/
def stall (t nc ep : Nat) (s : State) : State :=
  if s.stalls.any (fun x => x.1 == t && x.2.1 == nc) then s
  else { s with stalls := s.stalls ++ [(t, nc, bitsOf (storeLE s t (tableOff s t + ep * 16) 4) 17 3)] }

/-- The peer of a TX endpoint: the tile to which it has opened, or, while it is CLOSED, the DTILE of its descriptor. -/
def txPeer (s : State) (t ep : Nat) : Nat :=
  let e := getTx s t ep
  if e.st = 0 then bitsOf (storeLE s t (tableOff s t + ep * 16) 4) 0 12 else e.dtile

/-- A STRAND error of a needle about its TX endpoint (R199). -/
def strandTrap (t nc ep code : Nat) (s : State) : State :=
  trapNeedle t nc code (strandObj t ep false) (tileSrc (txPeer s t ep) nc) (unstall t nc s)

/-- The effect of SEND (R188, R189, Table 8.3). One that stalls for credits has not issued, and does not hold the outbound
unit (DEDUCED, log entry 99). -/
def sendEffect (t nc : Nat) (w : W64) (s : State) : State :=
  let n := (getS s t nc (wBRA w)).toNat
  let a := getA s t nc (wAN w)
  let ep := wTGT w
  let e := getTx s t ep
  if n % 16 ≠ 0 ∨ n < 16 ∨ 16384 < n then trapAtPC t nc 0x0208 s
  else
    match ownOff t a n with
    | none => advance t nc (refuseTile t nc a s)
    | some off =>
      match e.st with
      | 1 => stall t nc ep s
      | 2 =>
        if e.rsize * 256 < 2 * (n + 16) then strandTrap t nc ep 0x0212 s
        else if e.credits < recordNeed s t e (n + 16) then stall t nc ep s
        else advance t nc (sendMessage t nc ep off n (unstall t nc s))
      | 3 => advance t nc (tileError t 0x020F (strandObj t ep false) (tileSrc e.dtile nc) (unstall t nc s))
      | _ => strandTrap t nc ep 0x0210 s

/-- SEND. -/
def execSend (t : Nat) (n : Needle) (w : W64) (s : State) : Host.Outcome State Fault Refusal :=
  .next (issue t n w (isOp w 0x1C (· == 0)) (lawful w) (outbound t (needleCode n) (sendEffect t (needleCode n) w)) s)

/-- SEND_STALL_TIMEOUT: a stalled SEND's timer expires (R189). -/
def execSendStallTimeout (t : Nat) (n : Needle) (s : State) : Host.Outcome State Fault Refusal :=
  let nc := needleCode n
  .next (if s.stalls.any (fun x => x.1 == t && x.2.1 == nc) then strandTrap t nc (wTGT (wordAt s t nc)) 0x0211 s else s)

/-! ### JQ and BKICK -/

/-- The effect of JQ (R194). -/
def jqEffect (t nc : Nat) (w : W64) (s : State) : State :=
  let n := (getS s t nc (wBRA w)).toNat
  let a := getA s t nc (wAN w)
  if n % 256 ≠ 0 ∨ n < 256 ∨ 4096 < n then trapAtPC t nc 0x0208 s
  else if (ownOff t a n).isNone then advance t nc (refuseTile t nc a s)
  else
    advance t nc (pump t
      { s with outb := s.outb ++ [⟨t, nc, true, a, clusterBase (t / 24) + wTGT w * 0x1000, n, 0, 0, false, 0⟩] })

/-- JQ. -/
def execJq (t : Nat) (n : Needle) (w : W64) (s : State) : Host.Outcome State Fault Refusal :=
  .next (issue t n w (isOp w 0x1D (· == 0)) (lawful w) (outbound t (needleCode n) (jqEffect t (needleCode n) w)) s)

/-- The size of a descriptor by its KIND (Table 11.1). -/
def descSize (kind : Nat) : Nat :=
  if 1 ≤ kind ∧ kind ≤ 3 then 32 else if kind = 4 then 96 else 16

/-- The effect of BKICK (R248): the descriptor leaves for its Blocker. -/
def bkickEffect (t nc : Nat) (w : W64) (s : State) : State :=
  let a := getA s t nc (wAN w)
  match ownOff t a 16 with
  | none => advance t nc (refuseTile t nc a s)
  | some o0 =>
    let n := descSize (storeLE s t o0 1 % 16)
    match ownOff t a n with
    | none => advance t nc (refuseTile t nc a s)
    | some off =>
      advance t nc { s with descs := s.descs ++ [⟨t, nc, getPC s t nc, wTGT w, a, storeLE s t off n⟩] }

/-- BKICK. -/
def execBkick (t : Nat) (n : Needle) (w : W64) (s : State) : Host.Outcome State Fault Refusal :=
  .next (issue t n w (isOp w 0x1E (· == 0)) (lawful w) (outbound t (needleCode n) (bkickEffect t (needleCode n) w)) s)

end Sys2Proof.Machine
end

