-- ==== Sys2Proof/Machine/Bus.lean ====
section
/-! DEFINITION. Register accesses: the frames of Table 1.5, the views of R11, the access codes of R10 and R419, partial
and unassigned accesses (R393), holding registers (R12, R395) and the filter of a VF's accesses (R338). -/

namespace Sys2Proof.Machine

/-! ### Frames -/

/-- The frame, unit and offset within the frame of a register-space offset (Table 1.5, Table 18.1). -/
def locate (ofs : Nat) : Option (Frame × Nat × Nat) :=
  let o := ofs % 0x4000
  let q := ofs / 0x4000
  let at4 : Nat → Nat → List Frame → Option (Frame × Nat × Nat) := fun q u fs => (fs[q % 4]?).map (fun f => (f, u, o))
  if ofs < 0x00010000 then at4 q 0 [.fuse, .rst, .boot, .sec]
  else if ofs < 0x00020000 then at4 q 0 [.pwr, .thm, .cns, .err]
  else if ofs < 0x00030000 then at4 q 0 [.pci, .skn]
  else if 0x00040000 ≤ ofs ∧ ofs < 0x00080000 then some (.crs, q - 16, o)
  else if 0x00080000 ≤ ofs ∧ ofs < 0x000C0000 then some (.stx, q - 32, o)
  else if 0x01000000 ≤ ofs ∧ ofs < 0x02000000 then
    let d := ofs / 0x00400000 - 4
    let r := ofs % 0x00400000
    if r < 0x00010000 then at4 q d [.stc, .pwrd, .thmd]
    else if r < 0x00040000 then at4 q (3 * d + r / 0x00010000 - 1) [.mem, .phy, .blk]
    else none
  else if 0x02000000 ≤ ofs ∧ ofs < 0x02600000 then at4 q (ofs / 0x00010000 % 0x200) [.clu, .hnk, .jnq, .mesh]
  else if 0x04000000 ≤ ofs ∧ ofs < 0x0D000000 then at4 q (ofs / 0x00010000 - 0x400) [.tile, .ndl, .tst, .prl]
  else if 0x10000000 ≤ ofs ∧ ofs < 0x10180000 then at4 q (ofs / 0x00010000 % 0x1000) [.ply]
  else if 0x20000000 ≤ ofs ∧ ofs < 0x29000000 then at4 q (ofs / 0x00010000 % 0x1000) [.ary, .slp, .str]
  else none

/-- The register-space offset of a frame of unit u (Table 1.5). -/
def frameBase (f : Frame) (u : Nat) : Nat :=
  match f with
  | .fuse => 0 | .rst => 0x4000 | .boot => 0x8000 | .sec => 0xC000
  | .pwr => 0x10000 | .thm => 0x14000 | .cns => 0x18000 | .err => 0x1C000
  | .pci => 0x20000 | .skn => 0x24000
  | .crs => 0x40000 + u * 0x4000 | .stx => 0x80000 + u * 0x4000
  | .stc => 0x01000000 + 0x400000 * u | .pwrd => 0x01004000 + 0x400000 * u | .thmd => 0x01008000 + 0x400000 * u
  | .mem => 0x01010000 + 0x400000 * (u / 3) + 0x10000 * (u % 3)
  | .phy => 0x01014000 + 0x400000 * (u / 3) + 0x10000 * (u % 3)
  | .blk => 0x01018000 + 0x400000 * (u / 3) + 0x10000 * (u % 3)
  | .clu => 0x02000000 + 0x10000 * u | .hnk => 0x02004000 + 0x10000 * u
  | .jnq => 0x02008000 + 0x10000 * u | .mesh => 0x0200C000 + 0x10000 * u
  | .tile => 0x04000000 + 0x10000 * u | .ndl => 0x04004000 + 0x10000 * u
  | .tst => 0x04008000 + 0x10000 * u | .prl => 0x0400C000 + 0x10000 * u
  | .ply => 0x10000000 + 0x10000 * u
  | .ary => 0x20000000 + 0x10000 * u | .slp => 0x20004000 + 0x10000 * u | .str => 0x20008000 + 0x10000 * u

/-- The offset of a field's register of unit u at index n. -/
def regOf (f : Field) (u n : Nat) : Nat := frameBase f.frame u + f.off + n * f.step

/-- A number for each requester: functions 0 to 16, then hub cores (R395). -/
def reqIdx (rq : Requester) : Nat := match rq with | .func f => f | .hub k => 18 + k

/-- The partition behind a VF's accesses (R337). -/
def reqPart (rq : Requester) : Option Nat := match rq with | .func (p + 1) => some p | _ => none

/-- The view of an offset within a frame: 0 normal, 1 set, 2 clear, 3 toggle (R11), and the offset in the normal view.
The rollout-ring registers of the PCI frame lie at 0x1000 to 0x11FF, where Table 15.9 puts them. -/
def viewOf (fr : Frame) (off : Nat) : Nat × Nat :=
  if fr = .pci ∧ 0x1000 ≤ off ∧ off < 0x1200 then (0, off) else (off / 0x1000, off % 0x1000)

/-- Whether a requester reaches an offset of a frame, in any of its views (R11, R26, R338). -/
def reaches (s : State) (rq : Requester) (fr : Frame) (u off : Nat) (write : Bool) : Bool :=
  match reqPart rq with
  | none => (match rq with | .hub _ => decide (fr ≠ .pci) || s.hst.hclk | .func _ => true)
  | some p =>
    match fr with
    | .tile | .ndl | .tst | .prl | .ary | .slp | .str => partOfTile s u == some p
    | .clu | .hnk | .jnq | .mesh => partOfCluster s u == some p
    | .crs => u == p
    | .stx => u == p && !write
    | .skn =>
      let o := off % 0x1000
      decide (o < 0x200) || decide (0x200 + p * 0x20 ≤ o ∧ o < 0x220 + p * 0x20) ||
        decide (0x400 + p * 0x40 ≤ o ∧ o < 0x440 + p * 0x40) || decide (0xC00 + p * 4 ≤ o ∧ o < 0xC04 + p * 4)
    | .pci =>
      let o := (viewOf .pci off).2
      decide (0x100 + (p + 1) * 0x40 ≤ o ∧ o < 0x140 + (p + 1) * 0x40) ||
        (decide (0x800 ≤ o ∧ o < 0x1000) && rd s PCI_DMA_CTL_OWNER 0 ((o - 0x800) / 0x40) == p + 1) ||
        decide (0x1000 + p * 0x20 ≤ o ∧ o < 0x1020 + p * 0x20)
    | _ => false

/-- The source of a register error: a hub core's node, or 0xE00 + f (R404). -/
def reqNode (rq : Requester) : Nat := match rq with | .hub k => nodeHub k | .func f => 0xE00 + f

/-- REG_UNMAPPED (R23, R411). -/
def regUnmapped (rq : Requester) (ofs : Nat) (s : State) : State :=
  raise (match rq with | .hub _ => .hubfw | .func _ => .endpoint) (plainRec 0x0102 false ofs (reqNode rq)) s

/-! ### Fields of a register -/

/-- The unit whose field is shown: MEM_IMAP, MEM_TOTAL and MEM_PRIO act in stack 0's frame, Table 14.11 in P0's. -/
def homeUnit (f : Field) (u : Nat) : Nat :=
  match f.frame with
  | .mem => if 0x80 ≤ f.off then 0 else u
  | .ply => if 0x800 ≤ f.off then 0 else u
  | _ => u

/-- The index of the entry that a selector names, for index n of an array field (Tables 7.7, 8.8, 10.9, 12.6, 14.11,
16.8). -/
def bankIdx (s : State) (rq : Requester) (f : Field) (u n : Nat) : Nat :=
  match f.bank with
  | .none => if f.id = SKN_EDATA_DATA.id then n + 32 * reqIdx rq else n
  | .stc => rd s STC_SEL_INDEX u 0
  | .xt => rd s STC_XT_IDX_IDX u 0
  | .jnq => rd s JNQ_SEL_QUEUE u 0
  | .sh => rd s BLK_SH_SEL_ENTRY u 0
  | .span => rd s PLY_SPAN_SEL_ENTRY 0 0
  | .tsel => rd s PWR_TSEL_PART 0 0 * 256 + rd s PWR_TSEL_INDEX 0 0
  | .req => reqIdx rq

/-- One field within a register: the field, its index in its array, and its lowest bit. -/
structure Hit where
  f : Field
  n : Nat
  lo : Nat
  deriving DecidableEq, Repr

/-- The fields of the register at an offset of a frame. -/
def hitsAt (fr : Frame) (off : Nat) : List Hit :=
  (fieldsOf fr).flatMap (fun f =>
    ((List.range f.cnt).filter (fun n => f.off + n * f.step == off)).map (fun n => ⟨f, n, f.lo + n * f.lstep⟩))

/-! ### Status of ignored writes -/

/-- The WRIGN bit and the WRIGN_OFS field of a frame's block, the unit that holds them, and a bit added to the offset. -/
def wrignOf (fr : Frame) (u off : Nat) : Option (Field × Field × Nat × Nat) :=
  match fr with
  | .tile => some (TILE_STATUS_WRIGN, TILE_WRIGN_OFS, u, 0)
  | .ndl => some (TILE_STATUS_WRIGN, TILE_WRIGN_OFS, u, 0x4000)
  | .tst => some (TST_STATUS_WRIGN, TST_WRIGN_OFS, u, 0)
  | .prl => some (PRL_STATUS_WRIGN, PRL_WRIGN_OFS, u, 0)
  | .crs => some (CRS_STATUS_WRIGN, CRS_WRIGN_OFS, u, 0)
  | .stx => some (STC_XT_STATUS_WRIGN, STC_XT_WRIGN_OFS, u, 0)
  | .stc => some (STC_STATUS_WRIGN, STC_WRIGN_OFS, u, 0)
  | .str => some (STR_STATUS_WRIGN, STR_WRIGN_OFS, u, 0)
  | .jnq => some (JNQ_STATUS_WRIGN, JNQ_WRIGN_OFS, u, 0)
  | .skn => some (SKN_STATUS_WRIGN, SKN_WRIGN_OFS, u, 0)
  | .hnk => some (HNK_STATUS_WRIGN, HNK_WRIGN_OFS, u, 0)
  | .clu => some (CLU_STATUS_WRIGN, CLU_WRIGN_OFS, u, 0)
  | .blk => if 0x400 ≤ off then some (BLK_SH_STATUS_WRIGN, BLK_SH_WRIGN_OFS, u, 0) else some (BLK_STATUS_WRIGN, BLK_WRIGN_OFS, u, 0)
  | .mem => some (MEM_STATUS_WRIGN, MEM_WRIGN_OFS, u, 0)
  | .phy => some (PHY_STATUS_WRIGN, PHY_WRIGN_OFS, u, 0)
  | .ply => some (PLY_STATUS_WRIGN, PLY_WRIGN_OFS, u, 0)
  | .pci => some (PCI_STATUS_WRIGN, PCI_WRIGN_OFS, u, 0)
  | .pwr => some (PWR_STATUS_WRIGN, PWR_WRIGN_OFS, u, 0)
  | .thmd => some (THM_STATUS_WRIGN, THM_WRIGN_OFS, u, 0)
  | .rst => some (RST_STATUS_WRIGN, RST_WRIGN_OFS, u, 0)
  | .cns => some (CNS_STATUS_WRIGN, CNS_WRIGN_OFS, u, 0)
  | .err => some (ERR_STATUS_WRIGN, ERR_WRIGN_OFS, u, 0)
  | _ => none

/-- An ignored write recorded (R10, R394). -/
def setWrign (fr : Frame) (u off : Nat) (s : State) : State :=
  match wrignOf fr u (off % 0x1000) with
  | some (st, ofs, u', extra) => wr (wr s st u' 0 1) ofs u' 0 (off + extra)
  | none => s

/-! ### Writes -/

/-- Whether any needle of a tile is in a state other than RESET or IDLE. -/
def needlesActive (s : State) (t : Nat) : Bool := [0, 1, 2].any (fun n => decide (1 < needleState s t n))

/-- Whether the block of an RWD field counts as enabled (the sentence below each register table). -/
def fieldEnabled (s : State) (f : Field) (u n : Nat) : Bool :=
  match f.frame with
  | .tile => needlesActive s u
  | .ndl => decide (1 < needleState s u n)
  | .tst => winState s u n == 1
  | .prl =>
    if f.id = PRL_LOAD_SRC.id ∨ f.id = PRL_LOAD_DST.id then rdB s PRL_CTRL_EN u 0 || rdB s PRL_STATUS_LBUSY u 0
    else rdB s PRL_CTRL_EN u 0
  | .crs => !(inReset s u)
  | .stx => !(inReset s u)
  | .stc => rdB s STC_CTL_OWNED u n && !(inReset s (rd s STC_CTL_OWNER u n))
  | .str => rd s STR_TXOPEN_TXOPEN u 0 != 0 || rd s STR_RXOPEN_RXOPEN u 0 != 0
  | .jnq => match partOfCluster s u with | some p => !(inReset s p) | none => false
  | .clu => (partOfCluster s u).isSome
  | .skn => rdB s SKN_BCFG_EN 0 n
  | .blk => !(inReset s (rd s BLK_SH_CTL_PART u n))
  | .mem => if 0x80 ≤ f.off then (List.range 12).any (fun k => rdB s MEM_CTRL_EN k 0) else rdB s MEM_CTRL_EN u 0
  | .phy => rdB s MEM_CTRL_EN u 0
  | .ply =>
    if 0x800 ≤ f.off then rdB s PLY_GCTL_EN 0 0
    else rdB s PLY_WINPEER_VALID u n && !(inReset s (rd s PLY_WINLOC_PART u n))
  | .pci => if 0x1000 ≤ f.off then rdB s SKN_BCFG_EN 0 n else rd s PCI_DMA_STATUS_STATE 0 n != 0
  | .err => rdB s ERR_RCFG_EN 0 n
  | _ => false

/-- The size of the MSI-X table of a function (R343). -/
def vecCount (f : Nat) : Nat := if f = 0 then 128 else 120

/-- A value that a field's own table refuses, which is ignored and sets WRIGN; `w` is the value of the whole register
after the write (Tables 8.8, 14.11, 16.9, R343). -/
def valueRefused (s : State) (f : Field) (u n v w : Nat) : Bool :=
  if f.id = THM_LIM_THOT.id then decide (rd s THM_LIM_TTRIP u 0 < v + 10)
  else if f.id = THM_LIM_TCRIT.id then decide (rd s THM_LIM_TTRIP u 0 < v + 5)
  else if f.id = JNQ_CFG_VALID.id then
    v == 1 && (bitsOf w 0 3 == 7 || bitsOf w 4 5 == 0 || decide (16 < bitsOf w 4 5) || bitsOf w 16 12 == 0)
  else if f.id = JNQ_ACC_ACC.id then decide (8192 < v + rd s JNQ_CFG_LEN u n)
  else if f.id = MEM_IMAP_MODE.id ∨ f.id = MEM_IMAP_GRAN.id then v == 3
  else if f.id = PLY_GID_ROLE.id then v == 3 || (v == 1 && rd s BOOT_STATUS_BAND 0 0 % 2 == 0)
  else if f.id = PCI_DMA_CTL_VECTOR.id then
    let o := rd s PCI_DMA_CTL_OWNER 0 n
    decide (vecCount o ≤ v)
  else if f.id = PCI_RO_CFG_VECTOR.id then decide (vecCount (n + 1) ≤ v)
  else false

/-- The new value of a field in a view, from its old value and the bits written (R11). -/
def viewVal (view old bits : Nat) : Nat :=
  match view with
  | 0 => bits
  | 1 => old ||| bits
  | 2 => old - (old &&& bits)
  | _ => old ^^^ bits

/-- One field of a register write, where `w` is the register's word after it; the Bool says that the write of this field
was refused (R10, R419). CURSLOT is read-only while its entry is VALID (Table 10.9). -/
def writeField (rq : Requester) (view u : Nat) (v : W32) (w : Nat) (h : Hit) (s0 s : State) : State × Bool :=
  let f := h.f
  let n := bankIdx s0 rq f u h.n
  let bits := bitsOf v.toNat h.lo f.width
  let home := homeUnit f u
  let away := decide (home ≠ u)
  match (if f.id = BLK_SH_CTL_CURSLOT.id ∧ rdB s0 BLK_SH_CTL_VALID u n = true then .RO else f.code) with
  | .RO | .RC | .WO => (s, false)
  | .RW =>
    let x := viewVal view (rd s0 f u n) bits
    if away then (s, true)
    else if valueRefused s0 f u n x w then (s, true) else (wr s f u n x, false)
  | .RWD =>
    let x := viewVal view (rd s0 f u n) bits
    if away then (s, true)
    else if x = rd s0 f u n then (s, false)
    else if fieldEnabled s0 f u n || valueRefused s0 f u n x w then (s, true)
    else (wr s f u n x, false)
  | .RWS => (wrNext s f u n (viewVal view (rdNext s0 f u n) bits), false)

/-- VALID has risen in the selected shard-table entry: slot CURSLOT's validity bit set and the other's cleared (R238). -/
def shardValid (s0 : State) (u : Nat) (s : State) : State :=
  let e := rd s0 BLK_SH_SEL_ENTRY u 0
  if rdB s BLK_SH_CTL_VALID u e && !(rdB s0 BLK_SH_CTL_VALID u e) then
    let c := rd s BLK_SH_CTL_CURSLOT u e
    wr (wr s BLK_SH_CTL_SV0 u e (1 - c)) BLK_SH_CTL_SV1 u e c
  else s

/-- The word that a write of v through a view makes of a register: the values that its writable fields would take, and
zero for every other bit, so that a trigger is never part of a set, clear or toggle write (R11). -/
def wordAfter (rq : Requester) (view u : Nat) (v : W32) (hs : List Hit) (s : State) : W32 :=
  if view = 0 then v
  else BitVec.ofNat 32 (hs.foldl (fun a h =>
    let n := bankIdx s rq h.f u h.n
    let bits := bitsOf v.toNat h.lo h.f.width
    match h.f.code with
    | .RW | .RWD => a + viewVal view (rd s h.f (homeUnit h.f u) n) bits * 2 ^ h.lo
    | .RWS => a + viewVal view (rdNext s h.f u n) bits * 2 ^ h.lo
    | _ => a) 0)

/-- A write of a register's fields, each judged on the state before it, and WRIGN once for a refusal (R419). -/
def writeHits (rq : Requester) (fr : Frame) (u off : Nat) (v : W32) (hs : List Hit) (s : State) : State :=
  let view := (viewOf fr off).1
  let w := (wordAfter rq view u v hs s).toNat
  let r := hs.foldl (fun (a : State × Bool) h => let x := writeField rq view u v w h s a.1; (x.1, a.2 || x.2)) (s, false)
  let s1 := if fr = .blk then shardValid s u r.1 else r.1
  if r.2 then setWrign fr u off s1 else s1

/-! ### Reads -/

/-- The fields of a Blocker that a read computes from its pins and updates (Tables 10.9, 11.9). -/
def readBlocker (s : State) (f : Field) (b n : Nat) : Nat :=
  let act := activeUpd s b
  if f.id = BLK_SH_PINS_PINS0.id then pinCount s b n 0
  else if f.id = BLK_SH_PINS_PINS1.id then pinCount s b n 1
  else if f.id = BLK_PIN_USED_USED.id then (s.pins.filter (fun p => p.blk == b)).length
  else if f.id = BLK_SH_CTL_WRITING.id then
    (if s.upds.any (fun u => u.blk == b && u.writing && uEntry u == n) then 1 else 0)
  else if f.id = BLK_SH_CTL_UWAIT.id then
    (if s.upds.any (fun u => u.blk == b && uEntry u == n && (updWaits s u || (uEmits u && ckHolds s u))) then 1 else 0)
  else if f.id = BLK_STATUS_ACTIVE.id then (if act.isSome then 1 else 0)
  else if f.id = BLK_STATUS_PASS.id then (act.map (fun u => u.pass)).getD 0
  else if f.id = BLK_ACTIVE_PART.id then (act.map (fun u => u.part)).getD 0
  else if f.id = BLK_ACTIVE_TAG.id then (act.map uTag).getD 0
  else if f.id = BLK_PROGRESS_BLOCKS.id then (act.map (fun u => u.block)).getD 0
  else if f.id = BLK_QDEPTH_DEPTH.id then (s.upds.filter (fun u => u.blk == b)).length
  else rd s f b n

/-- The values that a read computes rather than holds. -/
def readField (s : State) (rq : Requester) (h : Hit) (u : Nat) : Nat :=
  let f := h.f
  let u := homeUnit f u
  let n := bankIdx s rq f u h.n
  if f.code = .WO then 0
  else if f.id = TILE_ID_PART.id then (partOfTile s u).getD 0
  else if f.id = TILE_ID_PVALID.id then (if (partOfTile s u).isSome then 1 else 0)
  else if f.id = TST_STATUS_GBUSY.id then (if s.gather.any (fun g => g.tile == u) then 1 else 0)
  else if f.id = CLU_STATUS_TBUSY.id then
    (if s.net.any (fun p => p.typ == .rdreq && p.tmode != 0 && p.loc == .dest && p.dst == nodeCluster u) then 1 else 0)
  else if f.id = MESH_CREDVAL_CREDITS.id then
    let port := rd s MESH_CREDSEL_PORT u 0
    let vc := rd s MESH_CREDSEL_VC u 0
    if hasOutput (u % 24) port && decide (vc < 6) then creditsOf s u port vc else 0
  else if f.id = STC_WAITERS_NWAIT.id then (s.waiters.filter (atStitch (u * 4096 + n))).length
  else if f.id = JNQ_STATUS_COPY.id then
    (if s.net.any (fun p => p.typ == .join && p.dst == 0xFFF && p.addr / 0x1000 == clusterBase u / 0x1000 + n) then 1 else 0)
  else if f.frame = .blk then readBlocker s f u n
  else if f.id = ERR_QCOUNT_COUNT.id then s.errQueue.length
  else if f.id = ERR_QREC_WORD.id then ((s.errQueue.head?.bind (fun r => r[h.n]?)).getD 0).toNat
  else if f.id = CRS_TCLASS_TMO.id then max 1 (min 10000000 (rd s f u n))
  else if f.id = ERR_RCFG_LOG2.id then max 4 (min 16 (rd s f u n))
  else if f.id = PHY_EYE_WIDTH.id ∨ f.id = PHY_EYE_HEIGHT.id then
    let e := mapGet (0, 0) s.eyes (u * 2048 + rd s PHY_MSEL_CH u 0 * 64 + rd s PHY_MSEL_LANE u 0)
    if f.id = PHY_EYE_WIDTH.id then e.1 else e.2
  else if f.id = MEM_QCFG_AGE.id ∨ f.id = ERR_RCFG_MODCNT.id ∨ f.id = PCI_RO_CFG_MODCNT.id ∨ f.id = PWR_GRACE_US.id ∨ f.id = PWR_RECOV_MS.id then
    max 1 (rd s f u n)
  else if f.id = PWR_DROOP_VTH.id then max 3800 (min 4400 (rd s f u n))
  else if f.id = PWR_TPERIOD_PERIOD.id then max 1 (min 256 (rd s f u n))
  else rd s f u n

/-- The pairs of low and high halves read under R12. -/
def hiPairs : List (Field × Field) :=
  [(ARY_OPS_LO_OPS, ARY_OPS_HI_OPS), (SLP_READS_LO_READS, SLP_READS_HI_READS), (CLU_MERGED_LO_MERGED, CLU_MERGED_HI_MERGED),
   (MESH_PKTIN_LO_PKTIN, MESH_PKTIN_HI_PKTIN), (MESH_PKTOUT_LO_PKTOUT, MESH_PKTOUT_HI_PKTOUT),
   (MESH_WAIT_LO_WAIT, MESH_WAIT_HI_WAIT), (CRS_COURSE_LO_COURSE, CRS_COURSE_HI_COURSE),
   (STR_MSGOUT_LO_MSGOUT, STR_MSGOUT_HI_MSGOUT), (STR_MSGIN_LO_MSGIN, STR_MSGIN_HI_MSGIN),
   (SKN_STQ_EPOCH_LO_EPOCH, SKN_STQ_EPOCH_HI_EPOCH), (HNK_ADDS_LO_ADDS, HNK_ADDS_HI_ADDS),
   (BLK_UPD_LO_UPD, BLK_UPD_HI_UPD), (BLK_BLOCKS_LO_BLOCKS, BLK_BLOCKS_HI_BLOCKS), (SKN_TOK_LO_TOK, SKN_TOK_HI_TOK),
   (SKN_DONE_LO_DONE, SKN_DONE_HI_DONE)] ++
  [(MEM_RDB_LO_RDB, MEM_RDB_HI_RDB), (MEM_WRB_LO_WRB, MEM_WRB_HI_WRB), (MEM_THRUS_LO_THRUS, MEM_THRUS_HI_THRUS),
   (PLY_TXFLIT_LO_TX, PLY_TXFLIT_HI_TX), (PLY_RXFLIT_LO_RX, PLY_RXFLIT_HI_RX), (PLY_FECCW_LO_CW, PLY_FECCW_HI_CW),
   (PCI_DMA_BYTES_LO_BYTES, PCI_DMA_BYTES_HI_BYTES), (PWR_THRUS_LO_US, PWR_THRUS_HI_US),
   (PWR_TEPOCH_LO_EPOCH, PWR_TEPOCH_HI_EPOCH), (ERR_FILED_LO_FILED, ERR_FILED_HI_FILED)]

/-- The class S counters with their sticky bits (R396). -/
def classS : List (Field × Field) :=
  [(TST_LW_COUNT_COUNT, TST_SATSTICKY_COUNT), (TST_LW_LATE_LATE, TST_SATSTICKY_LATE), (PRL_GSAT_GSAT, PRL_GSTICKY_SGSAT),
   (PRL_GPICOT_GPICOT, PRL_GSTICKY_SGPICOT), (PRL_GESC_GESC, PRL_GSTICKY_SGESC), (PRL_GNAN_GNAN, PRL_GSTICKY_SGNAN),
   (CLU_ECC_CE_CE, CLU_SATSTICKY_SCE), (CLU_GSAT_GSAT, CLU_SATSTICKY_SGSAT), (CLU_GPICOT_GPICOT, CLU_SATSTICKY_SGPICOT),
   (CLU_GESC_GESC, CLU_SATSTICKY_SGESC), (CLU_GNAN_GNAN, CLU_SATSTICKY_SGNAN), (MESH_CE_CE, MESH_SATSTICKY_SCE),
   (STR_DROP_DROP, STR_SATSTICKY_SDROP), (JNQ_ROUNDS_ROUNDS, JNQ_STATUS_SROUNDS), (SKN_STQ_LATE_LATE, SKN_STQ_STATUS_SLATE),
   (SKN_STQ_SKIP_SKIP, SKN_STQ_STATUS_SSKIP), (HNK_NONFIN_NONFIN, HNK_STATUS_SNONFIN)] ++
  [(BLK_PIN_TMO_TMO, BLK_SH_STATUS_STMO), (BLK_NONFIN_NONFIN, BLK_STATUS_SNONFIN), (BLK_GSAT_GSAT, BLK_STATUS_SGSAT),
   (BLK_GPICOT_GPICOT, BLK_STATUS_SGPICOT), (BLK_GESC_GESC, BLK_STATUS_SGESC), (BLK_GNAN_GNAN, BLK_STATUS_SGNAN),
   (SKN_DEFER_DEFER, SKN_SATSTICKY_SDEFER), (SKN_EVICT_EVICT, SKN_SATSTICKY_SEVICT), (SKN_NOPAGE_NOPAGE, SKN_SATSTICKY_SNOPAGE),
   (SKN_NORET_NORET, SKN_SATSTICKY_SNORET), (MEM_ECC_CE_CE, MEM_SATSTICKY_SCE), (PLY_FECUNC_UNC, PLY_SATSTICKY_SUNC),
   (PLY_REPLAY_REPLAY, PLY_SATSTICKY_SREPLAY), (PWR_OVERDRAW_COUNT, PWR_STATUS_SOVER), (ERR_LOST_LOST, ERR_STATUS_SLOST)]

/-- The key of a block's holding register for a requester (R395). -/
def holdKey (f : Field) (u : Nat) (rq : Requester) : Nat :=
  -- the field tables give each block one frame; the first field's number stands for it
  (((fieldsOf f.frame).head?.map (fun g => g.id)).getD 0 * 4096 + u) * 32 + reqIdx rq

/-- The low half that a high half belongs to, or the other way round. -/
def lowOf (f : Field) : Option Field := (hiPairs.find? (fun p => p.2.id == f.id)).map (·.1)
def highOf (f : Field) : Option Field := (hiPairs.find? (fun p => p.1.id == f.id)).map (·.2)

/-- What a read returns for one field: a high half comes from the holding register (R12). -/
def readHit (s : State) (rq : Requester) (u : Nat) (h : Hit) : Nat :=
  match lowOf h.f with
  | some _ => mapGet 0 s.holding (holdKey h.f u rq)
  | none => readField s rq h u

/-- What a read does to one field: an RC field is cleared, a low half captures its high half (R10, R12). -/
def readSide (s0 : State) (rq : Requester) (u : Nat) (s : State) (h : Hit) : State :=
  if h.f.code = .RC then wr s h.f (homeUnit h.f u) (bankIdx s0 rq h.f u h.n) 0
  else match highOf h.f with
    | some g =>
      { s with holding := mapSet 0 s.holding (holdKey h.f u rq) (rd s0 g (homeUnit h.f u) (bankIdx s0 rq g u h.n)) }
    | none => s

/-- The register behind an offset of BAR0 in frog mode (Table 17.8). -/
def frogOfs (ofs : Nat) : Option Nat :=
  if ofs = 0 then some (regOf BOOT_STATUS_STATE 0 0)
  else if ofs = 4 then some (regOf FUSE_DEVID_STEPPING 0 0)
  else if ofs = 0x1004 then some (regOf PCI_FN_MBX_LO_BASE 0 0)
  else if ofs = 0x1008 then some (regOf PCI_FN_MBX_HI_BASE 0 0)
  else none

/-- Where a requester's access at an offset goes: the PF sees the BAR0 of Table 17.8 in frog mode. -/
def locateFor (s : State) (rq : Requester) (ofs : Nat) : Option (Frame × Nat × Nat) :=
  match rq with
  | .func _ => if rd s BOOT_STATUS_STATE 0 0 = 2 then (frogOfs ofs).bind locate else locate ofs
  | .hub _ => locate ofs

/-- Whether a frame belongs to a K-die. -/
def kdieFrame (fr : Frame) : Bool :=
  match fr with
  | .tile | .ndl | .tst | .prl | .ary | .slp | .str | .clu | .hnk | .jnq | .mesh | .stc | .mem | .phy | .blk => true
  | _ => false

/-- Whether an access to a frame waits: the K-dies are in reset (R341, R384). -/
def stalled (s : State) (fr : Frame) : Bool :=
  kdieFrame fr && (decide (3 ≤ s.bt.latched) || rd s BOOT_STATUS_STATE 0 0 == 2)

/-- A BAR read kept waiting; a BAR0 read is kept with 0 bytes. -/
def waitRead (rq : Requester) (ofs n : Nat) (s : State) : State :=
  match rq with
  | .func f => { s with hst.barWait := s.hst.barWait.erase (f, ofs, n) ++ [(f, ofs, n)] }
  | .hub _ => s

/-- A BAR0 read no longer waits. -/
def readDone (rq : Requester) (ofs : Nat) (s : State) : State :=
  match rq with
  | .func f => { s with hst.barWait := s.hst.barWait.erase (f, ofs, 0) }
  | .hub _ => s

/-- A read of the register at an offset, with the value of each field by `val`: its word in `rdata` and its side effects
(R10 to R12, R23, R393). -/
def busReadBy (val : State → Requester → Nat → Hit → Nat) (rq : Requester) (ofs : Nat) (s0 : State) : State :=
  match locateFor s0 rq ofs with
  | none => regUnmapped rq ofs { s0 with rdata := 0 }
  | some (fr, u, off) =>
    let v := viewOf fr off
    if !(reaches s0 rq fr u off false) then regUnmapped rq ofs { s0 with rdata := 0 }
    else if stalled s0 fr then waitRead rq ofs 0 s0
    else
      let s := readDone rq ofs s0
      if v.1 ≠ 0 then { s with rdata := 0 }
      else
        let hs := hitsAt fr v.2
        let w := hs.foldl (fun a h => a + val s rq u h * 2 ^ h.lo) 0
        { hs.foldl (readSide s rq u) s with rdata := BitVec.ofNat 32 w }

/-- A read with the values that the fields hold or that `readField` computes. -/
def busRead (rq : Requester) (ofs : Nat) (s : State) : State := busReadBy readHit rq ofs s

/-- A write to a register: refused where the requester does not reach it, kept waiting while its frame is in reset, ignored
where it is partial, else `act` on the frame, unit, offset and the register's fields (R23, R338, R341, R393). -/
def busWrite (rq : Requester) (ofs : Nat) (v : W32) (be : Nat) (act : Frame → Nat → Nat → List Hit → State → State)
    (s : State) : State :=
  match locateFor s rq ofs with
  | none => regUnmapped rq ofs s
  | some (fr, u, off) =>
    if !(reaches s rq fr u off true) then regUnmapped rq ofs s
    else if stalled s fr then { s with hst.barWrites := s.hst.barWrites ++ [(rq, ofs, v, be)] }
    else
      let hs := hitsAt fr (viewOf fr off).2
      if hs.isEmpty then s
      else if be ≠ 0xF then setWrign fr u off s
      else act fr u off hs s

/-- A write in the normal view to the register of a field, all byte enables set: the register's fields, then the
command's own effect with the offset at hand. -/
def busCmd (rq : Requester) (f : Field) (u n : Nat) (v : W32) (act : Nat → State → State) (s : State) : State :=
  busWrite rq (regOf f u n) v 0xF (fun fr u off hs s => act off (writeHits rq fr u off v hs s)) s

/-- COUNTER_LOW_READ: a read of the low half of a 64-bit counter; the command of any other offset changes nothing. -/
def execCounterLowRead (rq : Requester) (ofs : Nat) (s : State) : Host.Outcome State Fault Refusal :=
  .next (match locate ofs with
    | some (fr, _, off) => if (hitsAt fr off).any (fun h => (highOf h.f).isSome) then busRead rq ofs s else s
    | none => s)

end Sys2Proof.Machine
end

