-- ==== Sys2Proof/Machine/TileCtl.lean ====
section
/-! DEFINITION. The tile's own controls (`02_tile.md`): landing-window commands (R55), page fills (R45, R46), the latency
tag (R73), purl loads (R59), gather mode (R52, R53), and arrivals at the store (R54, R56). -/

namespace Sys2Proof.Machine

/-! ### Landing-window commands -/

/-- A landing window opened, closed or released by an LW instruction or by a write of TST_LW_CMD (R55). -/
def lwCommand (op t win : Nat) (via : LwBy) (s : State) : State :=
  match via with
  | .insn n w =>
    let nc := needleCode n
    issue t n w (isOp w 0x1A (· == op - 1) && wSTITCH w % 16 == win) (lawful w)
      (fun s => advance t nc (windowCmd t win op nc s)) s
  | .bus rq => busCmd rq TST_LW_CMD_OP t 0 (BitVec.ofNat 32 (win + 16 * op)) (fun _ s => windowCmd t win op 7 s) s

/-- LW FN 0, or TST_LW_CMD OP 1. -/
def execLwOpen (t win : Nat) (via : LwBy) (s : State) : Host.Outcome State Fault Refusal :=
  .next (if win < 16 then lwCommand 1 t win via s else s)

/-- LW FN 1, or TST_LW_CMD OP 2. -/
def execLwClose (t win : Nat) (via : LwBy) (s : State) : Host.Outcome State Fault Refusal :=
  .next (if win < 16 then lwCommand 2 t win via s else s)

/-- LW FN 2, or TST_LW_CMD OP 3. -/
def execLwRelease (t win : Nat) (via : LwBy) (s : State) : Host.Outcome State Fault Refusal :=
  .next (if win < 16 then lwCommand 3 t win via s else s)

/-! ### Page fills -/

/-- Whether a fill of a page is refused: a needle in RUN or WAIT has its PC there (R46). -/
def fillRefused (s : State) (t page : Nat) : Bool :=
  [0, 1, 2].any (fun n => (needleState s t n == nsRun || needleState s t n == nsWait) && getPC s t n / 512 == page)

/-- A fill asked for while none is in progress (R46). -/
def startFill (t src page nc : Nat) (s : State) : State :=
  if fillRefused s t page then
    tileError t 0x0202 (tileObj t page) (tileSrc t nc) (wr s TILE_STATUS_IBUSY t 0 1)
  else wr { s with fills := s.fills ++ [⟨t, src, page⟩] } TILE_IFILL_BUSY t 0 1

/-- Whether a fill of tile t is in progress. -/
def fillBusy (s : State) (t : Nat) : Bool := rdB s TILE_IFILL_BUSY t 0

/-- The effect of IFILL: as a write to TILE_IFILL; one that is refused completes without effect (R46, Table 2.15). -/
def ifillEffect (t nc : Nat) (w : W64) (s : State) : State :=
  let src := wf w 0 7
  let page := wf w 8 3
  advance t nc (startFill t src page nc (if fillRefused s t page then s
    else wr (wr s TILE_IFILL_SRCPAGE t 0 src) TILE_IFILL_DPAGE t 0 page))

/-- IFILL; while a fill is in progress it waits and does not request the engine port (R42, R46). -/
def execIfill (t : Nat) (n : Needle) (w : W64) (rq : Nat) (s : State) : Host.Outcome State Fault Refusal :=
  .next (issue t n w (isOp w 0x1F (· == 0)) (lawful w)
    (fun s => if fillBusy s t then s else granted t n unitEngine rq (ifillEffect t (needleCode n) w) s) s)

/-- IFILL_GO: a write of TILE_IFILL with GO 1 (Table 2.8). -/
def execIfillGo (rq : Requester) (t : Nat) (v : W32) (s : State) : Host.Outcome State Fault Refusal :=
  .next (if bitsOf v.toNat 31 1 = 0 ∨ 2304 ≤ t then s
    else busCmd rq TILE_IFILL_GO t 0 v (fun off s =>
      if fillBusy s t then setWrign .tile t off s
      else startFill t (rd s TILE_IFILL_SRCPAGE t 0) (rd s TILE_IFILL_DPAGE t 0) 7 s) s)

/-- A page of the instruction buffer written from a page of the store (R45, R53). -/
def fillPage (f : Fill) (s : State) : State :=
  let s1 := flushRange f.tile (f.src * 4096) 4096 s
  let word : Nat → W64 := fun i => BitVec.ofNat 64 (storeLE s1 f.tile (f.src * 4096 + 8 * i) 8)
  let put : SMap W64 → Nat → SMap W64 := fun m i => mapSet 0 m (f.tile * 4096 + f.page * 512 + i) (word i)
  { s1 with ibuf := (List.range 512).foldl put s1.ibuf }

/-- IFILL_COMPLETE: the fill in progress has copied its page, which is valid from now on (R45). -/
def execIfillComplete (t : Nat) (s : State) : Host.Outcome State Fault Refusal :=
  .next (match s.fills.find? (fun f => f.tile == t) with
    | none => s
    | some f =>
      let s1 := fillPage f { s with fills := s.fills.erase f }
      wr { s1 with ipage := mapSet false s1.ipage (t * 8 + f.page) true } TILE_IFILL_BUSY t 0 0)

/-! ### The latency tag -/

/-- The latency set of a tile (R73). -/
def latencySet (s : State) (t : Nat) : Nat := if a1Of s (partOfTile s t) then 1 else 2

/-- TILE_LTAG_WRITE (R73): a write of the tag, compared with the latency set; a refused write compares nothing. For
LTAG_MISMATCH Table 18.7 gives no item and no needle: the record names item 0, and the tile itself with needle code 7, none,
as its source. DESIGN CHOICE (log entry 98). -/
def execTileLtagWrite (rq : Requester) (t : Nat) (v : W32) (s : State) : Host.Outcome State Fault Refusal :=
  .next (if 2304 ≤ t then s
    else busCmd rq TILE_LTAG_LTAG t 0 v (fun _ s =>
      let tag := rd s TILE_LTAG_LTAG t 0
      if tag ≠ bitsOf v.toNat 0 4 then s
      else if tag = latencySet s t then wr s TILE_STATUS_INTERLOCK t 0 0
      else tileError t 0x020A (tileObj t 0) (tileSrc t 7) (wr s TILE_STATUS_INTERLOCK t 0 1)) s)

/-! ### Purl loads -/

/-- PRL_LOAD_GO: a write of PRL_LOAD with GO 1 (R59, Table 2.12). -/
def execPrlLoadGo (rq : Requester) (t : Nat) (v : W32) (s : State) : Host.Outcome State Fault Refusal :=
  .next (if bitsOf v.toNat 31 1 = 0 ∨ 2304 ≤ t then s
    else busCmd rq PRL_LOAD_GO t 0 v (fun off s =>
      if rdB s PRL_CTRL_EN t 0 || rdB s PRL_STATUS_LBUSY t 0 then setWrign .prl t off s
      else wr { s with prlLoads := s.prlLoads ++ [⟨t, rd s PRL_LOAD_SRC t 0 * 128, rd s PRL_LOAD_DST t 0⟩] }
        PRL_STATUS_LBUSY t 0 1) s)

/-- A byte that a purl load reads: a source beyond the store is a free value, which the spec does not state. -/
def prlByte (s : State) (t off i : Nat) : Byte :=
  BitVec.ofNat 8 (if off + i < 0x80000 then storeByte s t (off + i) else Config.free s.freeIdx i)

/-- PRL_LOAD_COMPLETE: the load has copied 1 KiB into its slot or table page; a slot is valid from now on (R59). -/
def execPrlLoadComplete (t : Nat) (s : State) : Host.Outcome State Fault Refusal :=
  .next (match s.prlLoads.find? (fun f => f.tile == t) with
    | none => s
    | some f =>
      let s0 := flushRange t f.src 1024 { s with prlLoads := s.prlLoads.erase f }
      let put : SMap Byte → Nat → SMap Byte := fun m i => mapSet 0 m (32768 * t + f.dst * 1024 + i) (prlByte s0 t f.src i)
      let s1 := { s0 with prl := (List.range 1024).foldl put s0.prl, freeIdx := s0.freeIdx + 1 }
      let s2 := wr s1 PRL_STATUS_LBUSY t 0 0
      if f.dst < 16 then wr s2 PRL_STATUS_SLOTVALID t f.dst 1 else s2)

/-! ### Gather mode -/

/-- GATHER_OFF: a write of 0 to TST_CTRL.GATHER, in effect once the buffer has flushed (R53). -/
def execGatherOff (rq : Requester) (t : Nat) (v : W32) (s : State) : Host.Outcome State Fault Refusal :=
  .next (if bitsOf v.toNat 0 1 = 1 ∨ 2304 ≤ t then s else busCmd rq TST_CTRL_GATHER t 0 v (fun _ s => flushAll t s) s)

/-- GATHER_FLUSH_TIMEOUT: the oldest entry has waited 16 cycles, and the buffer flushes until it is empty (R52). -/
def execGatherFlushTimeout (t : Nat) (s : State) : Host.Outcome State Fault Refusal := .next (flushAll t s)

/-! ### Arrivals -/

/-- The node that a record names as the source of a packet: a host write through BAR2 is its function's, 0xE00 + f (R56,
R404). -/
def pktNode (p : Pkt) : Nat := if 32 ≤ p.who then 0xE00 + (p.who - 32) else p.src

/-- The needle code that a record names beside that node: that of the needle or cast engine which sent the packet from it,
and 7, none, for every other source, a read response among them (R404). DEDUCED (log entry 16). -/
def pktNeedle (p : Pkt) : Nat := if p.src < 2304 ∧ p.owner = none ∧ p.who < 4 then p.who else 7

/-- The tile and needle whose instruction sent a packet: for a read response those of the XFER that it answers (R56). -/
def pktIssuer (p : Pkt) : Option (Nat × Nat) :=
  match p.owner with
  | some t => if p.who < 3 then some (t, p.who) else none
  | none => if p.who < 3 ∧ p.src < 2304 then some (p.src, p.who) else none

/-- A needle stopped by an error of what it sent: it enters TRAP from RUN, WAIT or DONE, its wait withdrawn (Table 2.2). -/
def stopNeedle (t nc : Nat) (s : State) : State :=
  if 1 < needleState s t nc ∧ needleState s t nc < 5 then
    enterTrap t nc (dropWaits t nc { s with
      waiters := s.waiters.filter (fun w => !(w.tile == t && w.who == nc)),
      stalls := s.stalls.filter (fun w => !(w.1 == t && w.2.1 == nc)) })
  else s

/-- A trapping error of the unit that sent a packet (R56, R129): the needle that issued it to TRAP, or the cast branch of
its partition. -/
def trapSender (u : UnitId) (e : ErrRec) (p : Pkt) (s : State) : State :=
  match pktIssuer p with
  | some (t, nc) => stopNeedle t nc (raise u e s)
  | none => castBranch p.part u e s

/-- The partition whose policy decides about a packet that a window drops: the sender's, the receiver's for a packet of an
inbound Ply link, and none for a host write through BAR2 (R56). -/
def policyPart (s : State) (t : Nat) (p : Pkt) : Option Nat :=
  if 32 ≤ p.who then none else if 0x940 ≤ p.src ∧ p.src < 0x958 then partOfTile s t else p.part

/-- The effect of LATE_WRITE and WINDOW_SPAN on the partition whose unit sent the packet (R56); a sender of no partition
only has its record filed. -/
def packetFail (t code win : Nat) (pol : Field) (p : Pkt) (s : State) : State :=
  let trap := match policyPart s t p with | some q => rdB s pol q 0 | none => false
  let c := tileCourse s t % 2 ^ 32
  let e : ErrRec := ⟨code, partOfTile s t, trap, false, tileObj t win, tileSrc (pktNode p) (pktNeedle p),
    if (partOfTile s t).isSome then c - c % 256 + p.crslo else 0, none⟩
  if trap then trapSender (.tile t) e { p with part := policyPart s t p } s else raise (.tile t) e s

/-- STRAND_OVERRUN of a write from outside, at endpoint `ep`: refused whole, and it counts as landed (R191). The record's
source is the endpoint's peer tile (R199), with the needle code of a packet that this tile sent. -/
def extOverrun (t ep : Nat) (p : Pkt) (s : State) : State :=
  let peer := (getRx s t ep).stile
  landPkt p (tileError t 0x0216 (strandObj t ep true) (tileSrc peer (if p.src = peer then pktNeedle p else 7)) s)

/-- A packet at the landing windows (R54, Table 2.10): written and counted, or dropped whole. The
Bool says whether it was written. -/
def meetWindows (t : Nat) (p : Pkt) (extra : List StOp) (s : State) : State × Bool :=
  let off := p.addr - storeBase t
  let n := p.len * 16
  let put : State → State := extWritePkt t 3 off n p.data p.en
  match windowHit s t off n with
  | none => (landWith p (extra ++ sigOps p) (put s), true)
  | some w =>
    if !(decide (winBase s t w ≤ off ∧ off + n ≤ winBase s t w + winLen s t w)) then
      (landPkt p (packetFail t 0x0205 w CRS_XPOL_TSPAN p s), false)
    else if winState s t w = 1 then
      let k := if rdB s TST_LW_CTRL_UNIT t w then 1 else n
      let own : List StOp := match partOfTile s t with
        | some q => if rdB s TST_LW_CTRL_SIGNAL t w then [⟨q, rd s TST_LW_CTRL_STITCH t w, k, t, 7, 0, t⟩] else []
        | none => []
      (landWith p (own ++ extra ++ sigOps p) (incS (put s) TST_LW_COUNT_COUNT TST_SATSTICKY_COUNT t w k), true)
    else
      (landPkt p (packetFail t 0x0204 w CRS_XPOL_TLATE p (incS s TST_LW_LATE_LATE TST_SATSTICKY_LATE t w 1)), false)

/-- Whether a tile's external port holds a packet of the course that the tile has not yet reached (R163). -/
def heldForCourse (s : State) (t : Nat) (p : Pkt) : Bool := p.part.isSome && p.crslo == (tileCourse s t + 1) % 256

/-- Whether packet p is next at its tile: it is of a course that the tile has reached, and no packet of its source, and of
its class, came before it and still waits there; what the port holds for the next course stands aside (R149, R163). -/
def tileTurn (s : State) (t : Nat) (p : Pkt) : Bool :=
  (p.typ == .rdreq || !(heldForCourse s t p)) &&
  (s.net.find? (fun q => q.loc == .dest && q.dst == t && q.src == p.src && (q.typ == .rdrsp) == (p.typ == .rdrsp) &&
    (q.typ == .rdreq || !(heldForCourse s t q)))) == some p

/-- TST_STATUS.WWCOL: the engine port writes an entry in the cycle in which a packet's bytes are written to it (R51). -/
def noteCollision (t : Nat) (col : Bool) (r : State × Bool) : State × Bool :=
  if col && r.2 then (wr r.1 TST_STATUS_WWCOL t 0 1, r.2) else r

/-- A write or a read response at its tile (R51, R54, R163, R191). -/
def tileArrival (t : Nat) (col : Bool) (p : Pkt) (s : State) : State :=
  if !(tileTurn s t p) then s
  else match overrunAt s t (p.addr - storeBase t) (p.len * 16) with
    | some m => extOverrun t m p s
    | none => (noteCollision t col (meetWindows t p [] s)).1

/-- ARRIVAL: a WR packet at its tile. -/
def execArrival (a : Landing) (s : State) : Host.Outcome State Fault Refusal :=
  .next (match arrived s a.pid with
    | some p => if p.typ = .wr ∧ p.dst < 2304 then tileArrival p.dst a.col p s else s
    | none => s)

end Sys2Proof.Machine
end

