-- ==== Sys2Proof/Machine/Strand.lean ====
section
/-! DEFINITION. Strands at their endpoints (`08_strands_and_join_queues.md`): a needle's commands (R184, R192), the control
flits of Table 8.2 under Tables 8.3 and 8.4, and data packets (R191). -/

namespace Sys2Proof.Machine

/-! ### Commands in the strand table -/

/-- Needle n of tile t writes word v at an offset of the tile's strand table, while it runs (R184). -/
def tableWrite (t : Nat) (n : Needle) (ofs : Nat) (v : W32) (s : State) : State :=
  if decide (t < 2304) && needleState s t (needleCode n) == nsRun then
    (engineWrite t (tableOff s t + ofs) 4 v.toNat (needleCode n) s).1
  else s

/-- TX_OPEN_CMD: CMD OPEN in word 0 of TX descriptor ep (Table 8.3). -/
def execTxOpenCmd (t : Nat) (n : Needle) (ep : Nat) (v : W32) (s : State) : Host.Outcome State Fault Refusal :=
  .next (if ep < 32 ∧ bitsOf v.toNat 30 2 = 1 then tableWrite t n (ep * 16) v s else s)

/-- TX_CLOSE_CMD: CMD CLOSE in word 0 of TX descriptor ep (Table 8.3). -/
def execTxCloseCmd (t : Nat) (n : Needle) (ep : Nat) (v : W32) (s : State) : Host.Outcome State Fault Refusal :=
  .next (if ep < 32 ∧ bitsOf v.toNat 30 2 = 2 then tableWrite t n (ep * 16) v s else s)

/-- RX_OPEN_CMD: CMD OPEN in word 0 of RX descriptor ep (Table 8.4). -/
def execRxOpenCmd (t : Nat) (n : Needle) (ep : Nat) (v : W32) (s : State) : Host.Outcome State Fault Refusal :=
  .next (if ep < 32 ∧ bitsOf v.toNat 30 2 = 1 then tableWrite t n (0x200 + ep * 16) v s else s)

/-- RX_CLOSE_CMD: CMD CLOSE in word 0 of RX descriptor ep (Table 8.4). -/
def execRxCloseCmd (t : Nat) (n : Needle) (ep : Nat) (v : W32) (s : State) : Host.Outcome State Fault Refusal :=
  .next (if ep < 32 ∧ bitsOf v.toNat 30 2 = 2 then tableWrite t n (0x200 + ep * 16) v s else s)

/-- HEAD_WRITE: word 2 of RX descriptor ep (R192). -/
def execHeadWrite (t : Nat) (n : Needle) (ep : Nat) (v : W32) (s : State) : Host.Outcome State Fault Refusal :=
  .next (if ep < 32 then tableWrite t n (0x200 + ep * 16 + 8) v s else s)

/-! ### Control flits -/

def ctlKind (p : Pkt) : Nat := bitsOf p.data 0 4
def ctlSep (p : Pkt) : Nat := bitsOf p.data 4 5
def ctlRep (p : Pkt) : Nat := bitsOf p.data 9 5
def ctlCredits (p : Pkt) : Nat := bitsOf p.data 16 16

/-- Whether a packet is a control packet (R185). -/
def isCtl (p : Pkt) : Bool := p.typ == .strand && decide (p.dst < 2304) && p.addr == storeBase p.dst

/-- A control packet of a kind at its tile, once the tile's course admits it (R163, R185); it lands when it has acted. -/
def onCtl (kind pid : Nat) (act : Nat → Pkt → State → State) (s : State) : State :=
  match arrived s pid with
  | some p =>
    if isCtl p && ctlKind p == kind && tileTurn s p.dst p then landPkt p (act p.dst p s) else s
  | none => s

/-- A control flit at its TX endpoint: only those of the endpoint's own strand act (R186). -/
def onTx (act : Nat → Nat → TxEp → State → State) (t : Nat) (p : Pkt) (s : State) : State :=
  let n := ctlSep p
  let e := getTx s t n
  if p.src = e.dtile ∧ ctlRep p = e.dep then act t n e s else s

/-- OPEN_REQ at its RX endpoint (Table 8.4). -/
def rxOpenReq (t : Nat) (p : Pkt) (s : State) : State :=
  let m := ctlRep p
  let e := getRx s t m
  let nak : State := sendCtl t p.src (ctlFlit 3 (ctlSep p) m 0 0 0) s
  match e.st with
  | 0 => setRx t m { rxClosed e with st := 2, held := some (p.src, ctlSep p) } s
  | 1 =>
    if p.src = e.stile ∧ ctlSep p = e.sep then
      sendCtl t p.src (ctlFlit 2 (ctlSep p) m 0 e.rbase e.rsize) (setRx t m { e with st := 3 } s)
    else nak
  | _ => nak

/-- OPEN_REQ. -/
def execOpenReq (pid : Nat) (s : State) : Host.Outcome State Fault Refusal := .next (onCtl 1 pid rxOpenReq s)

/-- OPEN_ACK at an OPENING endpoint (Table 8.3). -/
def txOpenAck (t n : Nat) (e : TxEp) (rb rs : Nat) (s : State) : State :=
  if e.st = 1 then
    setTx t n { e with st := 2, rbase := rb, rsize := rs, credits := rs * 16, tail := 0, mseq := 0 } s
  else s

/-- OPEN_ACK. -/
def execOpenAck (pid : Nat) (s : State) : Host.Outcome State Fault Refusal :=
  .next (onCtl 2 pid (fun t p s =>
    onTx (fun t n e s => txOpenAck t n e (bitsOf p.data 32 11) (bitsOf p.data 48 11) s) t p s) s)

/-- OPEN_NAK at an OPENING endpoint: STRAND_REFUSED (Table 8.3). -/
def txOpenNak (t n : Nat) (e : TxEp) (s : State) : State :=
  if e.st = 1 then
    setTx t n { e with st := 0 } (tileError t 0x0213 (strandObj t n false) (tileSrc e.dtile 7) s)
  else s

/-- OPEN_NAK. -/
def execOpenNak (pid : Nat) (s : State) : Host.Outcome State Fault Refusal := .next (onCtl 3 pid (onTx txOpenNak) s)

/-- CREDIT at an OPEN endpoint; one that overflows is discarded with STRAND_CREDIT (R192). -/
def txCredit (k t n : Nat) (e : TxEp) (s : State) : State :=
  if e.st ≠ 2 then s
  else if e.rsize * 16 < e.credits + k then
    castBranch (partOfTile s t) (.tile t) (tileRec s t 0x0217 true (strandObj t n false) (tileSrc e.dtile 7)) s
  else setTx t n { e with credits := e.credits + k } s

/-- CREDIT. -/
def execCredit (pid : Nat) (s : State) : Host.Outcome State Fault Refusal :=
  .next (onCtl 4 pid (fun t p s => onTx (txCredit (ctlCredits p)) t p s) s)

/-- CLOSE at its RX endpoint: always answered, and it ends a strand of its own sender (Table 8.4). -/
def rxClose (t : Nat) (p : Pkt) (s : State) : State :=
  let m := ctlRep p
  let e := getRx s t m
  let own := decide (p.src = e.stile ∧ ctlSep p = e.sep)
  let s1 :=
    if e.st = 2 ∧ e.held = some (p.src, ctlSep p) then setRx t m (rxClosed e) s
    else if e.st = 3 ∧ own then setRx t m { e with st := 4 } s
    else if e.st = 5 ∧ own then setRx t m { e with st := 0 } s
    else s
  sendCtl t p.src (ctlFlit 6 (ctlSep p) m 0 0 0) s1

/-- CLOSE. -/
def execClose (pid : Nat) (s : State) : Host.Outcome State Fault Refusal := .next (onCtl 5 pid rxClose s)

/-- CLOSE_ACK at a CLOSING endpoint (Table 8.3). -/
def txCloseAck (t n : Nat) (e : TxEp) (s : State) : State := if e.st = 4 then setTx t n { e with st := 0 } s else s

/-- CLOSE_ACK. -/
def execCloseAck (pid : Nat) (s : State) : Host.Outcome State Fault Refusal := .next (onCtl 6 pid (onTx txCloseAck) s)

/-- ORPHAN at an OPEN endpoint: its credits stay as they are (R193). -/
def txOrphan (t n : Nat) (e : TxEp) (s : State) : State := if e.st = 2 then setTx t n { e with st := 3 } s else s

/-- ORPHAN. -/
def execOrphan (pid : Nat) (s : State) : Host.Outcome State Fault Refusal := .next (onCtl 7 pid (onTx txOrphan) s)

/-! ### Data packets (R191) -/

/-- The RX endpoint in LISTEN, OPEN, ENDED or DRAIN whose ring holds an offset. -/
def ringAt (s : State) (t off : Nat) : Option Nat :=
  (List.range 32).find? (fun m =>
    let e := getRx s t m
    (e.st == 1 || e.st == 3 || e.st == 4 || e.st == 5) &&
      decide (e.rbase * 256 ≤ off ∧ off < (e.rbase + e.rsize) * 256))

/-- A data packet dropped whole; the ends of records are counted (R193). -/
def dropData (t : Nat) (p : Pkt) (s : State) : State :=
  landPkt p (if p.last then incS s STR_DROP_DROP STR_SATSTICKY_SDROP t 0 1 else s)

/-- Whether a LAST packet is a SKIP: a single flit where the next record starts, of KIND 0b10 (Table 8.5). -/
def isSkip (e : RxEp) (p : Pkt) (pos : Nat) : Bool := p.len == 1 && pos == e.arrived && bitsOf p.data 0 2 == 2

/-- The record that a LAST packet ends has landed whole: ARRIVED and the unread span move on (R191). -/
def recordLanded (t m : Nat) (p : Pkt) (pos : Nat) (s : State) : State :=
  let e := getRx s t m
  let units := ringUnits e
  if isSkip e p pos then setRx t m { e with arrived := 0, unread := e.unread + (units - e.arrived) } s
  else
    let a := (pos + p.len) % units
    incM (setRx t m { e with arrived := a, unread := e.unread + (a + units - e.arrived) % units } s)
      STR_MSGIN_LO_MSGIN STR_MSGIN_HI_MSGIN t 0 1

/-- A data packet at an OPEN or ENDED endpoint of its own sender: checked, written, and its record completed. -/
def ringData (t m : Nat) (col : Bool) (p : Pkt) (s : State) : State :=
  let e := getRx s t m
  let off := p.addr - storeBase t
  let n := p.len * 16
  if (e.rbase + e.rsize) * 256 < off + n ∨ meetsUnread e off n then extOverrun t m p s
  else
    let pos := off / 16 - e.rbase * 16
    let msg := p.last && !(isSkip e p pos)
    let ops : List StOp := match msg, partOfTile s t with
      | true, some q => [⟨q, e.stitch, 1, p.src, 7, 0, t⟩]
      | _, _ => []
    let r := noteCollision t col (meetWindows t p ops s)
    if r.2 && p.last then recordLanded t m p pos r.1 else r.1

/-- A data packet at its tile. -/
def strandData (t : Nat) (col : Bool) (p : Pkt) (s : State) : State :=
  match ringAt s t (p.addr - storeBase t) with
  | none => dropData t p s
  | some m =>
    let e := getRx s t m
    if e.st = 1 ∨ e.st = 5 then dropData t p s
    else if p.src ≠ e.stile then extOverrun t m p s
    else ringData t m col p s

/-- STRAND_DATA: a STRAND packet, not a control packet, at its tile. -/
def execStrandData (a : Landing) (s : State) : Host.Outcome State Fault Refusal :=
  .next (match arrived s a.pid with
    | some p =>
      if p.typ = .strand ∧ p.dst < 2304 ∧ isCtl p = false ∧ tileTurn s p.dst p = true then strandData p.dst a.col p s else s
    | none => s)

end Sys2Proof.Machine
end

