-- ==== Sys2Proof/Machine/Cast.lean ====
section
/-! DEFINITION. Cast phases and cast programs (R157, R164 to R167, Table 7.3), and sub-barriers (R178). -/

namespace Sys2Proof.Machine

/-- CAST_ILLEGAL: the engine stops in HALTED and the cast branch of R129 applies (R165). `lid` is the stitch or plane
that the word names. -/
def castIllegal (t lid : Nat) (s : State) : State :=
  let p := partOfTile s t
  castStop t (castBranch p (.tile t) (tileRec s t 0x0406 true (lid + 2 ^ 16 * p.getD 0) (t + 2 ^ 12 * 3)) s)

/-- Whether a needle of tile t keeps its cast phase from beginning (R157). -/
def needlesBusy (s : State) (t : Nat) : Bool :=
  [0, 1, 2].any (fun n => let x := needleState s t n; x == nsRun || x == nsWait || x == nsTrap)

/-- Whether tile t is held in TILE reset. -/
def tileHeld (s : State) (t : Nat) : Bool := needleState s t 0 == nsReset

/-- Whether the cast engine of tile t can begin its phase: the tile is out of reset and released into its course. -/
def castReady (s : State) (t : Nat) : Bool :=
  decide (t < 2304) && (partOfTile s t).isSome && !(tileHeld s t) && !(s.releases.contains t) && !(needlesBusy s t) &&
    rd s TILE_CSTAT_STATE t 0 == 0

/-- CAST_PHASE_START: the engine reads the cast pointer (R157, R165). -/
def castStart (t : Nat) (s : State) : State :=
  let s1 := wr s TILE_CSTAT_STATE t 0 1
  let done := { s1 with castDone := mapSet false s1.castDone t true }
  if !(rdB s TILE_CAST_EN t 0) then done
  else
    let x := storeLE s t (rd s TILE_CAST_PTR t 0 * 16) 16
    if x % 2 = 0 then done
    else if bitsOf x 1 3 ≠ 0 ∨ bitsOf x 19 109 ≠ 0 then castIllegal t 0 s1
    else wr s1 TILE_CSTAT_CPC t 0 (bitsOf x 4 15)

/-- CAST_PHASE_START. -/
def execCastPhaseStart (t : Nat) (s : State) : Host.Outcome State Fault Refusal :=
  .next (if castReady s t then castStart t s else s)

/-! ### Cast words (Table 7.3) -/

def cwCOP (x : Nat) : Nat := bitsOf x 0 4
def cwSIG (x : Nat) : Bool := bitsOf x 4 1 == 1
def cwTMODE (x : Nat) : Nat := bitsOf x 5 2
def cwSEL (x : Nat) : Nat := bitsOf x 7 2
def cwLEN (x : Nat) : Nat := bitsOf x 9 13
def cwSTITCH (x : Nat) : Nat := bitsOf x 22 14
def cwTCLASS (x : Nat) : Nat := bitsOf x 36 3
def cwSADDR (x : Nat) : Nat := bitsOf x 40 44 * 16
def cwDADDR (x : Nat) : Nat := bitsOf x 84 44 * 16
def cwPLANE (x : Nat) : Nat := bitsOf x 40 5

/-- The cast word at CPC. -/
def castWord (s : State) (t : Nat) : Nat := storeLE s t (rd s TILE_CSTAT_CPC t 0 * 16) 16

/-- Whether the fields that a cast word does not use are zero, and its LEN and TMODE lie in range (R164, R165). -/
def castLawful (x : Nat) : Bool :=
  let lenOk := decide (1 ≤ cwLEN x ∧ cwLEN x ≤ 4096)
  match cwCOP x with
  | 0 => bitsOf x 4 124 == 0
  | 1 | 2 => lenOk && bitsOf x 5 4 == 0 && bitsOf x 36 4 == 0
  | 3 => cwTMODE x != 0 && cwLEN x == 0 && bitsOf x 36 4 == 0
  | 4 => lenOk && bitsOf x 4 5 == 0 && bitsOf x 36 92 == 0
  | 5 => bitsOf x 4 18 == 0 && bitsOf x 39 1 == 0 && bitsOf x 72 56 == 0
  | 6 => bitsOf x 4 32 == 0 && bitsOf x 39 1 == 0 && bitsOf x 45 83 == 0
  | _ => false

/-- Whether the engine of tile t can start its next word: it is in CAST, not held, and every earlier packet has been
injected (R164). -/
def castCanStep (s : State) (t : Nat) : Bool :=
  decide (t < 2304) && rd s TILE_CSTAT_STATE t 0 == 1 && !(mapGet false s.castDone t) && rd s TILE_CSTAT_CWAIT t 0 == 0 &&
    !(s.released.contains (t, 3)) && !(s.outb.any (fun o => o.tile == t && o.who == 3))

/-- The engine goes on to the next word. -/
def castNext (t : Nat) (s : State) : State := wr s TILE_CSTAT_CPC t 0 (rd s TILE_CSTAT_CPC t 0 + 1)

/-- One cast word, which a row's command names by its COP: a word of another COP is another row's, and a word that
breaks R165 stops the engine whichever row meets it with a reserved COP. -/
def castStep (cop t : Nat) (act : Nat → State → State) (s : State) : State :=
  let x := castWord s t
  if !(castCanStep s t) then s
  else if cwCOP x ≠ cop ∧ cwCOP x ≤ 6 then s
  else if !(castLawful x) then castIllegal t (if cwCOP x = 6 then cwPLANE x else cwSTITCH x) s
  else act x s

/-- A transfer of a cast word refused under R22: with TADDR the engine stops, else the next word follows (R165). -/
def castRefuse (t a : Nat) (s : State) : State :=
  let s1 := refuseTile t 3 a s
  if taddr s t then castStop t s1 else castNext t s1

/-- The first 16-byte unit of a range that does not lie in the tile's own store. -/
def firstNotOwn (t a n : Nat) : Option Nat :=
  ((List.range ((n + 15) / 16)).map (fun i => a + 16 * i)).find? (fun x => (ownOff t x 16).isNone)

/-- The lesser of two refused addresses. -/
def minRefused (a b : Option Nat) : Option Nat :=
  match a, b with
  | some x, some y => some (min x y)
  | some x, none => some x
  | none, y => y

/-- CEND. -/
def execCend (t : Nat) (s : State) : Host.Outcome State Fault Refusal :=
  .next (castStep 0 t (fun _ s => { s with castDone := mapSet false s.castDone t true }) s)

/-- CWR (R164, R166, R167). -/
def cwrEffect (t x : Nat) (s : State) : State :=
  let n := cwLEN x * 16
  let a := cwSADDR x
  let d := cwDADDR x
  match minRefused (firstNotOwn t a n) (firstRefusedPush s ((partOfTile s t).getD 16) d n) with
  | some y => castRefuse t y s
  | none => castNext t (transfer t 3 a d n (cwSIG x) (cwSTITCH x) s)

/-- CWR. -/
def execCwr (t : Nat) (s : State) : Host.Outcome State Fault Refusal := .next (castStep 1 t (cwrEffect t) s)

/-- CRD: pulls by RDREQ, from the tile's own store too (R164, R166, R167). -/
def crdEffect (t x : Nat) (s : State) : State :=
  let n := cwLEN x * 16
  let a := cwSADDR x
  let d := cwDADDR x
  let p := (partOfTile s t).getD 16
  match minRefused (firstRefused s p a n false) (firstRefused s p d n true) with
  | some y => castRefuse t y s
  | none =>
    castNext t (pump t
      { s with outb := s.outb ++ [⟨t, 3, false, a, d, n, 0, 0, cwSIG x, cwSTITCH x⟩] })

/-- CRD. -/
def execCrd (t : Nat) (s : State) : Host.Outcome State Fault Refusal := .next (castStep 2 t (crdEffect t) s)

/-- The first address of a transposing read's source that does not lie in a cluster store of the partition (R139). -/
def xposeRefused (s : State) (p a n tmode : Nat) : Option Nat :=
  if tmode = 3 then some a
  else ((List.range ((n + 15) / 16)).map (fun i => a + 16 * i)).find? (fun x =>
    match target s x with
    | .cstore c _ => partOfCluster s c != some p || clusterBase c != a - (a - clusterBase 0) % 0x1000000
    | _ => true)

/-- The bytes that a transposing read takes, and the bytes it delivers (R139). -/
def xposeSrc (tmode : Nat) : Nat := if tmode = 1 then 0x1800 else 0x3000
def xposeDst (tmode : Nat) : Nat := if tmode = 1 then 0x1000 else 0x1800

/-- CXR (R139, R164). -/
def cxrEffect (t x : Nat) (s : State) : State :=
  let m := cwTMODE x
  let a := cwSADDR x
  let d := cwDADDR x
  let p := (partOfTile s t).getD 16
  match minRefused (xposeRefused s p a (xposeSrc m) m) (firstRefused s p d (xposeDst m) true) with
  | some y => castRefuse t y s
  | none =>
    castNext t (pump t
      { s with outb := s.outb ++ [⟨t, 3, false, a, d, xposeDst m, m, cwSEL x, cwSIG x, cwSTITCH x⟩] })

/-- CXR. -/
def execCxr (t : Nat) (s : State) : Host.Outcome State Fault Refusal := .next (castStep 3 t (cxrEffect t) s)

/-- CSIG (R164, R170, R171). -/
def csigEffect (t x : Nat) (s : State) : State :=
  let p := (partOfTile s t).getD 0
  if stitchHeld s t p (cwSTITCH x) false then s else castNext t (sendStitch p (cwSTITCH x) (cwLEN x) t 3 s)

/-- CSIG. -/
def execCsig (t : Nat) (s : State) : Host.Outcome State Fault Refusal := .next (castStep 4 t (csigEffect t) s)

/-- CWAIT: an observe wait of the engine (R164, R169, R172). -/
def cwaitEffect (t x : Nat) (s : State) : State :=
  let p := (partOfTile s t).getD 0
  let lid := cwSTITCH x
  if stitchHeld s t p lid true then s
  else
    match xlat s p lid with
    | none => castStop t (haltWith p (.xlat p) (unmappedRec s p lid t 3 true) s)
    | some ph =>
      match bankWait ⟨.observe (bitsOf x 40 32), ph, p, lid, t, 3, cwTCLASS x⟩ s with
      | (true, s1) => castNext t s1
      | (false, s1) => wr s1 TILE_CSTAT_CWAIT t 0 1

/-- CWAIT. -/
def execCwait (t : Nat) (s : State) : Host.Outcome State Fault Refusal := .next (castStep 5 t (cwaitEffect t) s)

/-- CBAR: the tile arrives on a sub-plane that its partition owns, and the engine is held (R164, R165, R178). -/
def cbarEffect (t x : Nat) (s : State) : State :=
  let p := (partOfTile s t).getD 0
  let q := cwPLANE x
  if rd s CRS_PLANES_MASK p 0 / 2 ^ q % 2 = 0 then castIllegal t q s
  else wr { s with waiters := s.waiters ++ [⟨.plane, q, p, q, t, 3, cwTCLASS x⟩] } TILE_CSTAT_CWAIT t 0 1

/-- CBAR. -/
def execCbar (t : Nat) (s : State) : Host.Outcome State Fault Refusal := .next (castStep 6 t (cbarEffect t) s)

/-- The tiles of a partition (R17, R30). -/
def tilesOf (s : State) (p : Nat) : List Nat := (List.range 2304).filter (fun t => partOfTile s t == some p)

/-- Whether a waiter stands on a sub-plane of partition p. -/
def onPlane (p plane : Nat) (w : Waiter) : Bool := decide (w.kind = .plane) && w.part == p && w.key == plane

/-- SUB_BARRIER_COMPLETE: every tile of the partition has arrived on the plane, which releases them all (R178). -/
def execSubBarrierComplete (p plane : Nat) (s : State) : Host.Outcome State Fault Refusal :=
  .next (
    let ts := tilesOf s p
    if !(ts.isEmpty) && ts.all (fun t => s.waiters.any (fun w => onPlane p plane w && w.tile == t)) then
      releaseWaiters (onPlane p plane) s
    else s)

end Sys2Proof.Machine
end

