-- ==== Sys2Proof/Machine/Cluster.lean ====
section
/-! DEFINITION. The cluster store, merged reads, the transposer and read responses (R135 to R140, R152, R163), and the
physical columns of a cluster's rows with the darning override (R18, R155). -/

namespace Sys2Proof.Machine

/-! ### Reads under the error-correcting code (R136) -/

/-- A little-endian number with its `w`-byte unit number e cleared. -/
def zeroUnit (v w e : Nat) : Nat := v - bitsOf v (8 * w * e) (8 * w) * 2 ^ (8 * w * e)

/-- What the code reports of a cluster read at address a (R136): counted, or recorded with CSTORE_UE, which traps the
reader. -/
def clusterEcc (c a : Nat) (p : Pkt) (ecc : Ecc) (s : State) : State :=
  match ecc with
  | .ok => s
  | .corrected k => incS s CLU_ECC_CE_CE CLU_SATSTICKY_SCE c 0 k
  | .uncorrectable e =>
    let x := a + 32 * e
    let s1 := if rdB s CLU_STATUS_UE c 0 then s
      else wr (wr (wr s CLU_STATUS_UE c 0 1) CLU_UE_ADDR_LO_ADDR c 0 x) CLU_UE_ADDR_HI_ADDR c 0 (x / 2 ^ 32)
    trapSender (.cluster c) ⟨0x0301, p.part, p.part.isSome, false, awObj x, awSrc p.src x,
      match p.part with | some q => courseOf s q % 2 ^ 32 | none => 0, none⟩ p s1

/-- What a read of data v delivers under a report. -/
def eccData (v : Nat) (ecc : Ecc) : Nat := match ecc with | .uncorrectable e => zeroUnit v 32 e | _ => v

/-! ### Writes and responses -/

/-- Whether a response of the same read as p is still on its way. -/
def moreOf (p : Pkt) (s : State) : Bool :=
  s.net.any (fun q => decide (q.pid ≠ p.pid) && q.typ == .rdrsp && q.owner == p.owner && q.tag == p.tag && q.dst != 0xFFF)

/-- A tile's read tag returns with the last response of its read, and its waiting requests go on (R152, R423). -/
def freeOwner (p : Pkt) (s : State) : State :=
  match p.owner with
  | some t => if moreOf p s then s else pump t (setTag t p.tag false s)
  | none => s

/-- The merge entries of a line closed (R137). -/
def closeMerge (c line : Nat) (s : State) : State :=
  { s with merge := s.merge.filter (fun m => !(m.1 == c && m.2.1 == line)) }

/-- A packet's bytes written to the cluster store (R135). -/
def cstoreWrite (c : Nat) (p : Pkt) (s : State) : State :=
  wrEn p.addr (p.len * 16) p.data p.en (closeMerge c (p.addr / 256) s)

/-- A write packet or a read response granted by a cluster's store (R135). -/
def storeServe (c : Nat) (p : Pkt) (s : State) : State :=
  freeOwner p (landWith p (sigOps p) (cstoreWrite c p (storeServed c p s)))

/-- CLUSTER_STORE_WRITE: a WR packet, once its cluster's store grants it (R135). -/
def execClusterStoreWrite (a : Service) (s : State) : Host.Outcome State Fault Refusal :=
  .next (match arrived s a.pid with
    | some p =>
      match p.typ, target s p.addr with
      | .wr, .cstore c _ => if storeGrants s c p a.aged then storeServe c p s else s
      | _, _ => s
    | none => s)

/-- RDRSP: a read response, written at a tile store, a cluster store or host memory (R144, R152, R163). -/
def execRdrsp (a : Response) (s : State) : Host.Outcome State Fault Refusal :=
  .next (match arrived s a.pid with
    | some p =>
      if p.typ ≠ .rdrsp then s
      else
        match target s p.addr with
        | .store t _ => if tileTurn s t p then freeOwner p (tileArrival t a.col p s) else s
        | .cstore c _ => if storeGrants s c p a.aged then storeServe c p s else s
        | .host h => if s.hst.hclk then freeOwner p (landWith p (sigOps p) (postPkt p h s)) else s
        | _ => s
    | none => s)

/-! ### Reads -/

/-- A request answered: it leaves the network and its response enters it (Table 6.5). -/
def answer (p : Pkt) (node v : Nat) (s : State) : State := inject (response p node v) (landPkt p s)

/-- The bytes that a plain request reads. -/
def reqBytes (p : Pkt) : Nat := bitsOf p.data 48 5 * 16

/-- The bytes that a plain request takes of its line. -/
def ofLine (p : Pkt) (v : Nat) : Nat := bitsOf v (8 * (p.addr % 256)) (8 * reqBytes p)

/-- A read granted by a cluster's store: the whole line is read, and opens a merge entry where merging is on and the table
has room (R136, R137). -/
def grantedRead (c : Nat) (p : Pkt) (ecc : Ecc) (s : State) : State :=
  let line := p.addr / 256
  let v := eccData (rdLE s (line * 256) 256) ecc
  let s1 := storeServed c p (clusterEcc c (line * 256) p ecc s)
  let room := decide ((s.merge.filter (fun m => m.1 == c)).length < 32) && rd s CLU_MERGECTL_WINDOW c 0 != 0
  answer p (nodeCluster c) (ofLine p v) (if room then { s1 with merge := s1.merge ++ [(c, line, v)] } else s1)

/-- A plain read of a cluster store, judged as its source's oldest: from an open merge entry without a grant, or by a grant
(R136 to R138). -/
def clusterRead (c : Nat) (p : Pkt) (ecc : Ecc) (aged : Bool) (s : State) : State :=
  if !(storeOldest s c p) then s
  else match s.merge.find? (fun m => m.1 == c && m.2.1 == p.addr / 256) with
    | some m => answer p (nodeCluster c) (ofLine p m.2.2) (incM s CLU_MERGED_LO_MERGED CLU_MERGED_HI_MERGED c 0 1)
    | none => if storeGrants s c p aged then grantedRead c p ecc s else s

/-- A plain read of a tile's store through its external port: wide where it covers whole half-rows, which the gather buffer
flushes first (R47, R53, R149). -/
def tileRead (t off : Nat) (p : Pkt) (s : State) : State :=
  if tileTurn s t p then answer p t (storeLE s t off (reqBytes p)) (flushRead p.addr (reqBytes p) s) else s

/-- RDREQ: a plain request served at a tile store or a cluster store (R137, R163). -/
def execRdreq (a : Service) (ecc : Ecc) (s : State) : Host.Outcome State Fault Refusal :=
  .next (match arrived s a.pid with
    | some p =>
      if p.typ ≠ .rdreq ∨ p.tmode ≠ 0 then s
      else
        match target s p.addr with
        | .store t off => tileRead t off p s
        | .cstore c _ => clusterRead c p ecc a.aged s
        | _ => s
    | none => s)

/-- MERGE_WINDOW_EXPIRE: the entry of a line closes (R137). -/
def execMergeWindowExpire (c line : Nat) (s : State) : Host.Outcome State Fault Refusal := .next (closeMerge c line s)

/-! ### The transposer (R139, R140) -/

/-- The gauge counters of a cluster (R140). -/
def clusterGauge (c : Nat) (r : GaugeRep) (s : State) : State :=
  let s1 := incS s CLU_GSAT_GSAT CLU_SATSTICKY_SGSAT c 0 r.sat
  let s2 := incS s1 CLU_GPICOT_GPICOT CLU_SATSTICKY_SGPICOT c 0 r.picots
  let s3 := incS s2 CLU_GESC_GESC CLU_SATSTICKY_SGESC c 0 r.escs
  incS s3 CLU_GNAN_GNAN CLU_SATSTICKY_SGNAN c 0 r.nans

/-- XPOSE_ESC or XPOSE_NAN under its policy field: 0 says nothing, 1 records, 2 and 3 take the cast branch (R128, R140). -/
def xposeReport (code c blk pol : Nat) (p : Pkt) (s : State) : State :=
  let e : ErrRec := ⟨code, p.part, decide (2 ≤ pol), false, c + 2 ^ 16 * blk, p.src,
    match p.part with | some q => courseOf s q % 2 ^ 32 | none => 0, none⟩
  if pol = 0 then s else if pol = 1 then raise (.cluster c) e s else castBranch p.part (.cluster c) e s

/-- The policies of the requester's partition applied to a REBLOCK's report. -/
def xposePolicy (c : Nat) (r : GaugeRep) (p : Pkt) (s : State) : State :=
  let q := p.part.getD 0
  let s1 := match r.firstEsc with | some b => xposeReport 0x0305 c b (rd s CRS_XPOL_GAUGE q 0) p s | none => s
  match r.firstNan with | some (b, _) => xposeReport 0x0306 c b (rd s CRS_XPOL_NAN q 0) p s1 | none => s1

/-- The responses that carry an image to its lines: LAST on the final one, SIG and STITCH on the last to each node. -/
def imagePackets (p : Pkt) (c v : Nat) (s0 : State) : List (Nat × Nat × Nat) → State → State
  | [], s => s
  | (a, d, k) :: rest, s =>
    let sig := p.sig && lastToNode s0 p.part d rest
    let q := { pkt0 .rdrsp p.part (nodeCluster c) d (bitsOf v (8 * a) (8 * k)) ((k + 15) / 16) with
      last := rest.isEmpty && p.last, sig := sig, stitch := if sig then p.stitch else 0, crslo := p.crslo, tag := p.tag,
      owner := p.owner, who := p.who }
    imagePackets p c v s0 rest (inject q s)

/-- The pieces of an image of n bytes at d: its bytes from `a` on, their address and length, none crossing a line (R287). -/
def imagePieces : Nat → Nat → Nat → Nat → List (Nat × Nat × Nat)
  | 0, _, _, _ => []
  | fuel + 1, a, d, n => if n = 0 then [] else (a, d, chunkLen d n) :: imagePieces fuel (a + chunkLen d n) (d + chunkLen d n)
      (n - chunkLen d n)

/-- The image delivered from RADDR on in responses of 256 bytes, more where RADDR is not aligned on a line; the last to each
node that it touches signals, as R167 has it of every transfer (log entry 107). -/
def sendImage (p : Pkt) (c v n : Nat) (s : State) : State :=
  imagePackets p c v s (imagePieces (n + 1) 0 (bitsOf p.data 0 48) (256 * n)) (landPkt p s)

/-- Whether a packet that came before p from the same source still waits at the cluster store. -/
def olderWaits (s : State) (c : Nat) (p : Pkt) : Bool :=
  (s.net.takeWhile (fun q => decide (q.pid ≠ p.pid))).any (fun q =>
    (waitingUnit s c 0).contains q && storeSource c q == storeSource c p)

/-- Whether a request is the transposing read that a cluster's transposer serves next: the oldest there (R140), after every
packet that came before it from its source (R135). -/
def xposeNext (s : State) (c pid : Nat) : Bool :=
  match s.net.find? (fun q => q.typ == .rdreq && q.tmode != 0 && q.loc == .dest && q.dst == nodeCluster c) with
  | some q => q.pid == pid && !(olderWaits s c q)
  | none => false

/-- A transposing read served (R139, R140). -/
def xposeServe (c : Nat) (p : Pkt) (ecc : Ecc) (s : State) : State :=
  let src := eccData (rdLE s p.addr (xposeSrc p.tmode)) ecc
  let get : Nat → Nat → Nat := fun o n => bitsOf src (8 * o) (8 * n)
  let sel := bitsOf p.data 53 2
  let s1 := clusterEcc c p.addr p ecc s
  if p.tmode = 1 then sendImage p c (exactImage get sel).1 16 s1
  else
    let r := reblockImage get (gaugePolOf s1 p.src none) (sel % 2)
    sendImage p c r.1 24 (xposePolicy c r.2 p (clusterGauge c r.2 s1))

/-- TRANSPOSE_READ: request pid with TMODE EXACT or REBLOCK at its cluster. -/
def execTransposeRead (pid : Nat) (ecc : Ecc) (s : State) : Host.Outcome State Fault Refusal :=
  .next (match arrived s pid with
    | some p =>
      match target s p.addr with
      | .cstore c _ => if xposeNext s c pid then xposeServe c p ecc s else s
      | _ => s
    | none => s)

/-! ### Physical columns (R18) and darning in test (R155) -/

/-- The physical column, 0 to 6, of position i, 0 to 5, of a row whose darned column is `dcol`: the same column below it, one
higher at or above it (R18). -/
def columnOf (dcol i : Nat) : Nat := if i < dcol then i else i + 1

/-- The physical row and column of tile-in-cluster i of cluster c: row i div 6, and the column of position i mod 6 under that
row's DCOL (R18). -/
def siteOf (s : State) (c i : Nat) : Nat × Nat := (i / 6, columnOf (rd s CLU_DARN_DCOL c (i / 6)) (i % 6))

/-- CLU_TEST_WRITE: TMODE 1 only while the debug lock is open at TEST. -/
def execCluTestWrite (rq : Requester) (c : Nat) (v : W32) (s : State) : Host.Outcome State Fault Refusal :=
  .next (if 96 ≤ c then s
    else busWrite rq (regOf CLU_TEST_TMODE c 0) v 0xF (fun fr u off hs s =>
      if bitsOf v.toNat 0 1 = 1 ∧ rd s SEC_STATUS_DBG 0 0 ≠ 2 then setWrign fr u off s
      else writeHits rq fr u off v hs s) s)

/-- CLU_DARN_WRITE: a write of DCOL of a row, in effect only in test mode and while the cluster belongs to no
partition. -/
def execCluDarnWrite (rq : Requester) (c row : Nat) (v : W32) (s : State) : Host.Outcome State Fault Refusal :=
  .next (if 96 ≤ c ∨ 4 ≤ row then s
    else busWrite rq (regOf CLU_DARN_DCOL c row) v 0xF (fun fr u off _ s =>
      let d := bitsOf v.toNat 0 3
      if d = rd s CLU_DARN_DCOL c row ∧ d ≠ 7 then s
      else if rdB s CLU_TEST_TMODE c 0 && (partOfCluster s c).isNone && d != 7 then
        wr (wr s CLU_DARN_DCOL c row d) CLU_DARN_OVR c row (if d = rd s CLU_DARN_FCOL c row then 0 else 1)
      else setWrign fr u off s) s)

end Sys2Proof.Machine
end

