-- ==== Sys2Proof/Machine/Hank.lean ====
section
/-! DEFINITION. The hank buffer (R225 to R230) and the join unit (R194 to R198). -/

namespace Sys2Proof.Machine

/-- The address of line l of a cluster's hank buffer. -/
def hankAddr (c l : Nat) : Nat := clusterBase c + 0x800000 + l * 256

/-- Whether a line's FRESH bit is set. -/
def isFresh (s : State) (c l : Nat) : Bool := !(mapGet false s.fresh (c * 8192 + l))

/-- A line's FRESH bit set or cleared. -/
def setFresh (c l : Nat) (b : Bool) (s : State) : State := { s with fresh := mapSet false s.fresh (c * 8192 + l) (!b) }

/-- FRESH set on n lines from l on. -/
def freshen (c l n : Nat) (s : State) : State := { s with fresh := mapClear s.fresh (c * 8192 + l) n }

/-- A line's 64 words as an operation takes them, uncorrectable entries as zero; a FRESH line holds `z` in each. -/
def lineWords (s : State) (c l z : Nat) (ecc : Ecc) : List Nat :=
  let v := eccData (rdLE s (hankAddr c l) 256) ecc
  (List.range 64).map (fun i => if isFresh s c l then z else bitsOf v (32 * i) 32)

/-- Whether an FP32 code is an infinity or a NaN. -/
def nonFinite (x : Nat) : Bool := bitsOf x 23 8 == 255

/-- The line after an add of the words of `v` from word `lo` on, n of them, and how many turned finite words infinite or
NaN (R226). -/
def addLine (s : State) (c l lo n v : Nat) (ecc : Ecc) : Nat × Nat :=
  let base := lineWords s c l 0x80000000 ecc
  let rest := lineWords s c l 0 ecc
  let carried : Nat → Bool := fun i => decide (lo ≤ i ∧ i < lo + n)
  let sum : Nat → Nat := fun i => (fadd32 .nearest (val32 (base.getD i 0)) (val32 (bitsOf v (32 * (i - lo)) 32))).1
  let out := (List.range 64).map (fun i => if carried i then sum i else rest.getD i 0)
  let bad := (List.range 64).filter (fun i => carried i && !(nonFinite (base.getD i 0)) && nonFinite (out.getD i 0))
  (packN 32 out, bad.length)

/-! ### The grant of a bank (R227) -/

/-- The line that a JOIN packet works on. -/
def joinLine (s : State) (c : Nat) (p : Pkt) : Nat :=
  let o := p.addr - clusterBase c
  rd s JNQ_ACC_ACC c (o / 0x1000) + o % 0x1000 / 0x100

/-- The oldest request of a source of a cluster's hank buffer, with its line: the packets that come through the switch (1),
or those of the join unit (2); each source is served in the order of arrival. -/
def hankHead (s : State) (c src : Nat) : Option (Pkt × Nat) :=
  (waitingUnit s c src).head?.map (fun q => (q, if src = 1 then (q.addr - hankAddr c 0) / 256 else joinLine s c q))

/-- Whether a bank grants the oldest request of a source: it has waited 32 KCLK cycles, or the other source has none for the
bank, or had the last turn there (R227). The freshen command's line operations are granted together as it completes
(log entry 106). -/
def bankGrants (s : State) (c src : Nat) (p : Pkt) (aged : Bool) : Bool :=
  match hankHead s c src with
  | none => false
  | some (q, l) =>
    let rival := match hankHead s c (3 - src) with | some (_, l') => l' % 4 == l % 4 | none => false
    q == p && (aged || !rival || mapGet 24 s.turn (turnKey 1 c (l % 4)) != src)

/-- A bank's turn given to a source for the request p. -/
def bankServed (c src : Nat) (p : Pkt) (s : State) : State :=
  match hankHead s c src with
  | some (q, l) => if q = p then { s with turn := mapSet 24 s.turn (turnKey 1 c (l % 4)) src } else s
  | none => s

/-- A packet added into its line (R226, R230). -/
def hankAdd (c : Nat) (p : Pkt) (ecc : Ecc) (s : State) : State :=
  let l := (p.addr - hankAddr c 0) / 256
  let r := addLine s c l (p.addr % 256 / 4) (p.len * 4) p.data ecc
  let s1 := clusterEcc c (hankAddr c l) p (if isFresh s c l then .ok else ecc) s
  let s2 := setFresh c l false (wrLE (hankAddr c l) 256 r.1 s1)
  incM (incS s2 HNK_NONFIN_NONFIN HNK_STATUS_SNONFIN c 0 r.2) HNK_ADDS_LO_ADDS HNK_ADDS_HI_ADDS c 0 1

/-- HANK_ADD: a write or read response at its cluster's hank buffer, once its bank grants it (R226, R227). -/
def execHankAdd (a : Service) (ecc : Ecc) (s : State) : Host.Outcome State Fault Refusal :=
  .next (match arrived s a.pid with
    | some p =>
      if p.typ ≠ .wr ∧ p.typ ≠ .rdrsp then s
      else match target s p.addr with
        | .hank c _ =>
          if bankGrants s c 1 p a.aged then freeOwner p (landWith p (sigOps p) (hankAdd c p ecc (bankServed c 1 p s))) else s
        | _ => s
    | none => s)

/-- Whether a line lies in a zone with HARVEST (R228). -/
def harvested (s : State) (c l : Nat) : Bool :=
  (List.range 16).any (fun n =>
    let b := rd s HNK_ZBASE_ZBASE c n
    rdB s HNK_ZLEN_HARVEST c n && decide (b ≤ l ∧ l < b + rd s HNK_ZLEN_ZLEN c n))

/-- A hank read granted (R228). -/
def hankRead (c off : Nat) (p : Pkt) (ecc : Ecc) (s : State) : State :=
  let l := off / 256
  let v := packN 32 (lineWords s c l 0 ecc)
  let s1 := clusterEcc c (hankAddr c l) p (if isFresh s c l then .ok else ecc) s
  answer p (nodeCluster c) (bitsOf v (8 * (off % 256)) (8 * reqBytes p)) (if harvested s c l then setFresh c l true s1 else s1)

/-- HANK_READ: a plain request at its cluster's hank buffer (R227, R228). -/
def execHankRead (a : Service) (ecc : Ecc) (s : State) : Host.Outcome State Fault Refusal :=
  .next (match arrived s a.pid with
    | some p =>
      if p.typ ≠ .rdreq ∨ p.tmode ≠ 0 then s
      else match target s p.addr with
        | .hank c off => if bankGrants s c 1 p a.aged then hankRead c off p ecc (bankServed c 1 p s) else s
        | _ => s
    | none => s)

/-- HNK_FRESH_GO: a write of HNK_FRESH with GO 1 (R229, Table 10.5). -/
def execHnkFreshGo (rq : Requester) (c : Nat) (v : W32) (s : State) : Host.Outcome State Fault Refusal :=
  .next (if bitsOf v.toNat 31 1 = 0 ∨ 96 ≤ c then s
    else busCmd rq HNK_FRESH_GO c 0 v (fun off s =>
      let a := rd s HNK_FRESH_FIRST c 0
      let n := rd s HNK_FRESH_COUNT c 0
      if rdB s HNK_STATUS_FBUSY c 0 || n == 0 || decide (8192 < a + n) then setWrign .hnk c off s
      else wr { s with freshen := s.freshen ++ [(c, a, n)] } HNK_STATUS_FBUSY c 0 1) s)

/-- FRESHEN_COMPLETE: the command has set FRESH on all its lines (R229). -/
def execFreshenComplete (c : Nat) (s : State) : Host.Outcome State Fault Refusal :=
  .next (match s.freshen.find? (fun f => f.1 == c) with
    | some f => wr (freshen c f.2.1 f.2.2 { s with freshen := s.freshen.erase f }) HNK_STATUS_FBUSY c 0 0
    | none => s)

/-! ### The join unit -/

/-- The identity of a reduction type (Table 8.6). -/
def joinIdentity (ty : Nat) : Nat :=
  match ty with
  | 0 => 0x80000000
  | 1 => 0xFF800000
  | 2 => 0x7F800000
  | 4 => 0x80000000
  | 5 => 0x7FFFFFFF
  | _ => 0

/-- Two elements combined (Table 8.6). -/
def joinCombine (ty a b : Nat) : Nat :=
  let x : W32 := BitVec.ofNat 32 a
  let y : W32 := BitVec.ofNat 32 b
  match ty with
  | 0 => (fadd32 .nearest (val32 a) (val32 b)).1
  | 1 => (fminmax32 true a b).1
  | 2 => (fminmax32 false a b).1
  | 3 => (x + y).toNat
  | 4 => if x.toInt < y.toInt then b else a
  | 5 => if y.toInt < x.toInt then b else a
  | _ => (x ||| y).toNat

/-- A join-queue error: the packet dropped whole, and the cast branch of its partition (R195, R199). -/
def joinFail (c q code : Nat) (p : Pkt) (s : State) : State :=
  landPkt p (castBranch p.part (.cluster c) ⟨code, p.part, true, false, c + 2 ^ 16 * q, p.src,
    match p.part with | some x => courseOf s x % 2 ^ 32 | none => 0, none⟩ s)

/-- A tile's join credits of one packet back, and its waiting contributions on (R194). -/
def joinCredits (t : Nat) (s : State) : State :=
  pump t { s with joinCred := mapSet 0 s.joinCred t (mapGet 0 s.joinCred t - 17) }

/-- A queue's round discarded: its count 0 and its lines FRESH (R197, R198). -/
def joinClear (c q : Nat) (s : State) : State :=
  freshen c (rd s JNQ_ACC_ACC c q) (rd s JNQ_CFG_LEN c q) (wr s JNQ_COUNT_COUNT c q 0)

/-- The lines of a queue as its completion copy reads them, the 32-byte entry that the report names as zero (R136). -/
def joinData (c q : Nat) (ecc : Ecc) (s : State) : Nat :=
  let acc := rd s JNQ_ACC_ACC c q
  eccData (packN 2048 ((List.range (rd s JNQ_CFG_LEN c q)).map (fun k => packN 32 (lineWords s c (acc + k) 0 .ok)))) ecc

/-- The completion copy of a round: its packets, each tied to the JOIN packet that completed it (R159, R197). What the code
reports of the lines read has the cluster as its reader (R136). -/
def joinCopy (c q dest n : Nat) (ecc : Ecc) (p : Pkt) (s0 : State) : State :=
  let acc := rd s0 JNQ_ACC_ACC c q
  let data := joinData c q ecc s0
  let s := clusterEcc c (hankAddr c acc) { p with src := nodeCluster c, who := 7, owner := none } ecc s0
  let pid0 := s.nextPid
  let s1 := pushPieces (fun x k => bitsOf data (8 * (x - hankAddr c acc)) (8 * k)) s p.part (nodeCluster c) 7
    (rdB s JNQ_CFG_SIG c q) (rd s JNQ_STITCH_STITCH c q) (pieces (n + 1) (hankAddr c acc) dest n) s
  { s1 with net := s1.net.map (fun x =>
      if pid0 ≤ x.pid then { x with after := some p.pid } else if x.pid = p.pid then { x with dst := 0xFFF } else x) }

/-- A contribution's last line has been applied: it counts, and a full round is copied out (R196, R197). -/
def joinLast (c q : Nat) (cecc : Ecc) (p : Pkt) (s : State) : State :=
  let s1 := wr s JNQ_COUNT_COUNT c q (rd s JNQ_COUNT_COUNT c q + 1)
  if rd s1 JNQ_COUNT_COUNT c q ≠ rd s1 JNQ_CFG_CONTRIB c q then landPkt p s1
  else
    let dest := rd s JNQ_DEST_LO_DEST c q * 256 + 2 ^ 32 * rd s JNQ_DEST_HI_DEST c q
    let n := rd s JNQ_CFG_LEN c q * 256
    match firstRefusedPush s (p.part.getD 16) dest n with
    | some x =>
      landPkt p (joinClear c q (castBranch p.part (.cluster c) ⟨0x0101, p.part, true, false, awObj x, awSrc (nodeCluster c) x,
        match p.part with | some y => courseOf s y % 2 ^ 32 | none => 0, none⟩ s1))
    | none => incS (joinClear c q (joinCopy c q dest n cecc p s1)) JNQ_ROUNDS_ROUNDS JNQ_STATUS_SROUNDS c q 1

/-- A JOIN packet applied (R195, R196); `cecc` is reported of the copy that it may complete. -/
def joinApply (c : Nat) (p : Pkt) (ecc cecc : Ecc) (s : State) : State :=
  let o := p.addr - clusterBase c
  let q := o / 0x1000
  let k := o % 0x1000 / 0x100
  let len := rd s JNQ_CFG_LEN c q
  if !(rdB s JNQ_CFG_VALID c q) then joinFail c q 0x0307 p s
  else if len ≤ k ∨ (p.last ∧ k + 1 ≠ len) then joinFail c q 0x0308 p s
  else
    let l := rd s JNQ_ACC_ACC c q + k
    let ty := rd s JNQ_CFG_TYPE c q
    let old := lineWords s c l (joinIdentity ty) ecc
    let out := (List.range 64).map (fun i => joinCombine ty (old.getD i 0) (bitsOf p.data (32 * i) 32))
    let s1 := clusterEcc c (hankAddr c l) p (if isFresh s c l then .ok else ecc) s
    let s2 := setFresh c l false (wrLE (hankAddr c l) 256 (packN 32 out) s1)
    if p.last then joinLast c q cecc p s2 else landPkt p s2

/-- JOIN: a packet at its cluster's join unit, the oldest there, once its bank grants it; the unit returns its credits
(R194, R198, R227). -/
def execJoin (a : Service) (ecc : JoinEcc) (s : State) : Host.Outcome State Fault Refusal :=
  .next (match arrived s a.pid with
    | some p =>
      let c := p.src / 24
      if p.typ = .join ∧ bankGrants s c 2 p a.aged then joinCredits p.src (joinApply c p ecc.line ecc.copy (bankServed c 2 p s)) else s
    | none => s)

end Sys2Proof.Machine
end

