-- ==== Sys2Proof/Machine/Memory.lean ====
section
/-! DEFINITION. The stacked memory system: acceptance and bursts (R291 to R294), refresh (R295), error correction and
scrubbing (R297, R298), training and margining (R301 to R305). -/

namespace Sys2Proof.Machine

/-! ### Error correction (R297, R306) -/

/-- MEM_UE's record for a burst of stack k (R306). -/
def ueRec (part : Option Nat) (course : Nat) (trap : Bool) (k ch ca src : Nat) : ErrRec :=
  ⟨0x0701, part, trap, false, k + 2 ^ 4 * ch + 2 ^ 9 * (ca / 256), src, course, none⟩

/-- UE and the address of the first uncorrectable burst (R297). -/
def markUe (k x : Nat) (s : State) : State :=
  if rdB s MEM_STATUS_UE k 0 then s
  else wr (wr (wr s MEM_STATUS_UE k 0 1) MEM_UE_ADDR_LO_ADDR k 0 x) MEM_UE_ADDR_HI_ADDR k 0 (x / 2 ^ 32)

/-- A unit's own read for partition p met an uncorrectable burst at address x: MEM_UE, and the cast branch (R297). -/
def unitUe (node p x : Nat) (s : State) : State :=
  match dramOf s x with
  | some (k, ch, ca) =>
    castBranch (some p) (.memctl k) (ueRec (some p) (courseOf s p % 2 ^ 32) true k ch ca node) (markUe k (x - x % 64) s)
  | none => s

/-- Data `v` read from address a with the w bytes about address x delivered as zero, where the two meet. -/
def zeroSpan (w v a n x : Nat) : Nat :=
  let b := x - x % w
  let lo := max a b
  let hi := min (a + n) (b + w)
  if lo < hi then v - bitsOf v (8 * (lo - a)) (8 * (hi - lo)) * 2 ^ (8 * (lo - a)) else v

/-- The 64-byte burst at address x delivered as zero (R297). -/
def zeroBurst (v a n x : Nat) : Nat := zeroSpan 64 v a n x

/-! ### Acceptance (R291 to R293) -/

/-- The attachment at which a packet stands at its controller (R145, step 2). -/
def attachOf (p : Pkt) : Nat := (p.src ^^^ p.dst) % 2

/-- Whether a CRITICAL range holds an address (R293). -/
def critical (s : State) (a : Nat) : Bool :=
  (List.range 16).any (fun n => rdB s MEM_PRIO_VALID 0 n &&
    inWindow ⟨rd s MEM_PRIO_BASE 0 n, rd s MEM_PRIO_LEN 0 n, 0⟩ a) ||
  (List.range 16).any (fun p => rdB s SKN_BCFG_EN 0 p &&
    (let b := 2 ^ 16 * rd s SKN_POOL_LO_BASE 0 p + 2 ^ 32 * rd s SKN_POOL_HI_BASE 0 p
     decide (b ≤ a ∧ a < b + 2 ^ 16 * rd s SKN_NPAGES_NPAGES 0 p)))

/-- The class of a packet (Table 13.4); `who` 8 marks the moves of the stash engine and the skein unit,
9 a Blocker's update (R254). -/
def memClass (s : State) (p : Pkt) : Nat :=
  if p.who = 8 then 3
  else if p.who = 9 ∧ 0x900 ≤ p.src ∧ p.src < 0x90C then 2
  else if p.src = nodeSkein then 0
  else if p.typ = .rdreq ∧ p.src < 2304 ∧ critical s p.addr then 0
  else 1

/-- The requests queued at a channel. -/
def chanQueue (s : State) (k ch : Nat) : List MReq := s.memq.filter (fun r => r.stack == k && r.ch == ch)

/-- The bursts that n bytes from an address touch. -/
def burstsOf (a n : Nat) : Nat := (a % 64 + n + 63) / 64

/-- A packet as a request of its channel. -/
def memReq (s : State) (p : Pkt) (k ch ca : Nat) : MReq :=
  let rd := decide (p.typ = .rdreq)
  let n := if rd then reqBytes p else p.len * 16
  ⟨k, ch, if rd then 0 else 1, memClass s p, ca - ca % 64, burstsOf p.addr n, 0, if rd then rdLE s p.addr n else 0, p⟩

/-- Bytes that a stack has accepted, or a Ply link carried, for a partition in its course (R362): unit k is stack k, 16 + k link
k. -/
def countMoved (part : Option Nat) (unit n : Nat) (s : State) : State :=
  match part with
  | some p => { s with pw.moved := mapSet 0 s.pw.moved (p * 64 + unit) (mapGet 0 s.pw.moved (p * 64 + unit) + n) }
  | none => s

/-- A request enters its channel's queue; a write drops the write-backs that wait for its bursts (R297, R298). -/
def queueReq (r : MReq) (s0 : State) : State :=
  let s := countMoved r.pkt.part r.stack (if r.pkt.typ = .rdreq then reqBytes r.pkt else r.pkt.len * 16) s0
  let hits : MReq → Bool := fun x => x.kind == 2 && x.stack == r.stack && x.ch == r.ch &&
    decide (r.addr ≤ x.addr ∧ x.addr < r.addr + 64 * r.left)
  { s with memq := (if r.kind = 1 then s.memq.filter (fun x => !(hits x)) else s.memq) ++ [r] }

/-- A packet accepted: a write becomes visible and lands with its signal, a read takes its bytes (R291). -/
def memAccept (p : Pkt) (k ch ca : Nat) (s : State) : State :=
  let r := memReq s p k ch ca
  let s1 := queueReq r s
  if r.kind = 0 then landPkt p s1
  else freeOwner p (landWith p (sigOps p) (wrEn p.addr (p.len * 16) p.data p.en s1))

/-- Whether channel ch of stack k accepts a request: its controller is enabled and not in self-refresh, and its queue has
room (R291, R292, R300). -/
def chanReady (s : State) (k ch : Nat) : Bool :=
  rdB s MEM_CTRL_EN k 0 && rd s MEM_STATUS_THR k 0 != 3 && decide ((chanQueue s k ch).length < 64)

/-- MEM_ACCEPT: packet pid, the first at its attachment, enters its channel's queue. -/
def execMemAccept (pid : Nat) (s : State) : Host.Outcome State Fault Refusal :=
  .next (match arrived s pid with
    | some p =>
      match target s p.addr, dramOf s p.addr with
      | .stack _, some (k, ch, ca) =>
        let first := s.net.find? (fun q => q.dst == p.dst && q.loc == .dest && attachOf q == attachOf p)
        let plain := decide (p.typ = .wr) || decide (p.typ = .rdrsp) || (decide (p.typ = .rdreq) && p.tmode == 0)
        if p.dst ≠ nodeMem k || !plain || first != some p || !(chanReady s k ch) then s
        else memAccept p k ch ca s
      | _, _ => s
    | none => s)

/-! ### A unit's own accesses to stack memory

A Blocker, the skein unit, the stash engine, a DMA engine, the endpoint and hub firmware reach stack memory without a packet
of `State.net`: all the accesses of one step are accepted together, or the step waits (log entry 33). -/

/-- The header that stands for a unit's own access in a queue; `who` is 9. -/
def unitPkt (write : Bool) (node : Nat) (part : Option Nat) (a n : Nat) : Pkt :=
  { pkt0 (if write then .wr else .rdreq) part node a (rdreqData 0 ((n + 15) / 16) 0) ((n + 15) / 16) with who := 9 }

/-- A unit's access of n bytes at address a as requests, one for each line. -/
def unitReqs (s : State) (write : Bool) (cls node : Nat) (part : Option Nat) (a n : Nat) : List MReq :=
  (pieces (n + 1) a a n).filterMap (fun x =>
    match target s x.1, dramOf s x.1 with
    | .stack _, some (k, ch, ca) =>
      some ⟨k, ch, if write then 1 else 0, cls, ca - ca % 64, burstsOf x.1 x.2.2, 0, 0, unitPkt write node part x.1 x.2.2⟩
    | _, _ => none)

/-- A unit's access accepted. -/
def unitAccept (write : Bool) (cls node : Nat) (part : Option Nat) (a n : Nat) (s : State) : State :=
  (unitReqs s write cls node part a n).foldl (fun s r => queueReq r s) s

/-- The reads and writes in a channel's queue. -/
def askedOf (s : State) (k ch : Nat) : Nat := ((chanQueue s k ch).filter (fun r => decide (r.kind ≤ 1))).length

/-- A step of a unit: taken whole where every channel on which it makes requests accepts them, else it waits (R291, R292,
R300). -/
def takenWhole (act : State → State) (s : State) : State :=
  let r := act s
  if r.memq.all (fun x => decide (askedOf r x.stack x.ch ≤ askedOf s x.stack x.ch) || chanReady s x.stack x.ch) then r else s

/-- MEM_CTRL_EN_WRITE: a write of MEM_CTRL (R292). -/
def execMemCtrlEnWrite (rq : Requester) (k : Nat) (v : W32) (s : State) : Host.Outcome State Fault Refusal :=
  .next (if 12 ≤ k then s else busCmd rq MEM_CTRL_EN k 0 v (fun _ s => s) s)

/-! ### Bursts (R294) -/

/-- The bank and row of a channel address (Table 13.1). -/
def bankOf (ca : Nat) : Nat := bitsOf ca 11 4 ^^^ bitsOf ca 15 4
def rowOf (ca : Nat) : Nat := bitsOf ca 15 16

def bankKey (k ch bank : Nat) : Nat := (k * 32 + ch) * 16 + bank

/-- Whether a request's next burst hits an open row. -/
def rowHit (s : State) (r : MReq) : Bool := mapGet 0 s.openRow (bankKey r.stack r.ch (bankOf r.addr)) == rowOf r.addr + 1

/-- Whether two requests touch a common burst. -/
def overlap (x y : MReq) : Bool := decide (x.addr < y.addr + 64 * y.left ∧ y.addr < x.addr + 64 * x.left)

/-- The requests of a queue that could issue under R291 and the order within their class: none before them touches their
bursts, and they pass only with a row hit, and none for the 17th time (R294). -/
def candidates (s : State) (q : List MReq) : List MReq :=
  (indexed q).filterMap (fun p =>
    let before := q.take p.1
    let older := before.filter (fun x => x.cls == p.2.cls)
    if before.any (overlap p.2) then none
    else if older.isEmpty || (rowHit s p.2 && older.all (fun x => decide (x.passed < 16))) then some p.2
    else none)

/-- Whether request i of a queue may issue now, given how many of the oldest have passed the age limit (R291, R294). -/
def mayIssue (s : State) (q : List MReq) (i aged : Nat) (r : MReq) : Bool :=
  if 0 < aged then i == 0
  else
    let cs := candidates s q
    cs.contains r && cs.all (fun x => decide (r.cls ≤ x.cls))

/-- Whether a request is a unit's own, which has no response and whose uncorrectable burst the unit's step has met. -/
def ofUnit (r : MReq) : Bool := r.pkt.who == 9

/-- Whether a write to one burst waits in a queue. -/
def writeWaits (s : State) (r : MReq) : Bool :=
  (chanQueue s r.stack r.ch).any (fun x => x.kind == 1 && decide (x.addr ≤ r.addr ∧ r.addr < x.addr + 64 * x.left))

/-- What a read burst reports (R297, R298): counted and queued for write-back, unless a write to it has been accepted; or
delivered as zero with MEM_UE, which traps nothing after a scrub read. -/
def burstEcc (r : MReq) (ecc : Ecc) (s : State) : State :=
  let x := r.pkt.addr - r.pkt.addr % 64 + 64 * (burstsOf r.pkt.addr (reqBytes r.pkt) - r.left)
  match ecc with
  | .ok => s
  | .corrected n =>
    let s1 := incS s MEM_ECC_CE_CE MEM_SATSTICKY_SCE r.stack 0 n
    if writeWaits s r then s1
    else { s1 with memq := s1.memq ++ [{ r with kind := 2, cls := 3, left := 1, passed := 0, data := 0 }] }
  | .uncorrectable _ =>
    if r.kind = 3 then
      raise (.memctl r.stack) (ueRec none 0 false r.stack r.ch r.addr (nodeMem r.stack)) (markUe r.stack r.pkt.addr s)
    else if ofUnit r then s
    else
      trapSender (.memctl r.stack) (ueRec r.pkt.part (match r.pkt.part with | some q => courseOf s q % 2 ^ 32 | none => 0) true
        r.stack r.ch r.addr r.pkt.src) r.pkt (markUe r.stack x s)

/-- A request after one of its bursts. -/
def afterBurst (r : MReq) (ecc : Ecc) : MReq :=
  let n := reqBytes r.pkt
  let x := r.pkt.addr - r.pkt.addr % 64 + 64 * (burstsOf r.pkt.addr n - r.left)
  let v := match ecc with | .uncorrectable _ => zeroBurst r.data r.pkt.addr n x | _ => r.data
  { r with addr := r.addr + 64, left := r.left - 1, data := if r.kind = 0 then v else r.data }

/-- The queues with one burst of request r issued: the requests it passed count it (R294). -/
def issueIn (r r' : MReq) : List MReq → List MReq
  | [] => []
  | x :: xs =>
    if x = r then (if r'.left = 0 then xs else r' :: xs)
    else (if x.stack = r.stack ∧ x.ch = r.ch ∧ x.cls = r.cls then { x with passed := x.passed + 1 } else x) :: issueIn r r' xs

/-- The effect of one burst of request r. -/
def burst (r : MReq) (ecc : Ecc) (s : State) : State :=
  let read := r.kind == 0 || r.kind == 3
  let e := if read then ecc else .ok
  let r' := afterBurst r e
  let s1 := if read then incM s MEM_RDB_LO_RDB MEM_RDB_HI_RDB r.stack 0 1 else incM s MEM_WRB_LO_WRB MEM_WRB_HI_WRB r.stack 0 1
  let s2 := { s1 with
    memq := issueIn r r' s1.memq
    openRow := mapSet 0 s1.openRow (bankKey r.stack r.ch (bankOf r.addr)) (rowOf r.addr + 1) }
  let s3 := burstEcc r e s2
  if r.kind = 0 ∧ r'.left = 0 ∧ !(ofUnit r) then inject (response r.pkt (nodeMem r.stack) r'.data) s3 else s3

/-- BURST_ISSUE: request i of channel ch of stack k issues its next burst; none issues in SELFREF (R300). -/
def execBurstIssue (k ch i aged : Nat) (ecc : Ecc) (s : State) : Host.Outcome State Fault Refusal :=
  .next (let q := chanQueue s k ch
    match q[i]? with
    | some r => if rd s MEM_STATUS_THR k 0 = 3 || !(mayIssue s q i aged r) then s else burst r ecc s
    | none => s)

/-- REFRESH: a bank is refreshed, and its row closes (R295). -/
def execRefresh (k ch bank : Nat) (s : State) : Host.Outcome State Fault Refusal :=
  .next (if bank < 16 then { s with openRow := mapSet 0 s.openRow (bankKey k ch bank) 0 } else s)

/-! ### Scrubbing (R298) -/

/-- The place of an entry in a table. -/
def placeIn (tab : List (Nat × Nat)) (e : Nat × Nat) : Nat := tab.findIdx (fun x => x == e)

/-- The module address of a channel address in a region whose base is b: R286 read backward. -/
def regionAddr (s : State) (sts : List Nat) (b k ch ca : Nat) : Nat :=
  let tab := chanTable s sts
  let n := tab.length
  let z := (sts.filter (fun k => chActive s k 0)).length
  let g := 2 ^ (match rd s MEM_IMAP_GRAN 0 0 with | 0 => 8 | 1 => 12 | _ => 16)
  let q0 := 2 ^ 31 / g - 2 ^ 27 / g
  let q := ca / g
  let low := decide (q < q0)
  let a := if low then n else n - z
  let u := placeIn (if low then tab else tab.filter (fun e => e.2 ≠ 0)) (k, ch)
  let v := if rd s MEM_IMAP_ROT 0 0 == 1 then (u + a * (13 * q / a + 1) - 13 * q) % a else u
  b + (if low then (q * a + v) * g else q0 * n * g + ((q - q0) * a + v) * g) + ca % g

/-- The module address of a channel address of stack k (R285, R286, R289). -/
def moduleAddr (s : State) (k ch ca : Nat) : Nat :=
  if ch = 0 ∧ 0x78000000 ≤ ca then capacity s - 0x60000000 + 2 ^ 27 * k + (ca - 0x78000000)
  else
    let sets := imapSets s
    let i := sets.findIdx (fun st => st.contains k)
    regionAddr s (sets.getD i []) (((sets.take i).map (regionSize s)).sum) k ch ca

/-- SCRUB: the patrol read of the next burst of channel ch of stack k enters the queue, in class 3; `us` are the µs since the
channel's last, of which there must be PERIOD (R293, R298). -/
def execScrub (k ch us : Nat) (s : State) : Host.Outcome State Fault Refusal :=
  .next (if rd s MEM_SCRUB_PERIOD k 0 = 0 || decide (us < rd s MEM_SCRUB_PERIOD k 0) || !(chActive s k ch) || !(chanReady s k ch) then s
    else
      let key := k * 32 + ch
      let a := mapGet 0 s.scrubPtr key
      queueReq ⟨k, ch, 3, 3, a, 1, 0, 0, unitPkt false (nodeMem k) none (moduleAddr s k ch a) 64⟩
        { s with scrubPtr := mapSet 0 s.scrubPtr key ((a + 64) % 2 ^ 31) })

/-! ### Training (R301 to R304) -/

/-- PHY_TRAIN_GO: a write of PHY_TRAIN with GO 1; refused while EN is 1 (R301). -/
def execPhyTrainGo (rq : Requester) (k : Nat) (v : W32) (s : State) : Host.Outcome State Fault Refusal :=
  .next (if bitsOf v.toNat 0 1 = 0 ∨ 12 ≤ k then s
    else busCmd rq PHY_TRAIN_GO k 0 v (fun off s =>
      if rdB s MEM_CTRL_EN k 0 then setWrign .phy k off s
      else wr { s with training := mapSet 0 s.training k 1 } PHY_STATUS_TBUSY k 0 1) s)

/-- The eyes of one lane, read and write, each a width in 1/64 UI and a height in 5 mV. -/
abbrev LaneEyes := (Nat × Nat) × (Nat × Nat)

/-- The eye of a lane that PHY_EYE shows: the lesser width and the lesser height of its two. DESIGN CHOICE (log entry
108). -/
def laneEye (e : LaneEyes) : Nat × Nat := (min e.1.1 e.2.1, min e.1.2 e.2.2)

/-- Whether a lane passes: both its eyes are at least 13/64 UI by 25 mV (R302). -/
def eyeOk (e : LaneEyes) : Bool := decide (13 ≤ e.1.1 ∧ 5 ≤ e.1.2) && decide (13 ≤ e.2.1 ∧ 5 ≤ e.2.2)

/-- The failing lanes of a channel among lanes lo to lo + n − 1. -/
def badLanes (lanes : List LaneEyes) (ch lo n : Nat) : List Nat :=
  ((List.range n).map (· + lo)).filter (fun l => !(eyeOk (lanes.getD (ch * 64 + l) ((0, 0), (0, 0)))))

/-- Every byte of the channels in service of a stack zeroed (Table 13.8, step 7). -/
def zeroStack (k : Nat) (s : State) : State := { s with mem := mapClear s.mem (2 ^ 52 + 2 ^ 31 * (k * 32)) (32 * 2 ^ 31) }

/-- The number of set bits among the low n of a mask. -/
def popCount (v n : Nat) : Nat := ((List.range n).map (fun i => v / 2 ^ i % 2)).sum

/-- MEM_TOTAL from every stack's MEM_CHMAP (R304). -/
def setTotal (s : State) : State :=
  let n := ((List.range 12).map (fun k => popCount (rd s MEM_CHMAP_ACTIVE k 0) 32)).sum
  wr (wr s MEM_TOTAL_NCH 0 0 n) MEM_TOTAL_DEGRADED 0 0 (if n < 372 then 1 else 0)

/-- Hub firmware's training records: kept for READY during a start, else filed as the training ends (R304). -/
def trainRecord (start : Bool) (e : ErrRec) (s : State) : State :=
  if start then { s with bootRecs := s.bootRecs ++ [e] } else raise .hubfw e s

/-- A training record of R306: stack, channel, and the controller's node as source. -/
def trainErr (code k ch : Nat) : ErrRec := plainRec code false (k + 2 ^ 4 * ch) (nodeMem k)

/-! #### The training record (R289, R302)

The spec names what the record holds and where its 8 MiB lie; its layout is the model's. DESIGN CHOICE (log entry 108). -/

/-- The lanes of a stack: 36 of each channel, and channel 0's two spares (R284). -/
def laneCount : Nat := 32 * 36 + 2

/-- The key in `mem` of byte i of a stack's training record: offset 0x400_0000 of its privileged region. -/
def recordKey (k i : Nat) : Nat := 2 ^ 52 + 2 ^ 31 * (k * 32) + 0x7C000000 + i

/-- The bytes of a record before its CRC: 16 of header, and 8 for each of the 64 lane places of a channel. -/
def recordLen : Nat := 16 + 8 * 2048

/-- n bytes of a stack's record from byte i on. -/
def recordLE (s : State) (k : Nat) : Nat → Nat → Nat
  | _, 0 => 0
  | i, n + 1 => (mapGet 0 s.mem (recordKey k i)).toNat + 256 * recordLE s k (i + 1) n

/-- A record's header: the stepping, the number of lanes, the MEM_FORCEOUT mask. -/
def trainHeader (s : State) (k : Nat) : Nat :=
  packN 32 [rd s FUSE_DEVID_STEPPING 0 0, laneCount, rd s MEM_FORCEOUT_MASK k 0, 0]

/-- Whether a stack's record is valid: its CRC holds, and its stepping, lane count and mask are the current ones. -/
def recordValid (s : State) (k : Nat) : Bool :=
  recordLE s k recordLen 4 == crc32 recordLen (recordLE s k 0 recordLen) && recordLE s k 0 16 == trainHeader s k

/-- One lane's bytes: its eyes, and its settings, which are free values. -/
def recordLane (s : State) (lanes : List LaneEyes) (i : Nat) : Nat :=
  let e := lanes.getD i ((0, 0), (0, 0))
  packN 8 [e.1.1 % 256, e.1.2 % 256, e.2.1 % 256, e.2.2 % 256] + 2 ^ 32 * (Config.free s.freeIdx i % 2 ^ 32)

/-- A stack's record but its CRC: the header, and the lanes' bytes. -/
def recordBody (k : Nat) (lanes : List LaneEyes) (s : State) : Nat :=
  trainHeader s k + 2 ^ 128 * packN 64 ((List.range 2048).map (recordLane s lanes))

/-- A stack's record written, of body v, with its CRC. -/
def putRecord (k v : Nat) (s : State) : State :=
  { s with
    mem := (List.range (recordLen + 4)).foldl (fun m i =>
      mapSet 0 m (recordKey k i) (BitVec.ofNat 8 (byteOf (v + 2 ^ (8 * recordLen) * crc32 recordLen v) i))) s.mem
    freeIdx := s.freeIdx + 1 }

/-- The record of a training written (Table 13.8, step 8). -/
def writeRecord (k : Nat) (lanes : List LaneEyes) (s : State) : State := putRecord k (recordBody k lanes s) s

/-- A full training of stack k ends with the eyes of its lanes (R302 to R304): it fails where more than two lanes of channel
0 fail, or a spare lane does. -/
def fullTraining (k kind : Nat) (lanes : List LaneEyes) (s : State) : State :=
  let start := decide (kind ≠ 1)
  let bad0 := badLanes lanes 0 0 36
  let fail := decide (2 < bad0.length) || !((badLanes lanes 0 36 2).isEmpty)
  let s1 := { s with
    eyes := (List.range 2048).foldl (fun m i => mapSet (0, 0) m (k * 2048 + i) (laneEye (lanes.getD i ((0, 0), (0, 0))))) s.eyes }
  if fail then
    wr (wr (trainRecord start (trainErr 0x0704 k 0) s1) PHY_STATUS_TFAIL k 0 1) MEM_STATUS_TRAINED k 0 0
  else
    let mask := rd s MEM_FORCEOUT_MASK k 0
    let outs := ((List.range 31).map (· + 1)).filter (fun c => mask / 2 ^ (c - 1) % 2 == 1 || !((badLanes lanes c 0 36).isEmpty))
    let act := 2 ^ 32 - 1 - (outs.map (fun c => 2 ^ c)).sum
    let s2 := wr (wr (wr s1 MEM_SPARE_LANE36 k 0 (bad0.getD 0 0x3F)) MEM_SPARE_LANE37 k 0 (bad0.getD 1 0x3F)) MEM_CHMAP_ACTIVE k 0 act
    let s3 := outs.foldl (fun s c => trainRecord start (trainErr 0x0702 k c) s) s2
    let s4 := if kind = 2 then zeroStack k s3 else s3
    wr (writeRecord k lanes s4) MEM_STATUS_TRAINED k 0 1

/-- STACK_TRAINING_COMPLETE: the training of stack k ends; `lanes` are the eyes measured, by channel × 64 + lane. A WARM
training from a valid record measures none (R301). -/
def execStackTrainingComplete (k : Nat) (lanes : List LaneEyes) (s : State) : Host.Outcome State Fault Refusal :=
  let kind := mapGet 0 s.training k
  .next (if kind = 0 then s
    else
      let s0 := wr { s with training := mapSet 0 s.training k 0 } PHY_STATUS_TBUSY k 0 0
      setTotal (if kind = 3 ∧ recordValid s k = true then wr s0 MEM_STATUS_TRAINED k 0 1 else fullTraining k kind lanes s0))

/-! ### Margining (R305) -/

/-- PHY_MRUN_GO: a write of PHY_MRUN with GO 1; ignored while a run is in progress or EN is 1. -/
def execPhyMrunGo (rq : Requester) (k : Nat) (v : W32) (s : State) : Host.Outcome State Fault Refusal :=
  .next (if bitsOf v.toNat 31 1 = 0 ∨ 12 ≤ k then s
    else busCmd rq PHY_MRUN_GO k 0 v (fun off s =>
      if rdB s PHY_STATUS_MBUSY k 0 || rdB s MEM_CTRL_EN k 0 then setWrign .phy k off s else wr s PHY_STATUS_MBUSY k 0 1) s)

/-- MARGIN_RUN_COMPLETE: a margin run of stack k ends with its bit errors; the channel's top 64 KiB hold free values. -/
def execMarginRunComplete (k errs : Nat) (s : State) : Host.Outcome State Fault Refusal :=
  .next (if !(rdB s PHY_STATUS_MBUSY k 0) then s
    else
      let base := 2 ^ 52 + 2 ^ 31 * (k * 32 + rd s PHY_MSEL_CH k 0) + 0x7FFF0000
      let s1 := { s with
        mem := (List.range 65536).foldl (fun m i => mapSet 0 m (base + i) (BitVec.ofNat 8 (Config.free s.freeIdx i))) s.mem
        freeIdx := s.freeIdx + 1 }
      wr (wr s1 PHY_STATUS_MBUSY k 0 0) PHY_MERR_ERR k 0 (min errs (2 ^ 32 - 1)))

end Sys2Proof.Machine
end

