-- ==== Sys2Proof/Machine/Rule.lean ====
section
/-! DEFINITION. The arithmetic of an update (R254): FP32 division, square root and power, each rounded once, additions
into a BF16 master, and the exact FP16 mean of R259. -/

namespace Sys2Proof.Machine

/-- floor(sqrt n), decided bit by bit from bit k − 1 down, given the bits r above. -/
def isqrt : Nat → Nat → Nat → Nat
  | 0, _, r => r
  | k + 1, n, r => if (r + 2 ^ k) * (r + 2 ^ k) ≤ n then isqrt k n (r + 2 ^ k) else isqrt k n r

/-- The FP32 code of num / den × 2^e rounded to nearest, infinity beyond the range. -/
def ratio32 (neg : Bool) (num den : Nat) (e : Int) : Nat :=
  let v := narrow fmtFP32 .nearest neg num den e
  if fmtFP32.maxCode < v.code then inf32 neg else withSign fmtFP32 neg v.code

/-- a / b on FP32 codes, rounded once. -/
def div32 (x y : Nat) : Nat :=
  match val32 x, val32 y with
  | .nan _, _ => nan32
  | _, .nan _ => nan32
  | .inf _, .inf _ => nan32
  | .inf a, .fin b => inf32 (a != b.neg)
  | .fin a, .inf b => zero32 (a.neg != b)
  | .fin a, .fin b =>
    if b.m = 0 then (if a.m = 0 then nan32 else inf32 (a.neg != b.neg))
    else if a.m = 0 then zero32 (a.neg != b.neg)
    else ratio32 (a.neg != b.neg) a.m b.m (a.e - b.e)

/-- The square root of an FP32 code, rounded once. -/
def sqrt32 (x : Nat) : Nat :=
  match val32 x with
  | .nan _ => nan32
  | .inf n => if n then nan32 else inf32 false
  | .fin d =>
    if d.m = 0 then zero32 d.neg
    else if d.neg then nan32
    else
      let odd : Nat := (d.e % 2).toNat
      let n := d.m * 2 ^ (odd + 60)
      let r := isqrt 44 n 0
      ratio32 false (2 * r + (if r * r = n then 0 else 1)) 1 ((d.e - odd) / 2 - 31)

/-- pow(b, t) for a finite b in [0, 1), rounded once (R254). -/
def pow32 (b t : Nat) : Nat :=
  match val32 b with
  | .fin d => ratio32 false (d.m ^ t) 1 (d.e * t)
  | _ => nan32

def mulC (a b : Nat) : Nat := (fmul32 .nearest (val32 a) (val32 b)).1
def addC (a b : Nat) : Nat := (fadd32 .nearest (val32 a) (val32 b)).1
def subC (a b : Nat) : Nat := (fsub32 .nearest (val32 a) (val32 b)).1
def fmaC (a b c : Nat) : Nat := (fma32 .nearest (val32 a) (val32 b) (val32 c)).1

/-- 2^k as an FP32 code, for k from −149 to 127. -/
def pow2C (k : Int) : Nat := if k < -126 then 2 ^ (k + 149).toNat else 2 ^ 23 * (k + 127).toNat

/-- a × b + c rounded once to the master format: FP32, or BF16 held as the FP32 code of the same value (R254). -/
def fmaMaster (bf : Bool) (a b c : Nat) : Nat :=
  if !bf then fmaC a b c
  else
    match val32 a, val32 b, val32 c with
    | .fin x, .fin y, .fin z =>
      let t := addDy (mulDy x y) z
      if t.m = 0 then fmaC a b c else 2 ^ 16 * (toBF16 (.fin t)).1
    | _, _, _ => 2 ^ 16 * (fmaC a b c / 2 ^ 16)

/-- FP32 code 1.0. -/
def one32 : Nat := 0x3F800000

/-- The parameters that one element's step uses (R254). -/
structure StepPar where
  bf : Bool
  b1 : Nat
  b2 : Nat
  eps : Nat
  wd : Nat
  clip : Nat
  gscale : Nat
  lam : Int
  k1 : Nat
  k2 : Nat
  rs : Nat
  fac : Nat
  deriving DecidableEq, Repr

/-- Whether CLIP is a positive finite value (R253). -/
def clipOn (c : Nat) : Bool := match val32 c with | .fin d => d.m != 0 && !d.neg | _ => false

/-- upd(i) (R254). -/
def updTerm (q : StepPar) (m v w : Nat) : Nat :=
  fmaC q.wd w (div32 (mulC m q.k1) (addC (sqrt32 (mulC v q.k2)) q.eps))

/-- The summed and scaled gradient before clipping (R254). -/
def gradOf (q : StepPar) (gs : List Nat) : Nat :=
  match gs with
  | [] => 0
  | g :: rest => mulC (rest.foldl addC g) q.gscale

/-- The gradient as the moments take it (R254). -/
def gradClip (q : StepPar) (g : Nat) : Nat :=
  if clipOn q.clip then (fminmax32 false ((fminmax32 true g (negCode q.clip)).1) q.clip).1 else g

/-- The moments after gradient g (R254). -/
def moments (q : StepPar) (g m v : Nat) : Nat × Nat :=
  (fmaC q.b1 m (mulC (subC one32 q.b1) g), fmaC q.b2 v (mulC (subC one32 q.b2) (mulC g g)))

/-- The master and remainder after pass 2 (R254). -/
def masterStep (q : StepPar) (m v w c : Nat) : Nat × Nat :=
  let ds := negCode (mulC q.rs (updTerm q m v w))
  let y := subC ds (mulC c q.fac)
  let n := fmaMaster q.bf y (pow2C (-q.lam)) w
  (n, fmaMaster q.bf (subC n w) (pow2C q.lam) (negCode y))

/-- The trust ratio and the step size of pass 2 (R254, between). -/
def trust (rs trmax : Nat) (sw su : List Nat) : Nat :=
  let total : List Nat → Nat := fun l => match l with | [] => 0 | x :: xs => xs.foldl addC x
  let nw := sqrt32 (total sw)
  let nu := sqrt32 (total su)
  let r := if isZeroF (val32 nw) || isZeroF (val32 nu) then one32 else (fminmax32 false (div32 nw nu) trmax).1
  mulC rs r

/-- A sum of magnitudes with one more: exact, in units of 2^−149, and whether an infinity or a NaN was met (R259). -/
def addAbs (a : Nat × Bool × Bool) (w : Nat) : Nat × Bool × Bool :=
  match val32 w with
  | .nan _ => (a.1, a.2.1, true)
  | .inf _ => (a.1, true, a.2.2)
  | .fin d => (a.1 + shlI d.m (d.e + 149), a.2.1, a.2.2)

/-- The FP16 scale of an output: the mean of its n magnitudes, rounded to nearest (R259). -/
def meanScale (a : Nat × Bool × Bool) (n : Nat) : Nat :=
  if a.2.2 then fmtFP16.nanCode
  else if a.2.1 then 0x7C00
  else
    let v := narrow fmtFP16 .nearest false a.1 n (-149)
    if fmtFP16.maxCode < v.code then 0x7C00 else v.code

end Sys2Proof.Machine
end

