-- ==== Sys2Proof/Machine/Blocker.lean ====
section
/-! DEFINITION. The Blockers: shard requests, pins and receipts (R234 to R245), and updates (R248 to R263). -/

namespace Sys2Proof.Machine

/-! ### A unit's own accesses -/

/-- Whether a word at address x can be reported by the code of the store it lies in: stack memory, a cluster store, or a hank
line that is not FRESH (R136, R228, R297). -/
def coded (s : State) (x : Nat) : Bool :=
  match target s x with
  | .stack _ => true
  | .cstore _ _ => true
  | .hank c off => !(isFresh s c (off / 256))
  | _ => false

/-- The uncorrectable word at `ue`, where a read of n bytes from address a meets it. -/
def metUe (s : State) (ue : Option Nat) (a n : Nat) : Option Nat := ue.filter (fun x => decide (a ≤ x ∧ x < a + n) && coded s x)

/-- Data `v` of such a read as it is delivered: the burst, or the 32-byte entry, that the code gave up reads as zero. -/
def delivered (s : State) (ue : Option Nat) (a n v : Nat) : Nat :=
  match ue.filter (coded s) with
  | some x => zeroSpan (match target s x with | .stack _ => 64 | _ => 32) v a n x
  | none => v

/-- What an uncorrectable word at address x does that a unit's own read for partition `part` met: UE and the address, and the
record, which takes the cast branch of the partition (R129, R136, R297). -/
def unitErr (node : Nat) (part : Option Nat) (x : Nat) (s : State) : State :=
  match target s x, part, dramOf s x with
  | .stack _, some p, _ => unitUe node p x s
  | .stack _, none, some (k, ch, ca) => raise (.memctl k) (ueRec none 0 false k ch ca node) (markUe k (x - x % 64) s)
  | .cstore c _, _, _ => clusterEcc c (x - x % 32) { pkt0 .rdreq part node x 0 1 with who := 9 } (.uncorrectable 0) s
  | .hank c _, _, _ => clusterEcc c (x - x % 32) { pkt0 .rdreq part node x 0 1 with who := 9 } (.uncorrectable 0) s
  | _, _, _ => s

/-- The words that the clusters' codes corrected in a unit's reads, by cluster and number, counted for the clusters that the
accesses read (R136). -/
def countCe (ce : List (Nat × Nat)) (reads : List (Nat × Nat)) (s : State) : State :=
  ce.foldl (fun s e =>
    if reads.any (fun r => decide (clusterBase e.1 < r.1 + r.2 ∧ r.1 < clusterBase (e.1 + 1))) && decide (e.1 < 96)
    then incS s CLU_ECC_CE_CE CLU_SATSTICKY_SCE e.1 0 e.2 else s) s

/-- n bytes read by a unit of the module, at class `cls` of Table 13.4 where they lie in stack memory: hank lines as R228 lays
down, any other store as it stands. -/
def unitRead (cls node : Nat) (part ue : Option Nat) (a n : Nat) (s : State) : Nat × State :=
  match target s a with
  | .hank c off =>
    let l0 := off / 256
    let k := (off % 256 + n + 255) / 256
    let v := packN 2048 ((List.range k).map (fun i => packN 32 (lineWords s c (l0 + i) 0 .ok)))
    (delivered s ue a n (bitsOf v (8 * (off % 256)) (8 * n)),
      (List.range k).foldl (fun s i => if harvested s c (l0 + i) then setFresh c (l0 + i) true s else s) s)
  | .host _ => (Config.free s.freeIdx 0 % 2 ^ (8 * n), { s with freeIdx := s.freeIdx + 1 })
  | .stack _ => (delivered s ue a n (rdLE s a n), unitAccept false cls node part a n s)
  | _ => (delivered s ue a n (srcLE s a n), flushRead a n s)

/-- n bytes written by a unit of the module: to stack memory at once, to any other place as write packets. -/
def unitWrite (cls node p a n v : Nat) (s : State) : State :=
  match target s a, plyLinkOf s p a with
  | .stack _, none => unitAccept true cls node (some p) a n (wrLE a n v s)
  | _, _ => pushPieces (fun x k => bitsOf v (8 * x) (8 * k)) s (some p) node 9 false 0 (pieces (n + 1) 0 a n) s

/-- A 16-byte record written with a signal (R240, R261). -/
def unitRecord (node p a v : Nat) (sig : Bool) (stitch : Nat) (s : State) : State :=
  inject { pkt0 .wr (some p) node a v 1 with last := true, sig := sig, stitch := stitch, crslo := crsloOf s node (some p) } s

/-- ADDR_WINDOW of a unit acting for partition p (R22, R258, R411). -/
def unitRefused (u : UnitId) (node p x : Nat) (s : State) : State :=
  let e := partRec s p 0x0101 (rdB s CRS_XPOL_TADDR p 0) (awObj x) (awSrc node x)
  if rdB s CRS_XPOL_TADDR p 0 then castBranch (some p) u e s else raise u e s

/-! ### Descriptors on arrival (R248) -/

/-- Descriptor number i, when it is the first of its tile for its Blocker. -/
def descAt (s : State) (i : Nat) : Option Desc :=
  match s.descs[i]? with
  | some d => if (s.descs.take i).any (fun e => e.tile == d.tile && e.blk == d.blk) then none else some d
  | none => none

/-- A refused descriptor: the tile's record, and its needle to TRAP, at the end of its wait if it waits (R241). -/
def descRefuse (d : Desc) (code object source : Nat) (s : State) : State :=
  let s1 := raise (.tile d.tile) (tileRec s d.tile code true object source) s
  let st := needleState s1 d.tile d.needle
  if st = nsWait then { s1 with trapLater := s1.trapLater ++ [(d.tile, d.needle)] }
  else if st = nsRun ∨ st = nsDone then
    enterTrap d.tile d.needle { s1 with stalls := s1.stalls.filter (fun x => !(x.1 == d.tile && x.2.1 == d.needle)) }
  else s1

/-- Fields of a shard request (Table 10.7). -/
def gKind (d : Desc) : Nat := bitsOf d.data 0 4
def gPin (d : Desc) : Bool := bitsOf d.data 4 1 == 1
def gShard (d : Desc) : Nat := bitsOf d.data 16 16
def gEntry (d : Desc) : Nat := bitsOf d.data 16 12
def gExp (d : Desc) : Nat := bitsOf d.data 64 32
def gOfs (d : Desc) : Nat := bitsOf d.data 96 24
def gHandle (d : Desc) : Nat := bitsOf d.data 96 13
def gDst (d : Desc) : Nat := bitsOf d.data 128 48
def gLen (d : Desc) : Nat := bitsOf d.data 176 16
def gRcpt (d : Desc) : Nat := bitsOf d.data 192 48

/-- The source word of a descriptor error: tile and needle. -/
def dSrc (d : Desc) : Nat := tileSrc d.tile d.needle

/-- Whether a shard identifier is one that R242 refuses for partition p at Blocker b. -/
def shardBad (s : State) (b shard p : Nat) : Bool :=
  let e := shard % 4096
  decide (shard / 4096 ≠ b) || !(rdB s BLK_SH_CTL_VALID b e) ||
    (rd s BLK_SH_CTL_PART b e != p && !(slotGranted s b e p))

/-- Whether a request breaks what R242 asks of every shard request. -/
def requestBad (s : State) (d : Desc) (p : Nat) : Bool :=
  d.addr % 32 != 0 || bitsOf d.data 9 7 != 0 || bitsOf d.data 46 18 != 0 || bitsOf d.data 120 8 != 0 ||
    bitsOf d.data 240 16 != 0 || shardBad s d.blk (gShard d) p

/-- Whether a gather's range and addresses break R242 and Table 10.7. -/
def gatherBad (s : State) (d : Desc) : Bool :=
  gLen d == 0 || decide (rd s BLK_SH_LEN_LEN d.blk (gEntry d) < gOfs d + gLen d) || gDst d % 256 != 0 || gRcpt d % 16 != 0

/-- The first unused pin handle from h on (R243). -/
def freeHandle (s : State) (b h : Nat) : Option Nat :=
  ((List.range 8192).map (fun i => (h + i) % 8192)).find? (fun x => !(s.pins.any (fun p => p.blk == b && p.handle == x)))

/-- The slot that holds generation g of a shard (R238). -/
def slotOfGen (s : State) (b e g : Nat) : Option Nat :=
  [rd s BLK_SH_CTL_CURSLOT b e, 1 - rd s BLK_SH_CTL_CURSLOT b e].find? (fun k => slotValid s b e k && slotGen s b e k == g)

/-- The bytes that a gather reads from its slot for partition p: zero, with ADDR_WINDOW, where the partition may not read
them (R22). -/
def gatherRead (b p a n : Nat) (ue : Option Nat) (ce : List (Nat × Nat)) (s : State) : Nat × State :=
  match firstRefused s p a n false with
  | some x => (0, unitRefused (.blocker b) (nodeBlocker b) p x s)
  | none =>
    let r := unitRead 1 (nodeBlocker b) (some p) ue a n s
    let s1 := match metUe s ue a n with | some x => unitErr (nodeBlocker b) (some p) x r.2 | none => r.2
    (r.1, countCe ce [(a, n)] s1)

/-- A gather served from a slot: its pin, its data packets, and its receipt to follow (R240). -/
def gatherServe (d : Desc) (p slot : Nat) (ue : Option Nat) (ce : List (Nat × Nat)) (s : State) : State :=
  let e := gEntry d
  let h := if gPin d then freeHandle s d.blk (Config.free s.freeIdx 0) else none
  let s1 := match h with
    | some h => { s with
        freeIdx := s.freeIdx + 1
        pins := s.pins ++ [⟨d.blk, h, p, d.tile, e, slot, bitsOf d.data 6 3, false⟩] }
    | none => s
  let n := gLen d * 256
  let a := slotBase s d.blk e slot + gOfs d * 256
  let lo := s1.nextPid
  let r := gatherRead d.blk p a n ue ce s1
  let s2 := pushPieces (fun x k => bitsOf r.1 (8 * x) (8 * k)) s (some p) (nodeBlocker d.blk) 7 false 0
    (pieces (n + 1) 0 (gDst d) n) r.2
  let words := slotGen s d.blk e slot + 2 ^ 32 * gShard d + 2 ^ 48 * h.getD 0 + 2 ^ 61 * slot + 2 ^ 62 * (if h.isSome then 1 else 0)
  { s2 with gathers := s2.gathers ++
      [⟨d.blk, p, d.tile, lo, s2.nextPid, gRcpt d, words, bitsOf d.data 5 1 == 1, bitsOf d.data 32 14⟩] }

/-- A gather whose slot is chosen: its windows and its pin record checked, then served (R242). -/
def gatherGo (d : Desc) (p slot : Nat) (ue : Option Nat) (ce : List (Nat × Nat)) (s : State) : State :=
  match firstRefused s p (gDst d) (gLen d * 256) true, firstRefused s p (gRcpt d) 16 true with
  | some x, _ => unitRefused (.blocker d.blk) (nodeBlocker d.blk) p x s
  | none, some x => unitRefused (.blocker d.blk) (nodeBlocker d.blk) p x s
  | none, none =>
    if gPin d && (freeHandle s d.blk 0).isNone then descRefuse d 0x021A (gShard d) (dSrc d) s else gatherServe d p slot ue ce s

/-- A shard request of one kind at its Blocker: descriptor i, if it is of that kind. -/
def shardRequest (kind : Nat) (act : Desc → Nat → State → State) (bad : State → Desc → Nat → Bool) (i : Nat) (s : State) : State :=
  match descAt s i with
  | some d =>
    if gKind d ≠ kind then s
    else
      let s1 := { s with descs := s.descs.eraseIdx i }
      match partOfTile s d.tile with
      | none => s1
      | some p => if requestBad s d p || bad s d p then descRefuse d 0x0219 (gShard d) (dSrc d) s1 else act d p s1
  | none => s

/-- GATHER: descriptor i, served the served generation (R236, R240). -/
def execGather (i : Nat) (out : ReadOut) (s : State) : Host.Outcome State Fault Refusal :=
  .next (takenWhole (shardRequest 1 (fun d p s =>
    gatherGo d p ((slotOfGen s d.blk (gEntry d) (servedGen s d.blk (gEntry d) p)).getD (rd s BLK_SH_CTL_CURSLOT d.blk (gEntry d)))
      out.ue out.ce s) (fun s d _ => gatherBad s d) i) s)

/-- GATHERCHK: descriptor i, served generation EXPGEN or refused with SHARD_STALE (R241). -/
def execGatherchk (i : Nat) (out : ReadOut) (s : State) : Host.Outcome State Fault Refusal :=
  .next (takenWhole (shardRequest 2 (fun d p s =>
    match slotOfGen s d.blk (gEntry d) (gExp d) with
    | some k => gatherGo d p k out.ue out.ce s
    | none => descRefuse d 0x0218 (gShard d + 2 ^ 16 * (gExp d % 2 ^ 16))
        (dSrc d + 2 ^ 16 * (currentGen s d.blk (gEntry d) % 2 ^ 16)) s)
    (fun s d _ => gatherBad s d) i) s)

/-- Whether a pin record is the one that partition p names. -/
def isPin (b h p : Nat) (x : Pin) : Bool := x.blk == b && x.handle == h && x.part == p

/-- SHARD_RELEASE: descriptor i frees the pin record that it names (R243). -/
def execShardRelease (i : Nat) (s : State) : Host.Outcome State Fault Refusal :=
  .next (shardRequest 3
    (fun d p s => { s with pins := s.pins.filter (fun x => !(isPin d.blk (gHandle d) p x)) })
    (fun s d p => !(s.pins.any (isPin d.blk (gHandle d) p))) i s)

/-- GATHER_RECEIPT: the data packets of gather number i have all landed, and its receipt is written (R240). -/
def execGatherReceipt (i : Nat) (s : State) : Host.Outcome State Fault Refusal :=
  .next (match s.gathers[i]? with
    | some g =>
      if s.net.any (fun q => decide (g.lo ≤ q.pid ∧ q.pid < g.hi)) then s
      else unitRecord (nodeBlocker g.blk) g.part g.rcpt g.words g.sig g.stitch { s with gathers := s.gathers.eraseIdx i }
    | none => s)

/-- PIN_TIMER_EXPIRE: PIN_TIMEOUT of a pin record, once; the pin stays held (R244). -/
def execPinTimerExpire (b handle : Nat) (s : State) : Host.Outcome State Fault Refusal :=
  .next (match s.pins.find? (fun x => x.blk == b && x.handle == handle && !x.expired) with
    | some x =>
      let s1 := incS { s with pins := s.pins.map (fun y => if y = x then { y with expired := true } else y) }
        BLK_PIN_TMO_TMO BLK_SH_STATUS_STMO b 0 1
      castBranch (some x.part) (.blocker b) (partRec s x.part 0x0501 true (b * 4096 + x.entry + 2 ^ 16 * handle + 2 ^ 29 * x.slot)
        (x.tile + 2 ^ 16 * (slotGen s b x.entry x.slot % 2 ^ 16))) s1
    | none => s)

/-! ### UPDATE descriptors (Table 11.2) -/

def dB (d lo n : Nat) : Nat := bitsOf d lo n
def uSig (d : Nat) : Bool := dB d 4 1 == 1
def uEmitF (d : Nat) : Bool := dB d 5 1 == 1
def uEmitT (d : Nat) : Bool := dB d 6 1 == 1
def uLam (d : Nat) : Int := (BitVec.ofNat 7 (dB d 46 7)).toInt
def uNg (d : Nat) : Nat := dB d 53 3
def uBf (d : Nat) : Bool := dB d 56 2 == 1
def uFmt (d : Nat) : Nat := dB d 58 4
def uK (d : Nat) : Nat := 64 * dB d 96 16
def uN (d : Nat) : Nat := 64 * dB d 112 16
def uMom (d : Nat) : Nat := dB d 192 48
def uStat (d : Nat) : Nat := dB d 256 48
def uG (d j : Nat) : Nat := dB d (384 + 64 * j) 48

/-- The inner dimension of an image of a format (Table 4.1), and TK of R252, which is 64 without a forward copy. -/
def imageTK (fmt : Nat) : Nat := match fmt with | 4 => 128 | 5 => 256 | _ => 32
def uTK (d : Nat) : Nat := if uEmitF d then imageTK (uFmt d) else 64

/-- E, and the bytes of a forward copy and of a transposed copy (R251, Table 11.5). -/
def uElems (d : Nat) : Nat := uK d * uN d
def copyBytes (d : Nat) : Nat := uElems d / (64 * imageTK (uFmt d)) * imageSize (uFmt d)
def copyOffT (d : Nat) : Nat := if uEmitF d then copyBytes d else 0

/-- Whether an UPDATE breaks R251 (the duplicate TAG and the shard apart). -/
def updateBad (d : Nat) : Bool :=
  let emit := uEmitF d || uEmitT d
  let f := uFmt d
  let reserved : List (Nat × Nat) := [(7, 1), (62, 2), (80, 16), (176, 16), (240, 16), (304, 16), (352, 32), (432, 16), (496, 16),
    (560, 16), (624, 16), (640, 128)]
  reserved.any (fun r => dB d r.1 r.2 != 0) || uNg d == 0 || decide (4 < uNg d) || decide (1 < dB d 56 2) ||
  (List.range 4).any (fun j => decide (uNg d ≤ j) && uG d j != 0) || uK d == 0 || uN d == 0 ||
  (emit && !(decide (1 ≤ f ∧ f ≤ 5))) ||
  (uEmitF d && uK d % imageTK f != 0) || (uEmitT d && uN d % imageTK f != 0) ||
  (emit && f == 5 && decide (32768 < uN d + (if uEmitT d then uK d else 0))) ||
  uMaddr d % 256 != 0 || uMom d % 256 != 0 || uStat d % 16 != 0 || (List.range 4).any (fun j => uG d j % 256 != 0)

/-- Whether an emitting UPDATE's shard breaks R242, or its slots are too small (R251). -/
def updateShardBad (s : State) (b p d : Nat) : Bool :=
  (uEmitF d || uEmitT d) &&
  (shardBad s b (dB d 16 16) p ||
    decide (rd s BLK_SH_LEN_LEN b (dB d 16 12) * 256 <
      (if uEmitF d then copyBytes d else 0) + (if uEmitT d then copyBytes d else 0)))

/-- The object word of a Blocker's update record and of its refusals (R264). -/
def updObj (p tag : Nat) : Nat := p + 2 ^ 16 * tag

/-- The update of a partition and tag on a Blocker. -/
def findUpd (s : State) (b p tag : Nat) : Option Upd := s.upds.find? (fun u => u.blk == b && u.part == p && uTag u == tag)

/-- UPDATE: descriptor i, of KIND 0x4 or of a reserved KIND, checked and queued (R249, R251, Table 11.1). -/
def execUpdate (i : Nat) (s : State) : Host.Outcome State Fault Refusal :=
  .next (match descAt s i with
    | some x =>
      let k := gKind x
      if 1 ≤ k ∧ k ≤ 3 ∨ k = 5 then s
      else
        let s1 := { s with descs := s.descs.eraseIdx i }
        match partOfTile s x.tile with
        | none => s1
        | some p =>
          let d := x.data
          if k ≠ 4 || x.addr % 32 != 0 || updateBad d || updateShardBad s x.blk p d || (findUpd s x.blk p (dB d 64 16)).isSome then
            descRefuse x 0x021B (updObj p (dB d 64 16)) (dSrc x) s1
          else if 16 ≤ (s.upds.filter (fun u => u.blk == x.blk && u.part == p)).length then
            descRefuse x 0x021C (updObj p (dB d 64 16)) (dSrc x) s1
          else { s1 with upds := s1.upds ++
            [⟨x.blk, p, x.tile, d, 0, 0, 0, 0, 0, false, one32, one32, 0, one32, List.replicate 64 0, List.replicate 64 0, [], false, false, 0⟩] }
    | none => s)

/-! ### The end of an update -/

/-- STEP in the layer header as memory holds it; a refused read returns zero and raises ADDR_WINDOW (R22). -/
def headerStep (b p d : Nat) (s : State) : Nat × State :=
  match firstRefused s p (uMom d) 16 false with
  | some x => (0, unitRefused (.blocker b) (nodeBlocker b) p x s)
  | none => unitRead 2 (nodeBlocker b) (some p) none (uMom d) 4 s

/-- An update leaves its Blocker with its completion record (R261, Table 11.6); one that is DONE has written STEP itself. -/
def finishUpd (u : Upd) (status : Nat) (s : State) : State :=
  let s0 : State := { s with upds := s.upds.filter (fun x => !(x.blk == u.blk && x.part == u.part && uTag x == uTag u)) }
  let r := if status = 1 then (u.step, s0) else headerStep u.blk u.part u.d s0
  let gen := if uEmits u then currentGen s u.blk (uEntry u) else 0
  let v := status + 2 ^ 4 * u.pass + 2 ^ 16 * uTag u + 2 ^ 32 * (u.block % 2 ^ 32) + 2 ^ 64 * r.1 + 2 ^ 96 * gen
  match firstRefused s u.part (uStat u.d) 16 true with
  | some x => unitRefused (.blocker u.blk) (nodeBlocker u.blk) u.part x r.2
  | none => unitRecord (nodeBlocker u.blk) u.part (uStat u.d) v (uSig u.d) (dB u.d 32 14) r.2

/-- Whether a write of the active update of Blocker b is still on its way. -/
def updSends (s : State) (b : Nat) : Bool := s.net.any (fun q => q.src == nodeBlocker b && q.who == 9)

/-- An update replaced by its new version. -/
def putUpd (u : Upd) (s : State) : State :=
  { s with upds := s.upds.map (fun x => if x.blk = u.blk ∧ x.part = u.part ∧ uTag x = uTag u then u else x) }

/-- An update ends: its record follows at once, or once every write of the update is visible (R261). -/
def endUpd (u : Upd) (status : Nat) (s : State) : State :=
  if 0 < u.pass ∧ updSends s u.blk = true then putUpd { u with fin := status } s else finishUpd u status s

/-- A record of a Blocker about an update (R264). -/
def updRec (s : State) (u : Upd) (code : Nat) (trap : Bool) : ErrRec :=
  partRec s u.part code trap (updObj u.part (uTag u)) u.tile

/-- An update stopped by a refused access (R258). -/
def updWindow (u : Upd) (x : Nat) (s : State) : State :=
  endUpd u 3 (unitRefused (.blocker u.blk) (nodeBlocker u.blk) u.part x s)

/-- The copies written in pass 3, forward first: false for the forward copy (Table 11.5). -/
def pass3 (d : Nat) : List Bool :=
  (if uEmitF d && uFmt d == 5 then [false] else []) ++ (if uEmitT d then [true] else [])

/-- The blocks of the current pass. -/
def passBlocks (u : Upd) : Nat := uElems u.d / 256 * (if u.pass = 3 then (pass3 u.d).length else 1)

/-- Whether an update's completion, or its end, is already registered: its last master write accepted where it emits no
copy, else the publication (R261, R262). -/
def updEnded (u : Upd) : Bool :=
  u.fin != 0 || (!(uEmits u) && u.pass == 2 && decide (passBlocks u ≤ u.block))

/-- An abort of a partition's update by tag; `who` is the node that asked (R262). -/
def abortUpd (b p tag who : Nat) (s : State) : State :=
  match (findUpd s b p tag).filter (fun u => !(updEnded u)) with
  | some u => endUpd u 2 s
  | none => raise (.blocker b) (partRec s p 0x0505 false (updObj p tag) who) s

/-- ABORT: descriptor i, of KIND 0x5. -/
def execAbort (i : Nat) (s : State) : Host.Outcome State Fault Refusal :=
  .next (match descAt s i with
    | some x =>
      if gKind x ≠ 5 then s
      else
        let s1 := { s with descs := s.descs.eraseIdx i }
        let tag := bitsOf x.data 16 16
        match partOfTile s x.tile with
        | none => s1
        | some p =>
          if x.addr % 32 ≠ 0 ∨ x.data ≠ 5 + 2 ^ 16 * tag then descRefuse x 0x021B (updObj p tag) (dSrc x) s1
          else abortUpd x.blk p tag x.tile s1
    | none => s)

/-- BLK_ABORT_GO: a write of BLK_ABORT with GO 1 (R262, Table 11.9). -/
def execBlkAbortGo (rq : Requester) (b : Nat) (v : W32) (s : State) : Host.Outcome State Fault Refusal :=
  .next (if bitsOf v.toNat 15 1 = 0 ∨ 12 ≤ b then s
    else busCmd rq BLK_ABORT_GO b 0 v (fun _ s => abortUpd b (bitsOf v.toNat 0 4) (bitsOf v.toNat 16 16) (reqNode rq) s) s)

/-! ### The start of an update (R250, R253) -/

/-- Fields of a group entry (Table 11.4). -/
def geLR (g : Nat) : Nat := bitsOf g 0 32
def geB1 (g : Nat) : Nat := bitsOf g 32 32
def geB2 (g : Nat) : Nat := bitsOf g 64 32
def geEPS (g : Nat) : Nat := bitsOf g 96 32
def geWD (g : Nat) : Nat := bitsOf g 128 32
def geCLIP (g : Nat) : Nat := bitsOf g 160 32
def geTRMAX (g : Nat) : Nat := bitsOf g 192 32
def geTren (g : Nat) : Bool := bitsOf g 224 1 == 1
def geBcoff (g : Nat) : Bool := bitsOf g 225 1 == 1

/-- Whether a code is a finite number that is not negative. -/
def finNonNeg (c : Nat) : Bool := match val32 c with | .fin d => d.m == 0 || !d.neg | _ => false

/-- Whether a code is a number in [0, 1). -/
def inUnit (c : Nat) : Bool := finNonNeg c && ((fcmpLt (val32 c) oneF).1)

/-- Whether a code is a normal number. -/
def isNormal32 (c : Nat) : Bool := let e := bitsOf c 23 8; e != 0 && e != 255

/-- Whether a group entry is invalid for exponent λ (R253). -/
def groupBad (g : Nat) (lam : Int) : Bool :=
  bitsOf (geLR g) 23 8 == 255 || !(isNormal32 (mulC (geLR g) (pow2C lam))) ||
  !(inUnit (geB1 g)) || !(inUnit (geB2 g)) || !(finNonNeg (geEPS g)) || !(finNonNeg (geWD g)) || !(finNonNeg (geTRMAX g)) ||
  bitsOf g 226 30 != 0

/-- The lines of `start` in R254: t, MATURE, k1, k2, rs and fac of an update whose group entry and header are read. -/
def updStart (u : Upd) (ge hdr key : Nat) : Upd :=
  let t := (bitsOf hdr 0 32 + 1) % 2 ^ 32
  let late := decide (2 ^ 24 < t)
  let mat := bitsOf hdr 32 1 == 1
  let plain := mat || geBcoff ge || late
  let k : Nat → Nat := fun b => if plain then one32 else div32 one32 (subC one32 (pow32 b t))
  let lam := uLam u.d
  { u with
    pass := if geTren ge then 1 else 2, block := 0, ge := ge, step := t, key := key, mature := mat || late
    k1 := k (geB1 ge), k2 := k (geB2 ge), rs := mulC (geLR ge) (pow2C lam)
    fac := pow2C (lam - (BitVec.ofNat 7 (bitsOf hdr 40 7)).toInt) }

/-- The address of a partition's group table at a Blocker. -/
def groupTable (s : State) (b p : Nat) : Nat := rd s BLK_GTAB_LO_BASE b p * 2 ^ 5 + 2 ^ 32 * rd s BLK_GTAB_HI_BASE b p

/-- A read of an update: its data, with a word that the code gave up raised (R136, R297). -/
def updRead (u : Upd) (ue : Option Nat) (a n : Nat) (s : State) : Nat × State :=
  let r := unitRead 2 (nodeBlocker u.blk) (some u.part) ue a n s
  (r.1, match metUe s ue a n with | some x => unitErr (nodeBlocker u.blk) (some u.part) x r.2 | none => r.2)

/-- Whether a read meets an uncorrectable burst of stack memory, which fails its update (R297). -/
def fails (s : State) (ue : Option Nat) (a n : Nat) : Bool :=
  match metUe s ue a n with | some x => (match target s x with | .stack _ => true | _ => false) | none => false

/-- Update u reads its layer header and begins; `ge` is its group entry. -/
def beginUpd (u : Upd) (ge : Nat) (ue : Option Nat) (s : State) : State :=
  match firstRefused s u.part (uMom u.d) 256 false with
  | some x => updWindow u x s
  | none =>
    let h := updRead u ue (uMom u.d) 256 s
    if fails s ue (uMom u.d) 256 then endUpd u 3 h.2
    else putUpd (updStart u ge h.1 (rd s CRS_SEED_LO_SEEDLO u.part 0 + 2 ^ 32 * rd s CRS_SEED_HI_SEEDHI u.part 0)) h.2

/-- Blocker b, with no update active, starts its oldest eligible one (R250). -/
def startUpd (b : Nat) (ue : Option Nat) (ce : List (Nat × Nat)) (s : State) : State :=
  if (activeUpd s b).isSome then s
  else match s.upds.find? (fun u => u.blk == b && !(ineligible s u)) with
    | none => s
    | some u =>
      let a := groupTable s b u.part + 32 * dB u.d 8 8
      match firstRefused s u.part a 32 false with
      | some x => updWindow u x s
      | none =>
        let r := updRead u ue a 32 s
        let s1 := countCe ce [(a, 32), (uMom u.d, 256)] r.2
        if fails s ue a 32 then endUpd u 3 s1
        else if groupBad r.1 (uLam u.d) then endUpd u 3 (castBranch (some u.part) (.blocker b) (updRec s u 0x0502 true) s1)
        else beginUpd u r.1 ue s1

/-- UPDATE_START: the Blocker's oldest eligible descriptor. -/
def execUpdateStart (u : UpdateReads) (s : State) : Host.Outcome State Fault Refusal :=
  .next (takenWhole (startUpd u.blk u.out.ue u.out.ce) s)

/-! ### One block of a pass (R254, R256 to R260) -/

/-- The size of a master or remainder element. -/
def masterSize (d : Nat) : Nat := if uBf d then 2 else 4

/-- Addresses of the arrays of Table 11.3 at element i. -/
def wAddr (d i : Nat) : Nat := uMaddr d + masterSize d * i
def cAddr (d i : Nat) : Nat := uMaddr d + masterSize d * (uElems d + i)
def mAddr (d i : Nat) : Nat := uMom d + 256 + 4 * i
def vAddr (d i : Nat) : Nat := uMom d + 256 + 4 * uElems d + 4 * i

/-- Element i of an array of master elements read as `v`, as an FP32 code. -/
def masterElem (bf : Bool) (v i : Nat) : Nat := if bf then 2 ^ 16 * bitsOf v (16 * i) 16 else bitsOf v (32 * i) 32

/-- Master elements as bytes. -/
def masterBytes (bf : Bool) (ws : List Nat) : Nat := if bf then packN 16 (ws.map (· / 2 ^ 16)) else packN 32 ws

/-- The 256 elements of an array, from its bytes. -/
def words256 (v : Nat) : List Nat := (List.range 256).map (fun i => bitsOf v (32 * i) 32)

/-- The parameters of an update's steps. -/
def stepPar (u : Upd) : StepPar :=
  ⟨uBf u.d, geB1 u.ge, geB2 u.ge, geEPS u.ge, geWD u.ge, geCLIP u.ge, dB u.d 320 32, uLam u.d, u.k1, u.k2, u.rs, u.fac⟩

/-- The index of element (k, n) (R252). -/
def elemIndex (d k n : Nat) : Nat :=
  let tk := uTK d
  (n / 64 * (uK d / tk) + k / tk) * (tk * 64) + n % 64 * tk + k % tk

/-- The forward element (k, n) at index i (R252). -/
def elemAt (d i : Nat) : Nat × Nat :=
  let tk := uTK d
  let img := i / (tk * 64)
  let r := i % (tk * 64)
  (img % (uK d / tk) * tk + r % tk, img / (uK d / tk) * 64 + r / tk)

/-- The forward element at place x of the transposed copy (Table 11.5). -/
def transAt (d x : Nat) : Nat × Nat :=
  let tk := imageTK (uFmt d)
  let img := x / (tk * 64)
  let r := x % (tk * 64)
  (img / (uN d / tk) * 64 + r / tk, img % (uN d / tk) * tk + r % tk)

/-- Whether a block of the current pass is written into the slot. -/
def emitsNow (u : Upd) : Bool := u.pass == 3 || (u.pass == 2 && uEmitF u.d && uFmt u.d != 5)

/-- The pieces of an image that 256 converted elements from place r of an image fill: offset, size and bytes; and their
report (Table 4.2, R259). -/
def emitPieces (fmt : Nat) (pol : GaugePol) (scale : Nat) (draw : Nat → Nat) (r : Nat) (ws : List Nat) :
    List (Nat × Nat × Nat) × GaugeRep :=
  let rnd : Nat → Nat → Rnd := fun b i => .stochastic (draw (32 * b + i))
  let vals := ws.map val32
  let blk : Nat → List FVal := fun b => (vals.drop (32 * b)).take 32
  if fmt = 4 then
    let bs := (List.range 8).map (fun b => gaugeZ4 pol (rnd b) b (blk b))
    ([(r / 2, 128, packN 128 (bs.map (fun z => packN 4 z.1.codes))), (0x1000 + r / 8, 32, packN 32 (bs.map (fun z => z4ScaleWord z.1))),
      (0x1400 + r / 8, 32, packN 32 (bs.map (fun z => z4PicotWord z.1)))], bs.foldl (fun a z => gaugeRepAdd a z.2) gaugeRepNone)
  else
    let bs := (List.range 8).map (fun b => narrow32 fmt pol scale (rnd b) b (blk b))
    let rep := bs.foldl (fun a z => gaugeRepAdd a z.2) gaugeRepNone
    if fmt = 5 then
      let digits := packN 64 (bs.map (·.1))
      let trits := packN 8 ((List.range 52).map (fun k =>
        (List.range 5).foldl (fun a j => a + (if 5 * k + j < 256 then bitsOf digits (2 * (5 * k + j)) 2 else 0) * 3 ^ j) 0))
      ([(r / 256 * 64, 64, trits + 2 ^ 416 * scale)], rep)
    else
      let n := if fmt = 1 then 2 else 1
      ([(n * r, 256 * n, packN (256 * n) (bs.map (·.1)))], rep)

/-- The counters of emission (R259). -/
def blkGauge (b : Nat) (r : GaugeRep) (s : State) : State :=
  let s1 := incS s BLK_GSAT_GSAT BLK_STATUS_SGSAT b 0 r.sat
  let s2 := incS s1 BLK_GPICOT_GPICOT BLK_STATUS_SGPICOT b 0 r.picots
  let s3 := incS s2 BLK_GESC_GESC BLK_STATUS_SGESC b 0 r.escs
  incS s3 BLK_GNAN_GNAN BLK_STATUS_SGNAN b 0 r.nans

/-- UPD_GAUGE_ESC for each escape block, under the partition's policy (R259). -/
def updEscapes (u : Upd) : Nat → State → State
  | 0, s => s
  | n + 1, s =>
    let pol := rd s CRS_XPOL_GAUGE u.part 0
    updEscapes u n (if pol = 0 then s
      else if pol = 1 then raise (.blocker u.blk) (updRec s u 0x0504 false) s
      else castBranch (some u.part) (.blocker u.blk) (updRec s u 0x0504 true) s)

/-- What a block of 256 elements puts into the slot: copy `trans`, block j of that copy. -/
def emission (u : Upd) (trans : Bool) (j : Nat) (ws : List Nat) (s : State) : List (Nat × Nat × Nat) × GaugeRep :=
  let d := u.d
  let fmt := uFmt d
  let per := 64 * imageTK fmt
  let x := 256 * j
  let slot := slotBase s u.blk (uEntry u) (1 - rd s BLK_SH_CTL_CURSLOT u.blk (uEntry u))
  let base := slot + (if trans then copyOffT d else 0) + x / per * imageSize fmt
  let count := mapGet 0 s.blkRng (u.blk * 16 + u.part)
  let draw : Nat → Nat := fun i =>
    bitsOf (mix128 (BitVec.ofNat 32 u.key) (BitVec.ofNat 32 (u.key / 2 ^ 32))
      ((count + i / 8) % 2 ^ 116 + 2 ^ 116 * (0x900 + u.blk))) (16 * (i % 8)) 16
  let out := if trans then (transAt d x).1 else (elemAt d x).2
  let scale := meanScale (mapGet (0, false, false) u.sums (if trans then 2 ^ 20 + out else out)) (if trans then uN d else uK d)
  let r := emitPieces fmt ⟨rdB s CRS_XPOL_PICOT u.part 0, rdB s CRS_XPOL_OUTLIER u.part 0, a1Of s (some u.part), none⟩
    (if fmt = 5 then scale else 0) draw (x % per) ws
  (r.1.map (fun p => (base + p.1, p.2)), r.2)

/-- The writes of an emission made, the generator's values reserved, and its gauge events counted and reported. -/
def emitInto (u : Upd) (e : List (Nat × Nat × Nat) × GaugeRep) (s : State) : State :=
  let k := u.blk * 16 + u.part
  let s1 := e.1.foldl (fun s p => unitWrite 2 (nodeBlocker u.blk) u.part p.1 p.2.1 p.2.2 s) s
  let s2 := { s1 with blkRng := mapSet 0 s1.blkRng k ((mapGet 0 s1.blkRng k + 32) % 2 ^ 116) }
  updEscapes u e.2.escs (blkGauge u.blk e.2 s2)

/-- The first refused 16-byte unit of a list of accesses. -/
def firstOf (s : State) (p : Nat) : List (Nat × Nat × Bool) → Option Nat
  | [] => none
  | (a, n, w) :: rest => match firstRefused s p (a - a % 16) (n + a % 16) w with | some x => some x | none => firstOf s p rest

/-- The gradients and moments of block j: read, and stepped as pass 1 lays down; g before clipping beside them. -/
def readMoments (u : Upd) (j : Nat) (ue : Option Nat) (s : State) : List Nat × List (Nat × Nat) × State :=
  let d := u.d
  let q := stepPar u
  let rg := (List.range (uNg d)).foldl (fun (acc : List (List Nat) × State) k =>
    let r := updRead u ue (uG d k + 1024 * j) 1024 acc.2; (acc.1 ++ [words256 r.1], r.2)) ([], s)
  let m := updRead u ue (mAddr d (256 * j)) 1024 rg.2
  let v := updRead u ue (vAddr d (256 * j)) 1024 m.2
  let gs := (List.range 256).map (fun i => gradOf q (rg.1.map (fun l => l.getD i 0)))
  (gs, (List.range 256).map (fun i => moments q (gradClip q (gs.getD i 0)) ((words256 m.1).getD i 0) ((words256 v.1).getD i 0)), v.2)

/-- The moments of block j as they stand, for a pass that does not step them. -/
def oldMoments (u : Upd) (j : Nat) (ue : Option Nat) (s : State) : List (Nat × Nat) × State :=
  let m := updRead u ue (mAddr u.d (256 * j)) 1024 s
  let v := updRead u ue (vAddr u.d (256 * j)) 1024 m.2
  ((words256 m.1).zip (words256 v.1), v.2)

/-- The report of non-finite gradients of a block (R256): the state after it, and whether the update stops. -/
def nonFinCheck (u : Upd) (gs : List Nat) (s : State) : State × Upd × Bool :=
  let k := (gs.filter nonFinite).length
  let pol := rd s CRS_XPOL_NAN u.part 0
  let s1 := incS s BLK_NONFIN_NONFIN BLK_STATUS_SNONFIN u.blk 0 k
  if k = 0 || pol = 0 then (s1, u, false)
  else if pol = 1 then
    (if u.nonfin then s1 else raise (.blocker u.blk) (updRec s u 0x0503 false) s1, { u with nonfin := true }, false)
  else (castBranch (some u.part) (.blocker u.blk) (updRec s u 0x0503 true) s1, u, true)

/-- Sums of 64 places with a value per element added, element i to place i mod 64 (R254). -/
def addSums (f : Nat → Nat → Nat) (sums : List Nat) : List Nat :=
  (List.range 64).map (fun l => (List.range 4).foldl (fun a k => f (64 * k + l) a) (sums.getD l 0))

/-- The accesses of a block of pass 1 or 2 (R258). -/
def blockAccesses (u : Upd) (j : Nat) (em : List (Nat × Nat × Nat)) : List (Nat × Nat × Bool) :=
  let d := u.d
  let i := 256 * j
  let n := 256 * masterSize d
  let grads := u.pass == 1 || !(geTren u.ge)
  (if grads then (List.range (uNg d)).map (fun k => (uG d k + 1024 * j, 1024, false)) else []) ++
  [(mAddr d i, 1024, false), (vAddr d i, 1024, false), (wAddr d i, n, false)] ++
  (if u.pass == 2 then [(cAddr d i, n, false)] else []) ++
  (if grads then [(mAddr d i, 1024, true), (vAddr d i, 1024, true)] else []) ++
  (if u.pass == 2 then [(cAddr d i, n, true), (wAddr d i, n, true)] else []) ++ em.map (fun e => (e.1, e.2.1, true))

/-- The update after a block: the next block, or the first of the next pass. -/
def nextBlock (u : Upd) : Upd :=
  let u1 := { u with block := u.block + 1 }
  if u1.block < passBlocks u1 then u1
  else if u.pass = 1 then { u1 with pass := 2, block := 0, rs := trust u.rs (geTRMAX u.ge) u.sw u.su }
  else if u.pass = 2 && !((pass3 u.d).isEmpty) then { u1 with pass := 3, block := 0 }
  else u1

/-- A block of pass 1 (R254). -/
def blockPass1 (u : Upd) (ue : Option Nat) (s : State) : State :=
  let d := u.d
  let j := u.block
  let q := stepPar u
  match firstOf s u.part (blockAccesses u j []) with
  | some x => updWindow u x s
  | none =>
    let r := readMoments u j ue s
    let w := updRead u ue (wAddr d (256 * j)) (256 * masterSize d) r.2.2
    let node := nodeBlocker u.blk
    let s1 := unitWrite 2 node u.part (mAddr d (256 * j)) 1024 (packN 32 (r.2.1.map (·.1))) w.2
    let s2 := unitWrite 2 node u.part (vAddr d (256 * j)) 1024 (packN 32 (r.2.1.map (·.2))) s1
    let wi : Nat → Nat := fun i => masterElem q.bf w.1 i
    let ui : Nat → Nat := fun i => let mv := r.2.1.getD i (0, 0); updTerm q mv.1 mv.2 (wi i)
    let c := nonFinCheck u r.1 s2
    let u1 := { c.2.1 with
      sw := addSums (fun i a => fmaC (wi i) (wi i) a) u.sw
      su := addSums (fun i a => fmaC (ui i) (ui i) a) u.su }
    if c.2.2 then endUpd { u1 with block := j + 1 } 3 c.1 else putUpd (nextBlock u1) c.1

/-- A block of pass 2 (R254), with its part of the forward copy. -/
def blockPass2 (u : Upd) (ue : Option Nat) (s : State) : State :=
  let d := u.d
  let j := u.block
  let q := stepPar u
  let grads := !(geTren u.ge)
  let n := 256 * masterSize d
  let r := if grads then readMoments u j ue s else ([], oldMoments u j ue s)
  let mv := r.2.1
  let w := updRead u ue (wAddr d (256 * j)) n r.2.2
  let c := updRead u ue (cAddr d (256 * j)) n w.2
  let out := (List.range 256).map (fun i =>
    masterStep q (mv.getD i (0, 0)).1 (mv.getD i (0, 0)).2 (masterElem q.bf w.1 i) (masterElem q.bf c.1 i))
  let ws := out.map (·.1)
  let em := if emitsNow u then emission u false j ws s else ([], gaugeRepNone)
  match firstOf s u.part (blockAccesses u j em.1) with
  | some x => updWindow u x s
  | none =>
    let node := nodeBlocker u.blk
    let put : Nat → Nat → Nat → State → State := fun a k v s => unitWrite 2 node u.part a k v s
    let s0 := if grads then
        put (vAddr d (256 * j)) 1024 (packN 32 (mv.map (·.2))) (put (mAddr d (256 * j)) 1024 (packN 32 (mv.map (·.1))) c.2)
      else c.2
    let s1 := put (wAddr d (256 * j)) n (masterBytes q.bf ws) (put (cAddr d (256 * j)) n (masterBytes q.bf (out.map (·.2))) s0)
    let s2 := if emitsNow u then emitInto u em s1 else s1
    let k := if grads then nonFinCheck u r.1 s2 else (s2, u, false)
    let sums := if uFmt d = 5 && uEmits u then
        (List.range 256).foldl (fun m i =>
          let e := elemAt d (256 * j + i)
          let x := ws.getD i 0
          let m1 := mapIns m e.2 (addAbs (mapGet (0, false, false) m e.2) x)
          mapIns m1 (2 ^ 20 + e.1) (addAbs (mapGet (0, false, false) m1 (2 ^ 20 + e.1)) x)) u.sums
      else u.sums
    let u1 := { k.2.1 with sums := sums }
    let s3 := incM k.1 BLK_BLOCKS_LO_BLOCKS BLK_BLOCKS_HI_BLOCKS u.blk 0 1
    if k.2.2 then endUpd { u1 with block := j + 1 } 3 s3 else putUpd (nextBlock u1) s3

/-- A block of pass 3 (Table 11.5). -/
def blockPass3 (u : Upd) (ue : Option Nat) (s : State) : State :=
  let d := u.d
  let per := uElems d / 256
  let trans := (pass3 d).getD (u.block / per) false
  let j := u.block % per
  let idx : List Nat := (List.range 256).map (fun i =>
    if trans then (let e := transAt d (256 * j + i); elemIndex d e.1 e.2) else 256 * j + i)
  let r := idx.foldl (fun (acc : List Nat × State) i =>
    let w := updRead u ue (wAddr d i) (masterSize d) acc.2; (acc.1 ++ [masterElem (uBf d) w.1 0], w.2)) ([], s)
  let em := emission u trans j r.1 s
  match firstOf s u.part (idx.map (fun i => (wAddr d i, masterSize d, false)) ++ em.1.map (fun e => (e.1, e.2.1, true))) with
  | some x => updWindow u x s
  | none => putUpd (nextBlock u) (emitInto u em r.2)

/-- The first block written into a slot clears the slot's validity bit (R238). -/
def beginSlot (u : Upd) (s : State) : State :=
  wr s (if rd s BLK_SH_CTL_CURSLOT u.blk (uEntry u) = 0 then BLK_SH_CTL_SV1 else BLK_SH_CTL_SV0) u.blk (uEntry u) 0

/-- The reads of the update's next block. -/
def blockReads (u : Upd) : List (Nat × Nat) :=
  let accs : List (Nat × Nat × Bool) := if u.pass = 3 then [(wAddr u.d 0, masterSize u.d * uElems u.d, false)] else blockAccesses u u.block []
  (accs.filter (fun a => !a.2.2)).map (fun a => (a.1, a.2.1))

/-- The next 256-element block of Blocker b's active update; a block that would be the first to write a held slot waits
(R237). -/
def blockUpd (b : Nat) (ue : Option Nat) (ce : List (Nat × Nat)) (s : State) : State :=
  match activeUpd s b with
  | none => s
  | some u0 =>
    if u0.fin ≠ 0 ∨ passBlocks u0 ≤ u0.block then s
    else if emitsNow u0 && updWaits s u0 then s
    else
      let first := emitsNow u0 && !u0.writing
      let u := if first then { u0 with writing := true } else u0
      let s0 := if first then putUpd u (beginSlot u s) else s
      let s1 := countCe ce (blockReads u) s0
      match (blockReads u).find? (fun r => fails s ue r.1 r.2), ue with
      | some _, some x => endUpd u 3 (unitErr (nodeBlocker b) (some u.part) x s1)
      | _, _ =>
        match u.pass with
        | 1 => blockPass1 u ue s1
        | 2 => blockPass2 u ue s1
        | _ => blockPass3 u ue s1

/-- UPDATE_BLOCK: the next block of the update; an uncorrectable word fails it where it lies in stack memory (R136, R297). -/
def execUpdateBlock (b : Nat) (out : ReadOut) (s : State) : Host.Outcome State Fault Refusal :=
  .next (takenWhole (blockUpd b out.ue out.ce) s)

/-! ### Completion (R235, R236, R261) -/

/-- Publication of a shard's next generation in its other slot. -/
def publish (b e : Nat) (s : State) : State :=
  let cur := rd s BLK_SH_CTL_CURSLOT b e
  let old := currentGen s b e
  let own := rd s BLK_SH_CTL_PART b e
  let s1 := { s with inForce := (List.range 16).foldl (fun m q =>
    if mapGet false s.parts q && q != own && mapGet 0 m (forceKey b e q) == 0 then mapSet 0 m (forceKey b e q) (old + 1) else m) s.inForce }
  let s2 := if cur = 0 then wr (wr s1 BLK_SH_GEN1_GEN1 b e (old + 1)) BLK_SH_CTL_SV1 b e 1
    else wr (wr s1 BLK_SH_GEN0_GEN0 b e (old + 1)) BLK_SH_CTL_SV0 b e 1
  wr s2 BLK_SH_CTL_CURSLOT b e (1 - cur)

/-- The layer header after an update (Table 11.3, R254). -/
def headerBytes (u : Upd) : Nat := u.step + 2 ^ 32 * (if u.mature then 1 else 0) + 2 ^ 40 * (dB u.d 46 7)

/-- Blocker b's active update, whose last block is written, completes: publication, header and record; one that has ended
gets its record when its writes are visible. -/
def completeUpd (b : Nat) (s : State) : State :=
  match activeUpd s b with
  | none => s
  | some u =>
    if u.fin ≠ 0 then (if updSends s b then s else finishUpd u u.fin s)
    else if u.pass = 1 ∨ u.block < passBlocks u then s
    else
      let s1 := if uEmits u then publish b (uEntry u) s else s
      match firstRefused s1 u.part (uMom u.d) 256 true with
      | some x => updWindow u x s1
      | none =>
        endUpd u 1 (incM (unitWrite 2 (nodeBlocker b) u.part (uMom u.d) 256 (headerBytes u) s1) BLK_UPD_LO_UPD BLK_UPD_HI_UPD b 0 1)

/-- UPDATE_COMPLETE. -/
def execUpdateComplete (b : Nat) (s : State) : Host.Outcome State Fault Refusal := .next (takenWhole (completeUpd b) s)

end Sys2Proof.Machine
end

