-- ==== Sys2Proof/Machine/Skein.lean ====
section
/-! DEFINITION. Sequence contexts (`12_sequence_contexts.md`): the skein table, KV pages, decode batches, returns, output
and eviction (R265 to R283), and the rollout rings they write (R350). -/

namespace Sys2Proof.Machine

/-! ### Entries (Table 12.1, R265, R380) -/

/-- A skein's entry as a number, byte 0 least significant. -/
def skein (s : State) (k : Nat) : Nat := (mapGet 0 s.skeins k).toNat

/-- n bytes of an entry from byte i on. -/
def eB (e i n : Nat) : Nat := bitsOf e (8 * i) (8 * n)

/-- n bytes of an entry replaced. -/
def eSet (i n v e : Nat) : Nat := e - eB e i n * 2 ^ (8 * i) + v % 2 ^ (8 * n) * 2 ^ (8 * i)

/-- Bits of an entry's byte 0 or 1 replaced: n bits from bit lo on. -/
def eBits (lo n v e : Nat) : Nat := e - bitsOf e lo n * 2 ^ lo + v % 2 ^ n * 2 ^ lo

def kFree : Nat := 0
def kPrefill : Nat := 1
def kReady : Nat := 2
def kBatched : Nat := 3
def kStashing : Nat := 4
def kStashed : Nat := 5
def kRestoring : Nat := 6
def kEmitting : Nat := 7

def eState (e : Nat) : Nat := bitsOf e 0 4
def ePart (e : Nat) : Nat := bitsOf e 4 4
def ePhase (e : Nat) : Nat := bitsOf e 8 1
def eReason (e : Nat) : Nat := bitsOf e 9 4
def eTcount (e : Nat) : Nat := eB e 4 4
def ePlen (e : Nat) : Nat := eB e 12 4
def eKvroot (e : Nat) : Nat := eB e 16 6
def ePtlen (e : Nat) : Nat := eB e 22 2
def eTlast (e : Nat) : Nat := eB e 108 4

/-- The bytes copied to the spill region of stack k (R380, Table 13.3). -/
def spillKey (k skn : Nat) : Nat := 2 ^ 52 + 2 ^ 31 * (k * 32) + 0x78000000 + 0x4800000 + skn * 128

/-- n bytes of a number put into a sparse store from a key on. -/
def putMap : Nat → Nat → Nat → SMap Byte → SMap Byte
  | _, 0, _, m => m
  | k, n + 1, v, m => putMap (k + 1) n (v / 256) (mapSet 0 m k (BitVec.ofNat 8 v))

/-- A skein entry written, with its spill copies and its mirror (R328, R380). -/
def setSkein (k e : Nat) (s : State) : State :=
  let s1 := { s with skeins := mapSet 0 s.skeins k (BitVec.ofNat 1024 e) }
  let s2 := if s.spilling then { s1 with mem := putMap (spillKey 6 k) 128 e (putMap (spillKey 0 k) 128 e s1.mem) } else s1
  if s.mirroring then { s2 with mirrorQ := s2.mirrorQ ++ [(k * 128, 128, e)] } else s2

/-- A skein ends with a reason (Table 12.2). -/
def endSkein (k reason : Nat) (s : State) : State := setSkein k (eBits 9 4 reason (eBits 0 4 kEmitting (skein s k))) s

/-- The state of a skein set. -/
def setState (k st : Nat) (s : State) : State := setSkein k (eBits 0 4 st (skein s k)) s

/-- The state that a skein out of a batch returns to (Table 12.2). -/
def unbatched (e : Nat) : Nat := if eTcount e = 0 then kPrefill else kReady

/-- The skeins of a partition (SKN_RANGE). -/
def skeinsOf (s : State) (p : Nat) : List Nat := (List.range (rd s SKN_RANGE_COUNT 0 p)).map (· + rd s SKN_RANGE_FIRST 0 p)

/-- The partition in whose range a skein lies. -/
def skeinOwner (s : State) (k : Nat) : Option Nat :=
  (List.range 16).find? (fun p => mapGet false s.parts p &&
    decide (rd s SKN_RANGE_FIRST 0 p ≤ k ∧ k < rd s SKN_RANGE_FIRST 0 p + rd s SKN_RANGE_COUNT 0 p))

/-- ADDR_WINDOW of the skein unit: the skein ends with FAULT (R275). -/
def skeinRefused (k p x : Nat) (s : State) : State := endSkein k 5 (unitRefused .skein nodeSkein p x s)

/-- A skein error (R283). -/
def skeinRec (s : State) (p code : Nat) (trap : Bool) (k slot : Nat) : ErrRec := partRec s p code trap (k + 2 ^ 16 * p) slot

/-- The skein unit's reads of n bytes at an address for partition p enter their queues, in class 0 (R293). -/
def skAsk (p a n : Nat) (s : State) : State := unitAccept false 0 nodeSkein (some p) a n s

/-- n bytes written by the skein unit for partition p. -/
def skPut (p a n v : Nat) (s : State) : State := unitWrite 0 nodeSkein p a n v s

/-- The bytes that a DMA engine has written (Table 15.10). -/
def countBytes (e n : Nat) (s : State) : State := incM s PCI_DMA_BYTES_LO_BYTES PCI_DMA_BYTES_HI_BYTES 0 e n

/-- n bytes at module address a copied to host address h by the DMA engine that partition p's skeins use, in class 3 (R276,
R280, R293). -/
def copyOut (p a n h : Nat) (s : State) : State :=
  let e := rd s SKN_KVCFG_DMAE 0 p
  countBytes e n (postHost (p + 1) 2 h n (rdLE s a n) (unitAccept false 3 (nodeDma e) (some p) a n s))

/-! ### The free pool (R269) -/

def poolBase (s : State) (p : Nat) : Nat := 2 ^ 16 * rd s SKN_POOL_LO_BASE 0 p + 2 ^ 32 * rd s SKN_POOL_HI_BASE 0 p
def freePg (s : State) (p : Nat) : Nat := rd s SKN_FREEPG_FREE 0 p
def kvtok (s : State) (p : Nat) : Nat := rd s SKN_KVCFG_KVTOK 0 p
def kvpg (s : State) (p : Nat) : Nat := rd s SKN_KVCFG_KVPG 0 p

/-- The top n indices of the free stack, the top one first. -/
def topPages (s : State) (p n : Nat) : List Nat :=
  (List.range n).map (fun i => rdLE s (poolBase s p + 4 * (freePg s p - 1 - i)) 4)

/-- A page-table entry of a page in the stacks (R269). -/
def pte (s : State) (p page : Nat) : Nat := 1 + 2 ^ 16 * ((poolBase s p + 2 ^ 16 * page) / 2 ^ 16)

/-- Page-table entry j of a skein. -/
def ptEntry (s : State) (e j : Nat) : Nat := rdLE s (eKvroot e + 8 * j) 8

/-- A page index pushed on the free stack; a refused write changes nothing and raises ADDR_WINDOW (R22). -/
def pushPage (p page : Nat) (s : State) : State :=
  let a := poolBase s p + 4 * freePg s p
  match firstOf s p [(a, 4, true)] with
  | some x => unitRefused .skein nodeSkein p x s
  | none => wr (skPut p a 4 page s) SKN_FREEPG_FREE 0 p (freePg s p + 1)

/-- What an allocation gives: the state with the pages popped and their entries written, or why there is none. -/
inductive Alloc where
  | ok (s : State)
  | noPage
  | bad (s : State)
  | refused (x : Nat)

/-- n pages popped for page-table entries j to j + n − 1 of an entry (R269). -/
def allocPages (p e j n : Nat) (s : State) : Alloc :=
  if freePg s p < n then .noPage
  else
    let a := poolBase s p + 4 * (freePg s p - n)
    match firstOf s p [(a, 4 * n, false), (eKvroot e + 8 * j, 8 * n, true)] with
    | some x => .refused x
    | none =>
      let pages := topPages s p n
      let s1 := skAsk p a (4 * n) s
      if pages.any (fun i => decide (rd s SKN_NPAGES_NPAGES 0 p ≤ i)) then .bad s1
      else .ok (wr (skPut p (eKvroot e + 8 * j) (8 * n) (packN 64 (pages.map (pte s p))) s1) SKN_FREEPG_FREE 0 p (freePg s p - n))

/-- SKN_NOPAGE counts a group not allocated. -/
def countNoPage (p : Nat) (s : State) : State := incS s SKN_NOPAGE_NOPAGE SKN_SATSTICKY_SNOPAGE 0 p 1

/-- SKN_POOL_BAD, which takes the cast branch (R269); `slot` is the batch slot that the group is for, 0 outside a batch
(R283, log entry 109). -/
def poolBad (p k slot : Nat) (s : State) : State := castBranch (some p) .skein (skeinRec s p 0x0604 true k slot) s

/-- The valid entries of a skein's allocated groups, by place in its page table. -/
def validPages (s : State) (k : Nat) : List Nat :=
  let e := skein s k
  (List.range (mapGet 0 s.groups k * kvpg s (ePart e))).filter (fun j => ptEntry s e j % 2 == 1)

/-- The bytes of a skein's page table that its allocated groups fill. -/
def tableLen (s : State) (k : Nat) : Nat := 8 * (mapGet 0 s.groups k * kvpg s (ePart (skein s k)))

/-- The read of a skein's page table, as an access to be checked. -/
def tableRead (s : State) (k : Nat) : List (Nat × Nat × Bool) :=
  if tableLen s k = 0 then [] else [(eKvroot (skein s k), tableLen s k, false)]

/-- The pool index of the page that a page-table entry names. -/
def pageIndex (s : State) (p x : Nat) : Nat := (2 ^ 16 * (x / 2 ^ 16) - poolBase s p) / 2 ^ 16

/-- The stack pages of a skein pushed back to the free stack; a refused read of its page table returns zero, so that none
is (R22, R275). -/
def freePages (k : Nat) (s : State) : State :=
  let e := skein s k
  let p := ePart e
  match firstOf s p (tableRead s k) with
  | some x => unitRefused .skein nodeSkein p x s
  | none =>
    (validPages s k).foldl (fun s' j =>
      let x := ptEntry s e j
      if x / 2 % 2 = 1 then s' else pushPage p (pageIndex s p x) s') (skAsk p (eKvroot e) (tableLen s k) s)

/-! ### Commands (R265, R267, R268) -/

/-- SKN_CMD with an OP of a row; the skein unit's answer goes to the requester's SKN_CMDRES (R339). -/
def skeinCmd (op : Nat) (rq : Requester) (v : W32) (act : Nat → Nat → State → Nat × State) (s : State) : State :=
  if bitsOf v.toNat 0 3 ≠ op then s
  else busCmd rq SKN_CMD_OP 0 0 v (fun _ s =>
    let k := rd s SKN_ESEL_SKEIN 0 (reqIdx rq)
    let r := match skeinOwner s k with
      | some p => if (reqPart rq).isSome && reqPart rq != some p then (1, s) else act k p s
      | none => (1, s)
    wr r.2 SKN_CMDRES_RESULT 0 (reqIdx rq) r.1) s

/-- SKN_READ: the entry copied to the EDATA words as one whole. -/
def execSknRead (rq : Requester) (v : W32) (s : State) : Host.Outcome State Fault Refusal :=
  .next (skeinCmd 1 rq v (fun k _ s =>
    (0, (List.range 32).foldl (fun s i => wr s SKN_EDATA_DATA 0 (i + 32 * reqIdx rq) (bitsOf (skein s k) (32 * i) 32)) s)) s)

/-- Whether the host's fields of an entry of partition p meet Table 12.1. -/
def hostFieldsOk (s : State) (p e : Nat) : Bool :=
  let f : Nat → FVal := fun i => val32 (eB e i 4)
  eB e 8 4 != 0 && ePlen e != 0 && eKvroot e % 256 == 0 && ePtlen e != 0 && finNonNeg (eB e 24 4) &&
  (match f 28 with | .fin d => !d.neg && d.m != 0 && cmpVal (.fin d) oneF != .gt | _ => false) &&
  inUnit (eB e 32 4) && eB e 88 6 % 16 == 0 && eB e 94 2 == 0 && eB e 96 6 % 16 == 0 && eB e 102 2 == 0 &&
  eB e 120 6 % 16 == 0 && eB e 126 2 == 0 &&
  (match target s (eB e 88 6), target s (eB e 96 6) with | .stack _, .host _ => allowed s p (eB e 88 6) true | _, _ => false)

/-- The phase of a new skein: the parity that holds fewer skeins of p, ties to 0 (R267). -/
def newPhase (s : State) (p : Nat) : Nat :=
  let n : Nat → Nat := fun q => ((skeinsOf s p).filter (fun k => let e := skein s k; eState e != kFree && ePhase e == q)).length
  if n 1 < n 0 then 1 else 0

/-- An entry as CREATE makes it from the host's: the unit's fields zero but for PART, PHASE, STATE and TLAST (R267). -/
def newEntry (s : State) (p e : Nat) : Nat :=
  let z := eSet 116 4 0 (eSet 104 4 0 (eSet 76 12 0 (eSet 0 8 0 e)))
  eSet 108 4 (courseOf s p) (eBits 8 1 (newPhase s p) (eBits 4 4 p (eBits 0 4 kPrefill z)))

/-- CREATE on skein k of partition p: result and state (R267, Table 12.7). Where an access of its allocation is refused, the
skein, created, ends with FAULT (R275; log entry 109). -/
def createSkein (rq : Requester) (k p : Nat) (s : State) : Nat × State :=
  let e := packN 32 ((List.range 32).map (fun i => rd s SKN_EDATA_DATA 0 (i + 32 * reqIdx rq)))
  if !(rdB s SKN_BCFG_EN 0 p) then (5, s)
  else if eState (skein s k) ≠ kFree then (2, s)
  else if !(hostFieldsOk s p e) then (3, s)
  else
    let e' := newEntry s p e
    let g := (ePlen e + max 1 (kvtok s p) - 1) / max 1 (kvtok s p)
    match allocPages p e' 0 (g * kvpg s p) s with
    | .ok s1 => (0, setSkein k e' { s1 with groups := mapSet 0 s1.groups k g })
    | .noPage => (4, s)
    | .bad s1 => (4, countNoPage p (poolBad p k 0 s1))
    | .refused x => (0, endSkein k 5 (setSkein k e' (unitRefused .skein nodeSkein p x s)))

/-- SKN_CREATE. -/
def execSknCreate (rq : Requester) (v : W32) (s : State) : Host.Outcome State Fault Refusal :=
  .next (takenWhole (skeinCmd 2 rq v (createSkein rq)) s)

/-- The next return of a skein discarded without being counted (R268). -/
def dropReturns (k : Nat) (s : State) : State :=
  let blank : BSlot → BSlot := fun b => if b.skein = k then { b with skein := 65535 } else b
  { s with
    built := s.built.map blank
    batched := s.batched.map blank
    rets := s.rets.map (fun r => if r.skein = k then { r with skein := 65535 } else r) }

/-- CANCEL of a skein (R268): a move in progress ends first. -/
def cancelSkein (k : Nat) (s : State) : Nat × State :=
  let e := skein s k
  let st := eState e
  if st = kFree ∨ st = kEmitting then (2, s)
  else if st = kStashing ∨ st = kRestoring then (0, setSkein k (eBits 9 4 4 e) s)
  else (0, endSkein k 4 (if st = kBatched then dropReturns k s else s))

/-- SKN_CANCEL. -/
def execSknCancel (rq : Requester) (v : W32) (s : State) : Host.Outcome State Fault Refusal :=
  .next (skeinCmd 3 rq v (fun k _ s => cancelSkein k s) s)

/-! ### Batches (R270, R271) -/

/-- Serial order of TLAST with a window of 2^31. -/
def serialLt (a b : Nat) : Bool := let d := (b + 2 ^ 32 - a) % 2 ^ 32; decide (0 < d ∧ d < 2 ^ 31)

/-- BMAX as it acts. -/
def bmax (s : State) (p : Nat) : Nat := max 1 (min 4096 (rd s SKN_BCFG_BMAX 0 p))

/-- The batch area of a partition. -/
def batchBase (s : State) (p : Nat) : Nat := 2 ^ 20 * rd s SKN_BATCH_LO_BASE 0 p + 2 ^ 32 * rd s SKN_BATCH_HI_BASE 0 p

/-- The region of the parity of a course. -/
def batchRegion (s : State) (p course : Nat) : Nat := batchBase s p + 0x80000 * (course % 2)

/-- The entries placed for a partition. -/
def builtOf (s : State) (p : Nat) : List BSlot := s.built.filter (fun b => b.part == p)

/-- The prompt tokens of the PREFILL skeins placed. -/
def placedPrompts (s : State) (p : Nat) : Nat :=
  ((builtOf s p).map (fun b => let e := skein s b.skein
    if b.skein < 65535 ∧ eTcount e = 0 then ePlen e else 0)).sum

/-- Whether a skein may be placed in the batch of course c (R270). -/
def placeable (s : State) (p c k : Nat) : Bool :=
  let e := skein s k
  (eState e == kReady || (eState e == kPrefill && decide (placedPrompts s p + ePlen e ≤ rd s SKN_BCFG_PTOK 0 p))) &&
    ePhase e == c % 2 && !(s.leftOut.contains k)

/-- The earlier of two skeins in the order of placement. -/
def earlier (s : State) (a b : Nat) : Nat :=
  let x := eTlast (skein s a)
  let y := eTlast (skein s b)
  if serialLt x y then a else if serialLt y x then b else min a b

/-- The first skein of a list in the order of placement. -/
def firstPlaced (s : State) : List Nat → Option Nat
  | [] => none
  | k :: ks => match firstPlaced s ks with | none => some k | some j => some (earlier s k j)

/-- The 64-byte batch entry of a skein (Table 12.4). -/
def batchEntry (k e : Nat) : Nat :=
  let pre := decide (eState e = kPrefill)
  k + (if pre then 2 ^ 16 else 0) + 2 ^ 32 * (if pre then 0 else (ePlen e + eTcount e - 1) % 2 ^ 32) +
    2 ^ 64 * (if pre then 0 else eB e 112 4) + 2 ^ 96 * (if pre then ePlen e else 1) + 2 ^ 128 * eB e 16 24 +
    2 ^ 320 * eB e 56 16 + 2 ^ 448 * (if pre then eB e 120 6 else 0)

/-- A skein placed at the next slot: its entry written, BATCHED (R270). -/
def placeSkein (p c k : Nat) (s : State) : State :=
  let i := (builtOf s p).length
  let a := batchRegion s p c + 0x100 + i * 64
  match firstRefused s p a 64 true with
  | some x => { unitRefused .skein nodeSkein p x s with leftOut := s.leftOut ++ [k] }
  | none =>
    setState k kBatched (skPut p a 64 (batchEntry k (skein s k)) { s with built := s.built ++ [⟨p, c, i, k⟩] })

/-- A skein's group for its next position, if that position starts one (R270). -/
def growSkein (p k : Nat) (s : State) : Alloc :=
  let e := skein s k
  let pos := ePlen e + eTcount e - 1
  let g := pos / max 1 (kvtok s p)
  if eState e = kReady ∧ pos % max 1 (kvtok s p) = 0 ∧ mapGet 0 s.groups k ≤ g then
    match allocPages p e (g * kvpg s p) (kvpg s p) s with
    | .ok s1 => .ok { s1 with groups := mapSet 0 s1.groups k (g + 1) }
    | r => r
  else .ok s

/-- The next skein of partition p placed in the batch of the next course, or left out. -/
def buildNext (p : Nat) (s : State) : State :=
  let c := courseOf s p + 1
  if !(rdB s SKN_BCFG_EN 0 p) || inReset s p || decide (bmax s p ≤ (builtOf s p).length) then s
  else match firstPlaced s ((skeinsOf s p).filter (placeable s p c)) with
    | none => s
    | some k =>
      match growSkein p k s with
      | .ok s1 => placeSkein p c k s1
      | .noPage => countNoPage p { s with leftOut := s.leftOut ++ [k] }
      | .bad s1 => countNoPage p (poolBad p k (builtOf s p).length { s1 with leftOut := s1.leftOut ++ [k] })
      | .refused x => skeinRefused k p x s

/-- BATCH_BUILD. -/
def execBatchBuild (p : Nat) (s : State) : Host.Outcome State Fault Refusal := .next (takenWhole (buildNext p) s)

/-- The last `late` entries built for partition p, whose writes no controller has accepted, withdrawn: their skeins return to
their former states (R271). -/
def withdraw (p late : Nat) (s : State) : State :=
  let mine := builtOf s p
  let gone := mine.drop (mine.length - late)
  gone.foldl (fun s b => if b.skein < 40960 then setState b.skein (unbatched (skein s b.skein)) s else s)
    { s with built := s.built.filter (fun b => !(gone.contains b)) }

/-- The commit of the decode batch at the boundary into course c: N frozen, the header written with its signal (R271,
R277). -/
def commitBatch (p c late : Nat) (s0 : State) : State :=
  if !(rdB s0 SKN_BCFG_EN 0 p) then s0
  else
    let s := withdraw p late s0
    let gen := rd s SKN_GENNOW_GENNOW 0 p
    let mine := builtOf s p
    let a := batchRegion s p c
    let hdr := c + 2 ^ 64 * gen + 2 ^ 96 * mine.length + 2 ^ 112 * (c % 2)
    let s1 := { s with
      built := s.built.filter (fun b => b.part != p)
      batched := s.batched.filter (fun b => b.part != p) ++ mine
      batchGen := mapSet 0 s.batchGen p gen
      leftOut := s.leftOut.filter (fun k => ePart (skein s k) != p) }
    match firstRefused s1 p a 256 true with
    | some x => unitRefused .skein nodeSkein p x s1
    | none => inject { pkt0 .wr (some p) nodeSkein a hdr 16 with
        last := true, sig := true, stitch := rd s1 SKN_BSTITCH_STITCH 0 p, crslo := c % 256 } s1

/-- A return not accepted: the skein leaves the batch, and SKN_NORET counts it (Table 12.2). -/
def noReturn (p k : Nat) (s : State) : State :=
  if 40960 ≤ k ∨ eState (skein s k) ≠ kBatched then s
  else setState k (unbatched (skein s k)) (incS s SKN_NORET_NORET SKN_SATSTICKY_SNORET 0 p 1)

/-- The boundary that ends course c of partition p, before its batch is replaced: skeins of the batch of course c − 1 whose
returns have not been accepted are deferred, once, the last `unread` of the records still held are lost, and the records of
course c are read (R272). -/
def collectReturns (p c unread : Nat) (s : State) : State :=
  let old := s.rets.filter (fun r => r.part == p)
  let n := old.length
  let live := (old.filter (fun r => decide (r.skein < 40960) && r.course + 1 == c)).length
  let s1 := if live = 0 then s
    else wr (incS s SKN_DEFER_DEFER SKN_SATSTICKY_SDEFER 0 p live) SKN_PSTATUS_DEFERRED 0 p 1
  let s2 := (old.drop (n - unread)).foldl (fun s r => noReturn p r.skein s)
    { s1 with rets := s1.rets.filter (fun r => r.part != p) ++ old.take (n - unread) }
  let items := s2.batched.filter (fun b => b.part == p && b.course == c)
  let a := batchRegion s2 p c + 0x40100
  match (if items.isEmpty then none else firstRefused s2 p a (16 * items.length) false) with
  | some x => items.foldl (fun s b => noReturn p b.skein s) (unitRefused .skein nodeSkein p x s2)
  | none =>
    let s3 := skAsk p a (16 * items.length) s2
    { s3 with rets := s3.rets ++ items.map (fun b =>
      ⟨p, c, mapGet 0 s2.batchGen p, b.slot, b.skein, rdLE s2 (a + 16 * b.slot) 16⟩) }

/-! ### Accepting a token (R274) -/

/-- Binary64, for LPACC. -/
def fmtFP64 : Fmt := ⟨11, 52, 1023, .ieee, 0x7FEFFFFFFFFFFFFF, 0x7FF8000000000000⟩

/-- The sum of a binary64 code and an FP32 code, rounded to nearest into binary64. -/
def addLp (acc lps : Nat) : Nat :=
  match decodeF fmtFP64 acc, val32 lps with
  | .nan _, _ => fmtFP64.nanCode
  | _, .nan _ => fmtFP64.nanCode
  | .inf a, .inf b => if a = b then withSign fmtFP64 a 0x7FF0000000000000 else fmtFP64.nanCode
  | .inf a, _ => withSign fmtFP64 a 0x7FF0000000000000
  | _, .inf b => withSign fmtFP64 b 0x7FF0000000000000
  | .fin x, .fin y =>
    let t := addDy x y
    if t.m = 0 then withSign fmtFP64 (x.neg && y.neg && x.m == 0 && y.m == 0) 0
    else
      let v := narrow fmtFP64 .nearest t.neg t.m 1 t.e
      withSign fmtFP64 t.neg (if fmtFP64.maxCode < v.code then 0x7FF0000000000000 else v.code)

/-- Why an entry ends after its last token; 0 where it goes on (R274, step 4). -/
def endReason (s : State) (p e tok : Nat) : Nat :=
  if (List.range 4).any (fun i => eB e (40 + 4 * i) 4 == tok && eB e (40 + 4 * i) 4 != 2 ^ 32 - 1) then 1
  else if eTcount e = eB e 8 4 then 2
  else if ePtlen e ≤ (ePlen e + eTcount e - 1) / max 1 (kvtok s p) * kvpg s p + kvpg s p - 1 then 3
  else 0

/-- An accepted record taken into its skein's entry (R274, steps 2 to 4). -/
def tokenEntry (s : State) (r : Ret) (gb : Bool) (e : Nat) : Nat :=
  let tok := bitsOf r.words 0 24
  let e1 := if eTcount e = 0 then eSet 116 4 r.gen (eSet 104 4 r.course e) else e
  let e2 := if gb then eSet 2 2 (min (2 ^ 16 - 1) (eB e1 2 2 + 1)) e1 else e1
  let e3 := eSet 112 4 tok (eSet 108 4 r.course (eSet 76 4 r.gen e2))
  let e4 := eSet 80 8 (addLp (eB e3 80 8) (bitsOf r.words 64 32)) (eSet 64 8 (eB e3 64 8 + 1) e3)
  let e5 := eSet 4 4 (eTcount e4 + 1) e4
  let why := endReason s r.part e5 tok
  if why = 0 then eBits 0 4 kReady e5 else eBits 9 4 why (eBits 0 4 kEmitting e5)

/-- An accepted record (R274). -/
def acceptToken (r : Ret) (ue : Option Nat) (s : State) : State :=
  let e := skein s r.skein
  let a := eB e 88 6 + eTcount e * 16
  let gb := decide (0 < eTcount e) && eB e 76 4 != r.gen
  let rec16 := bitsOf r.words 0 24 + (if gb then 2 ^ 31 else 0) + 2 ^ 32 * bitsOf r.words 32 64 + 2 ^ 96 * r.gen
  match ue, firstRefused s r.part a 16 true with
  | some x, _ => endSkein r.skein 5 (unitUe nodeSkein r.part x s)
  | none, some x => skeinRefused r.skein r.part x s
  | none, none =>
    setSkein r.skein (tokenEntry s r gb e) (incM (skPut r.part a 16 rec16 s) SKN_TOK_LO_TOK SKN_TOK_HI_TOK 0 r.part 1)

/-- The next return record of partition p handled. -/
def acceptNext (p : Nat) (ue : Option Nat) (s : State) : State :=
  match s.rets.find? (fun r => r.part == p) with
  | none => s
  | some r =>
    let s1 := { s with rets := s.rets.erase r }
    if 40960 ≤ r.skein ∨ eState (skein s r.skein) ≠ kBatched then s1
    else if bitsOf r.words 24 8 ≠ 0 ∨ bitsOf r.words 97 31 ≠ 0 then
      endSkein r.skein 5 (raise .skein (skeinRec s1 p 0x0603 false r.skein r.slot) s1)
    else if bitsOf r.words 96 1 = 0 then noReturn p r.skein s1
    else acceptToken r ue s1

/-- RETURN_ACCEPT: `ue` is an uncorrectable burst met on the way (R297). -/
def execReturnAccept (p : Nat) (ue : Option Nat) (s : State) : Host.Outcome State Fault Refusal :=
  .next (takenWhole (acceptNext p ue) s)

/-! ### Output (R276, R350) -/

/-- Whether the rollout ring of a partition has a free record. -/
def ringFree (s : State) (p : Nat) : Bool :=
  let l := rd s PCI_RO_CFG_LOG2 0 p
  decide (6 ≤ l) && decide ((rd s PCI_RO_PROD_PROD 0 p + 2 ^ 32 - rd s PCI_RO_CONS_CONS 0 p) % 2 ^ 32 < 2 ^ l)

/-- The ring's vector signalled; its count starts again. -/
def ringSignal (p : Nat) (s : State) : State :=
  signalVec (p + 1) (rd s PCI_RO_CFG_VECTOR 0 p) { s with roPend := mapSet 0 s.roPend p 0 }

/-- A record written to the rollout ring, then PROD, then the vector under moderation (R350). -/
def ringWrite (p v : Nat) (s : State) : State :=
  let base := rd s PCI_RO_BASE_LO_BASE 0 p * 2 ^ 12 + 2 ^ 32 * rd s PCI_RO_BASE_HI_BASE 0 p
  let n := 2 ^ rd s PCI_RO_CFG_LOG2 0 p
  let prod := rd s PCI_RO_PROD_PROD 0 p
  let s1 := postHost (p + 1) 0 (base + prod % n * 64) 64 v s
  let s2 := postHost (p + 1) 0 (base + n * 64) 4 ((prod + 1) % 2 ^ 32) (wr s1 PCI_RO_PROD_PROD 0 p ((prod + 1) % 2 ^ 32))
  let k := mapGet 0 s2.roPend p + 1
  if max 1 (rd s2 PCI_RO_CFG_MODCNT 0 p) ≤ k then ringSignal p s2 else { s2 with roPend := mapSet 0 s2.roPend p k }

/-- ROLLOUT_MODERATION_TIMER: MODUS µs have passed since the first unsignalled record. -/
def execRolloutModerationTimer (p : Nat) (s : State) : Host.Outcome State Fault Refusal :=
  .next (if mapGet 0 s.roPend p = 0 ∨ rd s PCI_RO_CFG_MODUS 0 p = 0 then s else ringSignal p s)

/-- The output record of a skein (Table 12.6a). -/
def outputRecord (k e : Nat) : Nat :=
  k + 2 ^ 16 * eReason e + 2 ^ 32 * eB e 72 4 + 2 ^ 64 * ePlen e + 2 ^ 96 * eTcount e + 2 ^ 128 * eB e 116 4 + 2 ^ 160 * eB e 76 4 +
    2 ^ 192 * eB e 2 2 + 2 ^ 256 * eB e 80 8 + 2 ^ 320 * eB e 96 6 + 2 ^ 384 * eB e 104 4 + 2 ^ 416 * eTlast e

/-- The token copy of an EMITTING skein: the state after it, with REASON FAULT where an access is refused or meets an
uncorrectable burst (R275, R297). -/
def copyTokens (k p : Nat) (ue : Option Nat) (s : State) : State :=
  let e := skein s k
  let n := eTcount e * 16
  let a := eB e 88 6
  let h := eB e 96 6
  match ue, (if n = 0 then none else firstRefused s p a n false), target s h with
  | some x, _, _ => endSkein k 5 (unitUe nodeSkein p x s)
  | none, some x, _ => skeinRefused k p x s
  | none, none, .host d => copyOut p a n d s
  | none, none, _ => skeinRefused k p h s

/-- EMITTING skein k copies its tokens and writes its output record, while the ring has one free. -/
def emitSkein (k : Nat) (ue : Option Nat) (s : State) : State :=
  let p := ePart (skein s k)
  if eState (skein s k) ≠ kEmitting || !(ringFree s p) then s
  else
    let s1 := copyTokens k p ue s
    let s2 := incM (ringWrite p (outputRecord k (skein s1 k)) s1) SKN_DONE_LO_DONE SKN_DONE_HI_DONE 0 p 1
    let s3 := freePages k s2
    setState k kFree { s3 with groups := mapSet 0 s3.groups k 0 }

/-- SKEIN_EMIT. -/
def execSkeinEmit (k : Nat) (ue : Option Nat) (s : State) : Host.Outcome State Fault Refusal := .next (takenWhole (emitSkein k ue) s)

/-! ### Eviction and restore (R280, R281) -/

/-- The host slot of page-table entry j of a skein. -/
def hostSlot (s : State) (p k j : Nat) : Nat :=
  2 ^ 16 * rd s SKN_HKV_LO_BASE 0 p + 2 ^ 32 * rd s SKN_HKV_HI_BASE 0 p +
    2 ^ 16 * ((k - rd s SKN_RANGE_FIRST 0 p) * rd s SKN_HKV_HI_STRIDE 0 p + j)

/-- Skeins that move now. -/
def movingSkeins (s : State) : List Nat :=
  s.skeins.filterMap (fun x => let st := eState x.2.toNat; if st = kStashing ∨ st = kRestoring then some x.1 else none)

/-- The stack pages of the skeins of p on their way out. -/
def leavingPages (s : State) (p : Nat) : Nat :=
  (((skeinsOf s p).filter (fun k => eState (skein s k) == kStashing)).map (fun k => (validPages s k).length)).sum

/-- Whether a skein may be evicted (R280). -/
def evictable (s : State) (p k : Nat) : Bool :=
  eState (skein s k) == kReady && (validPages s k).all (fun j => decide (j < rd s SKN_HKV_HI_STRIDE 0 p))

/-- The later of two skeins in the order of eviction. -/
def evictFirst (s : State) (a b : Nat) : Nat :=
  let x := eTlast (skein s a)
  let y := eTlast (skein s b)
  if serialLt y x then a else if serialLt x y then b
  else if eTcount (skein s a) < eTcount (skein s b) then b else a

/-- The skein of a list to evict next. -/
def pickEvict (s : State) : List Nat → Option Nat
  | [] => none
  | k :: ks => match pickEvict s ks with | none => some k | some j => some (evictFirst s k j)

/-- EVICT_START: while the free pages of p are low, its next READY skein begins to move out. -/
def execEvictStart (p : Nat) (s : State) : Host.Outcome State Fault Refusal :=
  .next (
    let low := decide (freePg s p < rd s SKN_WATER_LOWAT 0 p * 256) || mapGet false s.evicting p
    let goal := decide (rd s SKN_WATER_HIWAT 0 p * 256 ≤ freePg s p + leavingPages s p)
    let next := pickEvict s ((skeinsOf s p).filter (evictable s p))
    if !(rdB s SKN_BCFG_EN 0 p) || !low then s
    else if goal || next.isNone then { s with evicting := mapSet false s.evicting p false }
    else if decide (8 ≤ (movingSkeins s).length) then { s with evicting := mapSet false s.evicting p true }
    else match next with
      | some k => setState k kStashing { s with evicting := mapSet false s.evicting p true }
      | none => s)

/-- The accesses by which skein k moves out: its page table, its pages js, which lie whole in a window or outside, and the
HOST bits of their entries. -/
def evictAccesses (s : State) (k : Nat) (js : List Nat) : List (Nat × Nat × Bool) :=
  let e := skein s k
  tableRead s k ++ js.map (fun j => (2 ^ 16 * (ptEntry s e j / 2 ^ 16), 16, false)) ++ js.map (fun j => (eKvroot e + 8 * j, 8, true))

/-- STASHING skein k has moved out: each page copied to its host slot, its entry marked HOST, and at last the pages pushed
(R280). `ue` is an uncorrectable burst that the copy meets, which ends the skein (R297). -/
def evictSkein (k : Nat) (ue : Option Nat) (s : State) : State :=
  let e := skein s k
  let p := ePart e
  if eState e ≠ kStashing then s
  else
    let js := (validPages s k).filter (fun j => ptEntry s e j / 2 % 2 == 0)
    match firstOf s p (evictAccesses s k js),
      js.find? (fun j => match target s (hostSlot s p k j) with | .host _ => false | _ => true), ue with
    | some x, _, _ => skeinRefused k p x s
    | none, some j, _ => skeinRefused k p (hostSlot s p k j) s
    | none, none, some x => endSkein k 5 (unitUe (nodeDma (rd s SKN_KVCFG_DMAE 0 p)) p x s)
    | none, none, none =>
      let s0 := skAsk p (eKvroot e) (tableLen s k) s
      let s1 := js.foldl (fun s' j =>
        let x := ptEntry s e j
        skPut p (eKvroot e + 8 * j) 8 (x + 2) (copyOut p (2 ^ 16 * (x / 2 ^ 16)) 65536 (hostSlot s p k j - hostBase) s')) s0
      let s2 := js.foldl (fun s' j => pushPage p (pageIndex s p (ptEntry s e j)) s') s1
      let s3 := incS s2 SKN_EVICT_EVICT SKN_SATSTICKY_SEVICT 0 p 1
      if eReason e = 4 then endSkein k 4 s3 else setState k kStashed s3

/-- EVICT_COMPLETE: the skein's last page has been written to the host. -/
def execEvictComplete (e : PageReads) (s : State) : Host.Outcome State Fault Refusal :=
  .next (takenWhole (evictSkein e.skein e.ue) s)

/-- With pages free, the next STASHED skein of p begins to move back (R281). -/
def restoreNext (p : Nat) (s : State) : State :=
  match firstPlaced s ((skeinsOf s p).filter (fun k => eState (skein s k) == kStashed)) with
  | none => s
  | some k =>
    let e := skein s k
    let js := validPages s k
    let n := js.length
    let a := poolBase s p + 4 * (freePg s p - n)
    let pages := topPages s p n
    if freePg s p < rd s SKN_WATER_HIWAT 0 p * 256 + n || decide (8 ≤ (movingSkeins s).length) then s
    else match firstOf s p (tableRead s k ++ (if n = 0 then [] else [(a, 4 * n, false)])),
        firstOf s p (pages.map (fun i => (poolBase s p + 2 ^ 16 * i, 16, true))) with
      | some x, _ => skeinRefused k p x s
      | none, y =>
        let s0 := skAsk p a (4 * n) (skAsk p (eKvroot e) (tableLen s k) s)
        if pages.any (fun i => decide (rd s SKN_NPAGES_NPAGES 0 p ≤ i)) then poolBad p k 0 s0
        else if y.isSome then skeinRefused k p (y.getD 0) s0
        else
          let reads : List HRead := (js.zip pages).map (fun x =>
            ⟨.restore k, hostSlot s p k x.1 - hostBase, poolBase s p + 2 ^ 16 * x.2, 65536, rd s SKN_KVCFG_DMAE 0 p, some p, false, 0⟩)
          let s1 := wr s0 SKN_FREEPG_FREE 0 p (freePg s p - n)
          reads.foldl (fun s h => askHost (p + 1) h.src h.len s)
            (setState k kRestoring { s1 with moves := s1.moves ++ [⟨k, js.zip pages⟩], hreads := s1.hreads ++ reads })

/-- RESTORE_START. -/
def execRestoreStart (p : Nat) (s : State) : Host.Outcome State Fault Refusal := .next (takenWhole (restoreNext p) s)

/-- Whether the data of a restore is all in place. -/
def restored (s : State) (m : Move) : Bool :=
  let p := ePart (skein s m.skein)
  !(s.hreads.any (fun h => h.kind == .restore m.skein)) &&
  !(s.net.any (fun q => m.pages.any (fun x => decide (poolBase s p + 2 ^ 16 * x.2 ≤ q.addr ∧ q.addr < poolBase s p + 2 ^ 16 * (x.2 + 1)))))

/-- RESTORING skein k, whose data is in place, gets its page-table entries; a refused write ends it with FAULT (R275). -/
def endRestore (k : Nat) (s : State) : State :=
  match s.moves.find? (fun m => m.skein == k) with
  | none => s
  | some m =>
    let e := skein s k
    let p := ePart e
    if eState e ≠ kRestoring || !(restored s m) then s
    else
      let s0 : State := { s with moves := s.moves.erase m }
      match firstOf s p (m.pages.map (fun x => (eKvroot e + 8 * x.1, 8, true))) with
      | some x => skeinRefused k p x s0
      | none =>
        let s1 := m.pages.foldl (fun s x => skPut p (eKvroot e + 8 * x.1) 8 (pte s p x.2) s) s0
        if eReason e = 4 then endSkein k 4 s1 else setState k kReady s1

/-- RESTORE_COMPLETE: skein k's last page has landed. -/
def execRestoreComplete (k : Nat) (s : State) : Host.Outcome State Fault Refusal := .next (takenWhole (endRestore k) s)

/-! ### SKN_BCFG.EN (R282) -/

/-- A free order of a list: each next element is chosen by a free value. -/
def freeOrder (i : Nat) : Nat → List Nat → List Nat
  | 0, _ => []
  | n + 1, xs =>
    let k := Config.free i n % max 1 xs.length
    xs.getD k 0 :: freeOrder i n (xs.eraseIdx k)

/-- The free stack rebuilt with every pool page that does not hold it, in an order the spec leaves open (R269, R282). -/
def rebuildPool (p : Nat) (s : State) : State :=
  let n := rd s SKN_NPAGES_NPAGES 0 p
  let own := (n + 16383) / 16384
  let pages := freeOrder s.freeIdx (n - own) ((List.range (n - own)).map (· + own))
  match (if n = 0 then none else firstRefused s p (poolBase s p) (2 ^ 16 * own) true) with
  | some x => unitRefused .skein nodeSkein p x s
  | none =>
    wr (skPut p (poolBase s p) (4 * (n - own)) (packN 32 pages) { s with freeIdx := s.freeIdx + 1 }) SKN_FREEPG_FREE 0 p (n - own)

/-- What a change of SKN_BCFG.EN does: 0 to 1 rebuilds the pool; 1 to 0 is refused while a skein is not FREE. `s0` is the
state before the write. -/
def bcfgEn (p off : Nat) (s0 s : State) : State :=
  match rdB s0 SKN_BCFG_EN 0 p, rdB s SKN_BCFG_EN 0 p with
  | false, true => rebuildPool p s
  | true, false =>
    if (skeinsOf s p).any (fun k => eState (skein s k) != kFree) then setWrign .skn 0 off (wr s SKN_BCFG_EN 0 p 1) else s
  | _, _ => s

/-- SKN_BCFG_EN_WRITE: a write of SKN_BCFG of partition p. -/
def execSknBcfgEnWrite (rq : Requester) (p : Nat) (v : W32) (s : State) : Host.Outcome State Fault Refusal :=
  .next (takenWhole (fun s => if 16 ≤ p then s else busCmd rq SKN_BCFG_EN 0 p v (fun off s1 => bcfgEn p off s s1) s) s)

/-- Every skein of a partition set to FREE and EN cleared, as a reset of its owner does; pages and batch areas stand
(R282). -/
def clearSkeins (p : Nat) (s : State) : State :=
  let ks := skeinsOf s p
  let s1 := ks.foldl (fun s k => if eState (skein s k) = kFree then s else setState k kFree s) s
  wr { s1 with
    groups := s1.groups.filter (fun g => !(ks.contains g.1))
    built := s1.built.filter (fun b => b.part != p)
    batched := s1.batched.filter (fun b => b.part != p)
    rets := s1.rets.filter (fun r => r.part != p)
    leftOut := s1.leftOut.filter (fun k => !(ks.contains k))
    evicting := mapSet false s1.evicting p false
    moves := s1.moves.filter (fun m => !(ks.contains m.skein))
    hreads := s1.hreads.filter (fun h => match h.kind with | .restore k => !(ks.contains k) | _ => true) } SKN_BCFG_EN 0 p 0

end Sys2Proof.Machine
end

