-- ==== Sys2Proof/Machine/Link.lean ====
section
/-! DEFINITION. The sending side of the Ply links (R311, R313, R314): queues, blocks and flits; group messages (R321, R322)
and the combining of a span's arrivals (R324). -/

namespace Sys2Proof.Machine

/-! ### Links -/

/-- Slots of credit held (R314). -/
def slotCredits (s : State) (k vc : Nat) : Nat := 2176 - mapGet 0 s.ply.lcred (lvKey k vc)

/-- The header flit of a mesh packet (Table 6.4); OPART lies in bits 110:107 on a link only (R316). -/
def headerBits (typ vch len : Nat) (last sig : Bool) (part addr src tag stitch tmode crslo opart : Nat) : BitVec 128 :=
  BitVec.ofNat 128 (typ + 2 ^ 4 * vch + 2 ^ 6 * len + 2 ^ 11 * (if last then 1 else 0) + 2 ^ 12 * (if sig then 1 else 0) +
    2 ^ 13 * part + 2 ^ 17 * addr + 2 ^ 65 * src + 2 ^ 77 * tag + 2 ^ 83 * stitch + 2 ^ 97 * tmode + 2 ^ 99 * crslo +
    2 ^ 107 * opart)

/-- A payload as 16-byte flits. -/
def payloadSlots (len data : Nat) : List (BitVec 128) :=
  (List.range len).map (fun i => BitVec.ofNat 128 (bitsOf data (128 * i) 128))

/-- What waits for link k on a virtual channel. -/
def queued (s : State) (k vc : Nat) : List LItem := s.ply.lqueue.filter (fun x => x.link == k && x.vc == vc)

/-- The next block of a queue: at most 64 packets and 1,088 slots (R314). -/
def takeBlock : Nat → Nat → List LItem → List LItem
  | _, _, [] => []
  | n, room, x :: xs => if n = 0 ∨ room < x.slots.length then [] else x :: takeBlock (n - 1) (room - x.slots.length) xs

/-- A block's slots cut into flits of at most 15 (R311). -/
def cutFlits : Nat → List (BitVec 128) → List (List (BitVec 128))
  | 0, _ => []
  | _, [] => []
  | n + 1, xs => xs.take 15 :: cutFlits n (xs.drop 15)

/-- A block's flits with their places and sequence numbers. -/
def numberFlits (k vc seq n slots : Nat) (fs : List (List (BitVec 128))) : List LFlit :=
  (fs.zip (List.range n)).map (fun x => ⟨k, (seq + x.2) % 4096, vc, x.2 == 0, decide (x.2 + 1 = n), x.1, slots⟩)

/-- The flits of link k in the replay buffer. -/
def heldFlits (s : State) (k : Nat) : List LFlit := s.ply.replay.filter (fun f => f.link == k)

/-- The next block of virtual channel vc of link k sent, while the link is up, the credits of the whole block are held and
the replay buffer has room (R313, R314). -/
def sendBlock (k vc : Nat) (s : State) : Option State :=
  let b := takeBlock 64 1088 (queued s k vc)
  let slots := b.flatMap (fun x => x.slots)
  let fs := cutFlits slots.length slots
  let n := fs.length
  if n = 0 || !(linkUp s k) || decide (slotCredits s k vc < slots.length) || decide (512 < (heldFlits s k).length + n) then none
  else
    let seq := mapGet 0 s.ply.lseq k
    let out := numberFlits k vc seq n slots.length fs
    let s1 := { s with
      ply.lqueue := s.ply.lqueue.filter (fun x => !(b.contains x))
      ply.replay := s.ply.replay ++ out
      ply.lseq := mapSet 0 s.ply.lseq k ((seq + n) % 4096)
      ply.lcred := mapSet 0 s.ply.lcred (lvKey k vc) (mapGet 0 s.ply.lcred (lvKey k vc) + slots.length) }
    some (incM (out.foldl (fun s f => sendFlit 1 f s) s1) PLY_TXFLIT_LO_TX PLY_TXFLIT_HI_TX k 0 n)

/-- Blocks sent on link k as long as any virtual channel can send one. -/
def pumpBlocks : Nat → Nat → State → State
  | 0, _, s => s
  | fuel + 1, k, s =>
    match sendBlock k 0 s with
    | some s1 => pumpBlocks fuel k s1
    | none =>
      match sendBlock k 1 s with
      | some s1 => pumpBlocks fuel k s1
      | none =>
        match sendBlock k 2 s with
        | some s1 => pumpBlocks fuel k s1
        | none => match sendBlock k 3 s with | some s1 => pumpBlocks fuel k s1 | none => s

/-- The packets of a mirror write, for the first or the second twin link by turns: offset in the partner's mirror region,
data (R328). -/
def mirrorItems (la lb : Nat) (w : Nat × Nat × Nat) : List LItem :=
  (pieces (w.2.1 + 1) w.1 w.1 w.2.1).map (fun p =>
    let len := (p.2.2 + 15) / 16
    ⟨if p.1 / 256 % 2 = 0 then la else lb, 3, none,
      headerBits 0 0 len true false 0 p.1 0 0 0 0 0 0 :: payloadSlots len (bitsOf w.2.2 (8 * (p.1 - w.1)) (8 * p.2.2))⟩)

/-- Mirror writes put on the queues of the twin links. -/
def drainMirror (s : State) : State :=
  if s.mirrorQ.isEmpty then s
  else
    { s with
      mirrorQ := []
      ply.lqueue := s.ply.lqueue ++ s.mirrorQ.flatMap (mirrorItems (rd s PLY_TWIN_CTL_LINKA 0 0) (rd s PLY_TWIN_CTL_LINKB 0 0)) }

/-- Everything that link k can send is sent. -/
def pumpLink (k : Nat) (s : State) : State :=
  let s1 := drainMirror s
  pumpBlocks (s1.ply.lqueue.length + 1) k s1

/-- Something put on the queue of link k. -/
def enqueue (x : LItem) (s : State) : State := pumpLink x.link { s with ply.lqueue := s.ply.lqueue ++ [x] }

/-- A WR packet that has reached the H-die for a Ply window: translated, and in the hands of its link until the delivery
count acknowledges it (R316, R318). -/
def toLink (p : Pkt) (k n : Nat) (s : State) : State :=
  let opart := p.part.getD 0
  let addr := 2 ^ 26 * rd s PLY_WINPEER_PBASE k n + p.addr - 2 ^ 26 * rd s PLY_WINLOC_LBASE k n
  let h := headerBits 0 p.vch p.len p.last p.sig (rd s PLY_WINPEER_PPART k n) addr p.src 0 p.stitch 0 p.crslo opart
  let s1 := { s with
    net := s.net.map (fun q => if q.pid = p.pid then { q with dst := 0xFFF, loc := .dest } else q)
    ply.away := s.ply.away ++ [(k, opart, p.pid)] }
  enqueue ⟨k, 0, some p.pid, h :: payloadSlots p.len p.data⟩ (countMoved p.part (16 + k) (p.len * 16) s1)

/-! ### Group messages (Tables 14.4, 14.5) -/

/-- This module's ID (R321). -/
def myId (s : State) : Nat := rd s PLY_GID_ID 0 0

/-- A group message. -/
def message (kind src dst span side arg : Nat) : BitVec 128 :=
  BitVec.ofNat 128 (kind + 2 ^ 8 * src + 2 ^ 20 * dst + 2 ^ 32 * span + 2 ^ 44 * side + 2 ^ 64 * arg)

def mKind (m : BitVec 128) : Nat := bitsOf m.toNat 0 8
def mSrc (m : BitVec 128) : Nat := bitsOf m.toNat 8 12
def mDst (m : BitVec 128) : Nat := bitsOf m.toNat 20 12
def mSpan (m : BitVec 128) : Nat := bitsOf m.toNat 32 12
def mSide (m : BitVec 128) : Nat := bitsOf m.toNat 44 1
def mArg (m : BitVec 128) : Nat := bitsOf m.toNat 64 64

/-- The virtual channel of a message (Table 14.5). -/
def mVc (m : BitVec 128) : Nat := if mKind m < 0x10 then 1 else 2

/-- A message sent on a link, while group logic is in service. -/
def sendOn (k : Nat) (m : BitVec 128) (s : State) : State :=
  if k < 24 && rdB s PLY_GCTL_EN 0 0 then enqueue ⟨k, mVc m, none, [m]⟩ s else s

/-- A message sent on each link of a mask. -/
def sendMask (mask : Nat) (m : BitVec 128) (s : State) : State :=
  (List.range 24).foldl (fun s k => if mask / 2 ^ k % 2 = 1 then sendOn k m s else s) s

/-- The UP link in use (R332); 31 for none. -/
def upLink (s : State) : Nat := if rdB s PLY_CTREE_ALT 0 0 then rd s PLY_CTREE_ALTUP 0 0 else rd s PLY_CTREE_UP 0 0

/-- The state of the twin logic (Table 14.10). -/
def twinState (s : State) : Nat := rd s PLY_TWIN_STATUS_STATE 0 0

/-- Whether this module holds every course release: it has left its pair, DRAINING or DETACHED (Table 14.10). -/
def twinKeeps (s : State) : Bool := twinState s == 3 || twinState s == 4

/-- A mask without a link. -/
def maskOff (m k : Nat) : Nat := m - m / 2 ^ k % 2 * 2 ^ k

/-- The links of the control tree, as a mask (R322). -/
def treeMask (s : State) : Nat :=
  let down := rd s PLY_CDOWN_DOWN 0 0 ||| (if twinState s = 5 then rd s PLY_CTDOWN_TDOWN 0 0 else 0)
  if upLink s < 24 then down ||| 2 ^ upLink s else down

/-- A management message sent or passed on over every link of the tree but `inl`, and not into another group when its
sender and addressee share one (R322). -/
def flood (inl : Nat) (m : BitVec 128) (s : State) : State :=
  let local' := mSrc m / 64 == mDst m / 64
  (List.range 24).foldl (fun s k =>
    if maskOff (treeMask s) inl / 2 ^ k % 2 = 1 ∧ !(local' && rd s PLY_PEER_ID k 0 / 64 != mDst m / 64) then sendOn k m s
    else s) s

/-- A management message of this module to another. -/
def sendTo (kind dst arg : Nat) (s : State) : State :=
  flood 31 (message kind (myId s) dst 0 (rd s PLY_GID_SIDE 0 0) arg) s

/-- Whether an address lies in the mirrored skein table or index records (R327). -/
def inMirror (s : State) (a : Nat) : Bool :=
  let b := 2 ^ 26 * rd s PLY_MIRROR_BASE 0 0
  decide (b ≤ a) && decide (a < b + 0x520000)

/-- Whether the PF reaches an address (R340, R344): mapped, and neither privileged nor in a Ply window; while this module
covers its partner, what it mirrored is read-only (R332). -/
def pfReaches (s : State) (a : Nat) (write : Bool) : Bool :=
  match target s a with
  | .stack a => decide (a + 0x60000000 < capacity s) && !(inPly s a) && !(write && twinState s == 5 && inMirror s a)
  | .store _ _ => true
  | .cstore _ _ => true
  | .hank _ _ => true
  | .host _ => true
  | _ => false

/-! ### Spans (R324) -/

def spanValid (s : State) (i : Nat) : Bool := rdB s PLY_SPAN_CFG_VALID 0 i
def spanMember (s : State) (i : Nat) : Bool := rdB s PLY_SPAN_CFG_MEMBER 0 i
def spanPart (s : State) (i : Nat) : Nat := rd s PLY_SPAN_CFG_PART 0 i
def spanDmask (s : State) (i : Nat) : Nat := rd s PLY_SPAN_DOWN_DMASK 0 i

/-- The course bits that an entry combines. -/
def spanCourse (s : State) (i : Nat) : Nat :=
  if spanMember s i then courseOf s (spanPart s i) % 2 ^ 16 else rd s PLY_SPAN_STATE_COURSE 0 i

/-- Whether tile t has arrived on its course plane in the course of the root, which its release has then reached, or is held
in TILE reset and counts as arrived (R158). -/
def hasArrived (s : State) (t : Nat) : Bool :=
  (rd s TILE_CSTAT_STATE t 0 == 2 && !(s.releases.contains t)) || tileHeld s t

/-- Conditions 1 and 2 of R160. -/
def localArrived (s : State) (p : Nat) : Bool :=
  rd s CRS_STATUS_STATE p 0 == 2 && (tilesOf s p).all (hasArrived s) && rd s CRS_TALLY_SENT_SENT p 0 == rd s CRS_TALLY_LANDED_LANDED p 0

/-- Whether an entry is ready. -/
def spanReady (s : State) (i : Nat) : Bool :=
  (!(spanMember s i) || localArrived s (spanPart s i)) &&
    (mapGet 0 s.ply.spanGot i &&& spanDmask s i) == spanDmask s i

/-- Whether group logic acts: it is in service, and the module is neither DRAINING nor DETACHED (R333). -/
def groupLogic (s : State) : Bool := rdB s PLY_GCTL_EN 0 0 && !(twinKeeps s)

/-- A span entry begins to combine the next course. -/
def spanNext (i : Nat) (s : State) : State :=
  wr { s with ply.spanGot := mapSet 0 s.ply.spanGot i 0, ply.spanSent := mapSet false s.ply.spanSent i false }
    PLY_SPAN_STATE_COURSE 0 i (spanCourse s i + 1)

/-- Condition 3 given to the partition of a member. -/
def giveRelease (i : Nat) (s : State) : State :=
  if spanMember s i then { s with grpRel := mapSet false s.grpRel (spanPart s i) true } else s

/-- A ready entry sends ARRIVE up, or, at the root, RELEASE down. -/
def spanStep (i : Nat) (s : State) : State :=
  let given := spanMember s i && mapGet false s.grpRel (spanPart s i)
  if !(groupLogic s && spanValid s i && spanReady s i && !(mapGet false s.ply.spanSent i)) || given then s
  else
    let c := spanCourse s i
    let id := rd s PLY_SPAN_CFG_ID 0 i
    if rdB s PLY_SPAN_CFG_ROOT 0 i then
      spanNext i (giveRelease i (sendMask (spanDmask s i) (message 2 (myId s) 0xFFF id 0 c) s))
    else sendOn (upLink s) (message 1 (myId s) 0xFFF id 0 c) { s with ply.spanSent := mapSet false s.ply.spanSent i true }

/-- The entries of partition p step. -/
def spanArrived (p : Nat) (s : State) : State :=
  (List.range 64).foldl (fun s i => if spanMember s i && spanPart s i == p then spanStep i s else s) s

end Sys2Proof.Machine
end

