-- ==== Sys2Proof/Machine/Stash.lean ====
section
/-! DEFINITION. The stash engine (R217 to R223): firings chosen at a boundary, their movement, completion and signal. -/

namespace Sys2Proof.Machine

/-! ### Schedule entries (Table 10.2) -/

def stStart (d : Nat) : Nat := bitsOf d 0 32
def stDelay (d : Nat) : Nat := bitsOf d 32 16
def stIn (d : Nat) : Bool := bitsOf d 48 1 == 1
def stSig (d : Nat) : Bool := bitsOf d 49 1 == 1
def stValid (d : Nat) : Bool := bitsOf d 50 1 == 1
def stDmae (d : Nat) : Nat := bitsOf d 51 5
def stStitch (d : Nat) : Nat := bitsOf d 64 14
def stBytes (d : Nat) : Nat := bitsOf d 96 32 * 256
def stSrc (d : Nat) : Nat := bitsOf d 128 48
def stDst (d : Nat) : Nat := bitsOf d 192 48

/-- Whether partition p's schedule lies at hand: its ring base and entry i (Table 10.3). -/
def stqAddr (s : State) (p i : Nat) : Nat :=
  rd s SKN_STQ_BASE_LO_BASE 0 p * 2 ^ 12 + 2 ^ 32 * rd s SKN_STQ_BASE_HI_BASE 0 p + 32 * i

/-- A stash error (R219, R220, Table 18.7): it takes the cast branch. -/
def stashFail (p entry e code : Nat) (s : State) : State :=
  castBranch (some p) .skein (partRec s p code true (entry + 2 ^ 16 * p) (nodeDma e)) s

/-- Whether an entry breaks R219. -/
def stashBad (s : State) (p d : Nat) : Bool :=
  bitsOf d 56 8 != 0 || bitsOf d 78 18 != 0 || bitsOf d 176 16 != 0 || bitsOf d 240 16 != 0 || stBytes d == 0 ||
    stSrc d % 256 != 0 || stDst d % 256 != 0 ||
    (match target s (stSrc d), target s (stDst d) with
      | .stack _, .host _ => stIn d
      | .host _, .stack _ => !(stIn d)
      | _, _ => true) ||
    rd s PCI_DMA_CTL_OWNER 0 (stDmae d) != p + 1

/-- The address of a firing that its partition may not access. -/
def stashRefused (s : State) (p d : Nat) : Option Nat :=
  if stIn d then firstRefused s p (stDst d) (stBytes d) true else firstRefused s p (stSrc d) (stBytes d) false

/-- An entry comes to fire at the boundary into course c (R218 to R220). -/
def fireEntry (p c entry d : Nat) (s : State) : State :=
  let e := stDmae d
  if s.firings.any (fun f => f.part == p && f.entry == entry && !f.done) then
    stashFail p entry e 0x0602 (incS s SKN_STQ_SKIP_SKIP SKN_STQ_STATUS_SSKIP 0 p 1)
  else if stashBad s p d then stashFail p entry e 0x0601 s
  else match stashRefused s p d with
    | some x => castBranch (some p) (.dma e) (partRec s p 0x0101 true (awObj x) (awSrc (nodeDma e) x)) s
    | none =>
      let s1 := { s with firings := s.firings ++ [⟨p, entry, d, c + stDelay d, false⟩] }
      if stIn d then
        askHost (p + 1) (stSrc d - hostBase) (stBytes d)
          { s1 with hreads := s1.hreads ++ [⟨.firing p entry, stSrc d - hostBase, stDst d, stBytes d, e, some p, false, 0⟩] }
      else s1

/-- The ring walked from the pointer: entries below the offset passed, entries at it fired (R218). -/
def walkRing (p c o : Nat) : Nat → Nat → State → State
  | 0, ptr, s => { s with stqPtr := mapSet 0 s.stqPtr p ptr }
  | fuel + 1, ptr, s =>
    let stop : State := { s with stqPtr := mapSet 0 s.stqPtr p ptr }
    if rd s SKN_STQ_SIZE_SIZE 0 p ≤ ptr then stop
    else match firstRefused s p (stqAddr s p ptr) 32 false with
      | some x => unitRefused .skein nodeSkein p x stop
      | none =>
        let d := rdLE s (stqAddr s p ptr) 32
        let s1 := skAsk p (stqAddr s p ptr) 32 s
        if o < stStart d then skAsk p (stqAddr s p ptr) 32 stop
        else walkRing p c o fuel (ptr + 1) (if stStart d = o ∧ stValid d then fireEntry p c ptr d s1 else s1)

/-- The signal of a complete firing, on its way to its stitch (R221). -/
def stashSignal (f : Firing) (s : State) : State :=
  let s1 := { s with firings := s.firings.erase f }
  if stSig f.d then sendStitch f.part (stStitch f.d) 1 nodeSkein 7 s1 else s1

/-- What the stash engine does at the boundary into course c: the signals of firings complete before their READY course,
then the firings of c. -/
def stashBoundary (p c : Nat) (s : State) : State :=
  let s1 := (s.firings.filter (fun f => f.part == p && f.done && decide (f.ready ≤ c))).foldl (fun s f => stashSignal f s) s
  let epoch := rd64 s1 SKN_STQ_EPOCH_LO_EPOCH SKN_STQ_EPOCH_HI_EPOCH 0 p
  let size := rd s1 SKN_STQ_SIZE_SIZE 0 p
  if size = 0 ∨ c < epoch then s1
  else
    let o := (c - epoch) % max 1 (rd s1 SKN_STQ_PERIOD_PERIOD 0 p)
    walkRing p c o (size + 1) (if o = 0 then 0 else mapGet 0 s1.stqPtr p) s1

/-- Whether every byte of an IN firing has landed. -/
def inLanded (s : State) (f : Firing) : Bool :=
  !(s.hreads.any (fun h => h.kind == .firing f.part f.entry)) &&
  !(s.net.any (fun q => q.src == nodeDma (stDmae f.d) && q.who == 8 && q.part == some f.part &&
      decide (stDst f.d ≤ q.addr ∧ q.addr < stDst f.d + stBytes f.d)))

/-- The bytes of an OUT firing read, in class 3, and posted to the host. -/
def moveOut (f : Firing) (ue : Option Nat) (s : State) : State :=
  let e := stDmae f.d
  let a := stSrc f.d
  let n := stBytes f.d
  let s0 := countBytes e n (unitAccept false 3 (nodeDma e) (some f.part) a n s)
  let s1 := match metUe s ue a n with | some x => unitUe (nodeDma e) f.part x s0 | none => s0
  postHost (f.part + 1) 2 (stDst f.d - hostBase) n (delivered s ue a n (rdLE s a n)) s1

/-- A firing is complete: it signals at once where its READY course has begun, and counts as late (R221). -/
def firingDone (f : Firing) (s : State) : State :=
  if f.ready ≤ courseOf s f.part then
    stashSignal f (incS s SKN_STQ_LATE_LATE SKN_STQ_STATUS_SLATE 0 f.part 1)
  else { s with firings := s.firings.map (fun g => if g = f then { g with done := true } else g) }

/-- The firing of entry `entry` of partition p has moved its last byte. -/
def firingEnds (p entry : Nat) (ue : Option Nat) (s : State) : State :=
  match s.firings.find? (fun f => f.part == p && f.entry == entry && !f.done) with
  | none => s
  | some f =>
    if stIn f.d then (if inLanded s f then firingDone f s else s)
    else firingDone f (moveOut f ue s)

/-- STASH_FIRING_COMPLETE: `ue` is an address where an OUT firing met an uncorrectable burst. -/
def execStashFiringComplete (p entry : Nat) (ue : Option Nat) (s : State) : Host.Outcome State Fault Refusal :=
  .next (takenWhole (firingEnds p entry ue) s)

/-- The firings that satisfy a test abandoned: bytes written stay, no signal is applied (R223). -/
def abandonFirings (dead : Firing → Bool) (s : State) : State :=
  let gone := s.firings.filter dead
  { s with
    firings := s.firings.filter (fun f => !(dead f))
    hreads := s.hreads.filter (fun h => match h.kind with
      | .firing p e => !(gone.any (fun f => f.part == p && f.entry == e))
      | _ => true) }

end Sys2Proof.Machine
end

