-- ==== Sys2Proof/Machine/Tension.lean ====
section
/-! DEFINITION. The governor's part in a course (`16_power_and_thermal.md`): operating points and ceilings (R363, R370),
aligned steps (R364), charges and their check (R360, R361), and the draw (R362). -/

namespace Sys2Proof.Machine

/-! ### Operating points -/

/-- SCALE of each operating point (Table 16.5). -/
def scaleOf (op : Nat) : Nat :=
  [256, 240, 224, 210, 195, 182, 169, 156, 144, 133, 122, 112, 102, 93, 84, 76].getD op 76

/-- The ceiling of a K-die for a throttle reason (R370). -/
def ceilingOf (s : State) (d r : Nat) : Nat := mapGet 0 s.pw.ceiling (d * 8 + r)

/-- The operating point in force on a K-die: the lowest of its ceilings (R370). -/
def opOf (s : State) (d : Nat) : Nat := (List.range 8).foldl (fun m r => max m (ceilingOf s d r)) 0

/-- A ceiling set. -/
def setCeiling (d r v : Nat) (s : State) : State := { s with pw.ceiling := mapSet 0 s.pw.ceiling (d * 8 + r) v }

/-- One step down on a K-die for a reason, unless it stands at operating point 15 (R363, R365). -/
def stepDown (d r : Nat) (s : State) : State := if opOf s d < 15 then setCeiling d r (opOf s d + 1) s else s

/-- One step up on a K-die: every ceiling that holds it at its point rises by one (R364, R370). -/
def stepUp (d : Nat) (s : State) : State :=
  let op := opOf s d
  (List.range 8).foldl (fun s r => if ceilingOf s d r = op ∧ 0 < op then setCeiling d r (op - 1) s else s) s

/-- The pending aligned step of a K-die (R364). -/
def pendingStep (s : State) (d : Nat) : Option AStep := s.pw.steps.find? (fun a => a.die == d)

/-- The operating point of a step's end. -/
def stepTarget (s : State) (a : AStep) : Nat := if a.up then opOf s a.die - 1 else min 15 (opOf s a.die + 1)

/-- A step taken; nothing is pending on its die then. -/
def takeStep (a : AStep) (s : State) : State :=
  let s1 := { s with pw.steps := s.pw.steps.filter (fun x => x.die != a.die) }
  if a.up then stepUp a.die s1 else stepDown a.die a.reason s1

/-! ### Alignment (R36, R364) -/

/-- Whether a partition has clusters on a K-die. -/
def onDie (s : State) (p d : Nat) : Bool :=
  (List.range 24).any (fun i => partOfCluster s (d * 24 + i) == some p)

/-- The partitions whose boundary a step on a K-die needs: those with clusters there that are not held in PARTITION
reset. -/
def partsOn (s : State) (d : Nat) : List Nat :=
  (List.range 16).filter (fun p => mapGet false s.parts p && !(inReset s p) && onDie s p d)

/-- An aligned step asked for on a K-die: at once where no partition has clusters; else it waits, and replaces an upward
step that waits, but no downward one (R364). -/
def askStep (a : AStep) (s : State) : State :=
  if (partsOn s a.die).isEmpty then takeStep a s
  else match pendingStep s a.die with
    | some b => if b.up && !a.up then { s with pw.steps := s.pw.steps.map (fun x => if x = b then a else x) } else s
    | none => { s with pw.steps := s.pw.steps ++ [a] }

/-- Condition 3 of R160. -/
def cond3 (s : State) (p : Nat) : Bool := !(rdB s CRS_CTRL_MULTI p 0) || mapGet false s.grpRel p

/-- Condition 4 of R160. -/
def cond4 (s : State) (p : Nat) : Bool := mapGet 0 s.pw.tension p == 2 && !(mapGet false s.pw.odHold p)

/-- Whether a partition meets conditions 1 to 4 of R160, and no twin protocol step holds its release (Table 14.10). -/
def atBarrier (s : State) (p : Nat) : Bool := localArrived s p && cond3 s p && cond4 s p && !(twinKeeps s)

/-- The partitions that must reach their boundaries together with those of a list, through the dies with a pending step. -/
def alignGroup (s : State) : Nat → List Nat → List Nat
  | 0, ps => ps
  | n + 1, ps =>
    let dies := (List.range 4).filter (fun d => (pendingStep s d).isSome && ps.any (fun p => (partsOn s d).contains p))
    alignGroup s n ((List.range 16).filter (fun q => ps.contains q || dies.any (fun d => (partsOn s d).contains q)))

/-- Whether a partition stands at its boundary, its draw judged, for an aligned step (R362, R364). -/
def waitsAligned (s : State) (p : Nat) : Bool := atBarrier s p && mapGet false s.pw.alignHold p

/-- Condition 5 of R160: every partition that a pending step on p's dies needs stands at its boundary. -/
def cond5 (s : State) (p : Nat) : Bool := (alignGroup s 16 [p]).all (fun q => q == p || waitsAligned s q)

/-- The pending steps of p's dies taken at its boundary instant. -/
def takeAligned (p : Nat) (s : State) : State :=
  (s.pw.steps.filter (fun a => (partsOn s a.die).contains p)).foldl (fun s a => takeStep a s) s

/-! ### Charges (R359 to R362) -/

/-- x / y rounded up. -/
def ceilDiv (x y : Nat) : Nat := (x + y - 1) / y

/-- The entry of partition p's tension table that course c uses, of the settings in effect in that course (R359). -/
def tensionEntry (s : State) (p c : Nat) : Nat :=
  let epoch := rdNext s PWR_TEPOCH_LO_EPOCH 0 p + 2 ^ 32 * rdNext s PWR_TEPOCH_HI_EPOCH 0 p
  if c < epoch then 0 else (c - epoch) % max 1 (min 256 (rdNext s PWR_TPERIOD_PERIOD 0 p))

/-- The charge of partition p for course c, counting the aligned step that waits (R360). -/
def chargeOf (s : State) (p c : Nat) : Nat :=
  let i := p * 256 + tensionEntry s p c
  let op : Nat → Nat := fun d => match pendingStep s d with | some a => stepTarget s a | none => opOf s d
  let tc := [rd s PWR_TDATA0_TC0 0 i, rd s PWR_TDATA0_TC1 0 i, rd s PWR_TDATA1_TC2 0 i, rd s PWR_TDATA1_TC3 0 i]
  rd s PWR_TDATA2_SH 0 i + ((List.range 4).map (fun d => ceilDiv (tc.getD d 0 * scaleOf (op d)) 256)).sum

/-- The budget that partition p's next course will have (R32, R361). -/
def budgetNext (s : State) (p : Nat) : Nat := rdNext s PWR_BUDGET_BUDGET 0 p

/-- A tension record (R372). -/
def tensionRec (s : State) (p code : Nat) (trap : Bool) (charge other : Nat) : ErrRec :=
  partRec s p code trap p (charge % 2 ^ 16 + 2 ^ 16 * (other % 2 ^ 16))

/-- The check of partition p's next course, while it is CLOSING and none has been accepted (R361). -/
def checkTension (p : Nat) (s : State) : State :=
  let c := chargeOf s p (courseOf s p + 1)
  let b := budgetNext s p
  if rd s CRS_STATUS_STATE p 0 ≠ 2 ∨ mapGet 0 s.pw.tension p = 2 then s
  else if c ≤ b then
    { s with pw.tension := mapSet 0 s.pw.tension p 2, pw.chargeNext := mapSet 0 s.pw.chargeNext p c }
  else if rdB s PWR_TPOL_STALL 0 p then
    let s1 := { s with pw.tension := mapSet 0 s.pw.tension p 1 }
    if mapGet 0 s.pw.tension p = 1 then s1 else raise .governor (tensionRec s p 0x0A01 false c b) s1
  else haltWith p .governor (tensionRec s p 0x0A01 true c b) s

/-- Partition p's next course checked again: while it stalls (R361), and where a step that its accepted charge counts, or
does not, has been asked for, taken or abandoned since (R360). -/
def recharge (p : Nat) (s : State) : State :=
  if mapGet 0 s.pw.tension p = 1 then checkTension p s
  else if mapGet 0 s.pw.tension p = 2 ∧ chargeOf s p (courseOf s p + 1) ≠ mapGet 0 s.pw.chargeNext p then
    checkTension p { s with pw.tension := mapSet 0 s.pw.tension p 0 }
  else s

/-- Every partition checked again, as after a change of a budget, an entry or an operating point. -/
def recheckAll (s : State) : State := (List.range 16).foldl (fun s p => recharge p s) s

/-- What the tiles of partition p on K-die d used, in credits at operating point 0 (R358, R362). -/
def usedOn (s : State) (p d : Nat) : Nat :=
  ((List.range 576).map (fun i =>
    let t := d * 576 + i
    if partOfTile s t = some p then
      let v := mapGet 0 s.pw.usage t
      2 * (v % 2) + 2 * (v / 2 % 2) + v / 4
    else 0)).sum

/-- What the shared units drew for partition p in a course of `dur` DCLK cycles, each term rounded up (R358, R362): Blocker b,
active on its updates for `blk` b cycles; each stack, which sustains 1,024 bytes per DCLK cycle; each Ply link, which carries
1,000,000 bytes in 13,375 cycles. -/
def sharedDraw (s : State) (p dur : Nat) (blk : List Nat) : Nat :=
  let moved : Nat → Nat := fun u => mapGet 0 s.pw.moved (p * 64 + u)
  ((List.range 12).map (fun b => ceilDiv (40 * blk.getD b 0) dur)).sum +
    ((List.range 12).map (fun k => ceilDiv (35 * moved k) (1024 * dur))).sum +
    ((List.range 24).map (fun k => ceilDiv (9 * 13375 * moved (16 + k)) (1000000 * dur))).sum

/-- What the present course of partition p drew (R362). -/
def drawOf (s : State) (p dur : Nat) (blk : List Nat) : Nat :=
  sharedDraw s p dur blk +
    ((List.range 4).map (fun d => ceilDiv (usedOn s p d * scaleOf (mapGet 0 s.pw.opStart (p * 4 + d))) 256)).sum

/-- The draw of partition p's present course, once it has been judged. -/
def judged (s : State) (p : Nat) : Option Nat := match mapGet 0 s.pw.draw p with | 0 => none | d + 1 => some d

/-- The governor's part at the boundary: the last charge and draw shown, the next charge in force (R361, R362). -/
def turnTension (p : Nat) (s : State) : State :=
  let s1 := match mapGet 0 s.pw.chargeNow p with
    | 0 => s
    | c + 1 => wr s PWR_TLAST_CHARGED 0 p c
  let s2 := wr s1 PWR_TLAST_DRAWN 0 p ((judged s p).getD 0)
  { s2 with
    pw.chargeNow := mapSet 0 s2.pw.chargeNow p (mapGet 0 s2.pw.chargeNext p + 1)
    pw.tension := mapSet 0 s2.pw.tension p 0
    pw.odDone := mapSet false s2.pw.odDone p false
    pw.peerGrace := mapSet false s2.pw.peerGrace p false
    pw.draw := mapSet 0 s2.pw.draw p 0
    pw.moved := mapClear s2.pw.moved (p * 64) 64
    pw.usage := s2.pw.usage.filter (fun e => partOfTile s e.1 != some p)
    pw.opStart := (List.range 4).foldl (fun m d => mapSet 0 m (p * 4 + d) (opOf s2 d)) s2.pw.opStart }

end Sys2Proof.Machine
end

