-- ==== Sys2Proof/Machine/Capture.lean ====
section
/-! DEFINITION. The capture edge of a census (R399 to R401). -/

namespace Sys2Proof.Machine

/-- Every class S counter and sticky saturation bit of the module zeroed (R401). -/
def zeroCounters (s : State) : State :=
  let ids := classS.map (fun c => c.1.id) ++ classS.map (fun c => c.2.id)
  { s with regs := s.regs.filter (fun e => !(ids.contains (e.1 % 1024))) }

/-- Every counter copied to the bank of the next census, whose course is `course`; with `zero` the counters are then
zeroed (R399, R401). -/
def capture (course : Nat) (zero : Bool) (s : State) : State :=
  let b := (rd s CNS_SEQ_SEQ 0 0 + 1) % 2
  let s1 := { s with
    bt.shadow := mapSet [] s.bt.shadow b s.regs
    bt.shadowOk := mapSet false s.bt.shadowOk b true
    bt.armed := none }
  let s2 := wr (wr s1 CNS_STATUS_ARMED 0 0 0) CNS_STATUS_CAPTURING 0 0 1
  let s3 := wr64 s2 CNS_COURSE_LO_COURSE CNS_COURSE_HI_COURSE 0 b course
  if zero then zeroCounters s3 else s3

/-- The capture of a census armed for a boundary of partition p (R400). -/
def captureAt (p : Nat) (s : State) : State :=
  match s.bt.armed with
  | some (q, z) => if q = p then capture (courseOf s p) z s else s
  | none => s

end Sys2Proof.Machine
end

