-- ==== Sys2Proof/Machine/Course.lean ====
section
/-! DEFINITION. Courses (R157 to R163, R174, R175, R179, Table 7.1): arrival, the boundary, the release, the barrier timer,
the release of a PARTITION reset, and the writes that own and translate stitches (R168). -/

namespace Sys2Proof.Machine

/-! ### Lists of places -/

/-- The unit and index of every listed value of a field. -/
def placesOf (s : State) (f : Field) : List (Nat × Nat) :=
  (s.regs.filter (fun e => e.1 % 1024 == f.id)).map (fun e => (e.1 / 1024 % 4096, e.1 / 1024 / 4096))

/-- The physical stitches that partition p owns, as bank and index (R168). -/
def ownedStitches (s : State) (p : Nat) : List (Nat × Nat) :=
  (placesOf s STC_CTL_OWNED).filter (fun x => rdB s STC_CTL_OWNED x.1 x.2 && rd s STC_CTL_OWNER x.1 x.2 == p)

/-- The clusters of partition p. -/
def clustersOf (s : State) (p : Nat) : List Nat := (List.range 96).filter (fun c => partOfCluster s c == some p)

/-! ### Arrival (R158) -/

/-- Whether tile t meets every condition of R158. -/
def canArrive (s : State) (t : Nat) : Bool :=
  !(needlesBusy s t) && rd s TILE_CSTAT_STATE t 0 == 1 && mapGet false s.castDone t && mapGet 0 s.tags t == 0 &&
    !(s.outb.any (fun o => o.tile == t)) && stitchesOut s t == 0

/-- Once every tile of partition p has arrived it enters CLOSING: the governor checks the next course, and its spans step
(Table 7.1, R324, R361). -/
def closeCheck (p : Nat) (s : State) : State :=
  if !((tilesOf s p).all (hasArrived s)) then s
  else if rd s CRS_STATUS_STATE p 0 = 1 then spanArrived p (checkTension p (wr s CRS_STATUS_STATE p 0 2))
  else if rd s CRS_STATUS_STATE p 0 = 2 then spanArrived p s
  else s

/-- What an arrival in partition p brings about: the first of the course starts the barrier timer, the last closes the course;
a tile held in TILE reset counts (R158, R179, Table 7.1). -/
def noteArrivals (p : Nat) (s : State) : State :=
  if (tilesOf s p).any (hasArrived s) then closeCheck p { s with btRun := mapSet false s.btRun p true } else s

/-- TILE_ARRIVE (R158, R179). -/
def execTileArrive (t : Nat) (s : State) : Host.Outcome State Fault Refusal :=
  .next (match partOfTile s t with
    | none => s
    | some p => if t < 2304 ∧ canArrive s t then noteArrivals p (wr s TILE_CSTAT_STATE t 0 2) else s)

/-! ### The barrier timer (R179) -/

/-- CRS_STATUS.WAITON (Table 7.6). -/
def waitOn (s : State) (p : Nat) : Nat :=
  let b : Bool → Nat := fun x => if x then 1 else 0
  b ((tilesOf s p).all (hasArrived s)) + 2 * b (rd s CRS_TALLY_SENT_SENT p 0 == rd s CRS_TALLY_LANDED_LANDED p 0) +
    4 * b (cond3 s p) + 8 * b (cond4 s p && cond5 s p)

/-- BARRIER_TIMER_EXPIRE: the course barrier's timer of partition p expires. -/
def execBarrierTimerExpire (p : Nat) (s : State) : Host.Outcome State Fault Refusal :=
  .next (
    let st := rd s CRS_STATUS_STATE p 0
    if p < 16 ∧ mapGet false s.btRun p ∧ (st = 1 ∨ st = 2) then
      let late := ((tilesOf s p).find? (fun t => !(hasArrived s t))).getD 0xFFF
      let e := partRec s p 0x0405 true (rd s CRS_CTRL_PLANE p 0 + 2 ^ 16 * p) (late + 2 ^ 12 * 7 + 2 ^ 16 * waitOn s p)
      haltWith p (.root p) e (wr { s with btRun := mapSet false s.btRun p false } CRS_STATUS_BTMO p 0 1)
    else s)

/-! ### Steps 1 and 2: check and record (R174, R175) -/

/-- The lowest logical identifier of partition p that names a physical stitch; a free value where none does. -/
def lowestLid (s : State) (p ph : Nat) : Nat :=
  ((List.range 16384).find? (fun l => rdB s STC_XT_DATA_VALID p l && rd s STC_XT_DATA_PHYS p l == ph)).getD
    (Config.free s.freeIdx 0 % 2 ^ 14)

/-- The stitches of p with CHECK whose count differs from the quota, and those both observed and taken. -/
def driftOf (s : State) (p : Nat) : List (Nat × Nat) :=
  (ownedStitches s p).filter (fun x => rdB s STC_CTL_CHECK x.1 x.2 && rd s STC_CNT_COUNT x.1 x.2 != rd s STC_QUOTA_QUOTA x.1 x.2)
def mixedOf (s : State) (p : Nat) : List (Nat × Nat) :=
  (ownedStitches s p).filter (fun x => rdB s STC_CTL_CHECK x.1 x.2 && rdB s STC_CTL_SEENOBS x.1 x.2 && rdB s STC_CTL_SEENTAKE x.1 x.2)

/-- A record of the root about a stitch; `hold` halts the partition. -/
def rootRecord (p : Nat) (hold : Bool) (code : Nat) (source : State → Nat × Nat → Nat) (x : Nat × Nat) (s : State) : State :=
  let e := partRec s p code hold (lowestLid s p (x.1 * 4096 + x.2) + 2 ^ 16 * p) (source s x)
  if hold then haltWith p (.root p) e s else raise (.root p) e s

/-- STITCH_DRIFT and STITCH_MIXED for each mismatch, with the bits of CRS_STATUS. -/
def recordMismatches (p : Nat) (s : State) : State :=
  let dr := driftOf s p
  let mx := mixedOf s p
  let s1 := if dr.isEmpty then s else wr s CRS_STATUS_DRIFT p 0 1
  let s2 := if mx.isEmpty then s1 else wr s1 CRS_STATUS_MIXED p 0 1
  let s3 := dr.foldl (fun s x => rootRecord p (rdB s CRS_SYNCPOL_DHOLD p 0) 0x0402
    (fun s x => rd s STC_CNT_COUNT x.1 x.2 % 2 ^ 16 + 2 ^ 16 * (rd s STC_QUOTA_QUOTA x.1 x.2 % 2 ^ 16)) x s) s2
  mx.foldl (fun s x => rootRecord p (rdB s CRS_SYNCPOL_MHOLD p 0) 0x0403 (fun _ _ => 0xFFF + 2 ^ 12 * 7) x s) s3

/-- Whether CRS_SYNCPOL holds the partition on a mismatch. -/
def syncHeld (s : State) (p : Nat) : Bool :=
  (rdB s CRS_SYNCPOL_DHOLD p 0 && !(driftOf s p).isEmpty) || (rdB s CRS_SYNCPOL_MHOLD p 0 && !(mixedOf s p).isEmpty)

/-! ### Steps 3 to 6 -/

/-- Step 3: one owned stitch takes its settings and its base, and forgets its modes. -/
def resetStitch (s : State) (x : Nat × Nat) : State :=
  let s1 := commitField STC_CTL_CHECK x.1 x.2 (commitField STC_BASE_BASE x.1 x.2 (commitField STC_QUOTA_QUOTA x.1 x.2 s))
  wr (wr (wr s1 STC_CNT_COUNT x.1 x.2 (rd s1 STC_BASE_BASE x.1 x.2)) STC_CTL_SEENOBS x.1 x.2 0) STC_CTL_SEENTAKE x.1 x.2 0

/-- The RWS fields of a partition's CRS frame. -/
def crsFields : List Field :=
  [CRS_XPOL_GAUGE, CRS_XPOL_PICOT, CRS_XPOL_OUTLIER, CRS_XPOL_NAN, CRS_XPOL_TADDR, CRS_XPOL_TLATE, CRS_XPOL_TSPAN,
   CRS_SEED_LO_SEEDLO, CRS_SEED_HI_SEEDHI, CRS_CTRL_BTCLASS, CRS_SYNCPOL_DHOLD, CRS_SYNCPOL_MHOLD, CRS_TCLASS_TMO]

/-- The RWS fields of the SKN and PWR frames that have one entry a partition, and the budget (R32). -/
def hubFields : List Field :=
  [SKN_STQ_BASE_LO_BASE, SKN_STQ_BASE_HI_BASE, SKN_STQ_SIZE_SIZE, SKN_STQ_PERIOD_PERIOD, SKN_STQ_EPOCH_LO_EPOCH,
   SKN_STQ_EPOCH_HI_EPOCH, SKN_BCFG_BMAX, SKN_BCFG_PTOK, SKN_GEN_GENNEXT, SKN_WATER_LOWAT, SKN_WATER_HIWAT,
   PWR_TPOL_STALL, PWR_TPOL_OTRAP, PWR_TPERIOD_PERIOD, PWR_TEPOCH_LO_EPOCH, PWR_TEPOCH_HI_EPOCH, PWR_BUDGET_BUDGET]

/-- Whether a seed write of partition p waits to take effect (R126). -/
def seedPending (s : State) (p : Nat) : Bool :=
  (mapFind s.rws (fkey CRS_SEED_LO_SEEDLO p 0)).isSome || (mapFind s.rws (fkey CRS_SEED_HI_SEEDHI p 0)).isSome

/-- The hub-side RWS fields of partition p take effect, and with a seed write the Blockers' counts become zero (R126,
R161, R260). -/
def commitHub (p : Nat) (s : State) : State :=
  let s0 := if seedPending s p then { s with blkRng := s.blkRng.filter (fun e => e.1 % 16 != p) } else s
  let s1 := commitFields crsFields p s0
  let s2 := hubFields.foldl (fun s f => commitField f 0 p s) s1
  (List.range 12).foldl (fun s b => commitField BLK_GTAB_HI_BASE b p (commitField BLK_GTAB_LO_BASE b p s)) s2

/-- An open join round discarded, with JQ_PARTIAL where `report` (R198). -/
def dropRound (p : Nat) (report : Bool) (s : State) (x : Nat × Nat) : State :=
  let n := rd s JNQ_COUNT_COUNT x.1 x.2
  let s1 := joinClear x.1 x.2 s
  if report then
    raise (.cluster x.1) (partRec s p 0x0309 false (x.1 + 2 ^ 16 * x.2) n) (wr s1 JNQ_STATUS_PARTIAL x.1 0 1)
  else s1

/-- The join queues of partition p whose count is not zero. -/
def openRounds (s : State) (p : Nat) : List (Nat × Nat) :=
  (placesOf s JNQ_COUNT_COUNT).filter (fun x => partOfCluster s x.1 == some p && rd s JNQ_COUNT_COUNT x.1 x.2 != 0)

/-- Steps 4 and 5 of R161 for the hub: the course number, the tallies, the settings, the step, the generations in force,
the decode batch and the stash firings of the new course. -/
def advanceCourse (p unread late : Nat) (s : State) : State :=
  let n := courseOf s p
  let s1 := (openRounds s p).foldl (dropRound p true) s
  let s2 := wr64 s1 CRS_COURSE_LO_COURSE CRS_COURSE_HI_COURSE p 0 (n + 1)
  let s3 := wr (wr (wr s2 CRS_TALLY_SENT_SENT p 0 0) CRS_TALLY_LANDED_LANDED p 0 0) CRS_GRACE_GRACE p 0 0
  let key := seedPending s3 p
  let s4 := turnTension p (takeAligned p (commitHub p s3))
  let s5 : State := { s4 with
    newKey := mapSet false s4.newKey p key
    grpRel := mapSet false s4.grpRel p false
    btRun := mapSet false s4.btRun p false
    inForce := s4.inForce.filter (fun e => e.1 % 16 != p)
    pw.alignHold := mapSet false s4.pw.alignHold p false
    pw.turnArgs := mapSet (0, 0) s4.pw.turnArgs p (0, 0) }
  let s6 := collectReturns p n unread s5
  let s7 := commitBatch p (n + 1) late (wr s6 SKN_GENNOW_GENNOW 0 p (rd s6 SKN_GEN_GENNEXT 0 p))
  recheckAll (stashBoundary p (n + 1) s7)

/-- Steps 1 to 6 of R161 at partition p's boundary: held at step 1, or taken, an armed census capturing the state wholly
before. The partition is RUNNING before its stash and batch turn, whose errors may halt it (Table 7.1). Its tiles held in TILE
reset have arrived in the new course already (R158). -/
def boundary (p unread late : Nat) (s : State) : State :=
  if syncHeld s p then recordMismatches p s
  else
    let s1 := recordMismatches p (captureAt p s)
    let s2 := (ownedStitches s1 p).foldl resetStitch s1
    let s3 := advanceCourse p unread late (wr s2 CRS_STATUS_STATE p 0 1)
    noteArrivals p { s3 with releases := s3.releases ++ tilesOf s3 p }

/-- TENSION_OVERDRAW: the course drew more than its charge (R362). -/
def overdraw (p c d : Nat) (s : State) : State :=
  let s1 := incS { s with pw.odDone := mapSet false s.pw.odDone p true } PWR_OVERDRAW_COUNT PWR_STATUS_SOVER 0 p 1
  let e := tensionRec s p 0x0A02 (rdB s PWR_TPOL_OTRAP 0 p) c d
  if rdB s PWR_TPOL_OTRAP 0 p then haltWith p .governor e s1
  else raise .governor e { s1 with pw.odHold := mapSet false s1.pw.odHold p true }

/-- Partition p's boundary together with those of every partition that a pending step on its dies needs, at one instant; or p
waits for them, its own counts kept (R364). -/
def turnTogether (p unread late : Nat) (s : State) : State :=
  if !(cond5 s p) then
    { s with pw.alignHold := mapSet false s.pw.alignHold p true, pw.turnArgs := mapSet (0, 0) s.pw.turnArgs p (unread, late) }
  else
    (alignGroup s 16 [p]).foldl (fun s' q =>
      let a := if q = p then (unread, late) else mapGet (0, 0) s.pw.turnArgs q
      boundary q a.1 a.2 s') s

/-- What the boundary of partition p meets: a release not yet due; an overdraw; a mismatch that holds it; or the boundary
itself. -/
def tryBoundary (p dur : Nat) (blk : List Nat) (unread late : Nat) (s : State) : State :=
  if !(atBarrier s p) then (if rd s CRS_STATUS_STATE p 0 = 2 then spanArrived p s else s)
  else
    let d := (judged s p).getD (drawOf s p dur blk)
    let s1 : State := { s with pw.draw := mapSet 0 s.pw.draw p (d + 1) }
    let excess := match mapGet 0 s.pw.chargeNow p with
      | 0 => none
      | c + 1 => if c < d ∧ mapGet false s.pw.odDone p = false then some c else none
    match excess with
    | some c => overdraw p c d s1
    | none => if syncHeld s1 p then boundary p unread late s1 else turnTogether p unread late s1

/-- COURSE_BOUNDARY: the barrier root of partition p completes the course (R161). -/
def execCourseBoundary (p : Nat) (m : Measured) (left : BatchLeft) (s : State) : Host.Outcome State Fault Refusal :=
  .next (if p < 16 ∧ mapGet false s.parts p then tryBoundary p m.dur m.blk left.unread left.late s else s)

/-! ### The release (R162) -/

/-- The RWS fields of a tile and of a cluster. -/
def tileFields : List Field :=
  [NDL_BIAS_WF0, NDL_BIAS_WB0, NDL_BIAS_WU0, NDL_BIAS_WF1, NDL_BIAS_WB1, NDL_BIAS_WU1]
def clusterFields : List Field := [CLU_MERGECTL_WINDOW, HNK_ZBASE_ZBASE, HNK_ZLEN_ZLEN, HNK_ZLEN_HARVEST]

/-- The key in force taken and the count set to zero (R126). -/
def takeKey (t p : Nat) (s : State) : State :=
  setRngCount t 0 { s with genKey := mapSet 0 s.genKey t (BitVec.ofNat 64 (rd s CRS_SEED_LO_SEEDLO p 0 + 2 ^ 32 * rd s CRS_SEED_HI_SEEDHI p 0)) }

/-- A needle at a boundary (Table 2.2). -/
def needleBoundary (t : Nat) (s : State) (nc : Nat) : State :=
  match needleState s t nc with
  | 1 => if rdB s NDL_ENTRY_VALID t nc then wr (setPC t nc (rd s NDL_ENTRY_PC t nc) s) NDL_STATE t nc nsRun else s
  | 4 => wr s NDL_STATE t nc nsRun
  | _ => s

/-- A landing window with AUTOCLOSE closes (R162). -/
def autoClose (t : Nat) (s : State) (w : Nat) : State :=
  if rdB s TST_LW_CTRL_AUTOCLOSE t w && winState s t w == 1 then wr s TST_LW_CTRL_STATE t w 2 else s

/-- A tile enters course n of partition p: its settings take effect, its engine returns to COMPUTE, its needles run on. -/
def enterCourse (t p n : Nat) (key : Bool) (s : State) : State :=
  let s1 := commitFields tileFields t { s with
    arb := mapClear s.arb (t * 16) 16
    tcourse := mapSet 0 s.tcourse t n
    castDone := mapSet false s.castDone t false }
  let s2 := if key then takeKey t p s1 else s1
  let s3 := (List.range 16).foldl (autoClose t) s2
  let s4 := wr (wr s3 TILE_CSTAT_STATE t 0 0) TILE_CSTAT_CPC t 0 0
  [0, 1, 2].foldl (needleBoundary t) s4

/-- TILE_RELEASE: the release reaches tile t. -/
def execTileRelease (t : Nat) (s : State) : Host.Outcome State Fault Refusal :=
  .next (match partOfTile s t with
    | none => s
    | some p =>
      if !(s.releases.contains t) then s
      else
        let c := t / 24
        let s1 := if (List.range 24).all (fun i => s.releases.contains (c * 24 + i)) then commitFields clusterFields c s else s
        enterCourse t p (courseOf s p) (mapGet false s.newKey p) { s1 with releases := s1.releases.erase t })

/-! ### The release of a PARTITION reset (Table 7.1, R212, R424) -/

/-- Whether partition p can leave PARTITION reset: no source and no hold covers it, and every packet injected for it
before the reset has landed. -/
def canRelease (s : State) (p : Nat) : Bool :=
  mapGet false s.parts p && inReset s p && rd s RST_PHOLD_HOLD 0 0 / 2 ^ p % 2 == 0 && s.bt.latched == 0 && s.bt.exiting == 0 &&
    !(s.net.any (fun q => q.part == some p && q.old))

/-- A tile of partition p leaves reset into course 0. -/
def startTile (p : Nat) (s : State) (t : Nat) : State :=
  let s1 := if s.bt.swTiles.contains t then s
    else [0, 1, 2].foldl (fun s nc => if needleState s t nc = nsReset then wr s NDL_STATE t nc nsIdle else s) s
  enterCourse t p 0 true s1

/-- The join queues of partition p that may hold lines: those with contributions, and those in service. -/
def usedQueues (s : State) (p : Nat) : List (Nat × Nat) :=
  (placesOf s JNQ_CFG_VALID).filter (fun x => partOfCluster s x.1 == some p)

/-- Partition p starts course 0: with every join queue empty and FRESH (R198), and its tiles that stay held in TILE reset
arrived. -/
def startPartition (p : Nat) (s : State) : State :=
  let s1 := wr64 s CRS_COURSE_LO_COURSE CRS_COURSE_HI_COURSE p 0 0
  let s2 := commitHub p { s1 with bt.swParts := s1.bt.swParts.filter (fun q => q % 16 != p) }
  let s3 := (ownedStitches s2 p).foldl resetStitch s2
  let s4 := (openRounds s3 p ++ usedQueues s3 p).foldl (dropRound p false) s3
  let s5 := (clustersOf s4 p).foldl (fun s c => commitFields clusterFields c s) s4
  let s6 := (tilesOf s5 p).foldl (startTile p) (wr s5 CRS_STATUS_STATE p 0 1)
  noteArrivals p { s6 with pw.opStart := (List.range 4).foldl (fun m d => mapSet 0 m (p * 4 + d) (opOf s6 d)) s6.pw.opStart }

/-- PARTITION_RESET_RELEASE: the PARTITION reset of p ends, once every old packet has landed, and course 0 starts. -/
def execPartitionResetRelease (p : Nat) (s : State) : Host.Outcome State Fault Refusal :=
  .next (if p < 16 ∧ canRelease s p then startPartition p s else s)

/-! ### Stitch ownership and translation (R168, Table 7.4) -/

/-- STC_XT_DATA_WRITE: a write of partition p's translation entry; one that names a stitch the partition does not own is
ignored. -/
def execStcXtDataWrite (rq : Requester) (p : Nat) (v : W32) (s : State) : Host.Outcome State Fault Refusal :=
  .next (if 16 ≤ p then s
    else busWrite rq (regOf STC_XT_DATA_PHYS p 0) v 0xF (fun fr u off hs s =>
      let ph := bitsOf v.toNat 0 14
      let own := rdB s STC_CTL_OWNED (ph / 4096) (ph % 4096) && rd s STC_CTL_OWNER (ph / 4096) (ph % 4096) == p
      if bitsOf v.toNat 31 1 = 1 ∧ own = false then setWrign fr u off s else writeHits rq fr u off v hs s) s)

/-- What a change of STC_CTL.OWNED does to a stitch (Table 7.4). -/
def ownedChange (die : Nat) (s0 s : State) : State :=
  let i := rd s0 STC_SEL_INDEX die 0
  let ph := die * 4096 + i
  let based := setCount ph (rd s STC_BASE_BASE die i) s
  match rdB s0 STC_CTL_OWNED die i, rdB s STC_CTL_OWNED die i with
  | false, true => based
  | true, false => { based with waiters := based.waiters.filter (fun w => !(atStitch ph w)) }
  | _, _ => s

/-- STC_CTL_WRITE: a write of STC_CTL of the selected stitch of a bank. -/
def execStcCtlWrite (rq : Requester) (die : Nat) (v : W32) (s : State) : Host.Outcome State Fault Refusal :=
  .next (if 4 ≤ die then s else busCmd rq STC_CTL_OWNED die 0 v (fun _ s1 => ownedChange die s s1) s)

end Sys2Proof.Machine
end

