-- ==== Sys2Proof/Machine/Records.lean ====
section
/-! DEFINITION. Filing of error records (R403 to R410): the hub queue, the error rings, the interrupts, and the SMBus
count. -/

namespace Sys2Proof.Machine

/-- Word 0 of a record (Table 18.5). -/
def recHead (h : Held) (seq : Nat) : Nat :=
  let b : Bool → Nat := fun x => if x then 1 else 0
  h.err.code + 2 ^ 16 * h.err.part.getD 0 + 2 ^ 20 * b h.err.part.isSome + 2 ^ 21 * b h.err.trap +
    2 ^ 22 * b h.err.fatal + 2 ^ 23 * b h.loss + 2 ^ 24 * (seq % 256)

/-- The four words of a record filed as number `seq`. -/
def recWords (h : Held) (seq : Nat) : List W32 :=
  [recHead h seq, h.err.object, h.err.source, h.err.course].map (BitVec.ofNat 32)

/-- The functions that a record goes to: the PF, and the VF of its partition (R407). -/
def recFuncs (e : ErrRec) : List Nat := 0 :: (e.part.map (· + 1)).toList

/-- LOG2 of an error ring as it acts. -/
def errLog2 (s : State) (f : Nat) : Nat := max 4 (min 16 (rd s ERR_RCFG_LOG2 0 f))

/-- The base of function f's error ring. -/
def errBase (s : State) (f : Nat) : Nat := rd s ERR_RBASE_LO_BASE 0 f * 2 ^ 12 + 2 ^ 32 * rd s ERR_RBASE_HI_BASE 0 f

/-- A record written to the ring of function f, then its count; `bad` where the host refuses the record's write (R407). -/
def ringRecord (ws : List W32) (bad : Bool) (f : Nat) (s : State) : State :=
  if !(rdB s ERR_RCFG_EN 0 f) then s
  else
    let n := 2 ^ errLog2 s f
    let k := rd s ERR_RPROD_PROD 0 f
    let s1 := if bad then wr s ERR_STATUS_RDROP 0 0 1
      else postHost f 0 (errBase s f + k % n * 16) 16 (packN 32 (ws.map BitVec.toNat)) s
    postHost f 0 (errBase s f + n * 16) 4 ((k + 1) % 2 ^ 32) (wr s1 ERR_RPROD_PROD 0 f ((k + 1) % 2 ^ 32))

/-- A record counted for function f's vector 1 (R408). -/
def countRecord (now : Bool) (f : Nat) (s : State) : State :=
  let k := mapGet 0 s.vecCnt f + 1
  if now || decide (max 1 (rd s ERR_RCFG_MODCNT 0 f) ≤ k) then signalErr f s
  else { s with vecCnt := mapSet 0 s.vecCnt f k }

/-- A record filed with the ERR block; bit f of `bad` says that the write to function f's ring fails (R406 to R410). -/
def fileRecord (h : Held) (bad : Nat) (s : State) : State :=
  let ws := recWords h (rd s ERR_FILED_LO_FILED 0 0)
  let s1 := incM s ERR_FILED_LO_FILED ERR_FILED_HI_FILED 0 0 1
  let s2 := if s1.errQueue.length < 256 then { s1 with errQueue := s1.errQueue ++ [ws] } else wr s1 ERR_STATUS_QOVF 0 0 1
  let s3 := wr (wr s2 ERR_SMB_COUNT 0 0 (min 0xFFFF (rd s2 ERR_SMB_COUNT 0 0 + 1))) ERR_SMB_CODE 0 0 h.err.code
  let s4 := { s3 with hubIrq := s3.hubIrq || rdB s3 ERR_CTRL_HUBIRQ 0 0 }
  let s5 := (recFuncs h.err).foldl (fun s f => ringRecord ws (bad / 2 ^ f % 2 == 1) f s) s4
  let s6 := (recFuncs h.err).foldl (fun s f => countRecord (h.err.trap || h.err.fatal) f s) s5
  match h.err.halt with
  | some p => signalHalted p s6
  | none => s6

/-- RECORD_FILE: the record at place i of those held is filed, each unit's in the order it raised them. -/
def execRecordFile (i bad : Nat) (s : State) : Host.Outcome State Fault Refusal :=
  .next (match s.held[i]? with
    | none => s
    | some h =>
      if (s.held.take i).any (fun x => decide (x.unit = h.unit)) then s
      else fileRecord h bad { s with held := s.held.eraseIdx i })

/-- ERR_QPOP: a write of ERR_QPOP with POP 1; only a hub core's discards the oldest record (R406). -/
def execErrQpop (rq : Requester) (v : W32) (s : State) : Host.Outcome State Fault Refusal :=
  .next (if bitsOf v.toNat 0 1 = 0 then s
    else busCmd rq ERR_QPOP_POP 0 0 v (fun off s =>
      match rq with
      | .hub _ => { s with errQueue := s.errQueue.drop 1 }
      | .func _ => setWrign .err 0 off s) s)

/-- A fatal error: its record is filed before the reset takes its unit, after those that hub firmware holds before it; a
record that finds its unit's slot full is dropped as any other (R405; log 114). -/
def fileFatal (code object source : Nat) (u : UnitId) (s : State) : State :=
  let e := plainRec code true object source
  let s0 : State := { s with bt.fatalCode := code }
  let mine := s.held.filter (fun h => decide (h.unit = u))
  if !(decide (u = .hubfw)) && !(mine.isEmpty) then raise u e s0
  else
    let s1 := mine.foldl (fun s h => fileRecord h 0 s) { s0 with held := s.held.filter (fun h => decide (h.unit ≠ u)) }
    fileRecord ⟨u, e, s.lossy.contains u⟩ 0 { s1 with lossy := s1.lossy.filter (fun x => decide (x ≠ u)) }

/-- Whether the pin ALERT_N is driven low (R410, Table 18.3). -/
def alertLow (s : State) : Bool := rdB s ERR_CTRL_ALERTEN 0 0 && rd s ERR_SMB_COUNT 0 0 != 0

end Sys2Proof.Machine
end

