-- ==== Sys2Proof/Machine/Census.lean ====
section
/-! DEFINITION. The census (R399 to R402): its commands, and the shadow banks as CNS_SDATA and CNS_SMETA show them. -/

namespace Sys2Proof.Machine

/-- The class M counters, as pairs of halves (R397). -/
def classM : List (Field × Field) :=
  hiPairs.filter (fun p => !([CRS_COURSE_LO_COURSE.id, SKN_STQ_EPOCH_LO_EPOCH.id, PWR_TEPOCH_LO_EPOCH.id].contains p.1.id))

/-- The CLASS of a field (Table 18.4). -/
def censusClass (f : Field) : Nat :=
  if classS.any (fun c => c.1.id == f.id) then 1
  else if classM.any (fun c => c.1.id == f.id || c.2.id == f.id) then 2
  else if f.id = CRS_COURSE_LO_COURSE.id ∨ f.id = CRS_COURSE_HI_COURSE.id then 3
  else 0

/-- The bank that the census under way writes. -/
def nextBank (s : State) : Nat := (rd s CNS_SEQ_SEQ 0 0 + 1) % 2

/-- A field's value in a shadow bank. -/
def shadowRd (s : State) (b : Nat) (f : Field) (u n : Nat) : Nat :=
  mapGet (initOf f u) (mapGet [] s.bt.shadow b) (fkey f u n)

/-- What CNS_SADDR names, where it is a counter of a valid bank: the field, its unit and index. -/
def censusAt (s : State) (rq : Requester) : Option (Field × Nat × Nat) :=
  if !(mapGet false s.bt.shadowOk (rd s CNS_SADDR_BANK 0 0)) then none
  else match locate (rd s CNS_SADDR_OFS 0 0 * 4) with
    | none => none
    | some (fr, u, off) =>
      if (viewOf fr off).1 ≠ 0 then none
      else ((hitsAt fr off).find? (fun h => censusClass h.f != 0)).map (fun h => (h.f, u, bankIdx s rq h.f u h.n))

/-- The data at CNS_SADDR. -/
def censusData (s : State) (rq : Requester) : Nat :=
  match censusAt s rq with
  | some (f, u, n) => shadowRd s (rd s CNS_SADDR_BANK 0 0) f u n
  | none => 0

/-- CLASS and STICKY at CNS_SADDR. -/
def censusMeta (s : State) (rq : Requester) : Nat × Nat :=
  match censusAt s rq with
  | some (f, u, n) =>
    (censusClass f, match classS.find? (fun c => c.1.id == f.id) with
      | some c => shadowRd s (rd s CNS_SADDR_BANK 0 0) c.2 u (if c.2.cnt = 1 then 0 else n)
      | none => 0)
  | none => (0, 0)

/-- Whether a read of CNS_SDATA stalls: its bank is being captured (R402). -/
def censusStalls (s : State) : Bool := rdB s CNS_STATUS_CAPTURING 0 0 && rd s CNS_SADDR_BANK 0 0 == nextBank s

/-- The address advanced after a read of CNS_SDATA. -/
def censusAdvance (s : State) : State :=
  if rdB s CNS_SADDR_AINC 0 0 then wr s CNS_SADDR_OFS 0 0 (rd s CNS_SADDR_OFS 0 0 + 1) else s

/-- CNS_SDATA_READ: a read of CNS_SDATA (R402); the CNS block is reached only by the hub cores and the PF. -/
def execCnsSdataRead (rq : Requester) (s : State) : Host.Outcome State Fault Refusal :=
  .next (if !(reaches s rq .cns 0 0x24 false) then busRead rq (regOf CNS_SDATA_DATA 0 0) s
    else if censusStalls s then s
    else censusAdvance { s with rdata := BitVec.ofNat 32 (censusData s rq) })

/-- An armed census disarmed (R400). -/
def disarm (s : State) : State := wr { s with bt.armed := none } CNS_STATUS_ARMED 0 0 0

/-- A write of CNS_CTRL with GO in mode m: `act` where it is accepted. -/
def censusGo (m : Nat) (rq : Requester) (v : W32) (act : State → State) (s : State) : State :=
  if bitsOf v.toNat 31 1 = 0 ∨ bitsOf v.toNat 0 2 ≠ m then s
  else busCmd rq CNS_CTRL_GO 0 0 v (fun off s =>
    let s1 := if bitsOf v.toNat 30 1 = 1 then disarm s else s
    if rdB s1 CNS_STATUS_ARMED 0 0 || rdB s1 CNS_STATUS_CAPTURING 0 0 then setWrign .cns 0 off s1 else act s1) s

/-- CENSUS_AT_BOUNDARY: GO in mode 1. -/
def execCensusAtBoundary (rq : Requester) (v : W32) (s : State) : Host.Outcome State Fault Refusal :=
  .next (censusGo 1 rq v (fun s =>
    wr { s with bt.armed := some (rd s CNS_CTRL_PART 0 0, rdB s CNS_CTRL_ZERO 0 0) } CNS_STATUS_ARMED 0 0 1) s)

/-- CENSUS_NOW: GO in mode 2, with the capture edge that follows it. -/
def execCensusNow (rq : Requester) (v : W32) (s : State) : Host.Outcome State Fault Refusal :=
  .next (censusGo 2 rq v (fun s => capture 0 (rdB s CNS_CTRL_ZERO 0 0) s) s)

/-- CENSUS_CANCEL: a write of CNS_CTRL with CANCEL 1 and GO 0. -/
def execCensusCancel (rq : Requester) (v : W32) (s : State) : Host.Outcome State Fault Refusal :=
  .next (if bitsOf v.toNat 30 1 = 0 ∨ bitsOf v.toNat 31 1 = 1 then s
    else busCmd rq CNS_CTRL_CANCEL 0 0 v (fun _ s => disarm s) s)

/-- CENSUS_DONE: the shadows of the census under way are written (R399). -/
def execCensusDone (s : State) : Host.Outcome State Fault Refusal :=
  .next (if rdB s CNS_STATUS_CAPTURING 0 0 then
      wr (wr (wr s CNS_SEQ_SEQ 0 0 (rd s CNS_SEQ_SEQ 0 0 + 1)) CNS_STATUS_CAPTURING 0 0 0) CNS_STATUS_DONE 0 0 1
    else s)

end Sys2Proof.Machine
end

