-- ==== Sys2Proof/Machine/Reset.lean ====
section
/-! DEFINITION. Reset (R61, R373 to R380, R424, Tables 17.1 to 17.3): what each reach does to the state, the sources and
the latched reach, and the commands that assert or release a source. The exit sequences are in `Boot.lean`. -/

namespace Sys2Proof.Machine

/-! ### PARTITION reach -/

/-- DMA engine e stops with no record (Table 15.6, last row). -/
def stopEngine (e : Nat) (s : State) : State :=
  let s1 : State := { s with
    hst.dmas := s.hst.dmas.filter (fun d => d.eng != e)
    hreads := s.hreads.filter (fun h => match h.kind with | .dma x => x != e | _ => true) }
  wr (wr (wr (wr s1 PCI_DMA_STATUS_STATE 0 e 0) PCI_DMA_CTL_EN 0 e 0) PCI_DMA_IDX_TAIL 0 e 0) PCI_DMA_IDX_CHEAD 0 e 0

/-- The engines of a function (R344). -/
def enginesOf (s : State) (f : Nat) : List Nat := (List.range 32).filter (fun e => rd s PCI_DMA_CTL_OWNER 0 e == f)

/-- The numbers of a frame's fields. -/
def frameIds (fr : Frame) : List Nat := (fieldsOf fr).map (fun f => f.id)

/-- The numbers of the counters and their sticky bits. -/
def counterIds : List Nat :=
  classS.map (fun c => c.1.id) ++ classS.map (fun c => c.2.id) ++ classM.map (fun c => c.1.id) ++ classM.map (fun c => c.2.id)

/-- The frames of a tile and of a cluster. -/
def tileFrames : List Frame := [.tile, .ndl, .tst, .prl, .ary, .slp, .str]
def clusterFrames : List Frame := [.clu, .hnk, .jnq, .mesh]

/-- The counters of the tiles and clusters that satisfy a test zeroed (Table 17.3). -/
def zeroUnits (tile cluster : Nat → Bool) (s : State) : State :=
  let tids := (tileFrames.flatMap frameIds).filter (fun i => counterIds.contains i)
  let cids := (clusterFrames.flatMap frameIds).filter (fun i => counterIds.contains i)
  { s with regs := s.regs.filter (fun e =>
      !((tids.contains (e.1 % 1024) && tile (e.1 / 1024 % 4096)) || (cids.contains (e.1 % 1024) && cluster (e.1 / 1024 % 4096)))) }

/-- Whether a unit belongs to partition p (Table 18.10). -/
def unitOf (s : State) (p : Nat) (u : UnitId) : Bool :=
  match u with
  | .tile t => partOfTile s t == some p
  | .cluster c => partOfCluster s c == some p
  | .xlat q => q == p
  | .root q => q == p
  | _ => false

/-- The records of units that satisfy a test zeroed (Table 17.3). -/
def dropRecords (gone : UnitId → Bool) (s : State) : State :=
  { s with held := s.held.filter (fun h => !(gone h.unit)), lossy := s.lossy.filter (fun u => !(gone u)) }

/-- Every endpoint of a tile CLOSED without a packet: the STATE field of its descriptor reads 0 (Tables 8.1, 8.3, 8.4). -/
def closeEndpoints (t : Nat) (s : State) : State :=
  (List.range 32).foldl (fun s n =>
    let e := getTx s t n
    let r := getRx s t n
    let s1 := if e.st = 0 then s else setTx t n { e with st := 0 } s
    if r.st = 0 then s1 else setRx t n { r with st := 0 } s1) s

/-- A tile under a PARTITION or wider reset: as a TILE reset, and every endpoint CLOSED without a packet (Tables 8.3,
8.4). -/
def resetTileWide (t : Nat) (s : State) : State :=
  let s1 := closeEndpoints t (resetTileCore t s)
  wrReset (wrReset { s1 with tx := mapClear s1.tx (t * 32) 32, rx := mapClear s1.rx (t * 32) 32 } STR_TXOPEN_TXOPEN t 0)
    STR_RXOPEN_RXOPEN t 0

/-- The Blockers, stitch network and skein unit under a reset of partition p (R223, R244, R263, R282). -/
def resetShared (p : Nat) (s : State) : State :=
  let s1 := abandonFirings (fun f => f.part == p) (clearSkeins p s)
  let s2 := (ownedStitches s1 p).foldl (fun s x => wr s STC_CNT_COUNT x.1 x.2 (rd s STC_BASE_BASE x.1 x.2)) s1
  { s2 with
    stqPtr := mapSet 0 s2.stqPtr p 0
    waiters := s2.waiters.filter (fun w => w.part != p)
    pins := s2.pins.filter (fun x => x.part != p)
    gathers := s2.gathers.filter (fun g => g.part != p)
    descs := s2.descs.filter (fun d => partOfTile s d.tile != some p)
    upds := s2.upds.filter (fun u => u.part != p)
    blkRng := s2.blkRng.filter (fun e => e.1 % 16 != p)
    inForce := s2.inForce.filter (fun e => e.1 % 16 != p) }

/-- The governor's and the spans' record of partition p under its reset; aligned steps that waited for it alone are
taken (R364). -/
def resetPlans (p : Nat) (s : State) : State :=
  let mine : Nat → Bool := fun i => spanMember s i && spanPart s i == p
  let s1 : State := { s with
    pw.tension := mapSet 0 s.pw.tension p 0
    pw.chargeNext := mapSet 0 s.pw.chargeNext p 0
    pw.chargeNow := mapSet 0 s.pw.chargeNow p 0
    pw.odHold := mapSet false s.pw.odHold p false
    pw.odDone := mapSet false s.pw.odDone p false
    pw.alignHold := mapSet false s.pw.alignHold p false
    pw.turnArgs := mapSet (0, 0) s.pw.turnArgs p (0, 0)
    pw.draw := mapSet 0 s.pw.draw p 0
    pw.moved := mapClear s.pw.moved (p * 64) 64
    pw.peerGrace := mapSet false s.pw.peerGrace p false
    pw.usage := s.pw.usage.filter (fun e => partOfTile s e.1 != some p)
    ply.spanGot := s.ply.spanGot.filter (fun e => !(mine e.1))
    ply.spanSent := s.ply.spanSent.filter (fun e => !(mine e.1)) }
  (s1.pw.steps.filter (fun a => (partsOn s1 a.die).isEmpty)).foldl (fun s a => takeStep a s) s1

/-- A census armed for partition p disarmed (R400). -/
def disarmFor (p : Nat) (s : State) : State :=
  match s.bt.armed with
  | some (q, _) => if q = p then disarm s else s
  | none => s

/-- A PARTITION reset of p is asserted (Table 7.1, R198, R229, R424, Table 17.3). -/
def resetPartition (p : Nat) (s : State) : State :=
  let ts := tilesOf s p
  let s1 := ts.foldl (fun s t => resetTileWide t s) s
  let s2 : State := { s1 with
    net := s1.net.map (fun q => if q.part = some p then { q with old := true } else q)
    releases := s1.releases.filter (fun t => !(ts.contains t))
    bt.nonce := none
    grpRel := mapSet false s1.grpRel p false
    btRun := mapSet false s1.btRun p false
    newKey := mapSet false s1.newKey p false }
  let s3 := wr (wr (wr (wr s2 CRS_STATUS_STATE p 0 0) CRS_TALLY_SENT_SENT p 0 0) CRS_TALLY_LANDED_LANDED p 0 0) CRS_GRACE_GRACE p 0 0
  let s4 := (openRounds s3 p).foldl (dropRound p false) s3
  let s5 := (clustersOf s4 p).foldl (fun s c => { s with fresh := mapClear s.fresh (c * 8192) 8192 }) s4
  let s6 := (enginesOf s5 (p + 1)).foldl (fun s e => stopEngine e s) (resetShared p s5)
  let s7 := zeroUnits (fun t => ts.contains t) (fun c => partOfCluster s c == some p) s6
  disarmFor p (resetPlans p (dropRecords (unitOf s p) s7))

/-! ### COMPUTE reach -/

/-- Whether a unit is of a K-die. -/
def kdieUnit (u : UnitId) : Bool :=
  match u with
  | .tile _ | .cluster _ | .bank _ | .blocker _ | .memctl _ => true
  | _ => false

/-- The frames of K-die units that a COMPUTE reset resets. -/
def kdieFrames : List Frame := tileFrames ++ clusterFrames ++ [.stc, .mem, .phy, .blk]

/-- The fields of those frames that it keeps: partition definitions, the shard table, the channel map and training
results, and the darning maps (Table 17.3, R155). -/
def computeKeeps (f : Field) : Bool :=
  decide (f.bank = .sh) ||
    ([STC_CTL_OWNED, STC_CTL_OWNER, BLK_GTAB_LO_BASE, BLK_GTAB_HI_BASE, MEM_CHMAP_ACTIVE, MEM_SPARE_LANE36, MEM_SPARE_LANE37,
      MEM_TOTAL_NCH, MEM_TOTAL_DEGRADED, MEM_STATUS_TRAINED, MEM_TEMP_TEMP, CLU_TEST_TMODE, CLU_DARN_DCOL, CLU_DARN_FCOL, CLU_DARN_FAIL,
      CLU_DARN_OVR, CLU_STATUS_DARNBAD].map (fun g => g.id)).contains f.id

/-- The numbers of the fields that a COMPUTE reset resets. -/
def computeIds : List Nat :=
  kdieFrames.flatMap (fun fr => ((fieldsOf fr).filter (fun f => !(computeKeeps f))).map (fun f => f.id))

/-- A census under way abandoned: its bank reads as invalid (R400). -/
def abandonCensus (s : State) : State :=
  if rdB s CNS_STATUS_CAPTURING 0 0 then
    wr { s with bt.shadowOk := mapSet false s.bt.shadowOk (nextBank s) false } CNS_STATUS_CAPTURING 0 0 0
  else s

/-- The units of the K-dies under a reset of reach COMPUTE: every tile as by a TILE reset with its strand endpoints CLOSED, the
mesh empties but for packets in the hands of a Ply link,
the controllers drop their queued reads, and the Blockers and stitch banks forget what was under way (R292, Table 17.1). -/
def resetUnits (s : State) : State :=
  { s with
    regs := s.regs.filter (fun e => !(computeIds.contains (e.1 % 1024)))
    rws := s.rws.filter (fun e => !(computeIds.contains (e.1 % 1024)))
    net := s.net.filter (fun q => s.ply.away.any (fun a => a.2.2 == q.pid))
    sreg := []
    areg := []
    vreg := []
    preg := []
    pcs := []
    ibuf := []
    ipage := []
    fills := []
    arb := []
    gather := []
    prlLoads := []
    acc := []
    accR := []
    latch := []
    wbuf := []
    wform := []
    wloads := []
    young := []
    flights := []
    castDone := []
    trapLater := []
    ashps := []
    outWait := []
    tx := []
    rx := []
    turn := []
    credUsed := []
    rrPtr := []
    respRun := []
    merge := []
    outb := []
    tags := []
    joinCred := []
    stops := []
    waiters := []
    released := []
    stalls := []
    fresh := []
    freshen := []
    descs := []
    pins := []
    inForce := []
    gathers := []
    upds := []
    blkRng := []
    memq := []
    openRow := []
    scrubPtr := []
    training := []
    hreads := s.hreads.filter (fun h => match h.kind with | .dma _ => true | _ => false) }

/-- Every skein FREE, other fields kept, with no copy to the spill (R380, Table 17.3). -/
def freeSkeins (s : State) : State :=
  let s1 := { s with spilling := false }
  s1.skeins.foldl (fun s e => if eState e.2.toNat = kFree then s else setState e.1 kFree s) s1

/-- The existing partitions. -/
def partsOf (s : State) : List Nat := (List.range 16).filter (fun p => mapGet false s.parts p)

/-- A reset of reach COMPUTE is asserted: every partition is left held in PARTITION reset (R373). -/
def enterCompute (s : State) : State :=
  let s0 := { abandonCensus s with spilling := false }
  let s1 := (partsOf s0).foldl (fun s p => resetPartition p (wrOr s RST_PHOLD_HOLD 0 0 (2 ^ p)))
    { s0 with pw.emerg := s0.pw.emerg.filter (fun e => e.1 != 4) }
  dropRecords kdieUnit (resetUnits (freeSkeins s1))

/-! ### WARM and COLD reach -/

/-- The numbers of the fields that outlast a WARM reset: the fuse shadow, the reset record and sources, the channel map,
the swatch band (Table 17.3). -/
def warmIds : List Nat :=
  frameIds .fuse ++ ([RST_STATUS_SRC, RST_LAST_SRC, RST_LAST_REACH, MEM_CHMAP_ACTIVE, MEM_SPARE_LANE36, MEM_SPARE_LANE37,
    CLU_DARN_FCOL, CLU_DARN_FAIL, BOOT_STATUS_BAND, BOOT_STATUS_CODE, PLY_GID_SIDE, PLY_GID_MCAP].map (fun f => f.id))

/-- The state after a reset of reach WARM is asserted: everything but the fuse shadow, the flash, the stacks with their
training, and what stands outside the module (Tables 17.1, 17.3). -/
def enterWarm (s : State) : State :=
  { State.reset with
    pending := s.pending
    regs := s.regs.filter (fun e => warmIds.contains (e.1 % 1024))
    rdata := s.rdata
    mem := s.mem.filter (fun e => decide (2 ^ 52 ≤ e.1))
    hostMem := s.hostMem
    freeIdx := s.freeIdx
    nextPid := s.nextPid
    vecSent := s.vecSent
    eyes := s.eyes
    hst := { State.reset.hst with hclk := s.hst.hclk, cfgData := s.hst.cfgData, barData := s.hst.barData, barAnswer := s.hst.barAnswer, sent := s.hst.sent, smbReply := s.hst.smbReply, uartOut := s.hst.uartOut, printed := s.hst.printed }
    pw := { State.reset.pw with thermTrip := s.pw.thermTrip, power := s.pw.power }
    bt := { s.bt with
      endpointRst := true, swTiles := [], swParts := [], nextLeaf := 0, hostImage := [], initList := [], activeSvn := 0,
      nonce := none, wdogRuns := false, shadow := [], shadowOk := [], armed := none } }

/-- The state after a reset of reach COLD is asserted: as WARM, and the stacks will be trained anew. -/
def enterCold (s : State) : State :=
  let s1 := enterWarm s
  let gone := [MEM_CHMAP_ACTIVE.id, MEM_SPARE_LANE36.id, MEM_SPARE_LANE37.id]
  { s1 with regs := s1.regs.filter (fun e => !(gone.contains (e.1 % 1024))) }

/-- The units of a reach reset at the instant it is asserted. -/
def enterReach (r : Nat) (s : State) : State := if r = 3 then enterCompute s else if r = 4 then enterWarm s else enterCold s

/-! ### The endpoint's domain (R377) -/

/-- The endpoint reset: its configuration is gone and no request under way is answered (R336, R354). -/
def resetEndpoint (s : State) : State :=
  let link := [PCI_STATUS_SPEED.id, PCI_STATUS_WIDTH.id, PCI_STATUS_LINKUP.id, PCI_FN_STATUS_MBUSY.id]
  { s with
    regs := s.regs.filter (fun e => !(link.contains (e.1 % 1024)))
    vecMask := []
    vecPend := []
    hst.cfgReady := false
    hst.numVFs := 0
    hst.b2size := []
    hst.barWait := []
    hst.barWrites := []
    hst.doorbell := []
    bt.endpointRst := true }

/-! ### Sources (R374, R375) -/

/-- The fixed minimum of source i (Table 17.2). -/
def sourceMin (i : Nat) : Nat := [5, 3, 4, 3, 4, 1, 3, 3, 3].getD i 3

/-- The reach of source i: its fused value, or the minimum where that is narrower or reserved. -/
def fusedReach (s : State) (i : Nat) : Nat :=
  let f := rd s FUSE_RSTMAP_MAP 0 0 / 8 ^ i % 8
  if f < sourceMin i ∨ 5 < f then sourceMin i else f

/-- Whether source i is asserted. -/
def sourceOn (s : State) (i : Nat) : Bool := rd s RST_STATUS_SRC 0 0 / 2 ^ i % 2 == 1

/-- Source i asserted with a reach that covers the module: the reach it is in widens at once, an exit sequence under way
is abandoned, and the units newly covered are reset (R375). A reset entered from an exit sequence is a new one, whose sources
RST_LAST will name (Table 17.15). -/
def assertSource (i reach : Nat) (s : State) : State :=
  let was := max s.bt.latched s.bt.exiting
  let now := max reach was
  let s1 := if s.bt.exiting ≠ 0 ∨ s.bt.latched < reach then enterReach now s else s
  let s2 := if i = 1 ∨ (s.bt.latched < 4 ∧ 4 ≤ reach) then resetEndpoint s1 else s1
  wrOr { s2 with
    bt.latched := now
    bt.exiting := 0
    bt.nonce := none
    bt.lastSrc := (if s.bt.latched = 0 then 0 else s.bt.lastSrc) ||| 2 ^ i
    bt.fatalCode := if s.bt.latched = 0 ∧ i ≠ 8 then 0 else s.bt.fatalCode } RST_STATUS_SRC 0 0 (2 ^ i)

/-- Source i released. -/
def releaseSource (i : Nat) (s : State) : State := wr s RST_STATUS_SRC 0 0 (maskOff (rd s RST_STATUS_SRC 0 0) i)

/-- A fatal error: its record is filed, and the fatal-error source asserts with its fused reach (Table 17.2). -/
def fatalError (code object source : Nat) (u : UnitId) (s : State) : State :=
  let s1 := fileFatal code object source u s
  assertSource 8 (fusedReach s1 8) s1

/-! ### Commands -/

/-- PERST_N_ASSERT: the pin has been low for 10 µs; it acts once PWR_OK is high (R376, R415). -/
def execPerstNAssert (s : State) : Host.Outcome State Fault Refusal :=
  .next (if s.pw.power ≠ 2 ∨ sourceOn s 1 = true then s else assertSource 1 (fusedReach s 1) s)

/-- PERST_N_RELEASE: the pin has been high for 10 µs. -/
def execPerstNRelease (s : State) : Host.Outcome State Fault Refusal := .next (releaseSource 1 s)

/-- MRESET_N_ASSERT. -/
def execMresetNAssert (s : State) : Host.Outcome State Fault Refusal :=
  .next (if s.pw.power ≠ 2 ∨ sourceOn s 2 = true then s else assertSource 2 (fusedReach s 2) s)

/-- MRESET_N_RELEASE. -/
def execMresetNRelease (s : State) : Host.Outcome State Fault Refusal := .next (releaseSource 2 s)

/-- WDOG_EXPIRE: the hub watchdog's time has run out (R374, Table 17.17). -/
def execWdogExpire (s : State) : Host.Outcome State Fault Refusal :=
  .next (if s.bt.wdogRuns then
      assertSource 4 (fusedReach s 4) (raise .hubfw (plainRec 0x0B03 false 0 0) { s with bt.wdogRuns := false })
    else s)

/-- WDOG_KICK: a write of RST_WDOG; a TMO of 0 stops the watchdog, KICK restarts its time (Table 17.15). -/
def execWdogKick (rq : Requester) (v : W32) (s : State) : Host.Outcome State Fault Refusal :=
  .next (busCmd rq RST_WDOG_TMO 0 0 v (fun _ s =>
    { s with bt.wdogRuns := rd s BOOT_STATUS_STATE 0 0 == 1 && rd s RST_WDOG_TMO 0 0 != 0 }) s)

/-- RST_SWREQ written with GO 1 and a reach: the software source, with the TARGET of the write (Table 17.15). -/
def softRequest (reach : Nat) (rq : Requester) (v : W32) (act : Nat → State → State) (s : State) : State :=
  if bitsOf v.toNat 31 1 = 0 ∨ bitsOf v.toNat 0 3 ≠ reach then s
  else busCmd rq RST_SWREQ_GO 0 0 v (fun _ s => act (bitsOf v.toNat 3 12) s) s

/-- A tile held in TILE reset by the software source; it counts as arrived (R61, R158). -/
def softTile (t : Nat) (s : State) : State :=
  if 2304 ≤ t ∨ s.bt.swTiles.contains t then s
  else
    let s1 := resetTile t { s with bt.swTiles := s.bt.swTiles ++ [t], bt.nonce := none }
    match partOfTile s t with
    | some p => noteArrivals p s1
    | none => s1

/-- A partition in PARTITION reset by the software source. -/
def softPartition (p : Nat) (s : State) : State :=
  if mapGet false s.parts p then
    let s1 := resetPartition p s
    { s1 with bt.swParts := s1.bt.swParts.filter (fun q => q != p) ++ [p] }
  else s

/-- SWREQ_TILE. -/
def execSwreqTile (rq : Requester) (v : W32) (s : State) : Host.Outcome State Fault Refusal :=
  .next (softRequest 1 rq v softTile s)

/-- SWREQ_PARTITION. -/
def execSwreqPartition (rq : Requester) (v : W32) (s : State) : Host.Outcome State Fault Refusal :=
  .next (softRequest 2 rq v (fun x s => softPartition (x % 16) s) s)

/-- SWREQ_COMPUTE. -/
def execSwreqCompute (rq : Requester) (v : W32) (s : State) : Host.Outcome State Fault Refusal :=
  .next (softRequest 3 rq v (fun _ s => assertSource 5 3 s) s)

/-- SWREQ_WARM. -/
def execSwreqWarm (rq : Requester) (v : W32) (s : State) : Host.Outcome State Fault Refusal :=
  .next (softRequest 4 rq v (fun _ s => assertSource 5 4 s) s)

/-- SWREQ_COLD. -/
def execSwreqCold (rq : Requester) (v : W32) (s : State) : Host.Outcome State Fault Refusal :=
  .next (softRequest 5 rq v (fun _ s => assertSource 5 5 s) s)

/-- What a change of RST_PHOLD does: every existing partition whose bit has risen enters PARTITION reset. -/
def pholdChange (s0 s : State) : State :=
  (partsOf s).foldl (fun s p =>
    if rd s0 RST_PHOLD_HOLD 0 0 / 2 ^ p % 2 = 0 ∧ rd s RST_PHOLD_HOLD 0 0 / 2 ^ p % 2 = 1 then resetPartition p s else s) s

/-- RST_PHOLD_WRITE: only hub firmware writes RST_PHOLD (R374). -/
def execRstPholdWrite (rq : Requester) (v : W32) (s : State) : Host.Outcome State Fault Refusal :=
  .next (busWrite rq (regOf RST_PHOLD_HOLD 0 0) v 0xF (fun fr u off hs s =>
    match rq with
    | .func _ => setWrign fr u off s
    | .hub _ => pholdChange s (writeHits rq fr u off v hs s)) s)

/-- TILE_RESET_RELEASE: the software source of tile t ends; its needles leave RESET unless a wider source or an invalid
row covers them (Table 2.2, R33, R154, R375). -/
def execTileResetRelease (t : Nat) (s : State) : Host.Outcome State Fault Refusal :=
  .next (if !(s.bt.swTiles.contains t) then s
    else
      let s1 := { s with bt.swTiles := s.bt.swTiles.erase t }
      match partOfTile s t with
      | none => s1
      | some p =>
        if inReset s p || s.bt.latched != 0 || s.bt.exiting != 0 || rdB s CLU_STATUS_DARNBAD (t / 24) 0 then s1
        else [0, 1, 2].foldl (fun s nc => if needleState s t nc = nsReset then wr s NDL_STATE t nc nsIdle else s) s1)

end Sys2Proof.Machine
end

