-- ==== Sys2Proof/Machine/Router.lean ====
section
/-! DEFINITION. The links of the cable mesh (R145 to R151): the grant of an output of a router, a cluster switch, a tile's or a
controller's end or the H-die switch, its credits and its error-correcting code, and what becomes of a packet at the H-die
(R316, R349). -/

namespace Sys2Proof.Machine

/-! ### Arbitration (R148) -/

/-- The input of a sender at which a packet waits. -/
def inputOf (p : Pkt) : Nat := match p.loc with | .router _ i => i | .dest => 0

/-- The packets that wait at sender c, in the order they came. -/
def waitingAt (s : State) (c : Nat) : List Pkt :=
  s.net.filter (fun p => match p.loc with | .router c' _ => c' == c | .dest => false)

/-- The packets at the head of their input and virtual channel. -/
def headsOf : List Pkt → List Pkt
  | [] => []
  | p :: ps => p :: (headsOf ps).filter (fun q => !(inputOf q == inputOf p && vcOf q == vcOf p))

/-- The flits of a packet. -/
def flitsOf (p : Pkt) : Nat := 1 + p.len

/-- Whether a packet is for the host, which the endpoint cannot take while HCLK stands (R26). -/
def hostStands (s : State) (p : Pkt) : Bool :=
  !s.hst.hclk && (match placeOf p.dst, target s p.addr with | .hdie, .host _ => true | _, _ => false)

/-- The packets that output `port` of sender c can grant: at the head of their queue, and with credits for all their
flits (R146); a cluster switch's own units take theirs under no credits. -/
def grantable (s : State) (c port : Nat) : List Pkt :=
  (headsOf (waitingAt s c)).filter (fun p => nextPort c p.src p.dst == port &&
    (!(isLink c port) || decide (flitsOf p ≤ creditsOf s c port (vcOf p))) && !(decide (hopTo c port p.src p.dst = .dest) && hostStands s p))

/-- The inputs after the one last served, in round-robin order. -/
def inputOrder (last : Nat) : List Nat := (List.range 32).map (fun i => (last + 1 + i) % 32)

/-- The packet of a virtual channel whose input comes next. -/
def nextInput (s : State) (c port vc : Nat) (ps : List Pkt) : Option Pkt :=
  (inputOrder (mapGet 31 s.rrPtr (vcKey c port vc))).findSome? (fun i => ps.find? (fun p => inputOf p == i))

/-- The highest virtual channel of a list of packets, and among them the next input. -/
def pickVc (s : State) (c port : Nat) (ps : List Pkt) : Option Pkt :=
  let top := (ps.map vcOf).foldl max 0
  nextInput s c port top (ps.filter (fun p => vcOf p == top))

/-- The packet that an output grants; `aged` is the oldest that has waited 64 KCLK cycles there. -/
def granteeOf (s : State) (c port : Nat) (aged : Option Nat) : Option Pkt :=
  let ps := grantable s c port
  match aged.bind (fun a => ps.find? (fun p => p.pid == a)) with
  | some p => some p
  | none =>
    let rsp := ps.filter (fun p => p.typ == .rdrsp)
    let req := ps.filter (fun p => p.typ != .rdrsp)
    if rsp.isEmpty || (decide (3 ≤ mapGet 0 s.respRun (c * 32 + port)) && !req.isEmpty) then pickVc s c port req
    else pickVc s c port rsp

/-! ### At the H-die -/

/-- The request of a tile for host memory, under way until its data comes (R349). -/
def hostRequest (p : Pkt) (h : Nat) (s : State) : State :=
  askHost (fnOf p.part) h (reqBytes p)
    { landPkt p s with hreads := s.hreads ++ [⟨.mesh p, h, bitsOf p.data 0 48, reqBytes p, 0, p.part, p.sig, p.stitch⟩] }

/-- A packet at the H-die: into a Ply link's hands, out to the host, or dropped where its window is gone or its link is
down (R316, R319, R349). A read response waits for its own row. -/
def atHdie (p : Pkt) (s : State) : State :=
  match p.typ, target s p.addr with
  | .rdrsp, _ => s
  | .wr, .host h => landWith p (sigOps p) (postPkt p h s)
  | .rdreq, .host h => hostRequest p h s
  | .wr, .stack _ =>
    match p.part.bind (fun q => plyEntryOf s q p.addr) with
    | some (k, n) => if linkState s k = 0 then landPkt p s else toLink p k n s
    | none => landPkt p s
  | _, _ => landPkt p s

/-! ### A grant -/

/-- The cluster whose switch or router receives a packet on its hop, and the port it comes in by, coded as
MESH_CREDSEL.PORT: a tile link counts under its cluster's port code, DESIGN CHOICE (log entry 105). -/
def receiverOf (c port : Nat) (p : Pkt) : Option (Nat × Nat) :=
  match hopTo c port p.src p.dst with
  | .router r i => if r < 96 then some (r, i) else if 128 ≤ r ∧ r < 224 then some (r - 128, portCluster) else none
  | .dest => if 128 ≤ c ∧ c < 224 then some (c - 128, portCluster) else none

/-- The cluster port's own counts: a packet sent into the mesh, and one delivered into the cluster (Table 6.10). -/
def countPort (c port : Nat) (s : State) : State :=
  if 128 ≤ c ∧ port = swPort then incM s MESH_PKTOUT_LO_PKTOUT MESH_PKTOUT_HI_PKTOUT (c - 128) 0 1
  else if c < 96 ∧ port = portCluster then incM s MESH_PKTIN_LO_PKTIN MESH_PKTIN_HI_PKTIN c 0 1
  else s

/-- A packet moved by one hop: to the end of the list, so that the list keeps the order of arrival; a bridge raises its
VCH (R145). -/
def moveOn (c port : Nat) (p : Pkt) (s : State) : State :=
  let bridge := decide (c = 96) || (decide (c < 96) && decide (5 ≤ port) && decide (port ≤ 7))
  let q := { p with loc := hopTo c port p.src p.dst, vch := if bridge then p.vch + 1 else p.vch }
  let s1 := { s with net := s.net.filter (fun x => decide (x.pid ≠ p.pid)) ++ [q] }
  let s2 := countPort c port s1
  if q.loc = .dest ∧ placeOf q.dst = .hdie then atHdie q s2 else s2

/-- MESH_UE: a word of a packet is uncorrectable, and the packet is dropped whole (R150). -/
def meshUe (c port : Nat) (p : Pkt) (s : State) : State :=
  let r := (receiverOf c port p).getD (c, port)
  let s1 := wr (landPkt p s) MESH_STATUS_UE r.1 0 1
  fatalError 0x0302 (r.1 + 2 ^ 8 * r.2 + 2 ^ 12 * vcOf p) p.src (.cluster r.1) s1

/-- A packet's flits debited, and the output's places moved on (R146, R148). -/
def debit (c port : Nat) (p : Pkt) (s : State) : State :=
  let k := vcKey c port (vcOf p)
  let o := c * 32 + port
  { s with
    credUsed := if isLink c port then mapSet 0 s.credUsed k (mapGet 0 s.credUsed k + flitsOf p) else s.credUsed
    rrPtr := mapSet 31 s.rrPtr k (inputOf p)
    respRun := mapSet 0 s.respRun o (if p.typ = .rdrsp then mapGet 0 s.respRun o + 1 else 0) }

/-- One packet granted at an output: its flits debited, and each of its words under the link's code (R146, R150). -/
def grantOut (c port : Nat) (p : Pkt) (ecc : Ecc) (s : State) : State :=
  let s1 := debit c port p s
  match (if isLink c port then ecc else .ok) with
  | .ok => moveOn c port p s1
  | .corrected n =>
    moveOn c port p (match receiverOf c port p with
      | some r => incS s1 MESH_CE_CE MESH_SATSTICKY_SCE r.1 0 n
      | none => s1)
  | .uncorrectable _ => meshUe c port p s1

/-- Whether a sender runs: all but the H-die switch stand with the K-dies in COMPUTE or wider reset (R151). -/
def senderUp (s : State) (c : Nat) : Bool := c == 96 || decide (s.bt.latched < 3)

/-- ROUTER_FORWARD: output `port` of sender c, a router, a cluster switch, a tile's or a controller's end, or the H-die
switch, grants its next packet; `aged` is the packet that has waited longest past 64 KCLK cycles there, and `ecc` what the
code reports of its words. -/
def execRouterForward (c port : Nat) (aged : Option Nat) (ecc : Ecc) (s : State) : Host.Outcome State Fault Refusal :=
  .next (if !(senderUp s c) then s
    else match granteeOf s c port aged with
      | some p => grantOut c port p ecc s
      | none => s)

/-- The cluster and the port that an output's record names, coded as MESH_CREDSEL.PORT: of a cluster switch or a tile's end
the cluster's own port, of a controller's end the attachment of the router there, DESIGN CHOICE (log entry 105); the H-die
switch is 96 (log entry 67). -/
def senderOf (c port : Nat) : Nat × Nat :=
  if c ≤ 96 then (c, port)
  else if 2560 ≤ c then ((c - 2560) / 3 * 24 + attachRouter portMem ((c - 2560) % 3) port, portMem)
  else if 256 ≤ c then ((c - 256) / 24, portCluster)
  else (c - 128, portCluster)

/-- MESH_CREDIT: a credit that would pass the buffer's size is discarded, a fatal error (R147, Table 6.11). -/
def meshCredit (c port vc : Nat) (s : State) : State :=
  let o := senderOf c port
  let s1 := if o.1 < 96 then wr s MESH_STATUS_CREDOV o.1 0 1 else s
  fatalError 0x0303 (o.1 + 2 ^ 8 * o.2 + 2 ^ 12 * vc) 0xFFF (.cluster o.1) s1

/-- CREDIT_RETURN: k flit credits come back to an output's virtual channel; what would pass the buffer's size is
discarded, a fatal error (R146, R147). -/
def execCreditReturn (c port vc k : Nat) (s : State) : Host.Outcome State Fault Refusal :=
  .next (
    let out := decide (vc < 6) && hasLink c port
    let key := vcKey c port vc
    let used := mapGet 0 s.credUsed key
    let s1 := { s with credUsed := mapSet 0 s.credUsed key (used - k) }
    if !out then s
    else if k ≤ used then s1
    else meshCredit c port vc s1)

end Sys2Proof.Machine
end

