-- ==== Sys2Proof/Machine/Ply.lean ====
section
/-! DEFINITION. The Ply links (R307 to R319): training, flits received, acknowledgements, credits and delivery counts,
replay, blocks forwarded, and the failure of a link. -/

namespace Sys2Proof.Machine

/-! ### Flits (Table 14.2) -/

def fKind (x : Nat) : Nat := bitsOf x 0 4
def fSeq (x : Nat) : Nat := bitsOf x 4 12
def fAck (x : Nat) : Nat := bitsOf x 16 12
def fVc (x : Nat) : Nat := bitsOf x 28 2
def fCred (x vc : Nat) : Nat := bitsOf x (32 + 8 * vc) 8
def fPart (x : Nat) : Nat := bitsOf x 68 4
def fCount (x : Nat) : Nat := bitsOf x 72 12

/-- The used slots of a DATA flit. -/
def fSlots (x : Nat) : List (BitVec 128) :=
  (List.range (bitsOf x 64 4)).map (fun i => BitVec.ofNat 128 (bitsOf x (128 * (i + 1)) 128))

/-- Whether a flit passes: its CRC agrees, it is of a kind that is formed, and no uncorrectable codeword overlaps it
(R308, R312). -/
def flitGood (x unc : Nat) : Bool :=
  unc == 0 && bitsOf x 96 32 == flitCrc x && decide (1 ≤ fKind x) && decide (fKind x ≤ 3)

/-! ### States of a link (R309, R319) -/

/-- The peer's module ID as a record's source word (R334). -/
def peerId (s : State) (k : Nat) : Nat := rd s PLY_PEER_ID k 0

/-- The packets that link k holds counted as landed, and its queues, buffers and counts emptied (R319). -/
def dropLink (k : Nat) (s : State) : State :=
  let mine := (s.ply.away.filter (fun a => a.1 == k)).map (fun a => a.2.2)
  let s1 := mine.foldl (fun s pid => match s.net.find? (fun p => p.pid == pid) with | some p => landPkt p s | none => s) s
  { s1 with
    ply.lqueue := s1.ply.lqueue.filter (fun x => x.link != k)
    ply.replay := s1.ply.replay.filter (fun f => f.link != k)
    ply.away := s1.ply.away.filter (fun a => a.1 != k)
    ply.lbuf := s1.ply.lbuf.filter (fun f => f.link != k)
    ply.lfreed := mapClear s1.ply.lfreed (lvKey k 0) 4
    ply.landedFor := mapClear s1.ply.landedFor (k * 16) 16
    ply.replayRun := mapDel s1.ply.replayRun k }

/-- A module whose UP link goes down turns to ALTUP (R332). -/
def upLost (k : Nat) (s : State) : State :=
  if rdB s PLY_GCTL_EN 0 0 && upLink s == k && !(rdB s PLY_CTREE_ALT 0 0) && rd s PLY_CTREE_ALTUP 0 0 != 31 then
    wr s PLY_CTREE_ALT 0 0 1
  else s

/-- Link k is DOWN. -/
def linkDown (k : Nat) (s : State) : State := upLost k (wr (wr (dropLink k s) PLY_STATUS_STATE k 0 0) PLY_PEER_VALID k 0 0)

/-- Training of link k begins anew, from DOWN, or after it stopped carrying flits. -/
def startTraining (st k : Nat) (s : State) : State := wr (wr s PLY_STATUS_STATE k 0 st) PLY_PEER_VALID k 0 0

/-- What a write of PLY_CTRL does, from the state before it (R309, Table 14.7). -/
def plyCtrl (k : Nat) (retrain : Bool) (s0 s : State) : State :=
  let was := rdB s0 PLY_CTRL_EN k 0
  if !(rdB s PLY_CTRL_EN k 0) then (if was then linkDown k s else s)
  else if !was || (retrain && linkState s k == 0) then startTraining 1 k s
  else if retrain && linkUp s k then startTraining 4 k s
  else s

/-- A write of PLY_CTRL of link k whose RETRAIN bit is as asked. -/
def plyWrite (rq : Requester) (k : Nat) (v : W32) (retrain : Bool) (s : State) : State :=
  if (bitsOf v.toNat 1 1 == 1) != retrain then s
  else busCmd rq PLY_CTRL_EN k 0 v (fun _ s1 => plyCtrl k retrain s s1) s

/-- PLY_ENABLE: a write of PLY_CTRL with RETRAIN 0. -/
def execPlyEnable (rq : Requester) (k : Nat) (v : W32) (s : State) : Host.Outcome State Fault Refusal :=
  .next (plyWrite rq k v false s)

/-- PLY_RETRAIN: a write of PLY_CTRL with RETRAIN 1. -/
def execPlyRetrain (rq : Requester) (k : Nat) (v : W32) (s : State) : Host.Outcome State Fault Refusal :=
  .next (plyWrite rq k v true s)

/-- PLY_LINK_LOSS: link k stops carrying flits and retrains; what it holds waits (R319). -/
def execPlyLinkLoss (k : Nat) (s : State) : Host.Outcome State Fault Refusal :=
  .next (if k < 24 ∧ linkUp s k = true then startTraining 4 k s else s)

/-! ### Replay (R313) -/

/-- The flits that link k holds sent again (R313). -/
def resend (k : Nat) (s : State) : State :=
  let fs := heldFlits s k
  incM (fs.foldl (fun s f => sendFlit 1 f s) s) PLY_TXFLIT_LO_TX PLY_TXFLIT_HI_TX k 0 fs.length

/-- Link k resends every flit it holds; the sixteenth time in a row from one sequence it retrains. -/
def replayLink (k : Nat) (s : State) : State :=
  match heldFlits s k with
  | [] => s
  | f :: _ =>
    let last := mapGet (0, 0) s.ply.replayRun k
    let n := if last.1 = f.seq then last.2 + 1 else 1
    let s1 := resend k (incS s PLY_REPLAY_REPLAY PLY_SATSTICKY_SREPLAY k 0 1)
    if n < 16 then { s1 with ply.replayRun := mapSet (0, 0) s1.ply.replayRun k (f.seq, n) }
    else startTraining 4 k { s1 with ply.replayRun := mapDel s1.ply.replayRun k }

/-- REPLAY_TIMER_EXPIRE: ACK has not advanced for 2 µs while flits are held. -/
def execReplayTimerExpire (k : Nat) (s : State) : Host.Outcome State Fault Refusal :=
  .next (if linkUp s k then replayLink k s else s)

/-- The flits that link k holds, numbered anew from 0. -/
def renumber (k : Nat) (fs : List LFlit) : List LFlit :=
  (fs.zip (List.range fs.length)).map (fun x => { x.1 with link := k, seq := x.2 })

/-- Slots of the blocks on a virtual channel that link k still holds a flit of, whose last flits it then holds (R314). -/
def heldSlots (s : State) (k vc : Nat) : Nat :=
  (((heldFlits s k).filter (fun f => f.last && f.vc == vc)).map (fun f => f.block)).sum

/-- Step 5 of a training (Table 14.1): sequence numbers 0 and credits loaded. What waits unacknowledged is numbered anew, in
order, and its blocks stay debited; what the credits of the peer had lacked is loaded there (R319; DEDUCED, log 111). -/
def freshLink (k : Nat) (s : State) : State :=
  let held := renumber k (heldFlits s k)
  { s with
    ply.replay := s.ply.replay.filter (fun f => f.link != k) ++ held
    ply.replayRun := mapDel s.ply.replayRun k
    ply.lseq := mapSet 0 s.ply.lseq k held.length
    ply.lcred := (List.range 4).foldl (fun m vc => mapSet 0 m (lvKey k vc) (heldSlots s k vc)) s.ply.lcred
    ply.lfreed := mapClear s.ply.lfreed (lvKey k 0) 4
    ply.lexpect := mapSet 0 s.ply.lexpect k 0
    ply.lnak := mapSet false s.ply.lnak k false }

/-- PLY_TRAINING_COMPLETE: link k comes up, on all its lanes or on four, with its peer's ID and link number; what it held
resumes by replay (R309, R319). -/
def execPlyTrainingComplete (k : Nat) (up4 : Bool) (peer plink : Nat) (s : State) : Host.Outcome State Fault Refusal :=
  .next (
    let st := linkState s k
    if 24 ≤ k ∨ (st ≠ 1 ∧ st ≠ 4) then s
    else
      let s1 := wr (wr (wr (wr (freshLink k s) PLY_STATUS_STATE k 0 (if up4 then 3 else 2)) PLY_PEER_ID k 0 peer)
        PLY_PEER_LINK k 0 plink) PLY_PEER_VALID k 0 1
      sendOwed k (pumpLink k (if (heldFlits s k).isEmpty then s1 else replayLink k s1)))

/-! ### What every good flit returns (R312, R313, R314, R318) -/

/-- The flits that ACK acknowledges leave the replay buffer. -/
def takeAck (k ack : Nat) (s : State) : State :=
  let held := heldFlits s k
  if held.any (fun f => f.seq == ack) then
    let rest := (held.dropWhile (fun f => f.seq != ack)).drop 1
    { s with
      ply.replay := s.ply.replay.filter (fun f => f.link != k) ++ rest
      ply.replayRun := mapDel s.ply.replayRun k }
  else s

/-- Slots of credit returned on each virtual channel; what would pass 2,176 is discarded (R314). -/
def takeCredits (k x : Nat) (s : State) : State :=
  (List.range 4).foldl (fun s vc =>
    { s with ply.lcred := mapSet 0 s.ply.lcred (lvKey k vc) (mapGet 0 s.ply.lcred (lvKey k vc) - fCred x vc) }) s

/-- Whether a flit returns more credit than is out. -/
def credOver (s : State) (k x : Nat) : Bool := (List.range 4).any (fun vc => decide (mapGet 0 s.ply.lcred (lvKey k vc) < fCred x vc))

/-- The oldest n packets of partition p that link k holds count as landed (R318). -/
def takeCount (k p n : Nat) (s : State) : State :=
  let mine := (s.ply.away.filter (fun a => a.1 == k && a.2.1 == p)).take n
  let s1 : State := { s with ply.away := s.ply.away.filter (fun a => !(mine.contains a)) }
  mine.foldl (fun s a => match s.net.find? (fun q => q.pid == a.2.2) with | some q => landPkt q s | none => s) s1

/-- What a good flit delivers, whatever its kind. -/
def takeReturns (k x : Nat) (s : State) : State :=
  let s1 : State := { s with ply.heardOn := mapSet false s.ply.heardOn k true }
  takeCount k (fPart x) (fCount x) (takeCredits k x (takeAck k (fAck x) s1))

/-- PLY_CREDIT: the overflow of a credit return, a fatal error (R314). -/
def plyCredit (ovr : Bool) (k : Nat) (s : State) : State :=
  if ovr then fatalError 0x0802 k (peerId s k) (.link k) (wr s PLY_STATUS_CREDOV k 0 1) else s

/-- Codewords that the decoder corrected, and those it could not (Table 14.7). -/
def countFec (k corrected unc : Nat) (s : State) : State :=
  incS (incM s PLY_FECCW_LO_CW PLY_FECCW_HI_CW k 0 corrected) PLY_FECUNC_UNC PLY_SATSTICKY_SUNC k 0 unc

/-! ### Forwarding of a block (R314, R316, R317) -/

/-- The mesh packets of a block: header and payload (Table 6.4). -/
def blockPackets : Nat → List (BitVec 128) → List (Nat × Nat)
  | 0, _ => []
  | _, [] => []
  | n + 1, h :: rest =>
    let len := bitsOf h.toNat 6 5
    (h.toNat, packN 128 ((rest.take len).map (fun x => x.toNat))) :: blockPackets n (rest.drop len)

/-- A packet that came in on link k counts as landed for its sender, though nothing was injected (R317). -/
def countedOnly (k opart : Nat) (s : State) : State :=
  { s with ply.landedFor := mapSet 0 s.ply.landedFor (k * 16 + opart) (mapGet 0 s.ply.landedFor (k * 16 + opart) + 1) }

/-- A refused inbound packet: ADDR_WINDOW with the link as requester; it counts as sent and as landed (R22, R129, R318). -/
def inboundRefused (k p opart x : Nat) (s : State) : State :=
  unitRefused (.link k) (nodeLink k) p x
    (bumpTally CRS_TALLY_LANDED_LANDED (some p) (bumpTally CRS_TALLY_SENT_SENT (some p) (countedOnly k opart s)))

/-- A WR packet that came in on link k (R316, R317, R424). -/
def inboundPacket (k : Nat) (h : Nat × Nat) (s : State) : State :=
  let p := bitsOf h.1 13 4
  let opart := bitsOf h.1 107 4
  let len := bitsOf h.1 6 5
  let a := bitsOf h.1 17 48
  if rd s PLY_INGRANT_MASK k 0 / 2 ^ p % 2 = 0 then
    raise (.link k) (plainRec 0x0803 false (k + 2 ^ 16 * opart) (peerId s k)) (countedOnly k opart s)
  else if inReset s p then countedOnly k opart s
  else
    match firstRefused s p a (len * 16) true with
    | some x => inboundRefused k p opart x s
    | none =>
      inject { pkt0 .wr (some p) (nodeLink k) a h.2 len with
        last := bitsOf h.1 11 1 == 1, sig := bitsOf h.1 12 1 == 1, stitch := bitsOf h.1 83 14, crslo := bitsOf h.1 99 8,
        tag := opart } s

/-- A mirror write that came in: into this module's mirror region, where it lies in it (R327, R328). -/
def inboundMirror (h : Nat × Nat) (s : State) : State :=
  let n := bitsOf h.1 6 5 * 16
  let ofs := bitsOf h.1 17 48
  if ofs + n ≤ 2 ^ 26 * rd s PLY_MIRROR_LEN 0 0 then wrLE (2 ^ 26 * rd s PLY_MIRROR_BASE 0 0 + ofs) n h.2 s else s

/-- Whether a message is of a kind of Table 14.5. -/
def knownKind (m : BitVec 128) : Bool :=
  let k := mKind m
  (decide (1 ≤ k) && decide (k ≤ 3)) || (decide (0x10 ≤ k) && decide (k ≤ 0x1B)) || (decide (0x20 ≤ k) && decide (k ≤ 0x25))

/-- A whole block forwarded: packets into the switch, messages to the group logic. -/
def forwardBlock (k vc : Nat) (slots : List (BitVec 128)) (s : State) : State :=
  match vc with
  | 0 => (blockPackets slots.length slots).foldl (fun s h => inboundPacket k h s) s
  | 3 => (blockPackets slots.length slots).foldl (fun s h => inboundMirror h s) s
  | _ =>
    if rdB s PLY_GCTL_EN 0 0 then { s with ply.msgs := s.ply.msgs ++ (slots.filter knownKind).map (fun m => (k, m)) } else s

/-- A DATA flit in order: accepted, and with the last of its block the block is forwarded and its slots' credit freed
(R312, R314). -/
def acceptFlit (k x : Nat) (s : State) : State :=
  let vc := fVc x
  let s1 := incM { s with
    ply.lexpect := mapSet 0 s.ply.lexpect k ((fSeq x + 1) % 4096)
    ply.lnak := mapSet false s.ply.lnak k false
    ply.lbuf := s.ply.lbuf.filter (fun f => !(bitsOf x 30 1 == 1 && f.link == k && f.vc == vc)) ++
      [⟨k, fSeq x, vc, bitsOf x 30 1 == 1, bitsOf x 31 1 == 1, fSlots x, 0⟩] }
    PLY_RXFLIT_LO_RX PLY_RXFLIT_HI_RX k 0 1
  if bitsOf x 31 1 = 0 then s1
  else
    let slots := (s1.ply.lbuf.filter (fun f => f.link == k && f.vc == vc)).flatMap (fun f => f.slots)
    forwardBlock k vc slots { s1 with
      ply.lbuf := s1.ply.lbuf.filter (fun f => !(f.link == k && f.vc == vc))
      ply.lfreed := mapSet 0 s1.ply.lfreed (lvKey k vc) (mapGet 0 s1.ply.lfreed (lvKey k vc) + slots.length) }

/-- A DATA flit: accepted in order and acknowledged by the flits that follow, IDLE if none else; or discarded, the first
time with a NAK (R312, R313). -/
def takeData (k x : Nat) (s : State) : State :=
  if fKind x ≠ 1 then s
  else if fSeq x = mapGet 0 s.ply.lexpect k then sendFlit 2 (emptyFlit k) (acceptFlit k x s)
  else if mapGet false s.ply.lnak k then s
  else sendFlit 3 (emptyFlit k) { s with ply.lnak := mapSet false s.ply.lnak k true }

/-- FLIT_RECEIVE: a flit comes in on link k, with the codewords that overlap it corrected and uncorrectable; a good NAK
flit is row NAK's. -/
def execFlitReceive (k : Nat) (flit : BitVec 2048) (corrected unc : Nat) (s : State) : Host.Outcome State Fault Refusal :=
  .next (
    let x := flit.toNat
    let good := flitGood x unc
    if 24 ≤ k ∨ linkUp s k = false ∨ (good = true ∧ fKind x = 3) then s
    else
      let s1 := countFec k corrected unc s
      if !good then s1 else plyCredit (credOver s k x) k (sendOwed k (pumpLink k (takeData k x (takeReturns k x s1)))))

/-- NAK: a good NAK flit delivers its returns, and the sender replays from ACK + 1 (R313). -/
def execNak (k : Nat) (flit : BitVec 2048) (corrected unc : Nat) (s : State) : Host.Outcome State Fault Refusal :=
  .next (
    let x := flit.toNat
    if 24 ≤ k ∨ linkUp s k = false ∨ flitGood x unc = false ∨ fKind x ≠ 3 then s
    else
      let s1 := takeReturns k x (countFec k corrected unc s)
      plyCredit (credOver s k x) k (sendOwed k (pumpLink k (replayLink k s1))))

/-! ### The end of a link (R319) -/

/-- The partitions that have a window or a grant on link k. -/
def linkParts (s : State) (k : Nat) : List Nat :=
  (List.range 16).filter (fun p =>
    rd s PLY_INGRANT_MASK k 0 / 2 ^ p % 2 == 1 ||
      (List.range 16).any (fun n => rdB s PLY_WINPEER_VALID k n && rd s PLY_WINLOC_PART k n == p))

/-- PLY_LINK_FAIL: the last of PLY_CTRL.RETRY retraining attempts has failed. -/
def execPlyLinkFail (k : Nat) (s : State) : Host.Outcome State Fault Refusal :=
  .next (
    if linkState s k ≠ 4 ∨ 24 ≤ k then s
    else
      let s1 := wr (linkDown k s) PLY_STATUS_DOWNEV k 0 1
      match linkParts s k with
      | [] => raise (.link k) (plainRec 0x0801 false k (peerId s k)) s1
      | ps => ps.foldl (fun s p => castBranch (some p) (.link k) (partRec s p 0x0801 true (k + 2 ^ 16 * p) (peerId s k)) s) s1)

end Sys2Proof.Machine
end

