-- ==== Sys2Proof/Machine/Group.lean ====
section
/-! DEFINITION. Module groups and twins (R321 to R333): the messages of Table 14.5, spans, grace between modules, the twin
state machine of Table 14.10, the mirror and the checkpoint copies. Each message row takes the place of its message
among those received. -/

namespace Sys2Proof.Machine

/-! ### Taking a message -/

/-- Whether link k is a twin link. -/
def isTwin (s : State) (k : Nat) : Bool := k == rd s PLY_TWIN_CTL_LINKA 0 0 || k == rd s PLY_TWIN_CTL_LINKB 0 0

/-- Whether a message is for this module: its own ID, or the one it covers (R322, R332). -/
def addressed (s : State) (m : BitVec 128) : Bool :=
  mDst m == myId s || (twinState s == 5 && mDst m + 1 == s.ply.twin.covered)

/-- Message number i of kind `kind`, the first of its link and channel, leaves the buffer and acts by `act`; a message
on a twin link is a sign of the partner. A DETACHED module, or one out of service, does nothing with it. -/
def withMsg (kind i : Nat) (act : Nat → BitVec 128 → State → State) (s : State) : State :=
  match s.ply.msgs[i]? with
  | none => s
  | some (k, m) =>
    if mKind m ≠ kind ∨ (s.ply.msgs.take i).any (fun x => x.1 == k && mVc x.2 == mVc m) = true then s
    else
      let s1 : State := { s with ply.msgs := s.ply.msgs.eraseIdx i }
      let s2 : State := if isTwin s k then { s1 with ply.twin.heard := true } else s1
      if !(rdB s PLY_GCTL_EN 0 0) || twinState s == 4 then s1 else act k m s2

/-- A management message: taken where it is addressed to this module, else passed on (R322). -/
def managed (act : Nat → BitVec 128 → State → State) (k : Nat) (m : BitVec 128) (s : State) : State :=
  if addressed s m then act k m s else flood k m s

/-- A message of this module over both twin links. -/
def sendTwin (kind arg : Nat) (s : State) : State :=
  let side := rd s PLY_GID_SIDE 0 0
  let one : Nat → State → State := fun k s => sendOn k (message kind (myId s) (rd s PLY_PEER_ID k 0) 0 side arg) s
  one (rd s PLY_TWIN_CTL_LINKB 0 0) (one (rd s PLY_TWIN_CTL_LINKA 0 0) s)

/-- A record of the group logic (R334). -/
def groupRec (code k extra : Nat) (s : State) : State :=
  raise .group (plainRec code false (k + 2 ^ 16 * extra) (peerId s k)) s

/-- A record of the twin logic: it names the first twin link. -/
def twinRec (code : Nat) (s : State) : State := groupRec code (rd s PLY_TWIN_CTL_LINKA 0 0) 0 s

/-- A message over the tree to a module whose ID this module does not hold: DSTID is a free value (R331). -/
def sendUnknown (kind arg : Nat) (s : State) : State :=
  sendTo kind (Config.free s.freeIdx 0 % 2 ^ 12) arg { s with freeIdx := s.freeIdx + 1 }

/-! ### Spans (R324) -/

/-- The entries in use of a span. -/
def spanEntries (s : State) (id : Nat) : List Nat :=
  (List.range 64).filter (fun i => spanValid s i && rd s PLY_SPAN_CFG_ID 0 i == id)

/-- ARRIVE on link k for one entry. -/
def spanArrive (k : Nat) (m : BitVec 128) (i : Nat) (s : State) : State :=
  if spanDmask s i / 2 ^ k % 2 = 0 then s
  else if mArg m % 2 ^ 16 ≠ spanCourse s i then groupRec 0x0804 k (mSpan m) s
  else spanStep i { s with ply.spanGot := mapSet 0 s.ply.spanGot i (mapGet 0 s.ply.spanGot i ||| 2 ^ k) }

/-- RELEASE on the UP link for one entry. -/
def spanRelease (k : Nat) (m : BitVec 128) (i : Nat) (s : State) : State :=
  if k ≠ upLink s then s
  else if mArg m % 2 ^ 16 ≠ spanCourse s i then groupRec 0x0804 k (mSpan m) s
  else spanNext i (giveRelease i (sendMask (spanDmask s i) (message 2 (myId s) 0xFFF (mSpan m) 0 (mArg m)) s))

/-- SPAN_ARRIVE. -/
def execSpanArrive (i : Nat) (s : State) : Host.Outcome State Fault Refusal :=
  .next (withMsg 1 i (fun k m s =>
    if groupLogic s then (spanEntries s (mSpan m)).foldl (fun s e => spanArrive k m e s) s else s) s)

/-- SPAN_RELEASE. -/
def execSpanRelease (i : Nat) (s : State) : Host.Outcome State Fault Refusal :=
  .next (withMsg 2 i (fun k m s =>
    if groupLogic s then (spanEntries s (mSpan m)).foldl (fun s e => spanRelease k m e s) s else s) s)

/-! ### Grace (R180, R181, R325) -/

/-- A grace added to a partition's timers of its present course (R180). -/
def addGrace (us p : Nat) (s : State) : State :=
  if mapGet false s.parts p && !(inReset s p) then
    wr (wr s CRS_GRACE_GRACE p 0 (min 0xFFFFFF (rd s CRS_GRACE_GRACE p 0 + us))) CRS_STATUS_GRACE p 0 1
  else s

/-- A grace notice of another module at partition p, with its record (R181). -/
def peerThrottle (sender us p : Nat) (s : State) : State :=
  if mapGet false s.parts p && !(inReset s p) then
    let s1 := { addGrace us p s with pw.peerGrace := mapSet false s.pw.peerGrace p true }
    raise (.root p) (partRec s1 p 0x0407 false (2 ^ 16 * p) (sender + 2 ^ 16 * us)) s1
  else s

/-- The links of a span entry: UP and DMASK. -/
def spanLinks (s : State) (i : Nat) : Nat := if upLink s < 24 then spanDmask s i ||| 2 ^ upLink s else spanDmask s i

/-- A grace notice of this module: every partition here, and a GRACE message for each span it is a member of (R180, R325). -/
def graceNotice (us : Nat) (s : State) : State :=
  let s1 := (List.range 16).foldl (fun s p => addGrace us p s) s
  (List.range 64).foldl (fun s i =>
    if spanValid s i && spanMember s i then
      sendMask (spanLinks s i) (message 3 (myId s) 0xFFF (rd s PLY_SPAN_CFG_ID 0 i) 0 (myId s + 2 ^ 16 * us)) s
    else s) s1

/-- GRACE: passed on over the span's other links, and added by a member. -/
def execGrace (i : Nat) (s : State) : Host.Outcome State Fault Refusal :=
  .next (withMsg 3 i (fun k m s => (spanEntries s (mSpan m)).foldl (fun s e =>
    let s1 := sendMask (maskOff (spanLinks s e) k) m s
    if spanMember s e then peerThrottle (mArg m % 2 ^ 12) (bitsOf (mArg m) 16 16) (spanPart s e) s1 else s1) s) s)

/-! ### The twin state machine (Table 14.10) -/

/-- A state of the twin logic. -/
def setTwin (st : Nat) (s : State) : State := wr s PLY_TWIN_STATUS_STATE 0 0 st

/-- Bits 63:0 of the active image's digest. -/
def myDigest (s : State) : Nat := rd s BOOT_DIGEST_DIGEST 0 0 + 2 ^ 32 * rd s BOOT_DIGEST_DIGEST 0 1

/-- A write queued for the partner's mirror region. -/
def mirrorWrite (ofs n v : Nat) (s : State) : State := { s with mirrorQ := s.mirrorQ ++ [(ofs, n, v)] }

/-- Everything that waits for the twin links sent as far as it can be. -/
def pumpTwin (s : State) : State :=
  pumpLink (rd s PLY_TWIN_CTL_LINKB 0 0) (pumpLink (rd s PLY_TWIN_CTL_LINKA 0 0) s)

/-- The full mirror of Table 14.8 started: every skein entry, and the checkpoint list from its first entry. -/
def startMirror (s : State) : State :=
  if s.mirroring then s
  else
    let all := (List.range 40960).map (fun k => (k * 128, 128, (mapGet 0 s.skeins k).toNat))
    pumpTwin { s with
      mirroring := true
      mirrorQ := all
      ply.ckptNext := 0
      ply.ckptOpen := none
      ply.twin.readySent := false
      ply.twin.readyGot := false }

/-- The end of an initial mirror on both sides: PAIRED, and after cover the ID is handed back (Table 14.10). -/
def pairIfReady (s : State) : State :=
  if !(s.ply.twin.readySent && s.ply.twin.readyGot) then s
  else if twinState s = 1 then setTwin 2 s
  else if twinState s = 5 then
    let id := s.ply.twin.covered - 1
    let s1 := sendUnknown 0x1A id { s with ply.twin.covered := 0, ply.twin.lost := false, ply.twin.drained := false }
    setTwin 2 s1
  else s

/-- An ATTACH_REQ or ATTACH_ACK met while ATTACHING. -/
def attachMeet (k : Nat) (m : BitVec 128) (s : State) : State :=
  let side := rd s PLY_GID_SIDE 0 0
  let nak : Nat → State → State := fun why s =>
    setTwin 0 (wr (twinRec 0x0808 (sendOn k (message 0x13 (myId s) (mSrc m) 0 side why) { s with mirroring := false }))
      PLY_TWIN_STATUS_REFUSED 0 0 1)
  if mSide m = side then nak 1 s
  else if mArg m ≠ myDigest s then nak 2 s
  else
    let s1 := wr s PLY_TWIN_STATUS_PARTNER 0 0 (mSrc m)
    let s2 := if s.ply.twin.acked then s1
      else { sendOn k (message 0x12 (myId s) (mSrc m) 0 side (myDigest s)) s1 with ply.twin.acked := true }
    startMirror s2

/-- ATTACH_REQ. -/
def execAttachReq (i : Nat) (s : State) : Host.Outcome State Fault Refusal :=
  .next (withMsg 0x11 i (managed (fun k m s =>
    match twinState s with
    | 0 => sendOn k (message 0x13 (myId s) (mSrc m) 0 (rd s PLY_GID_SIDE 0 0) 3) s
    | 1 => attachMeet k m s
    | 5 =>
      if mSrc m + 1 = s.ply.twin.covered ∧ mSide m ≠ rd s PLY_GID_SIDE 0 0 ∧ mArg m = myDigest s then startMirror s else s
    | _ => s)) s)

/-- ATTACH_ACK. -/
def execAttachAck (i : Nat) (s : State) : Host.Outcome State Fault Refusal :=
  .next (withMsg 0x12 i (managed (fun k m s => if twinState s = 1 then attachMeet k m s else s)) s)

/-- ATTACH_NAK: a refusal by the other side ends the attachment; 0x3 says only that it is not commanded yet. -/
def execAttachNak (i : Nat) (s : State) : Host.Outcome State Fault Refusal :=
  .next (withMsg 0x13 i (managed (fun _ m s =>
    if twinState s = 1 ∧ (mArg m = 1 ∨ mArg m = 2) then
      setTwin 0 (wr (twinRec 0x0808 { s with mirroring := false }) PLY_TWIN_STATUS_REFUSED 0 0 1)
    else s)) s)

/-- HB: the sign of life itself is taken with the message (R330). -/
def execHb (i : Nat) (s : State) : Host.Outcome State Fault Refusal := .next (withMsg 0x10 i (managed (fun _ _ s => s)) s)

/-- MIRROR_READY. -/
def execMirrorReady (i : Nat) (s : State) : Host.Outcome State Fault Refusal :=
  .next (withMsg 0x14 i (managed (fun _ _ s => pairIfReady { s with ply.twin.readyGot := true })) s)

/-- Whether every mirror write has been sent and acknowledged. -/
def mirrorFlushed (s : State) : Bool :=
  s.mirrorQ.isEmpty && !(s.ply.lqueue.any (fun x => x.vc == 3)) && !(s.ply.replay.any (fun f => f.vc == 3))

/-- INITIAL_MIRROR_COMPLETE: the skein table and every checkpoint entry have been copied. -/
def execInitialMirrorComplete (s : State) : Host.Outcome State Fault Refusal :=
  .next (
    if (twinState s = 1 ∨ twinState s = 5) ∧ s.mirroring = true ∧ s.ply.twin.readySent = false ∧ mirrorFlushed s = true ∧
        rd s PLY_CKPT_CNT_COUNT 0 0 ≤ s.ply.ckptNext ∧ s.ply.ckptOpen = none then
      pairIfReady (sendTwin 0x14 0 { s with ply.twin.readySent := true })
    else s)

/-- DETACH_REQ: the sender's leave is on record for the confirmer's answer (R331). -/
def execDetachReq (i : Nat) (s : State) : Host.Outcome State Fault Refusal :=
  .next (withMsg 0x15 i (managed (fun _ m s =>
    { s with ply.detached := s.ply.detached.filter (fun x => x != mSrc m) ++ [mSrc m] })) s)

/-- The partner covered: its links, its group told, and the loss recorded where there was one (Table 14.10). -/
def cover (s : State) : State :=
  let x := rd s PLY_TWIN_STATUS_PARTNER 0 0
  let s1 := setTwin 5 (sendTwin 0x18 x s)
  let s2 := sendUnknown 0x17 x { s1 with ply.twin.covered := x + 1, mirroring := false }
  if s.ply.twin.lost then wr (twinRec 0x0805 s2) PLY_TWIN_STATUS_LOST 0 0 1 else s2

/-- HANDOVER to the partner's confirmer; the top manager has none, and is covered at once (R331). -/
def askCover (s : State) : State :=
  let x := rd s PLY_TWIN_STATUS_PARTNER 0 0
  if x = 0 then cover s else sendUnknown 0x17 x s

/-- DRAIN_DONE. -/
def execDrainDone (i : Nat) (s : State) : Host.Outcome State Fault Refusal :=
  .next (withMsg 0x16 i (managed (fun _ m s =>
    if twinState s = 2 ∧ mSrc m = rd s PLY_TWIN_STATUS_PARTNER 0 0 then askCover s else s)) s)

/-- JOIN sent to this module's manager (R321, R322). -/
def joinManager (s : State) : State := if myId s % 64 = 0 then s else sendTo 0x20 (myId s / 64 * 64) 0 s

/-- A DOWN link whose peer is module x. -/
def downLinkTo (s : State) (x : Nat) : Option Nat :=
  (List.range 24).find? (fun k => rd s PLY_CDOWN_DOWN 0 0 / 2 ^ k % 2 == 1 && rd s PLY_PEER_ID k 0 == x)

/-- HANDOVER met as news: the UP peer is covered, or a member of this group (R332). -/
def handoverNews (x : Nat) (s : State) : State :=
  let up := rd s PLY_CTREE_UP 0 0
  let s1 := if up < 24 && rd s PLY_PEER_ID up 0 == x && rd s PLY_CTREE_ALTUP 0 0 != 31 then wr s PLY_CTREE_ALT 0 0 1 else s
  if x / 64 = myId s / 64 then joinManager s1 else s1

/-- HANDOVER: the confirmer of module x answers; to any other module it is news (R331, R332). -/
def execHandover (i : Nat) (s : State) : Host.Outcome State Fault Refusal :=
  .next (withMsg 0x17 i (fun k m s =>
    let x := mArg m % 2 ^ 12
    match addressed s m, downLinkTo s x with
    | true, some d =>
      let gone := !(linkUp s d) || mapGet false s.ply.silent d || s.ply.detached.contains x
      sendTo (if gone then 0x18 else 0x19) (mSrc m) x s
    | _, _ => flood k m (handoverNews x s)) s)

/-- HANDOVER_ACK: cover begins, or a leaving module is free to go. -/
def execHandoverAck (i : Nat) (s : State) : Host.Outcome State Fault Refusal :=
  .next (withMsg 0x18 i (managed (fun _ m s =>
    let x := mArg m % 2 ^ 12
    if twinState s = 2 ∧ x = rd s PLY_TWIN_STATUS_PARTNER 0 0 then cover s
    else if twinState s = 3 ∧ x = myId s then setTwin 4 { s with mirroring := false }
    else s)) s)

/-- HANDOVER_NAK: cover is refused. -/
def execHandoverNak (i : Nat) (s : State) : Host.Outcome State Fault Refusal :=
  .next (withMsg 0x19 i (managed (fun _ m s =>
    if twinState s = 2 ∧ mArg m % 2 ^ 12 = rd s PLY_TWIN_STATUS_PARTNER 0 0 then
      setTwin 0 (wr (twinRec 0x0807 { s with mirroring := false }) PLY_TWIN_STATUS_CONFLICT 0 0 1)
    else s)) s)

/-- HANDBACK: a module whose UP peer is back returns to UP; the news is passed on (R332). -/
def execHandback (i : Nat) (s : State) : Host.Outcome State Fault Refusal :=
  .next (withMsg 0x1A i (fun k m s =>
    let up := rd s PLY_CTREE_UP 0 0
    let s1 := if up < 24 && rd s PLY_PEER_ID up 0 == mArg m % 2 ^ 12 then wr s PLY_CTREE_ALT 0 0 0 else s
    flood k m s1) s)

/-! ### The other management messages -/

/-- The reach of a RESET_REQ at source i: the wider of the fused and the named one (R374). -/
def namedReach (s : State) (i named : Nat) : Nat := max (fusedReach s i) (if named < 3 ∨ 5 < named then 3 else named)

/-- RESET_REQ: the twin-request or the Ply reset-request source, or refused (R323). -/
def execResetReq (i : Nat) (s : State) : Host.Outcome State Fault Refusal :=
  .next (withMsg 0x1B i (managed (fun k m s =>
    let src := if isTwin s k then 3 else 6
    if rdB s PLY_GCTL_RSTEN 0 0 && (isTwin s k || k == upLink s) then assertSource src (namedReach s src (mArg m % 8)) s
    else groupRec 0x080A k 0 s)) s)

/-- GROUP_JOIN: the manager knows the module, and answers (R322, R332). -/
def execGroupJoin (i : Nat) (s : State) : Host.Outcome State Fault Refusal :=
  .next (withMsg 0x20 i (managed (fun _ m s =>
    sendTo 0x21 (mSrc m) 0 { s with ply.members := s.ply.members.filter (fun x => x != mSrc m) ++ [mSrc m] })) s)

/-- JOIN_ACK. -/
def execJoinAck (i : Nat) (s : State) : Host.Outcome State Fault Refusal :=
  .next (withMsg 0x21 i (managed (fun _ _ s => { s with ply.joined := true })) s)

/-- The PF's mailbox buffer in host memory (R351). -/
def mbxBase (s : State) (f : Nat) : Nat := rd s PCI_FN_MBX_LO_BASE 0 f * 2 ^ 12 + 2 ^ 32 * rd s PCI_FN_MBX_HI_BASE 0 f

/-- A message put in the PF's inbox, whose consumer count the host has left at `cons` (R352). -/
def inboxPut (cons : Nat) (m : BitVec 128) (s : State) : State :=
  let k := s.hst.inboxProd
  if 32 ≤ (k + 2 ^ 32 - cons % 2 ^ 32) % 2 ^ 32 then raise .endpoint (plainRec 0x0905 false 0 0) s
  else
    let s1 := postHost 0 0 (mbxBase s 0 + 0x100 + k % 32 * 16) 16 m.toNat { s with hst.inboxProd := (k + 1) % 2 ^ 32 }
    signalVec 0 2 (postHost 0 0 (mbxBase s 0 + 0x80) 4 ((k + 1) % 2 ^ 32) s1)

/-- DISPATCH; `cons` is the consumer count that hub firmware reads of the host (R352). -/
def execDispatch (i cons : Nat) (s : State) : Host.Outcome State Fault Refusal :=
  .next (withMsg 0x22 i (managed (fun _ m s => inboxPut cons m s)) s)

/-- ROLLOUT. -/
def execRollout (i cons : Nat) (s : State) : Host.Outcome State Fault Refusal :=
  .next (withMsg 0x23 i (managed (fun _ m s => inboxPut cons m s)) s)

/-- What a manager's hub firmware does with a module's report of a generation: once every module of `froms` has reported
it, a message of the same kind to each module of `tos` (R326). -/
def passReport (froms tos : List Nat) (seen : SMap Nat) (m : BitVec 128) (s : State) : State :=
  let g := mArg m % 2 ^ 32
  if mDst m % 64 == 0 && froms.contains (mSrc m) && froms.all (fun x => mapGet 0 seen x == g + 1) then
    tos.foldl (fun s x => sendTo (mKind m) x g s) s
  else s

/-- GEN_PUBLISHED: kept, and passed on by the manager to the generating modules of the job. -/
def execGenPublished (i : Nat) (s : State) : Host.Outcome State Fault Refusal :=
  .next (withMsg 0x24 i (managed (fun _ m s =>
    let seen := mapSet 0 s.ply.published (mSrc m) (mArg m % 2 ^ 32 + 1)
    passReport (Config.jobTrains (mSrc m)) (Config.jobGenerates (mSrc m)) seen m { s with ply.published := seen })) s)

/-- GEN_ADOPTED: kept, and forwarded by the manager to the training modules of the job. -/
def execGenAdopted (i : Nat) (s : State) : Host.Outcome State Fault Refusal :=
  .next (withMsg 0x25 i (managed (fun _ m s =>
    let seen := mapSet 0 s.ply.adopted (mSrc m) (mArg m % 2 ^ 32 + 1)
    passReport (Config.jobGenerates (mSrc m)) (Config.jobTrains (mSrc m)) seen m { s with ply.adopted := seen })) s)

/-! ### Commands and times of the twin logic -/

/-- A write of PLY_TWIN_CTL with a command, which acts while the twin logic is in service. -/
def twinCmd (rq : Requester) (cmd : Nat) (v : W32) (act : State → State) (s : State) : State :=
  if bitsOf v.toNat 28 3 ≠ cmd then s
  else busCmd rq PLY_TWIN_CTL_CMD 0 0 v (fun _ s => if rdB s PLY_GCTL_EN 0 0 then act s else s) s

/-- TWIN_ATTACH. -/
def execTwinAttach (rq : Requester) (v : W32) (s : State) : Host.Outcome State Fault Refusal :=
  .next (twinCmd rq 1 v (fun s =>
    if twinState s ≠ 0 then s
    else
      let s1 : State := { s with
        ply.twin := ⟨false, false, false, false, false, false, false, 0⟩
        ply.heardOn := []
        ply.silent := [] }
      setTwin 1 (sendTwin 0x11 (myDigest s) s1)) s)

/-- TWIN_DETACH: the twin and the UP peer are told; from here on every partition is held at its next boundary. -/
def execTwinDetach (rq : Requester) (v : W32) (s : State) : Host.Outcome State Fault Refusal :=
  .next (twinCmd rq 2 v (fun s =>
    if twinState s ≠ 2 then s
    else
      let up := upLink s
      let s1 := sendOn up (message 0x15 (myId s) (rd s PLY_PEER_ID up 0) 0 (rd s PLY_GID_SIDE 0 0) 0) (sendTwin 0x15 0 s)
      setTwin 3 { s1 with ply.twin.drained := false }) s)

/-- Whether every partition is held at its boundary, HALTED, or in reset. -/
def allHeld (s : State) : Bool :=
  (List.range 16).all (fun p => !(mapGet false s.parts p) || rd s CRS_STATUS_STATE p 0 == 0 || rd s CRS_STATUS_STATE p 0 == 3 || localArrived s p)

/-- TWIN_DRAIN_COMPLETE: a DRAINING module's partitions are held and its mirror is flushed. -/
def execTwinDrainComplete (s : State) : Host.Outcome State Fault Refusal :=
  .next (
    if twinState s = 3 ∧ s.ply.twin.drained = false ∧ allHeld s = true ∧ mirrorFlushed s = true ∧
        (s.mirroring && s.ply.ckptOpen.isSome) = false then
      sendTwin 0x16 0 { s with ply.twin.drained := true }
    else s)

/-- Whether the module is one of a pair. -/
def inPair (s : State) : Bool := twinState s != 0 && twinState s != 4

/-- The links that carried nothing in the loss time that ends, and a new one begun. -/
def rollLoss (s : State) : State :=
  wr { s with
    ply.silent := (List.range 24).foldl (fun m k => mapSet false m k (!(mapGet false s.ply.heardOn k))) []
    ply.heardOn := []
    ply.twin.heard := false
    ply.twin.pulsed := false } PLY_TWIN_STATUS_PINLOST 0 0 (if s.ply.twin.pulsed then 0 else 1)

/-- TWIN_PARTNER_LOST: a loss time of TMO × 100 µs ends; silence on the links stops the mirror, and silence on links and
pin is the loss of the partner (R330). -/
def execTwinPartnerLost (s : State) : Host.Outcome State Fault Refusal :=
  .next (
    if !(rdB s PLY_GCTL_EN 0 0) || twinState s == 4 then s
    else
      let s1 := rollLoss s
      if s.ply.twin.heard then wr s1 PLY_TWIN_STATUS_LINKLOST 0 0 0
      else if s.ply.twin.pulsed then
        if inPair s = true ∧ rdB s PLY_TWIN_STATUS_LINKLOST 0 0 = false then
          wr (twinRec 0x0806 { s1 with mirroring := false }) PLY_TWIN_STATUS_LINKLOST 0 0 1
        else s1
      else if twinState s = 2 ∧ s.ply.twin.lost = false then askCover { s1 with ply.twin.lost := true }
      else s1)

/-- HEARTBEAT_TIMER: 10 µs have passed and HB is sent on each twin link; or, with `pin`, 100 µs and TWIN_HB is pulsed. -/
def execHeartbeatTimer (pin : Bool) (s : State) : Host.Outcome State Fault Refusal :=
  .next (
    if !(rdB s PLY_GCTL_EN 0 0 && inPair s) then s
    else if pin then { s with ply.pulses := s.ply.pulses + 1 }
    else sendTwin 0x10 0 s)

/-- TWIN_HB_PULSE: a low pulse of the partner. -/
def execTwinHbPulse (s : State) : Host.Outcome State Fault Refusal :=
  .next (if rdB s PLY_GCTL_EN 0 0 then { s with ply.twin.pulsed := true } else s)

/-! ### Checkpoint copies (R327 to R329) -/

/-- Entry i of the checkpoint list. -/
def ckptEntry (s : State) (i : Nat) : Nat :=
  rdLE s (rd s PLY_CKPT_LO_BASE 0 0 * 2 ^ 5 + 2 ^ 32 * rd s PLY_CKPT_HI_BASE 0 0 + i * 32) 32

def ckPart (e : Nat) : Nat := bitsOf e 48 4
def ckBytes (e : Nat) : Nat := bitsOf e 64 32 * 256
def ckHdr (e : Nat) : Nat := bitsOf e 96 48
def ckDofs (e : Nat) : Nat := bitsOf e 144 48

/-- Whether an entry is invalid (R329); the partner's mirror region is as long as this module's. -/
def ckptBad (s : State) (e : Nat) : Bool :=
  bitsOf e 52 4 != 0 || bitsOf e 192 64 != 0 || decide (11 < ckBlk e) ||
    decide (2 ^ 26 * rd s PLY_MIRROR_LEN 0 0 < ckDofs e + ckBytes e + 256)

/-- The number of a read of the mirror engine for an entry's partition: zero, with ADDR_WINDOW, where it may not read
(R22, R290; log 113). -/
def ckRead (e a n : Nat) (s : State) : Nat × State :=
  match ((List.range ((n + 15) / 16)).map (fun i => a + 16 * i)).find? (fun x => !(pfReaches s x false)) with
  | some x => (0, raise .group (partRec s (ckPart e) 0x0101 false (awObj x) (awSrc nodeHdie x)) s)
  | none => (rdLE s a n, s)

/-- The index record of entry i with VALID as asked, for a layer header (R327). -/
def ckIndex (i : Nat) (valid : Bool) (e h : Nat) (s : State) : State :=
  mirrorWrite (0x500000 + i * 32) 16 (h % 2 ^ 32 + 2 ^ 32 * (if valid then 1 else 0) + 2 ^ 64 * courseOf s (ckPart e)) s

/-- Steps 3 and 4 of R329: the entry's data and header, and its index record VALID. -/
def ckCopy (i e : Nat) (s : State) : State :=
  let m := ckRead e (ckMaddr e) (ckBytes e) s
  let h := ckRead e (ckHdr e) 256 m.2
  let s1 := mirrorWrite (ckDofs e) (ckBytes e) m.1 { h.2 with ply.ckptOpen := none }
  pumpTwin (ckIndex i true e h.1 (mirrorWrite (ckDofs e + ckBytes e) 256 h.1 s1))

/-- CKPT_ENTRY_COPY: the next entry of the list is copied whole. Its index record is made invalid; then the copy waits for
the end of an active update of the layer, and from there until the command that copies it no such update starts (R329). -/
def execCkptEntryCopy (s : State) : Host.Outcome State Fault Refusal :=
  .next (
    let n := rd s PLY_CKPT_CNT_COUNT 0 0
    if !(rdB s PLY_GCTL_EN 0 0 && s.mirroring) || n == 0 || rd s PLY_CKPT_CNT_RATE 0 0 == 0 then s
    else match s.ply.ckptOpen with
      | some (i, e) => if ckBusy s e then s else ckCopy i e s
      | none =>
        let i := s.ply.ckptNext % n
        let e := ckptEntry s i
        let s1 : State := { s with ply.ckptNext := s.ply.ckptNext + 1 }
        if ckptBad s e then groupRec 0x0809 (rd s PLY_TWIN_CTL_LINKA 0 0) (ckPart e) s1
        else
          let s2 := ckIndex i false e (ckRead e (ckHdr e) 256 s).1 { s1 with ply.ckptOpen := some (i, e) }
          if ckBusy s e then pumpTwin s2 else ckCopy i e s2)

end Sys2Proof.Machine
end

