-- ==== Sys2Proof/Machine/Dma.lean ====
section
/-! DEFINITION. The DMA engines (R342, R344 to R348): doorbells, enable and stop, descriptors performed one at a time, and
their ends. -/

namespace Sys2Proof.Machine

/-! ### Functions -/

/-- Whether function f answers the host: HCLK runs, the link is up, the endpoint is out of reset, and a VF is enabled (R26,
R337). -/
def fnLive (s : State) (f : Nat) : Bool :=
  s.hst.hclk && rdB s PCI_STATUS_LINKUP 0 0 && !s.bt.endpointRst && (f == 0 || decide (f ≤ s.hst.numVFs))

/-- Whether the module is in frog mode. -/
def inFrog (s : State) : Bool := rd s BOOT_STATUS_STATE 0 0 == 2

/-- Whether function f has its BAR2 and BAR4, whose size is 0 in frog mode (R336, R384). -/
def barLive (s : State) (f : Nat) : Bool := fnLive s f && !(inFrog s)

/-- An ignored doorbell (R342). -/
def doorbellBad (f obj : Nat) (s : State) : State :=
  raise .endpoint (plainRec 0x0903 false obj f) (wr s PCI_FN_STATUS_DBIGN 0 f 1)

/-! ### Engines -/

def dmaOwner (s : State) (e : Nat) : Nat := rd s PCI_DMA_CTL_OWNER 0 e
def dmaState (s : State) (e : Nat) : Nat := rd s PCI_DMA_STATUS_STATE 0 e
def dmaHead (s : State) (e : Nat) : Nat := rd s PCI_DMA_IDX_CHEAD 0 e
def dmaTail (s : State) (e : Nat) : Nat := rd s PCI_DMA_IDX_TAIL 0 e

/-- The entries of engine e's ring (R346). -/
def dmaSize (s : State) (e : Nat) : Nat := 2 ^ max 4 (min 16 (rd s PCI_DMA_RSIZE_RSIZE 0 e))

/-- The descriptor that engine e performs. -/
def dmaNow (s : State) (e : Nat) : Option Dma := s.hst.dmas.find? (fun d => d.eng == e)

/-- The partition of a VF-owned engine. -/
def dmaPart (s : State) (e : Nat) : Option Nat := let o := dmaOwner s e; if 1 ≤ o ∧ o ≤ 16 then some (o - 1) else none

/-- DMA_TAIL_DOORBELL: function f writes v as the TAIL of engine e (R342). -/
def execDmaTailDoorbell (f e v : Nat) (s : State) : Host.Outcome State Fault Refusal :=
  .next (
    if !(barLive s f) || decide (32 ≤ e) then s
    else
      let n := dmaSize s e
      let used := (dmaTail s e + n - dmaHead s e) % n
      let adv := (v + n - dmaTail s e) % n
      if dmaOwner s e ≠ f ∨ n ≤ v ∨ n - 1 - used < adv then doorbellBad f e s
      else wr s PCI_DMA_IDX_TAIL 0 e v)

/-- ROLLOUT_CONS_DOORBELL: function f writes v as the CONS of its rollout ring (R342, R350). -/
def execRolloutConsDoorbell (f v : Nat) (s : State) : Host.Outcome State Fault Refusal :=
  .next (
    if !(barLive s f) then s
    else
      match f with
      | 0 => doorbellBad 0 0 s
      | p + 1 =>
        let cons := rd s PCI_RO_CONS_CONS 0 p
        let room := (rd s PCI_RO_PROD_PROD 0 p + 2 ^ 32 - cons) % 2 ^ 32
        if room < (v % 2 ^ 32 + 2 ^ 32 - cons) % 2 ^ 32 then doorbellBad f p s else wr s PCI_RO_CONS_CONS 0 p v)

/-- What a write of PCI_DMA_CTL does to an engine's state (Table 15.6). -/
def dmaCtl (e : Nat) (s0 s : State) : State :=
  match rdB s0 PCI_DMA_CTL_EN 0 e, rdB s PCI_DMA_CTL_EN 0 e with
  | false, true => if dmaState s e = 0 then wr s PCI_DMA_STATUS_STATE 0 e 1 else s
  | true, false => if dmaState s e = 3 then wr s PCI_DMA_STATUS_STATE 0 e 0 else s
  | _, _ => s

/-! ### Descriptors (Table 15.4) -/

def ddOp (d : Nat) : Nat := bitsOf d 0 4
def ddIrq (d : Nat) : Bool := bitsOf d 4 1 == 1
def ddSig (d : Nat) : Bool := bitsOf d 5 1 == 1
def ddTag (d : Nat) : Nat := bitsOf d 16 16
def ddStitch (d : Nat) : Nat := bitsOf d 32 14
def ddLen (d : Nat) : Nat := bitsOf d 64 32
def ddPattern (d : Nat) : Nat := bitsOf d 96 32
def ddSrc (d : Nat) : Nat := bitsOf d 128 48
def ddDst (d : Nat) : Nat := bitsOf d 192 48

/-- Whether an address lies in the stash window. -/
def inStash (a : Nat) : Bool := decide (hostBase ≤ a)

/-- Whether a descriptor breaks R345. -/
def dmaBad (s : State) (e d : Nat) : Bool :=
  let op := ddOp d
  let len := ddLen d
  bitsOf d 7 9 != 0 || bitsOf d 46 18 != 0 || bitsOf d 176 16 != 0 || bitsOf d 240 16 != 0 ||
    !(op == 1 || op == 2 || op == 3) || (op != 2 && ddPattern d != 0) || (op != 1 && ddSrc d != 0) ||
    (if op = 3 then len != 0 else len == 0 || len % 16 != 0) || ddSrc d % 16 != 0 || ddDst d % 16 != 0 ||
    (op == 1 && inStash (ddSrc d) && inStash (ddDst d)) || (op == 2 && inStash (ddDst d)) ||
    (ddSig d && (dmaPart s e).isNone)

/-- The first unit of a range that an engine may not access. -/
def dmaRefused (s : State) (e a n : Nat) (write : Bool) : Option Nat :=
  match dmaPart s e with
  | some p => firstRefused s p a n write
  | none => ((List.range ((n + 15) / 16)).map (fun i => a + 16 * i)).find? (fun x => !(pfReaches s x write))

/-- Whether a stash firing is moving on engine e (R218). -/
def firingOn (s : State) (e : Nat) : Bool := s.firings.any (fun f => !f.done && stDmae f.d == e)

/-- The host address of entry i of engine e's descriptor ring (R346). -/
def ringAddr (s : State) (e i : Nat) : Nat :=
  rd s PCI_DMA_RBASE_LO_BASE 0 e * 2 ^ 12 + 2 ^ 32 * rd s PCI_DMA_RBASE_HI_BASE 0 e + 32 * i

/-- The completion record of a descriptor, and CHEAD past it (R346, Table 15.5). -/
def dmaRecord (status bytes err : Nat) (x : Dma) (s : State) : State :=
  let v := status + 2 ^ 16 * ddTag x.d + 2 ^ 32 * (bytes % 2 ^ 32) + 2 ^ 64 * err + 2 ^ 80 * x.idx
  let base := rd s PCI_DMA_CBASE_LO_BASE 0 x.eng * 2 ^ 12 + 2 ^ 32 * rd s PCI_DMA_CBASE_HI_BASE 0 x.eng
  let s1 := countBytes x.eng bytes { s with hst.dmas := s.hst.dmas.erase x }
  wr (postHost (dmaOwner s x.eng) 0 (base + x.idx * 16) 16 v s1) PCI_DMA_IDX_CHEAD 0 x.eng ((x.idx + 1) % dmaSize s x.eng)

/-- An error of R345 about engine e: its record, which takes the cast branch of a VF's partition where `trap`. -/
def dmaError (e code object source : Nat) (trap : Bool) (s : State) : State :=
  match dmaPart s e with
  | some p =>
    let r := partRec s p code trap object source
    if trap then castBranch (some p) (.dma e) r s else raise (.dma e) r s
  | none => raise (.dma e) (plainRec code false object source) s

/-- A descriptor FAILED: its record, and its engine HALTED (R345, Table 15.6). -/
def dmaFail (code bytes : Nat) (x : Dma) (s : State) : State :=
  let s1 : State := { s with hreads := s.hreads.filter (fun h => h.kind != .dma x.eng) }
  wr (dmaRecord 3 bytes code x s1) PCI_DMA_STATUS_STATE 0 x.eng 3

/-- DMA_BAD or DMA_HOSTERR of a descriptor. -/
def dmaFault (code bytes : Nat) (x : Dma) (s : State) : State :=
  dmaFail code bytes x (dmaError x.eng code x.eng (dmaOwner s x.eng) true s)

/-- A descriptor's refused address (R22, R345). -/
def dmaWindow (a : Nat) (x : Dma) (s : State) : State :=
  let tr := match dmaPart s x.eng with | some p => rdB s CRS_XPOL_TADDR p 0 | none => false
  dmaFail 0x0101 0 x (dmaError x.eng 0x0101 (awObj a) (awSrc (nodeDma x.eng) a) tr s)

/-- The engine takes up the descriptor at CHEAD, read from its ring in host memory: HCLK runs (R26), no firing goes ahead on the
engine (R218, R346), the engine runs, its ring is not empty, and nothing is under way. -/
def dmaTake (e : Nat) (act : Dma → State → State) (d : Nat) (s : State) : State :=
  if 32 ≤ e ∨ s.hst.hclk = false ∨ firingOn s e = true ∨ dmaState s e ≠ 1 ∨ rdB s PCI_DMA_CTL_EN 0 e = false ∨ dmaHead s e = dmaTail s e ∨ (dmaNow s e).isSome = true then s
  else
    let x : Dma := ⟨e, dmaHead s e, d, 0, false⟩
    let s1 := askHost (dmaOwner s e) (ringAddr s e (dmaHead s e)) 32 { s with hst.dmas := s.hst.dmas ++ [x] }
    if dmaBad s e d then dmaFault 0x0901 0 x s1 else act x s1

/-- The first `m` of a transfer's pieces pushed as WR packets of engine e; the rest tells which is the last to its node
(R167, R346). `who` is 7 for a descriptor and 8 for a firing; `tag` tells descriptors apart. -/
def dmaPush (get : Nat → Nat → Nat) (s0 : State) (part : Option Nat) (e who tag : Nat) (sig : Bool) (stitch : Nat) :
    Nat → List (Nat × Nat × Nat) → State → State
  | 0, _, s => s
  | _, [], s => s
  | m + 1, (a, d, k) :: rest, s =>
    let p := { pkt0 .wr part (nodeDma e) d (get a k) ((k + 15) / 16) with
      last := rest.isEmpty, sig := sig && lastToNode s0 part d rest, stitch := stitch, crslo := crsloOf s0 (nodeDma e) part,
      who := who, tag := tag }
    dmaPush get s0 part e who tag sig stitch m rest (inject p s)

/-- The first n bytes of a descriptor's data written to the module. -/
def dmaData (x : Dma) (v : Nat) (s : State) : State :=
  let n := ddLen x.d
  let ps := pieces (n + 1) (ddDst x.d) (ddDst x.d) n
  let s1 := dmaPush (fun a k => bitsOf v (8 * (a - ddDst x.d)) (8 * k)) s (dmaPart s x.eng) x.eng 7 x.idx (ddSig x.d)
    (ddStitch x.d) ps.length ps s
  { s1 with hst.dmas := s1.hst.dmas.map (fun d => if d = x then { d with bytes := n } else d) }

/-- A COPY whose addresses are allowed: out of the host as read requests, into the host as posted writes, or within the
module. -/
def dmaCopy (ue : Option Nat) (ce : List (Nat × Nat)) (x : Dma) (s : State) : State :=
  let n := ddLen x.d
  let part := dmaPart s x.eng
  match target s (ddSrc x.d) with
  | .host h =>
    askHost (dmaOwner s x.eng) h n
      { s with hreads := s.hreads ++ [⟨.dma x.eng, h, ddDst x.d, n, x.eng, part, ddSig x.d, ddStitch x.d⟩] }
  | _ =>
    let r := unitRead 1 (nodeDma x.eng) part ue (ddSrc x.d) n s
    let s0 := countCe ce [(ddSrc x.d, n)] r.2
    let s1 := match metUe s ue (ddSrc x.d) n with | some a => unitErr (nodeDma x.eng) part a s0 | none => s0
    match target s (ddDst x.d) with
    | .host h =>
      let s2 := postHost (dmaOwner s x.eng) 2 h n r.1 s1
      { s2 with hst.dmas := s2.hst.dmas.map (fun d => if d = x then { d with bytes := n } else d) }
    | _ => dmaData x r.1 s1

/-- DMA_COPY: engine e performs `desc`, the descriptor at CHEAD, which is a COPY. -/
def execDmaCopy (e : Nat) (desc : BitVec 256) (out : ReadOut) (s : State) : Host.Outcome State Fault Refusal :=
  .next (
    let d := desc.toNat
    if ddOp d ≠ 1 then s
    else takenWhole (dmaTake e (fun x s =>
      match dmaRefused s e (ddSrc d) (ddLen d) false, dmaRefused s e (ddDst d) (ddLen d) true with
      | some a, _ => dmaWindow a x s
      | none, some a => dmaWindow a x s
      | none, none => dmaCopy out.ue out.ce x s) d) s)

/-- DMA_FILL. -/
def execDmaFill (e : Nat) (desc : BitVec 256) (s : State) : Host.Outcome State Fault Refusal :=
  .next (
    let d := desc.toNat
    if ddOp d ≠ 2 then s
    else dmaTake e (fun x s =>
      match dmaRefused s e (ddDst d) (ddLen d) true with
      | some a => dmaWindow a x s
      | none => dmaData x (packN 32 (List.replicate (ddLen d / 4) (ddPattern d))) s) d s)

/-- DMA_NOP: a NOP, or a descriptor of no assigned OP, which is refused; `none` where the host's completion of the read of
the descriptor fails, so that its TAG is a free value. -/
def execDmaNop (e : Nat) (desc : Option (BitVec 256)) (s : State) : Host.Outcome State Fault Refusal :=
  .next (
    match desc with
    | some b => if ddOp b.toNat = 1 ∨ ddOp b.toNat = 2 then s else dmaTake e (fun _ s => s) b.toNat s
    | none =>
      let tag := Config.free s.freeIdx 0 % 2 ^ 16
      dmaTake e (fun x s => dmaFault 0x0902 0 x { s with freeIdx := s.freeIdx + 1 }) (3 + 2 ^ 16 * tag) s)

/-- Whether everything that a descriptor reads and writes in the module is done. -/
def dmaDone (s : State) (x : Dma) : Bool :=
  !(s.hreads.any (fun h => h.kind == .dma x.eng)) &&
    !(s.net.any (fun q => q.src == nodeDma x.eng && q.who == 7 && q.tag == x.idx))

/-- A descriptor that is done: the signal of a host destination, its record, and its interrupt (R346, R348). -/
def dmaFinish (x : Dma) (s : State) : State :=
  let e := x.eng
  let s1 := match dmaPart s e with
    | some p => if ddSig x.d && inStash (ddDst x.d) then sendStitch p (ddStitch x.d) 1 (nodeDma e) 7 s else s
    | none => s
  let s2 := dmaRecord 1 x.bytes 0 x s1
  if ddIrq x.d then signalVec (dmaOwner s e) (rd s PCI_DMA_CTL_VECTOR 0 e) s2 else s2

/-- An engine IDLE after STOP. -/
def dmaIdle (e : Nat) (s : State) : State := wr (wr s PCI_DMA_CTL_EN 0 e 0) PCI_DMA_STATUS_STATE 0 e 0

/-- DMA_DESCRIPTOR_COMPLETE: the record of a descriptor that is done, or was stopped. -/
def execDmaDescriptorComplete (e : Nat) (s : State) : Host.Outcome State Fault Refusal :=
  .next (match dmaNow s e with
    | none => s
    | some x =>
      if !(dmaDone s x) || !s.hst.hclk then s
      else if x.stop then dmaIdle e (dmaRecord 2 x.bytes 0 x s)
      else dmaFinish x s)

/-- STOP: an engine with nothing under way stops at once, and one whose descriptor is complete after its record, DONE; any other
descriptor ends early, and no later packet of it leaves (Table 15.6). -/
def dmaStop (e : Nat) (s : State) : State :=
  if dmaState s e ≠ 1 then s
  else match dmaNow s e with
    | none => dmaIdle e s
    | some x =>
      if dmaDone s x && !x.stop then dmaIdle e (dmaFinish x s)
      else { s with
        hst.dmas := s.hst.dmas.map (fun d => if d.eng = e then { d with stop := true } else d)
        hreads := s.hreads.filter (fun h => h.kind != .dma e) }

/-- A write of PCI_DMA_CTL of engine e whose STOP bit is as asked. -/
def dmaWrite (rq : Requester) (e : Nat) (v : W32) (stop : Bool) (s : State) : State :=
  if 32 ≤ e ∨ (bitsOf v.toNat 1 1 == 1) ≠ stop then s
  else busCmd rq PCI_DMA_CTL_EN 0 e v (fun _ s1 => let s2 := dmaCtl e s s1; if stop then dmaStop e s2 else s2) s

/-- DMA_ENABLE: a write of PCI_DMA_CTL with STOP 0. -/
def execDmaEnable (rq : Requester) (e : Nat) (v : W32) (s : State) : Host.Outcome State Fault Refusal :=
  .next (dmaWrite rq e v false s)

/-- DMA_STOP: a write of PCI_DMA_CTL with STOP 1. -/
def execDmaStop (rq : Requester) (e : Nat) (v : W32) (s : State) : Host.Outcome State Fault Refusal :=
  .next (dmaWrite rq e v true s)

/-! ### Completions of host reads (R345, R349) -/

/-- The bytes of one completion: to the next 4 KiB boundary of the host (Table 15.1). -/
def hostChunk (h : HRead) : Nat := min h.len (4096 - h.src % 4096)

/-- A read after a completion of k bytes. -/
def advanceRead (k i : Nat) (s : State) : State :=
  let hs := s.hreads.mapIdx (fun j h => if j = i then { h with src := h.src + k, dst := h.dst + k, len := h.len - k } else h)
  { s with hreads := hs.filter (fun h => h.len != 0) }

/-- The data of a completion put in the hands of the mesh: a tile's request is answered; an engine's data leaves as WR
packets, and the last to each node carries the signal; the engine counts the bytes of a firing or a restore as they leave. -/
def deliver (h : HRead) (v k : Nat) (s : State) : State :=
  match h.kind with
  | .mesh p => inject (response p nodeHdie v) s
  | kind =>
    let n := h.len
    let all := pieces (n + 1) h.dst h.dst n
    let now := (pieces (k + 1) h.dst h.dst k).length
    let who := match kind with | .dma _ => 7 | _ => 8
    let tag := match kind with | .dma e => dmaHead s e | _ => 0
    let s1 := dmaPush (fun a m => bitsOf v (8 * (a - h.dst)) (8 * m)) s h.part h.eng who tag h.sig h.stitch now all s
    match kind with
    | .dma e => { s1 with hst.dmas := s1.hst.dmas.map (fun d => if d.eng = e then { d with bytes := d.bytes + k } else d) }
    | _ => countBytes h.eng k s1

/-- DMA_HOSTERR for partition p, outside a descriptor. -/
def hostErr (u : UnitId) (object : Nat) (part : Option Nat) (s : State) : State :=
  match part with
  | some p => castBranch part u (partRec s p 0x0902 true object (p + 1)) s
  | none => raise u (plainRec 0x0902 false object 0) s

/-- A host read fails: DMA_HOSTERR, and nothing more is written (R345). A descriptor is FAILED; a tile's request is
answered no more and gives back its tag; a firing is abandoned; a restore ends its skein with FAULT. -/
def failRead (h : HRead) (s : State) : State :=
  match h.kind with
  | .mesh p =>
    let s1 : State := { s with hreads := s.hreads.erase h }
    freeOwner p (hostErr .endpoint (h.part.getD 0) h.part s1)
  | .dma e => match dmaNow s e with | some x => dmaFault 0x0902 x.bytes x s | none => s
  | .firing q entry =>
    hostErr (.dma h.eng) h.eng h.part (abandonFirings (fun f => f.part == q && f.entry == entry) s)
  | .restore k =>
    let ms := s.moves.filter (fun m => m.skein == k)
    let s1 : State := { s with
      moves := s.moves.filter (fun m => m.skein != k)
      hreads := s.hreads.filter (fun x => x.kind != .restore k) }
    let s2 := ms.foldl (fun s m => m.pages.foldl (fun s x => pushPage (h.part.getD 0) x.2 s) s) s1
    hostErr (.dma h.eng) h.eng h.part (endSkein k 5 s2)

/-- HOST_COMPLETION: the completion of read i brings its next bytes, or, not `ok`, fails with UR, CA or poison. -/
def execHostCompletion (i data : Nat) (ok : Bool) (s : State) : Host.Outcome State Fault Refusal :=
  .next (match s.hreads[i]? with
    | none => s
    | some h =>
      if !s.hst.hclk then s
      else if !ok then failRead h s
      else
        let k := hostChunk h
        deliver h (data % 2 ^ (8 * k)) k (advanceRead k i s))

/-- HOST_COMPLETION_TIMEOUT: read i gets no completion in time. -/
def execHostCompletionTimeout (i : Nat) (s : State) : Host.Outcome State Fault Refusal :=
  .next (match s.hreads[i]? with
    | none => s
    | some h => if s.hst.hclk then failRead h s else s)

end Sys2Proof.Machine
end

