-- ==== Sys2Proof/Machine/Host.lean ====
section
/-! DEFINITION. The PCI Express endpoint (R26, R335 to R343, R354): the link, configuration, BAR2 and the resets of the
host's side. -/

namespace Sys2Proof.Machine

/-- HOST_REFCLK_LOSS: HCLK stops (R26). -/
def execHostRefclkLoss (s : State) : Host.Outcome State Fault Refusal := .next { s with hst.hclk := false }

/-- HOST_REFCLK_RETURN. -/
def execHostRefclkReturn (s : State) : Host.Outcome State Fault Refusal := .next { s with hst.hclk := true }

/-- PCIE_LINK_UP: the link reaches DL_Active at a rate and a width of Table 15.1. -/
def execPcieLinkUp (speed width : Nat) (s : State) : Host.Outcome State Fault Refusal :=
  .next (
    if s.bt.endpointRst || !s.hst.hclk || speed == 0 || decide (5 < speed) || !([1, 4, 8, 16].contains width) then s
    else wr (wr (wr s PCI_STATUS_SPEED 0 0 speed) PCI_STATUS_WIDTH 0 0 width) PCI_STATUS_LINKUP 0 0 1)

/-! ### Configuration (R336, R337) -/

/-- A vector's mask bit written: an unmasked vector that is pending is sent (R343). -/
def maskVec (f v : Nat) (masked : Bool) (s : State) : State :=
  let k := f * 2048 + v
  if vecThere s f v = false ∨ 16 < f then s
  else
    let s1 : State := { s with vecMask := mapSet false s.vecMask k (!masked) }
    if !masked && mapGet false s.vecPend k then signalVec f v { s1 with vecPend := mapSet false s1.vecPend k false } else s1

/-- The functions that the host finds: in frog mode the PF alone (R336, R384). -/
def fnThere (s : State) (f : Nat) : Bool := f == 0 || (!(inFrog s) && decide (f ≤ s.hst.numVFs))

/-- A field of function f's configuration space (R335 to R337). A field of an absent feature reads as zero, PRESUMED (log entry
110). -/
def cfgField (s : State) (f : Nat) : CfgField → Nat
  | .deviceId => if f = 0 then 0x2304 else 0x2305
  | .classCode => 0x120000
  | .serial => rd64 s FUSE_SERIAL_LO_SERIAL FUSE_SERIAL_HI_SERIAL 0 0
  | .firstVfOffset => 1
  | .vfStride => 1
  | .totalVFs => if inFrog s then 0 else 16
  | .numVFs => s.hst.numVFs
  | .absent => 0

/-- A read answered with data. -/
def cfgGive (v : Nat) (s : State) : State := { s with hst.cfgAnswer := 2, hst.cfgData := v }

/-- What a configuration request does once the configuration space stands; in frog mode there is no VF, and no BAR2. -/
def configAct (req : CfgReq) (s : State) : State :=
  match req with
  | .read f x => if fnThere s f then cfgGive (cfgField s f x) s else { s with hst.cfgAnswer := 3 }
  | .numVFs n => if 16 < n ∨ inFrog s = true then s else { s with hst.numVFs := n }
  | .bar2 f l => if 6 < l ∨ 16 < f ∨ inFrog s = true then s else { s with hst.b2size := mapSet 0 s.hst.b2size f l }
  | .relaxed f on => if fnThere s f then { s with hst.roOff := mapSet false s.hst.roOff f (!on) } else s
  | _ => s

/-- An access to BAR4, or in frog mode to the vector of BAR0: it needs no configuration request's answer. A doorbell reads as the
value last taken, and an engine that the function does not own as zero, DESIGN CHOICE (log entry 110). -/
def bar4Act (req : CfgReq) (s : State) : State :=
  match req with
  | .msixMask f v m => if fnLive s f && (!(inFrog s) || v == 0) then maskVec f v m s else s
  | .tailRead f e => if barLive s f && decide (e < 32) then cfgGive (if dmaOwner s e = f then dmaTail s e else 0) s else s
  | .mailboxRead f => if barLive s f then cfgGive 0 s else s
  | .consRead f =>
    (match f with
      | 0 => s
      | p + 1 => if barLive s f then cfgGive (rd s PCI_RO_CONS_CONS 0 p) s else s)
  | _ => s

/-- Whether a request goes to the configuration space. -/
def toConfig : CfgReq → Bool
  | .msixMask _ _ _ => false
  | .tailRead _ _ => false
  | .mailboxRead _ => false
  | .consRead _ => false
  | _ => true

/-- CONFIG_REQUEST: answered with Request Retry Status until hub firmware has written the configuration space. -/
def execConfigRequest (req : CfgReq) (s : State) : Host.Outcome State Fault Refusal :=
  .next (
    if s.bt.endpointRst || !(rdB s PCI_STATUS_LINKUP 0 0) || !s.hst.hclk then s
    else if !(toConfig req) then bar4Act req s
    else if !s.hst.cfgReady then { s with hst.cfgAnswer := 1 }
    else configAct req { s with hst.cfgAnswer := 2 })

/-! ### BAR2 (R23, R340, R341) -/

/-- The size of function f's BAR2. -/
def bar2Size (s : State) (f : Nat) : Nat := 2 ^ (30 + mapGet 0 s.hst.b2size f)

/-- The module address of BAR2 offset `ofs` of function f, the base aligned to the BAR's size. -/
def bar2Addr (s : State) (f ofs : Nat) : Nat :=
  let base := 2 ^ 30 * rd s PCI_FN_B2_LO_BASE 0 f + 2 ^ 32 * rd s PCI_FN_B2_HI_BASE 0 f
  base - base % bar2Size s f + ofs

/-- Whether function f may access an address through BAR2. -/
def bar2Allowed (s : State) (f a : Nat) (write : Bool) : Bool :=
  decide (a < regBase) && (match f with | 0 => pfReaches s a write | p + 1 => allowed s p a write)

/-- The first byte of a range that function f may not access, found by its 16-byte units (R23, log entry 96). -/
def bar2Refused (s : State) (f a n : Nat) (write : Bool) : Option Nat :=
  let lo := a - a % 16
  (((List.range ((a + n + 15) / 16 - lo / 16)).map (fun i => lo + 16 * i)).find? (fun x => !(bar2Allowed s f x write))).map (max a)

/-- ADDR_WINDOW of a host access, with the function as source (R23). -/
def hostWindow (f x : Nat) (s : State) : State :=
  let o := awObj x
  let r := awSrc (0xE00 + f) x
  match f with
  | 0 => raise .endpoint (plainRec 0x0101 false o r) s
  | p + 1 => raise .endpoint (partRec s p 0x0101 false o r) s

/-- The partition of a function's accesses. -/
def fnPart (f : Nat) : Option Nat := match f with | 0 => none | p + 1 => some p

/-- The WR packets of a host write: one for each line it touches, of whole 16-byte units with the bytes enabled. -/
def hostWrite (f a n v en : Nat) : Nat → State → State
  | 0, s => s
  | fuel + 1, s =>
    if n = 0 then s
    else
      let k := chunkLen a n
      let lo := a % 16
      let len := (lo + k + 15) / 16
      let p := { pkt0 .wr (fnPart f) nodeHdie (a - lo) (v % 2 ^ (8 * k) * 2 ^ (8 * lo)) len with
        last := decide (n = k), who := 32 + f, en := en % 2 ^ k * 2 ^ lo }
      hostWrite f (a + k) (n - k) (v / 2 ^ (8 * k)) (en / 2 ^ k) fuel (inject p s)

/-- BAR2_WRITE: function f writes n bytes of v, those whose bit of `en` is set, at offset `ofs` of its BAR2. -/
def execBar2Write (f ofs n v en : Nat) (s : State) : Host.Outcome State Fault Refusal :=
  .next (
    if !(barLive s f) || decide (bar2Size s f < ofs + n) || n == 0 then s
    else
      let a := bar2Addr s f ofs
      match bar2Refused s f a n true with
      | some x => hostWindow f x s
      | none => hostWrite f a n v en (n + 1) s)

/-- Whether a BAR2 read of n bytes at address a cannot complete now: an earlier write of the function is on its way, or a place
that it reads does not answer (R340, R341). -/
def bar2Blocked (s : State) (f a n : Nat) : Bool :=
  s.net.any (fun q => q.src == nodeHdie && q.who == 32 + f) || decide (3 ≤ s.bt.latched) ||
    (unitReqs s false 1 nodeHdie (fnPart f) a n).any (fun r => !(chanReady s r.stack r.ch))

/-- BAR2_READ: function f reads n bytes at offset `ofs` of its BAR2; a read that cannot complete yet is kept waiting, and
completes when it is tried again. -/
def bar2Read (f ofs n : Nat) (ue : Option Nat) (ce : List (Nat × Nat)) (s : State) : State :=
    if !(barLive s f) || decide (bar2Size s f < ofs + n) || n == 0 then s
    else
      let a := bar2Addr s f ofs
      let rest := s.hst.barWait.erase (f, ofs, n)
      match bar2Refused s f a n false with
      | some x => hostWindow f x { s with hst.barData := 0, hst.barAnswer := 1, hst.barWait := rest }
      | none =>
        if bar2Blocked s f a n then { s with hst.barWait := rest ++ [(f, ofs, n)] }
        else
          let r := unitRead 1 nodeHdie (fnPart f) ue a n s
          let s1 := countCe ce [(a, n)] r.2
          let s2 := match metUe s ue a n with | some x => unitErr (0xE00 + f) (fnPart f) x s1 | none => s1
          { s2 with hst.barData := r.1, hst.barAnswer := 1, hst.barWait := rest }

/-- BAR2_READ. -/
def execBar2Read (f ofs : Nat) (b : BarRead) (s : State) : Host.Outcome State Fault Refusal :=
  .next (bar2Read f ofs b.len b.out.ue b.out.ce s)

/-- BAR_READ_TIMEOUT: function f's oldest waiting read has waited 1 ms: Completer Abort and BAR_STALL (R341). -/
def execBarReadTimeout (f : Nat) (s : State) : Host.Outcome State Fault Refusal :=
  .next (match s.hst.barWait.find? (fun x => x.1 == f) with
    | none => s
    | some x =>
      raise .endpoint (plainRec 0x0904 false (f - 1) f) { s with hst.barAnswer := 2, hst.barWait := s.hst.barWait.erase x })

/-! ### Resets of the host's side (R354) -/

/-- A function's request, waiting reads and mailbox forgotten. -/
def dropRequest (f : Nat) (s : State) : State :=
  wr { s with
    hst.doorbell := s.hst.doorbell.filter (fun x => x != f)
    hst.roOff := mapSet false s.hst.roOff f false
    hst.barWait := s.hst.barWait.filter (fun x => x.1 != f)
    hst.barWrites := s.hst.barWrites.filter (fun x => x.1 != .func f) } PCI_FN_STATUS_MBUSY 0 f 0

/-- A function's mailbox buffer and vectors as after its FLR. -/
def clearFn (f : Nat) (s : State) : State :=
  wr (wr (dropRequest f { s with
    vecMask := mapClear s.vecMask (f * 2048) 2048
    vecPend := mapClear s.vecPend (f * 2048) 2048 }) PCI_FN_MBX_LO_BASE 0 f 0) PCI_FN_MBX_HI_BASE 0 f 0

/-- VF_FLR: function f, a VF, is reset: a PARTITION reset of its partition, its engines and its ring stopped. -/
def execVfFlr (f : Nat) (s : State) : Host.Outcome State Fault Refusal :=
  .next (match f with
    | 0 => s
    | p + 1 =>
      if !(fnLive s f) then s
      else
        let s1 := if mapGet false s.parts p then
            let r := resetPartition p s
            { r with bt.swParts := r.bt.swParts.filter (fun q => q != 16 + p) ++ [16 + p] }
          else s
        let s2 := (enginesOf s1 f).foldl (fun s e => stopEngine e s) s1
        wr (clearFn f { s2 with roPend := mapSet 0 s2.roPend p 0 }) PCI_STATUS_FLR 0 0 1)

/-- A PF FLR, a hot reset or DL_Down: every partition held in PARTITION reset, every VF disabled, every engine stopped. -/
def pfReset (s : State) : State :=
  let s1 := (partsOf s).foldl (fun s p => resetPartition p (wrOr s RST_PHOLD_HOLD 0 0 (2 ^ p))) s
  let s2 := (List.range 32).foldl (fun s e => stopEngine e s) s1
  let s3 := (List.range 17).foldl (fun s f => clearFn f s) { s2 with hst.numVFs := 0, roPend := [] }
  wr s3 PCI_STATUS_FLR 0 0 1

/-- PF_FLR. -/
def execPfFlr (s : State) : Host.Outcome State Fault Refusal := .next (if fnLive s 0 then pfReset s else s)

/-- HOT_RESET. -/
def execHotReset (s : State) : Host.Outcome State Fault Refusal := .next (if fnLive s 0 then pfReset s else s)

/-- DL_DOWN: the link is lost as well. -/
def execDlDown (s : State) : Host.Outcome State Fault Refusal :=
  .next (if fnLive s 0 then
      wr (wr (wr (pfReset s) PCI_STATUS_LINKUP 0 0 0) PCI_STATUS_SPEED 0 0 0) PCI_STATUS_WIDTH 0 0 0
    else s)

end Sys2Proof.Machine
end

