-- ==== Sys2Proof/Machine/Power.lean ====
section
/-! DEFINITION. Power and heat (R356 to R371, R299, R300): emergencies and grace notices, sensors, aligned steps and their
holds, the power cap, and the throttle reasons. -/

namespace Sys2Proof.Machine

/-! ### Emergencies (R365, R367, Table 16.6) -/

/-- Stretching of a K-die held, or given up, for a throttle reason. -/
def setStretch (d r : Nat) (on : Bool) (s : State) : State := { s with pw.stretch := mapSet false s.pw.stretch (d * 8 + r) on }

/-- Whether a K-die is stretched. -/
def stretched (s : State) (d : Nat) : Bool := (List.range 8).any (fun r => mapGet false s.pw.stretch (d * 8 + r))

/-- The object word of a power error (R372). -/
def powerObj (kind n : Nat) : Nat := 2 ^ 31 + kind * 16 + n

/-- The grace of one notice. -/
def graceUs (s : State) : Nat := max 1 (rd s PWR_GRACE_US 0 0)

/-- The throttle reason of an emergency event (Table 16.7). -/
def eventReason (ev : Nat) : Nat := match ev with | 1 => 3 | 2 => 2 | 3 => 0 | _ => 1

/-- The K-dies that an event acts on. -/
def eventDies (ev obj : Nat) : List Nat := match ev with | 1 => List.range 4 | 2 => List.range 4 | 3 => [obj] | _ => []

/-- The object word of an event. -/
def eventObj (ev obj : Nat) : Nat := match ev with | 3 => powerObj 1 obj | 4 => powerObj 4 obj | _ => powerObj 2 0

/-- Whether every cause that held K-die d down is clear (R364, R365, R368, R369). -/
def causesClear (s : State) (d : Nat) : Bool :=
  s.pw.emerg.all (fun e => e.1 == 4 || (e.1 == 3 && e.2 != d)) && !(mapGet false s.pw.hotDie d) && !s.pw.capOver

/-- Recovery given up where a cause is no longer clear: its steps up that wait are abandoned (R364). -/
def dropRises (s : State) : State := recheckAll { s with pw.steps := s.pw.steps.filter (fun a => !(a.up && !(causesClear s a.die))) }

/-- An emergency event begins: its record and first action; a notice of grace where no other event is in force (R367). -/
def beginEvent (ev obj : Nat) (s : State) : State :=
  if s.pw.emerg.contains (ev, obj) then s
  else
    let s1 : State := { s with pw.emerg := s.pw.emerg ++ [(ev, obj)] }
    let s2 := (eventDies ev obj).foldl (fun s d => setStretch d (eventReason ev) true s) s1
    let s3 := dropRises (if ev = 3 then stepDown obj 0 s2 else s2)
    let s4 := raise .governor (plainRec 0x0A03 false (eventObj ev obj) ev) s3
    if s.pw.emerg.isEmpty then graceNotice (graceUs s) s4 else s4

/-- An emergency event ends: its stretching stops. -/
def endEvent (ev obj : Nat) (s : State) : State :=
  let s1 : State := { s with pw.emerg := s.pw.emerg.filter (fun e => e != (ev, obj)) }
  (eventDies ev obj).foldl (fun s d => setStretch d (eventReason ev) false s) s1

/-- VTH as it acts. -/
def droopVth (s : State) : Nat := max 3800 (min 4400 (rd s PWR_DROOP_VTH 0 0))

/-- Whether the governor runs: the module is powered and in no reset of reach WARM or COLD. -/
def governed (s : State) : Bool := s.pw.power == 2 && decide (s.bt.latched < 4)

/-- INPUT_DROOP: the comparator sees the input at `vin`, in 10 mV units. -/
def execInputDroop (vin : Nat) (s : State) : Host.Outcome State Fault Refusal :=
  .next (if governed s ∧ vin < droopVth s then beginEvent 1 0 (wr s PWR_INPUT_VIN 0 0 vin) else s)

/-- INPUT_CURRENT_LIMIT: the limiter has been engaged for 1,500 µs, or the bulk node is below 36.0 V. -/
def execInputCurrentLimit (s : State) : Host.Outcome State Fault Refusal :=
  .next (if governed s then beginEvent 2 0 s else s)

/-- EMERGENCY_STEP_TIMER: event `ev` (on K-die d, where it is of one die) still lasts: one further step down. -/
def execEmergencyStepTimer (ev d : Nat) (s : State) : Host.Outcome State Fault Refusal :=
  .next (
    let obj := if ev = 3 then d else 0
    if s.pw.emerg.contains (ev, obj) then
      recheckAll ((eventDies ev obj).foldl (fun s k => stepDown k (eventReason ev) s) s)
    else s)

/-- The temperature of a K-die, °C. -/
def dieTemp (s : State) (d : Nat) : Int := (BitVec.ofNat 8 (rd s THM_DIE_TEMP d 0)).toInt

/-- EMERGENCY_END: the end condition of an event holds: the input at `vin` for 10 µs, the limiter released, or the die cool. -/
def execEmergencyEnd (ev obj vin : Nat) (s : State) : Host.Outcome State Fault Refusal :=
  .next (
    let ok := match ev with
      | 1 => decide (droopVth s + 50 ≤ vin)
      | 2 => true
      | 3 => decide (dieTemp s obj < (rd s THM_LIM_TCRIT obj 0 : Int) - 5)
      | _ => false
    if s.pw.emerg.contains (ev, obj) && ok then endEvent ev obj s else s)

/-- GRACE_RESEND_TIMER: PWR_GRACE.US µs have passed since the last notice, and an emergency lasts. -/
def execGraceResendTimer (s : State) : Host.Outcome State Fault Refusal :=
  .next (if s.pw.emerg.isEmpty then s else graceNotice (graceUs s) s)

/-! ### Stack temperature (R295, R299, R300) -/

/-- The next throttle state of a stack at a reading (Table 13.7). -/
def nextThr (now : Nat) (t : Int) : Nat :=
  let up := if 110 ≤ t then 3 else if 105 ≤ t then 2 else if 95 ≤ t then 1 else 0
  let down := match now with
    | 3 => if t < 105 then 2 else 3
    | 2 => if t < 102 then 1 else 2
    | 1 => if t < 92 then 0 else 1
    | _ => 0
  if now < up then up else down

/-- The higher of a PEAK field and a temperature, as the field holds it. -/
def peakOf (old : Nat) (t : Int) : Nat := if (BitVec.ofNat 8 old).toInt < t then (BitVec.ofInt 8 t).toNat else old

/-- TEMP_POLL: the controller of stack k polls its sensors, every 32 µs. -/
def execTempPoll (k : Nat) (temp : Int) (s : State) : Host.Outcome State Fault Refusal :=
  .next (
    if 12 ≤ k ∨ s.pw.power ≠ 2 ∨ s.bt.latched ≠ 0 then s
    else
      let now := rd s MEM_STATUS_THR k 0
      let nx := nextThr now temp
      let hot := rd s MEM_STATUS_HOTREF k 0
      let s1 := wr (wr s MEM_TEMP_TEMP k 0 (BitVec.ofInt 8 temp).toNat) MEM_TEMP_PEAK k 0 (peakOf (rd s MEM_TEMP_PEAK k 0) temp)
      let s2 := wr (wr s1 MEM_STATUS_THR k 0 nx) MEM_STATUS_HOTREF k 0 (if 85 ≤ temp then 1 else if temp < 82 then 0 else hot)
      let s3 := if now = 0 then s2 else incM s2 MEM_THRUS_LO_THRUS MEM_THRUS_HI_THRUS k 0 32
      if now ≠ 3 ∧ nx = 3 then beginEvent 4 k (raise (.memctl k) (plainRec 0x0703 false k (nodeMem k)) s3)
      else if now = 3 ∧ nx ≠ 3 then endEvent 4 k s3
      else s3)

/-! ### Throttle reasons (R370, Table 16.7) -/

/-- The cap as it acts: values from 1 to 1,199 W act as 1,200 W; 0 is none (R369). -/
def capOf (s : State) : Nat := let c := rd s PWR_HOSTCAP_CAP 0 0; if c = 0 then 0 else max 1200 c

/-- The limit applied. -/
def powerLimit (s : State) : Nat := if capOf s = 0 then 3600 else min 3600 (capOf s)

/-- The reason for which the limit binds. -/
def capReason (s : State) : Nat := if powerLimit s < 3600 then 5 else 2

/-- Whether a course release of partition p waits for a twin protocol step alone (R333). -/
def twinHolds (s : State) (p : Nat) : Bool := twinKeeps s && localArrived s p && cond3 s p && cond4 s p

/-- Whether a reason is active (R370). -/
def reasonActive (s : State) (r : Nat) : Bool :=
  (List.range 4).any (fun d => ceilingOf s d r != 0 || mapGet false s.pw.stretch (d * 8 + r)) ||
    (match r with
      | 0 => s.pw.emerg.any (fun e => e.1 == 3)
      | 1 => (List.range 12).any (fun k => rd s MEM_STATUS_THR k 0 != 0)
      | 2 => s.pw.emerg.any (fun e => e.1 == 2) || (s.pw.capOver && capReason s == 2)
      | 3 => s.pw.emerg.any (fun e => e.1 == 1)
      | 4 => (List.range 16).any (fun p => mapGet false s.pw.odHold p)
      | 5 => s.pw.capOver && capReason s == 5
      | 6 => (List.range 16).any (twinHolds s)
      | 7 => (List.range 16).any (fun p => mapGet false s.pw.peerGrace p)
      | _ => false)

/-- PWR_THR.ACTIVE. -/
def activeReasons (s : State) : Nat := ((List.range 8).map (fun r => if reasonActive s r then 2 ^ r else 0)).sum

/-- One microsecond counted for every active reason. -/
def tickReasons (s : State) : State :=
  (List.range 8).foldl (fun s1 r => if reasonActive s r then incM s1 PWR_THRUS_LO_US PWR_THRUS_HI_US 0 r 1 else s1) s

/-! ### Die sensors (R368) -/

/-- A K-die's hottest sensor taken: the registers, the thermal cause, and a critical temperature. Bit d of `due` says that
1 ms has passed since the die's last step. -/
def sampleDie (due d : Nat) (x : Int × Nat) (s : State) : State :=
  let t := x.1
  let s1 := wr (wr (wr s THM_DIE_TEMP d 0 (BitVec.ofInt 8 t).toNat) THM_DIE_PEAK d 0 (peakOf (rd s THM_DIE_PEAK d 0) t))
    THM_DIE_HOTSEN d 0 x.2
  let hot := mapGet false s.pw.hotDie d
  let lim : Int := rd s THM_LIM_THOT d 0
  let s2 : State := { s1 with pw.hotDie := mapSet false s1.pw.hotDie d (if lim ≤ t then true else if t < lim - 5 then false else hot) }
  let s3 := dropRises (if lim ≤ t ∧ (hot = false ∨ due / 2 ^ d % 2 = 1) ∧ opOf s2 d < 15 then askStep ⟨d, 0, false⟩ s2 else s2)
  if (rd s THM_LIM_TCRIT d 0 : Int) ≤ t then beginEvent 3 d s3 else s3

/-- The H-die's hottest sensor taken. -/
def sampleH (t : Int) (s : State) : State :=
  wr (wr s THM_H_TEMP 0 0 (BitVec.ofInt 8 t).toNat) THM_H_PEAK 0 0 (peakOf (rd s THM_H_PEAK 0 0) t)

/-- The thermal trip: THERMTRIP_N and its reset source follow the hottest sensor of all (R368). -/
def tripCheck (temps : List Int) (s : State) : State :=
  let lim : Int := rd s THM_LIM_TTRIP 0 0
  if temps.any (fun t => decide (lim ≤ t)) then
    (if s.pw.thermTrip then s else assertSource 7 (fusedReach s 7) { s with pw.thermTrip := true })
  else if s.pw.thermTrip && temps.all (fun t => decide (t < lim - 10)) then
    releaseSource 7 { s with pw.thermTrip := false }
  else s

/-- SENSOR_SAMPLE: one microsecond's round: the input's voltage, current and power, and the hottest sensor of K-dies 0 to
3 and of the H-die, each as temperature and sensor number. -/
def execSensorSample (vin iin pin : Nat) (dies : List (Int × Nat)) (due : Nat) (s : State) : Host.Outcome State Fault Refusal :=
  .next (
    if s.pw.power ≠ 2 ∨ dies.length ≠ 5 then s
    else
      let s1 := if s.bt.latched < 4 then
          let a := tickReasons (wr (wr (wr s PWR_INPUT_VIN 0 0 vin) PWR_INPUT_IIN 0 0 iin) PWR_POWER_PIN 0 0 pin)
          let b := (List.range 4).foldl (fun s d => sampleDie due d (dies.getD d (0, 0)) s) a
          sampleH (dies.getD 4 (0, 0)).1 b
        else s
      tripCheck (dies.map (fun x => x.1)) s1)

/-! ### Aligned steps (R364) -/

/-- ALIGN_HOLD_EXPIRE: a partition has been held for PWR_ALIGN.HOLD for the pending step of K-die d: a step down is
forced, a step up abandoned. -/
def execAlignHoldExpire (d : Nat) (s : State) : Host.Outcome State Fault Refusal :=
  .next (match pendingStep s d with
    | none => s
    | some a =>
      let ps := partsOn s d
      if !(ps.any (fun p => mapGet false s.pw.alignHold p)) then s
      else
        let s1 : State := { s with pw.alignHold := s.pw.alignHold.filter (fun e => !(ps.contains e.1)) }
        if a.up then recheckAll { s1 with pw.steps := s1.pw.steps.filter (fun x => x.die != d) }
        else
          let s2 := recheckAll (takeStep a s1)
          graceNotice (graceUs s2) (raise .governor (plainRec 0x0A04 false (powerObj 1 d) (stepTarget s a)) s2))

/-- RECOVERY_STEP: every cause has been clear for PWR_RECOV.MS ms: K-die d rises by one aligned step. -/
def execRecoveryStep (d : Nat) (s : State) : Host.Outcome State Fault Refusal :=
  .next (
    if d < 4 ∧ governed s = true ∧ causesClear s d = true ∧ opOf s d ≠ 0 ∧ (pendingStep s d).isNone = true then
      recheckAll (askStep ⟨d, 0, true⟩ s)
    else s)

/-! ### The cap (R369) -/

/-- CAP_STEP_TIMER: a further millisecond has passed, with PAVG at `pavg` watts. -/
def execCapStepTimer (pavg : Nat) (s : State) : Host.Outcome State Fault Refusal :=
  .next (
    if !(governed s) then s
    else
      let lim := powerLimit s
      let s1 := wr s PWR_POWER_PAVG 0 0 pavg
      let calm := if pavg * 100 < 95 * lim then s.pw.capCalm + 1 else 0
      let s2 : State := { s1 with
        pw.capCalm := min 10 calm
        pw.capOver := decide (lim < pavg) || (s1.pw.capOver && decide (calm < 10)) }
      let low := decide (lim < pavg) && (List.range 4).all (fun d => opOf s2 d == 15)
      let s3 := wr s2 PWR_STATUS_CAPLOW 0 0 (if low then 1 else 0)
      if lim < pavg then
        dropRises ((List.range 4).foldl (fun s d => if opOf s d < 15 then askStep ⟨d, capReason s, false⟩ s else s) s3)
      else s3)

/-- HOSTCAP_WRITE: a write of PWR_HOSTCAP. -/
def execHostcapWrite (rq : Requester) (v : W32) (s : State) : Host.Outcome State Fault Refusal :=
  .next (busCmd rq PWR_HOSTCAP_CAP 0 0 v (fun _ s => s) s)

/-! ### Tension (R361, R362) -/

/-- TENSION_RECHECK: a stalled partition's charge is checked again. -/
def execTensionRecheck (p : Nat) (s : State) : Host.Outcome State Fault Refusal :=
  .next (if mapGet 0 s.pw.tension p = 1 then checkTension p s else s)

/-- OVERDRAW_HOLD_END: the hold of an overdraw has run. -/
def execOverdrawHoldEnd (p : Nat) (s : State) : Host.Outcome State Fault Refusal :=
  .next { s with pw.odHold := mapSet false s.pw.odHold p false }

/-! ### Rails and input (R356, R357) -/

/-- RAIL_FAULT: rail `rail` has stayed outside its window for 10 µs, last measured at `mv` millivolts. -/
def execRailFault (rail mv : Nat) (s : State) : Host.Outcome State Fault Refusal :=
  .next (if s.pw.power ≠ 2 ∨ 14 < rail then s else fatalError 0x0A05 (powerObj 3 rail) (mv % 2 ^ 16) .governor s)

/-- POWER_LOSS: the input has stayed below 38.0 V for 50 µs: every rail falls, and only the fuses and the flash survive
(R4, R356). -/
def execPowerLoss (s : State) : Host.Outcome State Fault Refusal :=
  .next (
    if s.pw.power = 0 then s
    else
      let z := State.reset
      wrOr { z with
        pending := s.pending
        regs := s.regs.filter (fun e => (frameIds .fuse).contains (e.1 % 1024))
        hostMem := s.hostMem
        freeIdx := s.freeIdx
        nextPid := s.nextPid
        vecSent := s.vecSent
        hst := { z.hst with hclk := s.hst.hclk, sent := s.hst.sent, uartOut := s.hst.uartOut }
        pw := { z.pw with power := 0 }
        bt := { z.bt with
          latched := 5, exiting := 0, lastSrc := 1, endpointRst := true, bootSecs := s.bt.bootSecs, sigSecs := s.bt.sigSecs,
          sigTop := s.bt.sigTop, flash := s.bt.flash } } RST_STATUS_SRC 0 0 1)

end Sys2Proof.Machine
end

