-- ==== Sys2Proof/Machine/Mailbox.lean ====
section
/-! DEFINITION. Hub-firmware services (R31, R32, R351, R353): the mailbox, its commands 0x01 to 0x0B, and the SMBus target.
A mailbox row with `ring` is the doorbell of function f; without it hub firmware performs the request, with the arguments
that the row's other operands give. -/

namespace Sys2Proof.Machine

/-! ### The mailbox (R342, R351) -/

/-- The answer to a request: STATUS, the bytes of the results and their value, and the state it leaves. -/
structure Reply where
  status : Nat
  bytes : Nat
  value : Nat
  next : State

def stOk : Nat := 0
def stConflict : Nat := 1
def stDenied : Nat := 2
def stBadArg : Nat := 3
def stNone : Nat := 4
def stUnknown : Nat := 5

/-- An answer without results. -/
def answerOk (s : State) : Reply := ⟨stOk, 0, 0, s⟩
def answerErr (st : Nat) (s : State) : Reply := ⟨st, 0, 0, s⟩

/-- Whether hub firmware, or the recovery firmware of frog mode, serves requests. -/
def hubServes (s : State) : Bool := rd s BOOT_STATUS_STATE 0 0 == 1 || rd s BOOT_STATUS_STATE 0 0 == 2

/-- The mailbox doorbell of function f. -/
def ringMailbox (f : Nat) (s : State) : State :=
  if s.hst.doorbell.contains f then doorbellBad f (f - 1) s
  else wr { s with hst.doorbell := s.hst.doorbell ++ [f] } PCI_FN_STATUS_MBUSY 0 f 1

/-- The oldest request performed: its response, then vector 0 (R351). A request refused leaves the state as it was, but for
the record of an error that it raises (Table 17.17). -/
def mailbox (ring : Bool) (f seq : Nat) (act : State → Reply) (s : State) : State :=
  if !(fnLive s f) then s
  else if ring then ringMailbox f s
  else if !(hubServes s) || s.hst.doorbell.head? != some f then s
  else
    let s1 : State := { s with hst.doorbell := s.hst.doorbell.drop 1 }
    let r := act (askHost f (mbxBase s f) 64 s1)
    let base := mbxBase s f + 64
    let s3 := postHost f 0 base 4 (r.status + 2 ^ 16 * (seq % 2 ^ 16)) r.next
    signalVec f 0 (wr (postHost f 0 (base + 4) (if r.status = stOk then r.bytes else 0) r.value s3) PCI_FN_STATUS_MBUSY 0 f 0)

/-- A request that the PF alone may make, outside frog mode. -/
def pfOnly (f : Nat) (act : State → Reply) (s : State) : Reply :=
  if inFrog s then answerErr stUnknown s else if f ≠ 0 then answerErr stDenied s else act s

/-- A request about partition p, from the PF or its VF. -/
def pfOrOwner (f p : Nat) (act : State → Reply) (s : State) : Reply :=
  if inFrog s then answerErr stUnknown s else if f ≠ 0 ∧ f ≠ p + 1 then answerErr stDenied s else act s

/-! ### Partitions (R30 to R33) -/

/-- The sum of the tension budgets, that of partition p left out, as they will be. -/
def budgetsBut (s : State) (p : Nat) : Nat :=
  (((partsOf s).filter (fun q => q != p)).map (budgetNext s)).sum

/-- Whether two ranges meet. -/
def rangesMeet (a n b m : Nat) : Bool := decide (0 < n) && decide (0 < m) && decide (a < b + m) && decide (b < a + n)

/-- The clusters of a mask. -/
def maskClusters (mask : Nat) : List Nat := (List.range 96).filter (fun c => mask / 2 ^ c % 2 == 1)

/-- Whether a request to create partition p is refused under R31, R154 and R337. -/
def createConflict (s : State) (p mask planes first count budget : Nat) : Bool :=
  mapGet false s.parts p || decide (s.hst.numVFs < p + 1) || (maskClusters mask).isEmpty || planes == 0 ||
    (maskClusters mask).any (fun c => (partOfCluster s c).isSome || rdB s CLU_STATUS_DARNBAD c 0) ||
    (partsOf s).any (fun q => rd s CRS_PLANES_MASK q 0 &&& planes != 0) ||
    (partsOf s).any (fun q => rangesMeet first count (rd s SKN_RANGE_FIRST 0 q) (rd s SKN_RANGE_COUNT 0 q)) ||
    decide (22000 < budgetsBut s p + budget)

/-- Partition p made: held in PARTITION reset, its hank lines FRESH, course number 0 (R30, R229). -/
def createPart (p mask planes first count prof budget : Nat) (s : State) : State :=
  let cs := maskClusters mask
  let s1 : State := { s with
    parts := mapSet false s.parts p true
    profile := mapSet 0 s.profile p prof
    clPart := cs.foldl (fun m c => mapSet 0 m c (p + 1)) s.clPart
    fresh := cs.foldl (fun m c => mapClear m (c * 8192) 8192) s.fresh
    rws := mapDel s.rws (fkey PWR_BUDGET_BUDGET 0 p) }
  let s2 := wr (wr (wr s1 CRS_PLANES_MASK p 0 planes) SKN_RANGE_FIRST 0 p first) SKN_RANGE_COUNT 0 p count
  let s3 := wr64 (wr s2 PWR_BUDGET_BUDGET 0 p budget) CRS_COURSE_LO_COURSE CRS_COURSE_HI_COURSE p 0 0
  wrOr (wr s3 CRS_STATUS_STATE p 0 0) RST_PHOLD_HOLD 0 0 (2 ^ p)

/-- PART_CREATE. -/
def execPartCreate (ring : Bool) (f seq p mask planes first count prof budget : Nat) (s : State) :
    Host.Outcome State Fault Refusal :=
  .next (mailbox ring f seq (pfOnly f (fun s =>
    if 16 ≤ p ∨ 2 ^ 96 ≤ mask ∨ 2 ^ 32 ≤ planes ∨ 40960 < first + count ∨ 1 < prof then answerErr stBadArg s
    else if createConflict s p mask planes first count budget then answerErr stConflict s
    else answerOk (createPart p mask planes first count prof budget s))) s)

/-- Everything that partition p owns given back (Table 1.8). -/
def freePart (p : Nat) (s : State) : State :=
  let s1 := (ownedStitches s p).foldl (fun s x => wr (wr s STC_CTL_OWNED x.1 x.2 0) STC_CTL_OWNER x.1 x.2 0) s
  let xt := (placesOf s1 STC_XT_DATA_VALID).filter (fun x => x.1 == p)
  let s2 := xt.foldl (fun s x => wr (wr s STC_XT_DATA_VALID x.1 x.2 0) STC_XT_DATA_PHYS x.1 x.2 0) s1
  let s3 := (enginesOf s2 (p + 1)).foldl (fun s e => wr s PCI_DMA_CTL_OWNER 0 e 0x1F) s2
  let s4 := ((placesOf s3 PLY_WINPEER_VALID).filter (fun x => rd s3 PLY_WINLOC_PART x.1 x.2 == p)).foldl
    (fun s x => wr s PLY_WINPEER_VALID x.1 x.2 0) s3
  let s5 := (List.range 24).foldl (fun s k => wr s PLY_INGRANT_MASK k 0 (maskOff (rd s PLY_INGRANT_MASK k 0) p)) s4
  let s6 := ((placesOf s5 BLK_SH_CTL_VALID).filter (fun x => rd s5 BLK_SH_CTL_PART x.1 x.2 == p)).foldl
    (fun s x => wr s BLK_SH_CTL_VALID x.1 x.2 0) s5
  let s7 := wr (wr (wr (wr s6 CRS_PLANES_MASK p 0 0) SKN_RANGE_FIRST 0 p 0) SKN_RANGE_COUNT 0 p 0) PWR_BUDGET_BUDGET 0 p 0
  let s8 := wr s7 RST_PHOLD_HOLD 0 0 (maskOff (rd s7 RST_PHOLD_HOLD 0 0) p)
  { s8 with
    parts := mapSet false s8.parts p false
    profile := mapSet 0 s8.profile p 0
    clPart := s8.clPart.filter (fun e => e.2 != p + 1)
    windows := mapClear s8.windows (p * 8) 8
    rws := mapDel s8.rws (fkey PWR_BUDGET_BUDGET 0 p)
    bt.swParts := s8.bt.swParts.filter (fun q => q % 16 != p) }

/-- PART_DESTROY. -/
def execPartDestroy (ring : Bool) (f seq p : Nat) (s : State) : Host.Outcome State Fault Refusal :=
  .next (mailbox ring f seq (pfOnly f (fun s =>
    if p < 16 ∧ mapGet false s.parts p then answerOk (freePart p (resetPartition p s)) else answerErr stBadArg s)) s)

/-- PART_HOLD. -/
def execPartHold (ring : Bool) (f seq p : Nat) (hold : Bool) (s : State) : Host.Outcome State Fault Refusal :=
  .next (mailbox ring f seq (pfOrOwner f p (fun s =>
    if !(decide (p < 16) && mapGet false s.parts p) then answerErr stBadArg s
    else if hold then answerOk (pholdChange s (wrOr s RST_PHOLD_HOLD 0 0 (2 ^ p)))
    else answerOk (wr s RST_PHOLD_HOLD 0 0 (maskOff (rd s RST_PHOLD_HOLD 0 0) p)))) s)

/-! ### Windows (R31, R32, R290, R315, R327) -/

/-- The Ply windows in use, as base and length. -/
def plyWindows (s : State) : List (Nat × Nat × Nat × Nat) :=
  ((placesOf s PLY_WINPEER_VALID).filter (fun x => rdB s PLY_WINPEER_VALID x.1 x.2)).map (fun x =>
    (x.1, x.2, rd s PLY_WINLOC_LBASE x.1 x.2, rd s PLY_WINLOC_LLEN x.1 x.2))

/-- Whether a stack window may not be given to partition p: it rangesMeet another partition's window, a Ply window, the mirror
region or the privileged region, or lies above the capacity. -/
def windowConflict (s : State) (p base len : Nat) : Bool :=
  decide (0 < len) &&
    (decide (capacity s < 0x4000000 * (base + len) + 0x60000000) ||
      s.windows.any (fun e => e.1 / 8 != p && rangesMeet base len e.2.base e.2.len) ||
      (plyWindows s).any (fun x => rangesMeet base len x.2.2.1 x.2.2.2) ||
      rangesMeet base len (rd s PLY_MIRROR_BASE 0 0) (rd s PLY_MIRROR_LEN 0 0))

/-- WINDOW_SET: window w of partition p; length 0 takes it away. -/
def execWindowSet (ring : Bool) (f seq p w base len grants : Nat) (s : State) : Host.Outcome State Fault Refusal :=
  .next (mailbox ring f seq (pfOnly f (fun s =>
    if !(decide (p < 16) && mapGet false s.parts p) ∨ 8 ≤ w ∨ 2 ^ 16 ≤ grants then answerErr stBadArg s
    else if windowConflict s p base len then answerErr stConflict s
    else
      let x : Window := if len = 0 then ⟨0, 0, 0⟩ else ⟨base, len, grants⟩
      answerOk { s with windows := mapSet ⟨0, 0, 0⟩ s.windows (p * 8 + w) x })) s)

/-! ### Stitches -/

/-- The dies in the order in which partition p's stitches are sought (Table 15.7). -/
def dieOrder (s : State) (p : Nat) : List Nat :=
  let n : Nat → Nat := fun d => ((List.range 24).filter (fun i => partOfCluster s (d * 24 + i) == some p)).length
  (List.range 97).flatMap (fun i => (List.range 4).filter (fun d => n d == 96 - i))

/-- The lowest-numbered free physical stitch of the first die that has one. -/
def freeStitch (s : State) (p : Nat) : Option Nat :=
  (dieOrder s p).findSome? (fun d => ((List.range 4096).find? (fun i => !(rdB s STC_CTL_OWNED d i))).map (fun i => d * 4096 + i))

/-- A translation entry of partition p written: one that names a stitch the partition does not own is ignored (R168). -/
def bindStitch (p lid ph : Nat) (s : State) : State :=
  if rdB s STC_CTL_OWNED (ph / 4096) (ph % 4096) && rd s STC_CTL_OWNER (ph / 4096) (ph % 4096) == p then
    wr (wr s STC_XT_DATA_PHYS p lid ph) STC_XT_DATA_VALID p lid 1
  else match locate (regOf STC_XT_DATA_PHYS p 0) with
    | some (fr, u, off) => setWrign fr u off s
    | none => s

/-- One entry of the list; the answer so far carries the state. -/
def mapEntry (p : Nat) (r : Reply) (x : W32) : Reply :=
  let s := r.next
  let lid := bitsOf x.toNat 0 14
  let al := bitsOf x.toNat 16 14
  let bind : Nat → State → State := bindStitch p lid
  if r.status ≠ stOk then r
  else if bitsOf x.toNat 31 1 = 1 then
    if rdB s STC_XT_DATA_VALID p al then answerOk (bind (rd s STC_XT_DATA_PHYS p al) s) else answerErr stBadArg s
  else match freeStitch s p with
    | none => answerErr stNone s
    | some ph =>
      let s1 := wr (wr s STC_CTL_OWNED (ph / 4096) (ph % 4096) 1) STC_CTL_OWNER (ph / 4096) (ph % 4096) p
      answerOk (bind ph (setCount ph (rd s1 STC_BASE_BASE (ph / 4096) (ph % 4096)) s1))

/-- STITCH_MAP. -/
def execStitchMap (ring : Bool) (f seq p : Nat) (list : List W32) (s : State) : Host.Outcome State Fault Refusal :=
  .next (mailbox ring f seq (pfOrOwner f p (fun s =>
    if !(decide (p < 16) && mapGet false s.parts p) then answerErr stBadArg s
    else if f ≠ 0 ∧ inReset s p = false then answerErr stDenied s
    else
      let r := list.foldl (mapEntry p) (answerOk s)
      if r.status = stOk then r else answerErr r.status s)) s)

/-! ### Engines, shards and budgets -/

/-- DMAE_ASSIGN: engine e to function `owner`, 0 to 16, or to none, 31 (R344). -/
def execDmaeAssign (ring : Bool) (f seq e owner : Nat) (s : State) : Host.Outcome State Fault Refusal :=
  .next (mailbox ring f seq (pfOnly f (fun s =>
    if 32 ≤ e ∨ (16 < owner ∧ owner ≠ 31) then answerErr stBadArg s
    else if firingOn s e then answerErr stNone s
    else if dmaState s e ≠ 0 then answerErr stConflict s
    else answerOk (wr s PCI_DMA_CTL_OWNER 0 e owner))) s)

/-- A shard-table entry written whole (R234, R238). -/
def writeShard (p b n : Nat) (valid : Bool) (cur base0 base1 len gen0 gen1 : Nat) (s : State) : State :=
  let s1 := wr (wr (wr s BLK_SH_CTL_PART b n p) BLK_SH_CTL_VALID b n (if valid then 1 else 0)) BLK_SH_CTL_CURSLOT b n cur
  let s2 := wr (wr s1 BLK_SH_BASE0_LO_BASE0 b n (base0 / 2 ^ 8)) BLK_SH_BASE0_HI_BASE0 b n (base0 / 2 ^ 32)
  let s3 := wr (wr s2 BLK_SH_BASE1_LO_BASE1 b n (base1 / 2 ^ 8)) BLK_SH_BASE1_HI_BASE1 b n (base1 / 2 ^ 32)
  let s4 := wr (wr (wr s3 BLK_SH_LEN_LEN b n len) BLK_SH_GEN0_GEN0 b n gen0) BLK_SH_GEN1_GEN1 b n gen1
  if valid then wr (wr s4 BLK_SH_CTL_SV0 b n (1 - cur)) BLK_SH_CTL_SV1 b n cur else s4

/-- SHARD_SET: entry `entry` of Blocker b for partition p, while it is held. -/
def execShardSet (ring : Bool) (f seq p b entry : Nat) (valid : Bool) (cur base0 base1 len gen0 gen1 : Nat) (s : State) :
    Host.Outcome State Fault Refusal :=
  .next (mailbox ring f seq (pfOrOwner f p (fun s =>
    let was := rd s BLK_SH_CTL_PART b entry
    if !(decide (p < 16) && mapGet false s.parts p) ∨ 12 ≤ b ∨ 4096 ≤ entry ∨ 1 < cur ∨ base0 % 256 ≠ 0 ∨ base1 % 256 ≠ 0 ∨
        2 ^ 48 ≤ base0 ∨ 2 ^ 48 ≤ base1 ∨ 2 ^ 24 ≤ len then answerErr stBadArg s
    else if inReset s p = false then answerErr stDenied s
    else if rdB s BLK_SH_CTL_VALID b entry = true ∧ was ≠ p then answerErr stConflict s
    else answerOk (writeShard p b entry valid cur base0 base1 len gen0 gen1 s))) s)

/-- TENSION_SET: a new budget, in effect from the next boundary; a stalled partition is checked again at once (R32, R361). -/
def execTensionSet (ring : Bool) (f seq p budget : Nat) (s : State) : Host.Outcome State Fault Refusal :=
  .next (mailbox ring f seq (pfOnly f (fun s =>
    if !(decide (p < 16) && mapGet false s.parts p) ∨ 2 ^ 15 ≤ budget then answerErr stBadArg s
    else if 22000 < budgetsBut s p + budget then answerErr stConflict s
    else answerOk (recheckAll (wrNext s PWR_BUDGET_BUDGET 0 p budget)))) s)

/-! ### Links and groups -/

/-- PLY_SET: window entry n of link k bound to a window of partition p, and the link's PLY_INGRANT (R315, R317). -/
def execPlySet (ring : Bool) (f seq k n : Nat) (valid : Bool) (p lbase llen pbase ppart grants : Nat) (s : State) :
    Host.Outcome State Fault Refusal :=
  .next (mailbox ring f seq (pfOnly f (fun s =>
    let own := (List.range 8).any (fun i => let w := mapGet ⟨0, 0, 0⟩ s.windows (p * 8 + i); w.base == lbase && w.len == llen)
    let busy := rdB s PLY_WINPEER_VALID k n && !(inReset s (rd s PLY_WINLOC_PART k n))
    let other := (plyWindows s).any (fun x => !(x.1 == k && x.2.1 == n) && rangesMeet lbase llen x.2.2.1 x.2.2.2)
    if 24 ≤ k ∨ 16 ≤ n ∨ 16 ≤ p ∨ 2 ^ 14 ≤ lbase ∨ 2 ^ 14 ≤ llen ∨ 2 ^ 22 ≤ pbase ∨ 16 ≤ ppart ∨ 2 ^ 16 ≤ grants ∨
        (valid = true ∧ (llen = 0 ∨ own = false)) then answerErr stBadArg s
    else if busy || (valid && other) then answerErr stConflict s
    else
      let s1 := wr (wr (wr s PLY_WINLOC_LBASE k n lbase) PLY_WINLOC_LLEN k n llen) PLY_WINLOC_PART k n p
      let s2 := wr (wr (wr s1 PLY_WINPEER_PBASE k n pbase) PLY_WINPEER_PPART k n ppart) PLY_WINPEER_VALID k n (if valid then 1 else 0)
      answerOk (wr s2 PLY_INGRANT_MASK k 0 grants))) s)

/-- A span entry: its number, the word of PLY_SPAN_CFG and DMASK (R324). -/
def spanBad (down : Nat) (x : Nat × W32 × Nat) : Bool :=
  let w := x.2.1.toNat
  decide (64 ≤ x.1) || decide (2 ^ 24 ≤ x.2.2) || x.2.2 &&& down != x.2.2 || (bitsOf w 17 1 == 1 && bitsOf w 16 1 == 0)

/-- A span entry written; it begins with no arrival. -/
def writeSpan (x : Nat × W32 × Nat) (s : State) : State :=
  let w := x.2.1.toNat
  let i := x.1
  let s1 := wr (wr (wr s PLY_SPAN_CFG_ID 0 i (bitsOf w 0 12)) PLY_SPAN_CFG_PART 0 i (bitsOf w 12 4)) PLY_SPAN_CFG_MEMBER 0 i (bitsOf w 16 1)
  let s2 := wr (wr (wr s1 PLY_SPAN_CFG_ROOT 0 i (bitsOf w 17 1)) PLY_SPAN_CFG_VALID 0 i (bitsOf w 31 1)) PLY_SPAN_DOWN_DMASK 0 i x.2.2
  wr { s2 with ply.spanGot := mapSet 0 s2.ply.spanGot i 0, ply.spanSent := mapSet false s2.ply.spanSent i false } PLY_SPAN_STATE_COURSE 0 i 0

/-- GROUP_SET: PLY_GID, the control tree and span entries, while PLY_GCTL.EN is 0 (R321, R322, R324). A ROLE that the
swatch band or Table 14.11 does not allow is ignored. -/
def execGroupSet (ring : Bool) (f seq gid role up altup down tdown : Nat) (spans : List (Nat × W32 × Nat)) (s : State) :
    Host.Outcome State Fault Refusal :=
  .next (mailbox ring f seq (pfOnly f (fun s =>
    if rdB s PLY_GCTL_EN 0 0 then answerErr stDenied s
    else if 2 ^ 12 ≤ gid ∨ 3 < role ∨ 31 < up ∨ 31 < altup ∨ 2 ^ 24 ≤ down ∨ 2 ^ 24 ≤ tdown ∨
        spans.any (spanBad (down ||| tdown)) = true then answerErr stBadArg s
    else
      let s1 := wr s PLY_GID_ID 0 0 gid
      let s2 := if valueRefused s PLY_GID_ROLE 0 0 role 0 then setWrign .ply 0 0x804 s1 else wr s1 PLY_GID_ROLE 0 0 role
      let s3 := wr (wr s2 PLY_CTREE_UP 0 0 up) PLY_CTREE_ALTUP 0 0 altup
      let s4 := wr (wr s3 PLY_CDOWN_DOWN 0 0 down) PLY_CTDOWN_TDOWN 0 0 tdown
      answerOk (spans.foldl (fun s x => writeSpan x s) s4))) s)

/-- MSG_SEND: DISPATCH or ROLLOUT to module `dst`, while the control tree is in service. -/
def execMsgSend (ring : Bool) (f seq kind dst arg : Nat) (s : State) : Host.Outcome State Fault Refusal :=
  .next (mailbox ring f seq (pfOnly f (fun s =>
    if (kind ≠ 0x22 ∧ kind ≠ 0x23) ∨ 2 ^ 12 ≤ dst ∨ 2 ^ 64 ≤ arg then answerErr stBadArg s
    else if !(rdB s PLY_GCTL_EN 0 0) then answerErr stDenied s
    else answerOk (sendTo kind dst arg s))) s)

/-- MAILBOX_UNKNOWN_CMD: a CMD that Tables 15.7 and 17.13 do not assign. -/
def execMailboxUnknownCmd (ring : Bool) (f seq cmd : Nat) (s : State) : Host.Outcome State Fault Refusal :=
  .next (
    if ((1 ≤ cmd ∧ cmd ≤ 0x0B) ∨ (0x10 ≤ cmd ∧ cmd ≤ 0x1B)) then s
    else mailbox ring f seq (fun s => answerErr stUnknown s) s)

/-! ### SMBus (R353, R410) -/

/-- Whether hub firmware answers the SMBus: it runs once a copy has been verified, and in frog mode. -/
def smbServes (s : State) : Bool :=
  s.pw.power == 2 && decide (s.bt.latched < 4) && (hubServes s || rd s BOOT_STATUS_IMAGE 0 0 != 3)

/-- A block read: n bytes; a command with a wrong PEC is discarded. -/
def smbRead (pec : Bool) (v : State → Nat) (s : State) : State :=
  if pec && smbServes s then { s with hst.smbReply := v s } else s

/-- SMB_DEVICE_ID: device ID, stepping code, serial number. -/
def execSmbDeviceId (pec : Bool) (s : State) : Host.Outcome State Fault Refusal :=
  .next (smbRead pec (fun s => rd s FUSE_DEVID_DEVICE 0 0 + 2 ^ 32 * rd s FUSE_DEVID_STEPPING 0 0 +
    2 ^ 64 * rd64 s FUSE_SERIAL_LO_SERIAL FUSE_SERIAL_HI_SERIAL 0 0) s)

/-- SMB_STATE: BOOT_STATUS.STATE, and the failed starts. -/
def execSmbState (pec : Bool) (s : State) : Host.Outcome State Fault Refusal :=
  .next (smbRead pec (fun s => rd s BOOT_STATUS_STATE 0 0 + 2 ^ 16 * rd s BOOT_STATUS_FAILS 0 0) s)

/-- The hotter of two TEMP fields. -/
def hotter (a b : Nat) : Nat := if (BitVec.ofNat 8 a).toInt < (BitVec.ofNat 8 b).toInt then b else a

/-- SMB_TEMPERATURES: K-dies 0 to 3, the H-die, the hottest stack. -/
def execSmbTemperatures (pec : Bool) (s : State) : Host.Outcome State Fault Refusal :=
  .next (smbRead pec (fun s =>
    let mem := (List.range 12).foldl (fun m k => hotter m (rd s MEM_TEMP_TEMP k 0)) (rd s MEM_TEMP_TEMP 0 0)
    packN 8 ((List.range 4).map (fun d => rd s THM_DIE_TEMP d 0) ++ [rd s THM_H_TEMP 0 0, mem])) s)

/-- SMB_POWER: input voltage, current and power. -/
def execSmbPower (pec : Bool) (s : State) : Host.Outcome State Fault Refusal :=
  .next (smbRead pec (fun s => packN 16 [rd s PWR_INPUT_VIN 0 0, rd s PWR_INPUT_IIN 0 0, rd s PWR_POWER_PIN 0 0]) s)

/-- SMB_THROTTLE: the active throttle reasons. -/
def execSmbThrottle (pec : Bool) (s : State) : Host.Outcome State Fault Refusal :=
  .next (smbRead pec activeReasons s)

/-- SMB_ERRORS: the records since the last read and the code of the last one; the count is cleared. -/
def execSmbErrors (pec : Bool) (s : State) : Host.Outcome State Fault Refusal :=
  .next (
    let s1 := smbRead pec (fun s => rd s ERR_SMB_COUNT 0 0 + 2 ^ 16 * rd s ERR_SMB_CODE 0 0) s
    if pec && smbServes s then wr s1 ERR_SMB_COUNT 0 0 0 else s1)

/-- SMB_HOST_CAP: the cap in watts (R369). -/
def execSmbHostCap (pec : Bool) (v : Nat) (s : State) : Host.Outcome State Fault Refusal :=
  .next (if pec && smbServes s then wr s PWR_HOSTCAP_CAP 0 0 v else s)

end Sys2Proof.Machine
end

