-- ==== Sys2Proof/Machine/Access.lean ====
section
/-! DEFINITION. REGISTER_WRITE and RC_READ: the accesses to registers in every view (R10, R11, R393, R419). A write of a
register whose write has a row of its own in the table has that row's effect; a read shows the fields that stand for
something held elsewhere in the state. -/

namespace Sys2Proof.Machine

/-! ### Reads -/

/-- The operating point, stretching and pending step of a K-die (Table 16.9). -/
def readDop (s : State) (f : Field) (d n : Nat) : Nat :=
  let step := pendingStep s d
  if f.id = PWR_DOP_OP.id then opOf s d
  else if f.id = PWR_DOP_STRETCH.id then (if stretched s d then 1 else 0)
  else if f.id = PWR_DOP_TARGET.id then (step.map (stepTarget s)).getD 0
  else if f.id = PWR_DOP_PEND.id then (if step.isSome then 1 else 0)
  else rd s f d n

/-- The fields of a Ply link or of the group logic that a read computes (Tables 14.7, 14.11). -/
def readPly (s : State) (f : Field) (k n : Nat) : Nat :=
  if f.id = PLY_CREDVAL_CREDITS.id then slotCredits s k (rd s PLY_CREDSEL_VC k 0)
  else if f.id = PLY_CTRL_RETRY.id then max 1 (rd s f k n)
  else if f.id = PLY_TWIN_CTL_TMO.id then max 1 (rd s f 0 n)
  else if f.id = PLY_SPAN_STATE_COURSE.id then spanCourse s n
  else if f.id = PLY_SPAN_PEND_PEND.id then
    (if spanValid s n then spanDmask s n - (spanDmask s n &&& mapGet 0 s.ply.spanGot n) else 0)
  else rd s f k n

/-- The sources asserted now: source 5 also while it holds a tile or a partition (Table 17.2). -/
def sourcesNow (s : State) : Nat :=
  let soft := !(s.bt.swTiles.isEmpty) || s.bt.swParts.any (fun p => decide (p < 16)) || rd s RST_PHOLD_HOLD 0 0 != 0
  rd s RST_STATUS_SRC 0 0 ||| (if soft then 32 else 0)

/-- Whether a skein of partition p waits for a ring record (R276). -/
def waitsForRing (s : State) (p : Nat) : Bool :=
  !(ringFree s p) && s.skeins.any (fun e => eState e.2.toNat == kEmitting && ePart e.2.toNat == p)

/-- The fields of the module's other blocks that a read computes. -/
def readHub (s : State) (rq : Requester) (f : Field) (u n : Nat) : Nat :=
  if f.id = SKN_PSTATUS_OFULL.id then (if waitsForRing s n then 1 else 0)
  else if f.id = SKN_STQ_PERIOD_PERIOD.id then max 1 (rd s f u n)
  else if f.id = SKN_BCFG_BMAX.id then bmax s n
  else if f.id = SKN_STQ_STATUS_ACTIVE.id then (s.firings.filter (fun x => x.part == n && !x.done)).length
  else if f.id = PCI_DMA_STATUS_FIRING.id then
    (if s.firings.any (fun x => !x.done && stDmae x.d == n) then 1 else 0)
  else if f.id = CRS_STATUS_WAITON.id then waitOn s u
  else if f.id = PWR_STATUS_EMERG.id then (if s.pw.emerg.isEmpty then 0 else 1)
  else if f.id = PWR_THR_ACTIVE.id then activeReasons s
  else if f.id = FUSE_BOOT_FROGN.id then max 2 (rd s f u n)
  else if f.id = RST_STATUS_SRC.id then sourcesNow s
  else if f.id = CNS_SDATA_DATA.id then censusData s rq
  else if f.id = CNS_SMETA_CLASS.id then (censusMeta s rq).1
  else if f.id = CNS_SMETA_STICKY.id then (censusMeta s rq).2
  else rd s f u n

/-- The numbers of the fields that `readHub` computes. -/
def hubIds : List Nat :=
  [SKN_PSTATUS_OFULL.id, SKN_STQ_PERIOD_PERIOD.id, SKN_BCFG_BMAX.id, SKN_STQ_STATUS_ACTIVE.id, PCI_DMA_STATUS_FIRING.id, CRS_STATUS_WAITON.id, PWR_STATUS_EMERG.id,
   PWR_THR_ACTIVE.id, FUSE_BOOT_FROGN.id, RST_STATUS_SRC.id, CNS_SDATA_DATA.id, CNS_SMETA_CLASS.id, CNS_SMETA_STICKY.id]

/-- The value of a field in a read. -/
def readNow (s : State) (rq : Requester) (u : Nat) (h : Hit) : Nat :=
  let f := h.f
  let u' := homeUnit f u
  let n := bankIdx s rq f u' h.n
  if f.code = .WO ∨ (lowOf f).isSome then readHit s rq u h
  else if f.frame = .pwrd then readDop s f u' n
  else if f.frame = .ply then readPly s f u' n
  else if hubIds.contains f.id then readHub s rq f u' n
  else readHit s rq u h

/-- The words of the BAR0 of frog mode that are no registers (Table 17.8): the mailbox doorbell, which reads as zero, the
mask bit of the one MSI-X vector, and its pending bit. The vector's message address and data are the host's own (log 31). -/
def frogWord (s : State) (ofs : Nat) : Option Nat :=
  if ofs = 0x1000 ∨ ofs = 0x8000 ∨ ofs = 0x8004 ∨ ofs = 0x8008 ∨ ofs = 0x9004 then some 0
  else if ofs = 0x800C then some (if mapGet false s.vecMask 0 then 0 else 1)
  else if ofs = 0x9000 then some (if mapGet false s.vecPend 0 then 1 else 0)
  else none

/-- Whether an access is to such a word. -/
def inFrogBar (s : State) (rq : Requester) (ofs : Nat) : Option Nat :=
  match rq with
  | .func 0 => if inFrog s then frogWord s ofs else none
  | _ => none

/-- A write of such a word: the doorbell rings, or the vector is masked or unmasked. -/
def frogWrite (ofs : Nat) (v : W32) (be : Nat) (s : State) : State :=
  if be ≠ 0xF then s
  else if ofs = 0x1000 then ringMailbox 0 s
  else if ofs = 0x800C then maskVec 0 0 (bitsOf v.toNat 0 1 == 1) s
  else s

/-- Whether an offset is that of CNS_SDATA or CNS_SMETA, in any view; and of the former in the normal view. -/
def shadowOfs (ofs : Nat) : Bool :=
  match locate ofs with
  | some (.cns, _, off) => off % 0x1000 == 0x24 || off % 0x1000 == 0x28
  | _ => false

/-- RC_READ: a read of any register in any view; a read of a bank's shadow or its class waits while the bank is being
captured, and one of CNS_SDATA advances the address (R402). -/
def execRcRead (rq : Requester) (ofs : Nat) (s : State) : Host.Outcome State Fault Refusal :=
  .next (match inFrogBar s rq ofs with
    | some w => { s with rdata := BitVec.ofNat 32 w }
    | none =>
      if shadowOfs ofs && reaches s rq .cns 0 0x24 false && censusStalls s then s
      else if ofs = regOf CNS_SDATA_DATA 0 0 ∧ reaches s rq .cns 0 0x24 false then censusAdvance (busReadBy readNow rq ofs s)
      else busReadBy readNow rq ofs s)

/-! ### Writes that have a row of their own -/

/-- The state that a command leaves. -/
def stateAfter (o : Host.Outcome State Fault Refusal) (s : State) : State :=
  match o with
  | .next t => t
  | _ => s

/-- A write in the normal view with no row of its own whose trigger holds a value that is ignored (Tables 14.11, 18.4). -/
def badTrigger (rq : Requester) (f : Field) (u n : Nat) (v : W32) (s : State) : State :=
  busCmd rq f u n v (fun off s => setWrign f.frame u off s) s

/-- A write of RST_SWREQ (Table 17.15). -/
def swreqWrite (rq : Requester) (v : W32) (s : State) : State :=
  match bitsOf v.toNat 0 3 with
  | 1 => stateAfter (execSwreqTile rq v s) s
  | 2 => stateAfter (execSwreqPartition rq v s) s
  | 3 => stateAfter (execSwreqCompute rq v s) s
  | 4 => stateAfter (execSwreqWarm rq v s) s
  | 5 => stateAfter (execSwreqCold rq v s) s
  | _ => badTrigger rq RST_SWREQ_GO 0 0 v s

/-- A write of SKN_CMD; a reserved OP gives the result FIELD (Table 12.6). -/
def sknCmdWrite (rq : Requester) (v : W32) (s : State) : State :=
  match bitsOf v.toNat 0 3 with
  | 1 => stateAfter (execSknRead rq v s) s
  | 2 => stateAfter (execSknCreate rq v s) s
  | 3 => stateAfter (execSknCancel rq v s) s
  | _ => busCmd rq SKN_CMD_OP 0 0 v (fun _ s => wr s SKN_CMDRES_RESULT 0 (reqIdx rq) 3) s

/-- A write of TST_LW_CMD (Table 2.11). -/
def lwCmdWrite (rq : Requester) (t : Nat) (v : W32) (s : State) : State :=
  lwCommand (bitsOf v.toNat 4 2) t (bitsOf v.toNat 0 4) (.bus rq) s

/-- A write of CNS_CTRL (Table 18.4). -/
def censusWrite (rq : Requester) (v : W32) (s : State) : State :=
  if bitsOf v.toNat 31 1 = 0 then stateAfter (execCensusCancel rq v s) s
  else match bitsOf v.toNat 0 2 with
    | 1 => stateAfter (execCensusAtBoundary rq v s) s
    | 2 => stateAfter (execCensusNow rq v s) s
    | _ => busCmd rq CNS_CTRL_GO 0 0 v
        (fun off s => setWrign .cns 0 off (if bitsOf v.toNat 30 1 = 1 then disarm s else s)) s

/-- A write of PLY_TWIN_CTL (Table 14.11); it acts in the frame of P0 alone. -/
def twinWrite (rq : Requester) (v : W32) (s : State) : State :=
  match bitsOf v.toNat 28 3 with
  | 1 => stateAfter (execTwinAttach rq v s) s
  | 2 => stateAfter (execTwinDetach rq v s) s
  | _ => badTrigger rq PLY_TWIN_CTL_CMD 0 0 v s

/-- What the row of a field does with a write of its register: the requester, the unit, the index, the word. -/
abbrev RowAct := Requester → Nat → Nat → W32 → State → State

/-- The registers of tiles and clusters whose write has a row of its own: the field, whether every write of it is the
row's or only one that is not zero, and the row. -/
def tileRows : List (Field × Bool × RowAct) :=
  [(TILE_IFILL_GO, false, fun rq u _ v s => stateAfter (execIfillGo rq u v s) s),
   (TILE_LTAG_LTAG, true, fun rq u _ v s => stateAfter (execTileLtagWrite rq u v s) s),
   (PRL_LOAD_GO, false, fun rq u _ v s => stateAfter (execPrlLoadGo rq u v s) s),
   (TST_LW_CMD_OP, false, fun rq u _ v s => lwCmdWrite rq u v s),
   (CLU_TEST_TMODE, true, fun rq u _ v s => stateAfter (execCluTestWrite rq u v s) s),
   (CLU_DARN_DCOL, true, fun rq u n v s => stateAfter (execCluDarnWrite rq u n v s) s),
   (HNK_FRESH_GO, false, fun rq u _ v s => stateAfter (execHnkFreshGo rq u v s) s)]

/-- Those of the stitch banks, stacks, Blockers, skeins and host interface. -/
def hubRows : List (Field × Bool × RowAct) :=
  [(STC_XT_DATA_PHYS, true, fun rq u _ v s => stateAfter (execStcXtDataWrite rq u v s) s),
   (STC_CTL_OWNER, true, fun rq u _ v s => stateAfter (execStcCtlWrite rq u v s) s),
   (SKN_CMD_OP, false, fun rq _ _ v s => sknCmdWrite rq v s),
   (SKN_BCFG_EN, true, fun rq _ n v s => stateAfter (execSknBcfgEnWrite rq n v s) s),
   (MEM_CTRL_EN, true, fun rq u _ v s => stateAfter (execMemCtrlEnWrite rq u v s) s),
   (PHY_TRAIN_GO, false, fun rq u _ v s => stateAfter (execPhyTrainGo rq u v s) s),
   (PHY_MRUN_GO, false, fun rq u _ v s => stateAfter (execPhyMrunGo rq u v s) s),
   (BLK_ABORT_GO, false, fun rq u _ v s => stateAfter (execBlkAbortGo rq u v s) s),
   (PCI_DMA_CTL_EN, true, fun rq _ n v s =>
     stateAfter (if bitsOf v.toNat 1 1 = 1 then execDmaStop rq n v s else execDmaEnable rq n v s) s)]

/-- Those of the links, the governor, reset, the census and the ERR block. -/
def moduleRows : List (Field × Bool × RowAct) :=
  [(PLY_CTRL_EN, true, fun rq u _ v s =>
     stateAfter (if bitsOf v.toNat 1 1 = 1 then execPlyRetrain rq u v s else execPlyEnable rq u v s) s),
   (PLY_TWIN_CTL_CMD, false, fun rq u _ v s => if u = 0 then twinWrite rq v s else badTrigger rq PLY_TWIN_CTL_CMD u 0 v s),
   (PWR_HOSTCAP_CAP, true, fun rq _ _ v s => stateAfter (execHostcapWrite rq v s) s),
   (RST_PHOLD_HOLD, true, fun rq _ _ v s => stateAfter (execRstPholdWrite rq v s) s),
   (RST_SWREQ_REACH, true, fun rq _ _ v s => swreqWrite rq v s),
   (RST_WDOG_TMO, true, fun rq _ _ v s => stateAfter (execWdogKick rq v s) s),
   (CNS_CTRL_GO, false, fun rq _ _ v s => censusWrite rq v s),
   (CNS_CTRL_CANCEL, false, fun rq _ _ v s => censusWrite rq v s),
   (ERR_QPOP_POP, false, fun rq _ _ v s => stateAfter (execErrQpop rq v s) s)]

/-- Whether a write of word w, in a view, of the register that holds a field is the row's own. A trigger acts in the
normal view alone (R11). -/
def rowTakes (view : Nat) (w : W32) (h : Hit) (r : Field × Bool × RowAct) : Bool :=
  r.1.id == h.f.id && (h.f.code != .WO || view == 0) && (r.2.1 || bitsOf w.toNat h.lo h.f.width != 0)

/-- The row whose command a write of word w to a register is, in a view; a write of TST_CTRL.GATHER to 0 is GATHER_OFF. -/
def rowFor (view u : Nat) (w : W32) (hs : List Hit) : Option (Requester → State → State) :=
  hs.findSome? (fun h =>
    if h.f.id = TST_CTRL_GATHER.id then
      (if bitsOf w.toNat h.lo 1 = 0 then some (fun rq s => stateAfter (execGatherOff rq u w s) s) else none)
    else ((tileRows ++ hubRows ++ moduleRows).find? (rowTakes view w h)).map (fun r => fun rq s => r.2.2 rq u h.n w s))

/-- A row's command given in another view: what it records of an ignored write holds the view's bits (R394). -/
def inView (fr : Frame) (u off : Nat) (act : State → State) (s : State) : State :=
  if (viewOf fr off).1 = 0 then act s
  else match wrignOf fr u (off % 0x1000) with
    | none => act s
    | some (st, _, u', _) =>
      let s1 := act (wr s st u' 0 0)
      if rdB s1 st u' 0 then setWrign fr u off s1 else wr s1 st u' 0 (rd s st u' 0)

/-- What some registers' writes bring about besides: a module that enters the group announces itself (R322), and a change
of a tension table or policy is checked at once (R361). -/
def afterWrite (fr : Frame) (off : Nat) (s0 s : State) : State :=
  if fr = .ply then (if rdB s PLY_GCTL_EN 0 0 && !(rdB s0 PLY_GCTL_EN 0 0) then joinManager s else s)
  else if fr = .pwr ∧ 0x100 ≤ off % 0x1000 then recheckAll s
  else s

/-- A write of word v to the register at an offset, with the effect of its row where it has one. -/
def writeReg (rq : Requester) (ofs : Nat) (v : W32) (be : Nat) (s : State) : State :=
  if (inFrogBar s rq ofs).isSome then frogWrite ofs v be s
  else busWrite rq ofs v be (fun fr u off hs s0 =>
    let view := (viewOf fr off).1
    let w := wordAfter rq view u v hs s0
    match rowFor view u w hs with
    | some act => inView fr u off (act rq) s0
    | none => afterWrite fr off s0 (writeHits rq fr u off v hs s0)) s

/-- REGISTER_WRITE. -/
def execRegisterWrite (rq : Requester) (ofs : Nat) (v : W32) (be : Nat) (s : State) : Host.Outcome State Fault Refusal :=
  .next (writeReg rq ofs v be s)

/-! ### Writes by hub firmware -/

/-- The word that a read of a register would return, with no side effect. -/
def peekReg (ofs : Nat) (s : State) : Nat :=
  match locate ofs with
  | none => 0
  | some (fr, u, off) =>
    if (viewOf fr off).1 ≠ 0 then 0
    else (hitsAt fr off).foldl (fun a h => a + readNow s (.hub 0) u h * 2 ^ h.lo) 0

/-- One entry of a register initialisation list applied: the bits of the mask take those of the value (Table 17.9). An
address outside the register space changes nothing. -/
def initEntry (addr value mask : Nat) (s : State) : State :=
  if addr < regBase ∨ regBase + 0x40000000 ≤ addr ∨ addr % 4 ≠ 0 then s
  else
    let ofs := addr % 0x40000000
    let old := peekReg ofs s
    writeReg (.hub 0) ofs (BitVec.ofNat 32 ((old - (old &&& mask)) ||| (value &&& mask))) 0xF s

/-- The entries of the active image's list for an exit (bit 0 COMPUTE, 1 WARM, 2 COLD) applied in order. -/
def applyInit (bit : Nat) (s : State) : State :=
  s.bt.initList.foldl (fun s e => if e.2.1 / 2 ^ bit % 2 = 1 then initEntry e.1 e.2.2.1 e.2.2.2 s else s) s

/-- The register writes that waited for the K-dies performed in order (R341). -/
def replayWrites (s : State) : State :=
  s.hst.barWrites.foldl (fun s w => writeReg w.1 w.2.1 w.2.2.1 w.2.2.2 s) { s with hst.barWrites := [] }

end Sys2Proof.Machine
end

