-- ==== Sys2Proof/Machine/Hss.lean ====
section
/-! DEFINITION. SHA-256 and the verification of HSS signatures (R385, R386 checks 4 and 5, R391), in the parameter sets
that R386 accepts. The spec names RFC 8554 and NIST SP 800-208 and does not repeat them: the algorithms are PRESUMED from
those documents (log entry 61). -/

namespace Sys2Proof.Machine

/-! ### SHA-256 -/

/-- n bytes of a number, most significant first. -/
def beBytes : Nat → Nat → List Byte
  | 0, _ => []
  | n + 1, v => beBytes n (v / 256) ++ [BitVec.ofNat 8 v]

/-- The number of a byte string, most significant first. -/
def beNum (bs : List Byte) : Nat := bs.foldl (fun a b => a * 256 + b.toNat) 0

/-- The number of a byte string, least significant first. -/
def leNum (bs : List Byte) : Nat := bs.foldr (fun b a => b.toNat + 256 * a) 0

/-- Whether a number above 1 has no divisor but itself and 1. -/
def primeNat (n : Nat) : Bool := (List.range (n / 2 + 1)).all (fun d => decide (d < 2) || n % d != 0)

/-- The first 64 primes. -/
def shaPrimes : List Nat := (List.range 312).filter (fun n => decide (1 < n) && primeNat n)

/-- The largest number with k bits or fewer, on top of r, whose e-th power is at most x. -/
def rootGrow (e x : Nat) : Nat → Nat → Nat
  | 0, r => r
  | k + 1, r => rootGrow e x k (if (r + 2 ^ k) ^ e ≤ x then r + 2 ^ k else r)

/-- The first 32 bits of the fraction of the e-th root of a prime: the constants of FIPS 180-4 by their definition. -/
def rootWord (e p : Nat) : W32 := BitVec.ofNat 32 (rootGrow e (p * 2 ^ (32 * e)) 37 0)

/-- The exclusive-or of a word turned right by each of a list of amounts. -/
def turns (x : W32) (ns : List Nat) : W32 := ns.foldl (fun a n => a ^^^ x.rotateRight n) 0

/-- The two schedule functions: two turns and a shift. -/
def spread (x : W32) (m n k : Nat) : W32 := turns x [m, n] ^^^ (x >>> k)

/-- A block's schedule, which `old` holds the last sixteen words of, latest first: n words, and those after. -/
def schedule : Nat → List W32 → List W32
  | 0, _ => []
  | n + 1, old =>
    match old.drop 15 with
    | [] => []
    | w :: _ =>
      let next := spread (old.getD 1 0) 17 19 10 + old.getD 6 0 + spread (old.getD 14 0) 7 18 3 + w
      w :: schedule n (next :: old.take 15)

/-- The working variables: the last four values of each of the two sequences that a block computes, latest first. -/
structure Work where
  as : List W32
  es : List W32
  deriving DecidableEq, Repr

/-- One round, for the sum of its constant and its schedule word. -/
def Work.round (v : Work) (k : W32) : Work :=
  let a : Nat → W32 := fun i => v.as.getD i 0
  let e : Nat → W32 := fun i => v.es.getD i 0
  let pick := e 2 ^^^ (e 0 &&& (e 1 ^^^ e 2))
  let most := (a 2 &&& (a 0 ||| a 1)) ||| (a 0 &&& a 1)
  let x := k + e 3 + pick + turns (e 0) [6, 11, 25]
  { as := (x + most + turns (a 0) [2, 13, 22]) :: v.as.take 3
    es := (a 3 + x) :: v.es.take 3 }

/-- The sum of two sets of working variables, word by word. -/
def Work.plus (u v : Work) : Work := ⟨(u.as.zip v.as).map (fun x => x.1 + x.2), (u.es.zip v.es).map (fun x => x.1 + x.2)⟩

/-- The working variables before the first block: square roots. -/
def workStart : Work :=
  ⟨(shaPrimes.take 4).map (rootWord 2), ((shaPrimes.drop 4).take 4).map (rootWord 2)⟩

/-- The 32-bit words of n bytes of a string, latest first. -/
def wordsBack : Nat → List Byte → List W32 → List W32
  | 0, _, ws => ws
  | n + 1, m, ws => wordsBack n (m.drop 4) (BitVec.ofNat 32 (beNum (m.take 4)) :: ws)

/-- n blocks of a padded message, with the round constants at hand. -/
def absorb (ks : List W32) : Nat → List Byte → Work → Work
  | 0, _, v => v
  | n + 1, m, v =>
    let ws := schedule 64 (wordsBack 16 m [])
    absorb ks n (m.drop 64) (v.plus ((ks.zip ws).foldl (fun u x => u.round (x.1 + x.2)) v))

/-- SHA-256 of a byte string, as its 32 bytes in order. -/
def sha256 (m : List Byte) : List Byte :=
  let n := m.length
  let p := m ++ 0x80 :: List.replicate ((119 - n % 64) % 64) 0 ++ beBytes 8 (8 * n)
  let v := absorb (shaPrimes.map (rootWord 3)) (p.length / 64) p workStart
  (v.as ++ v.es).flatMap (fun x => beBytes 4 x.toNat)

/-! ### Parameters -/

/-- The Winternitz width of an LM-OTS type LMOTS_SHA256_N32_W1 to W8; 0 for any other type. -/
def otsW (t : Nat) : Nat := match t with | 1 => 1 | 2 => 2 | 3 => 4 | 4 => 8 | _ => 0

/-- The number of chains of a width, and the shift of its checksum. -/
def otsP (w : Nat) : Nat := match w with | 1 => 265 | 2 => 133 | 4 => 67 | _ => 34
def otsLs (w : Nat) : Nat := match w with | 1 => 7 | 2 => 6 | 4 => 4 | _ => 0

/-- The height of an LMS type LMS_SHA256_M32_H5 to H25; 0 for any other type. -/
def lmsH (t : Nat) : Nat := if 5 ≤ t ∧ t ≤ 9 then 5 * (t - 4) else 0

/-- The bytes of a hash and the Winternitz width of an LM-OTS type of RFC 8554 or NIST SP 800-208; `none` for any other
code. -/
def otsForm (t : Nat) : Option (Nat × Nat) :=
  if 1 ≤ t ∧ t ≤ 16 then some (if (t - 1) / 4 % 2 = 0 then 32 else 24, 2 ^ ((t - 1) % 4)) else none

/-- The number of chains for a hash of n bytes at a width. -/
def otsChains (n w : Nat) : Nat :=
  if n = 32 then otsP w else match w with | 1 => 200 | 2 => 101 | 4 => 51 | _ => 26

/-- The bytes of a hash and the height of an LMS type of those documents. -/
def lmsForm (t : Nat) : Option (Nat × Nat) :=
  if 5 ≤ t ∧ t ≤ 24 then some (if (t - 5) / 5 % 2 = 0 then 32 else 24, 5 * ((t - 5) % 5 + 1)) else none

/-- Bytes lo to lo + n − 1 of a string. -/
def cut (bs : List Byte) (lo n : Nat) : List Byte := (bs.drop lo).take n

/-! ### One-time and tree signatures -/

/-- Digit i of width w of a string. -/
def coef (bs : List Byte) (i w : Nat) : Nat := (bs.getD (i * w / 8) 0).toNat / 2 ^ (8 - w * (i % (8 / w)) - w) % 2 ^ w

/-- The checksum of a hash, in 2 bytes. -/
def otsCksm (q : List Byte) (w : Nat) : List Byte :=
  beBytes 2 (((List.range (256 / w)).map (fun i => 2 ^ w - 1 - coef q i w)).sum * 2 ^ otsLs w)

/-- A chain continued n times from step j. -/
def otsChain (pre : List Byte) : Nat → Nat → List Byte → List Byte
  | 0, _, t => t
  | n + 1, j, t => otsChain pre n (j + 1) (sha256 (pre ++ beBytes 1 j ++ t))

/-- The candidate one-time key of a signature (C, then its chains) of a message under tree identifier `tid` and leaf q. -/
def otsKey (w : Nat) (tid : List Byte) (q : Nat) (c ys msg : List Byte) : List Byte :=
  let h := sha256 (tid ++ beBytes 4 q ++ beBytes 2 0x8181 ++ c ++ msg)
  let d := h ++ otsCksm h w
  sha256 (tid ++ beBytes 4 q ++ beBytes 2 0x8080 ++ (List.range (otsP w)).flatMap (fun i =>
    let a := coef d i w
    otsChain (tid ++ beBytes 4 q ++ beBytes 2 i) (2 ^ w - 1 - a) a (cut ys (32 * i) 32)))

/-- The root that a path leads to from node r. -/
def lmsRoot (tid : List Byte) : List (List Byte) → Nat → List Byte → List Byte
  | [], _, t => t
  | p :: ps, r, t =>
    let pre := tid ++ beBytes 4 (r / 2) ++ beBytes 2 0x8383
    lmsRoot tid ps (r / 2) (sha256 (if r % 2 = 1 then pre ++ p ++ t else pre ++ t ++ p))

/-- The length of the LMS signature at the head of a string, from its own type codes, and of a public key of its tree; 0
where a code is none of those documents'. -/
def lmsLen (sig : List Byte) : Nat × Nat :=
  match otsForm (beNum (cut sig 4 4)) with
  | none => (0, 0)
  | some (n, w) =>
    let k := 8 + n + n * otsChains n w
    match lmsForm (beNum (cut sig k 4)) with
    | none => (0, 0)
    | some (m, h) => (k + 4 + m * h, 24 + m)

/-- Whether an LMS signature of a message verifies under an LMS public key of 56 bytes. -/
def lmsVerify (key msg sig : List Byte) : Bool :=
  let ots := beNum (cut sig 4 4)
  let w := otsW ots
  let n := 40 + 32 * otsP w
  let lms := beNum (cut sig n 4)
  let h := lmsH lms
  let q := beNum (cut sig 0 4)
  let tid := cut key 8 16
  let kc := otsKey w tid q (cut sig 8 32) (sig.drop 40) msg
  let leaf := sha256 (tid ++ beBytes 4 (2 ^ h + q) ++ beBytes 2 0x8282 ++ kc)
  let path := (List.range h).map (fun i => cut sig (n + 4 + 32 * i) 32)
  decide (w ≠ 0) && decide (h ≠ 0) && decide (beNum (cut key 0 4) = lms) && decide (beNum (cut key 4 4) = ots) &&
    decide (q < 2 ^ h) && decide (sig.length = n + 4 + 32 * h) && lmsRoot tid path (2 ^ h + q) leaf == cut key 24 32

/-! ### HSS -/

/-- The length of the levels of an HSS signature that are left, n of them signed keys. -/
def hssRest : Nat → List Byte → Nat
  | 0, sig => (lmsLen sig).1
  | n + 1, sig =>
    let m := (lmsLen sig).1 + (lmsLen sig).2
    if m = 0 then 0 else match hssRest n (sig.drop m) with | 0 => 0 | r + 1 => m + r + 1

/-- The length of an HSS signature, decoded from its own parameter codes; 0 where they are none of RFC 8554 or NIST SP
800-208. No signature of 256 levels fits the 80 KiB of Table 17.9. -/
def hssLen (sig : List Byte) : Nat :=
  let l := beNum (cut sig 0 4)
  match (if l < 256 then hssRest l (sig.drop 4) else 0) with | 0 => 0 | r + 1 => r + 5

/-- Whether the levels that are left verify, the first under an LMS public key. -/
def hssLevels : Nat → List Byte → List Byte → List Byte → Bool
  | 0, key, msg, sig => lmsVerify key msg sig
  | n + 1, key, msg, sig =>
    let m := (lmsLen sig).1
    let next := cut sig m 56
    lmsVerify key next (sig.take m) && hssLevels n next msg (sig.drop (m + 56))

/-- Whether an HSS signature of a message verifies under a public key of 60 bytes, whose L is 1 to 8. -/
def hssVerify (key msg sig : List Byte) : Bool :=
  let l := beNum (cut sig 0 4)
  decide (key.length = 60) && decide (beNum (cut key 0 4) = l + 1) && decide (l < 8) && decide (hssLen sig = sig.length) &&
    hssLevels l (key.drop 4) msg (sig.drop 4)

end Sys2Proof.Machine
end

