-- ==== Sys2Proof/Machine/Boot.lean ====
section
/-! DEFINITION. Start-up (R374 to R387, R415): the exit sequences, the boot record, the checks of a pattern image, frog
mode, and a start from its beginning to READY. -/

namespace Sys2Proof.Machine

/-! ### Records of hub firmware (R392) -/

/-- A record of hub firmware: filed once the module is READY, before that kept for READY. -/
def hubRecord (code object : Nat) (s : State) : State :=
  let e := plainRec code false object 0
  if rd s BOOT_STATUS_STATE 0 0 = 1 then raise .hubfw e s else { s with bootRecs := s.bootRecs ++ [e] }

/-- IMAGE_BAD of copy c (0 A, 1 B, 2 host) at check number n. -/
def imageBadRec (c n : Nat) (s : State) : State := hubRecord 0x0B01 (c + 2 ^ 8 * n) s

/-! ### The boot record (R383, Table 17.7) -/

def beAttempt : Nat := 1
def beSuccess : Nat := 2
def beCancel : Nat := 3
def beFlashed : Nat := 4
def beCarry : Nat := 5
def beFrog : Nat := 6

/-- CRC-16/CCITT over the low n bytes of a number, from byte 0 on (PRESUMED: polynomial 0x1021, start 0xFFFF). -/
def crc16 : Nat → Nat → Nat → Nat
  | 0, _, c => c
  | n + 1, v, c =>
    let step : Nat → Nat := fun c => if 0x8000 ≤ c then (c * 2 % 0x10000) ^^^ 0x1021 else c * 2
    crc16 n (v / 256) (step (step (step (step (step (step (step (step (c ^^^ (v % 256 * 256))))))))))

/-- An entry with its number within the sector and its CRC. -/
def bootEntry (fields seq : Nat) : BitVec 128 :=
  let v := fields % 2 ^ 48 + 2 ^ 48 * (seq % 2 ^ 32)
  BitVec.ofNat 128 (v + 2 ^ 112 * crc16 14 v 0xFFFF)

/-- Whether an entry passes its CRC. -/
def entryOk (e : BitVec 128) : Bool := crc16 14 (e.toNat % 2 ^ 112) 0xFFFF == e.toNat / 2 ^ 112

/-- n after one more entry. -/
def countEntry (n : Nat) (e : BitVec 128) : Nat :=
  if e.toNat = 2 ^ 128 - 1 then n
  else if !(entryOk e) then n + 1
  else
    let t := bitsOf e.toNat 0 4
    if t = beCarry then bitsOf e.toNat 4 3
    else if t = beAttempt then n + 1
    else if t = beCancel then n - 1
    else if t = beSuccess ∨ t = beFlashed then 0
    else n

/-- The place of the valid sector with the higher sequence. -/
def bootSector (s : State) : Option Nat :=
  let sec : Nat → BootSec := fun i => s.bt.bootSecs.getD i ⟨false, 0, []⟩
  match (sec 0).valid, (sec 1).valid with
  | true, true => some (if (sec 0).seq < (sec 1).seq then 1 else 0)
  | true, false => some 0
  | false, true => some 1
  | false, false => none

/-- The entries of the sector in use. -/
def bootEntries (s : State) : List (BitVec 128) :=
  match bootSector s with
  | some i => (s.bt.bootSecs.getD i ⟨false, 0, []⟩).entries
  | none => []

/-- The consecutive failed starts. -/
def bootCount (s : State) : Nat := (bootEntries s).foldl countEntry 0

/-- An entry appended; a full sector is left for the other one, which begins with CARRY n. -/
def appendBoot (fields : Nat) (s : State) : State :=
  match bootSector s with
  | none => s
  | some i =>
    let sec := s.bt.bootSecs.getD i ⟨false, 0, []⟩
    let put : Nat → BootSec → State := fun j x =>
      let none : BootSec := ⟨false, 0, []⟩
      { s with bt.bootSecs := (s.bt.bootSecs ++ List.replicate (2 - s.bt.bootSecs.length) none).set j x }
    if sec.entries.length < 4095 then put i { sec with entries := sec.entries ++ [bootEntry fields sec.entries.length] }
    else put (1 - i) ⟨true, sec.seq + 1, [bootEntry (beCarry + 2 ^ 4 * min 7 (bootCount s)) 0, bootEntry fields 1]⟩

/-- Both sectors made anew at the first start after manufacture. -/
def newBootRecord (s : State) : State := { s with bt.bootSecs := [⟨true, 1, [bootEntry beCarry 0]⟩, ⟨false, 0, []⟩] }

/-- An ATTEMPT entry's fields. -/
def attemptFields (s : State) : Nat :=
  beAttempt + 2 ^ 7 * rd s RST_LAST_SRC 0 0 + 2 ^ 16 * rd s RST_LAST_REACH 0 0 + 2 ^ 32 * (s.bt.fatalCode % 2 ^ 16)

/-! ### The pattern image (R385, R386, Table 17.9) -/

/-- Byte i of copy c in flash: erased flash reads as ones. -/
def flashByte (s : State) (c i : Nat) : Byte := mapGet 0 s.bt.flash (0x10000000 * c + i) ^^^ 0xFF

/-- n bytes of an image from an offset, and their number, least significant first. -/
def imgBytes (img : Nat → Byte) (ofs n : Nat) : List Byte := (List.range n).map (fun i => img (ofs + i))
def imgNum (img : Nat → Byte) (ofs n : Nat) : Nat := leNum (imgBytes img ofs n)

def imgUsed (img : Nat → Byte) : Nat := imgNum img 8 4
def imgKey (img : Nat → Byte) : List Byte := imgBytes img 0x10 60

/-- The sections: type, offset, length, and the word that must be zero. -/
def imgSections (img : Nat → Byte) : List (Nat × Nat × Nat × Nat) :=
  (List.range (imgNum img 0xC 4)).map (fun i =>
    let o := 0x50 + 16 * i
    (imgNum img o 4, imgNum img (o + 4) 4, imgNum img (o + 8) 4, imgNum img (o + 12) 4))

/-- The bytes of the section of a type. -/
def imgSection (img : Nat → Byte) (t : Nat) : List Byte :=
  match (imgSections img).find? (fun x => x.1 == t) with
  | some x => imgBytes img x.2.1 x.2.2.1
  | none => []

/-- The signature: as many bytes as its own parameter codes ask for, at most 80 KiB. -/
def imgSig (img : Nat → Byte) : List Byte :=
  let all := imgBytes img (imgUsed img) 81920
  all.take (hssLen all)

/-- Check 1: the header, the section table and the length of the signature. -/
def imgForm (img : Nat → Byte) : Bool :=
  let used := imgUsed img
  let n := imgNum img 0xC 4
  let head := imgNum img 0 4 == 0x5054524E && imgNum img 4 2 == 1 && decide (4096 ≤ used ∧ used ≤ 2 ^ 25 ∧ used % 4096 = 0) &&
    decide (1 ≤ n ∧ n ≤ 64)
  let count : Nat → Nat := fun t => ((imgSections img).filter (fun x => x.1 == t)).length
  head && (imgSections img).all (fun x => decide (1 ≤ x.1 ∧ x.1 ≤ 5) && decide (x.2.1 + x.2.2.1 ≤ used) && x.2.2.2 == 0) &&
    [1, 2, 3, 4].all (fun t => count t == 1) && decide (count 5 ≤ 1) &&
    decide (1 ≤ hssLen (imgBytes img used 81920) ∧ hssLen (imgBytes img used 81920) ≤ 81920)

/-- The image digest. -/
def imgDigest (img : Nat → Byte) : List Byte := sha256 (imgBytes img 0 (imgUsed img))

/-- Whether a public key is a vendor's that is not revoked: check 4. -/
def vendorKey (s : State) (key : List Byte) : Bool :=
  let h := leNum (sha256 key)
  (List.range 4).any (fun k => rd s FUSE_SEC_KREV 0 0 / 2 ^ k % 2 == 0 &&
    (List.range 8).all (fun w => rd s FUSE_KEYHASH_HASH 0 (k * 8 + w) == bitsOf h (32 * w) 32))

/-- The first check of R386 that an image fails, or 0; `bad` where a read of it failed. -/
def imgCheck (s : State) (bad : Bool) (img : Nat → Byte) : Nat :=
  let step := rd s FUSE_DEVID_STEPPING 0 0
  if bad then 6
  else if !(imgForm img) then 1
  else if !(decide (1 ≤ step ∧ step ≤ 2)) || (img 7).toNat / 2 ^ (step - 1) % 2 == 0 then 2
  else if (img 6).toNat < rd s FUSE_SEC_SVN 0 0 then 3
  else if !(vendorKey s (imgKey img)) then 4
  else if !(hssVerify (imgKey img) (imgDigest img) (imgSig img)) then 5
  else 0

/-! ### Identity (R388, R389) -/

/-- A signature-state record: KGEN, TOP and SEQ in words 0 to 2, the CRC-32 over them in word 3, zero above (DESIGN
CHOICE: the spec gives no layout; log entry 62). -/
def sigRecord (kgen top seq : Nat) : BitVec 256 :=
  let v := kgen % 2 ^ 32 + 2 ^ 32 * (top % 2 ^ 32) + 2 ^ 64 * (seq % 2 ^ 32)
  BitVec.ofNat 256 (v + 2 ^ 96 * crc32 12 v)

/-- Whether a record passes its CRC. -/
def sigOk (r : BitVec 256) : Bool := crc32 12 (r.toNat % 2 ^ 96) == bitsOf r.toNat 96 32

/-- The valid records of both sectors. -/
def sigRecords (s : State) : List (BitVec 256) := (s.bt.sigSecs.flatMap id).filter sigOk

/-- The current record: the valid one with the highest SEQ. -/
def sigCurrent (s : State) : Option (BitVec 256) :=
  (sigRecords s).foldl (fun b r => match b with
    | none => some r
    | some x => if bitsOf x.toNat 64 32 < bitsOf r.toNat 64 32 then some r else b) none

/-- A record appended; a full sector (2,047 records) is left for the other one, which is erased first. -/
def appendSig (kgen top : Nat) (s : State) : State :=
  let seq := match sigCurrent s with | some r => bitsOf r.toNat 64 32 + 1 | none => 0
  let r := sigRecord kgen top seq
  let a := s.bt.sigSecs.getD 0 []
  let b := s.bt.sigSecs.getD 1 []
  let inB := match sigCurrent s with | some x => b.contains x | none => false
  let secs := if inB then (if b.length < 2047 then [a, b ++ [r]] else [[r], b])
    else (if a.length < 2047 then [a ++ [r], b] else [a, [r]])
  { s with bt.sigSecs := secs, bt.sigTop := top }

/-- SEC_LEAVES and RETIRED from TOP. -/
def showLeaves (s : State) : State :=
  let s1 := wr s SEC_LEAVES_LEFT 0 0 (2 ^ 20 - s.bt.sigTop)
  if s.bt.sigTop = 2 ^ 20 then wr s1 SEC_STATUS_RETIRED 0 0 1 else s1

/-- The signature state read at a start: the next leaf is TOP, or the state is lost and the key retired. -/
def readSigState (s : State) : State :=
  match (sigCurrent s).filter (fun r =>
      bitsOf r.toNat 0 32 == rd s FUSE_SEC_KGEN 0 0 && bitsOf r.toNat 32 32 % 1024 == 0 && decide (bitsOf r.toNat 32 32 ≤ 2 ^ 20)) with
  | some r => showLeaves { s with bt.nextLeaf := bitsOf r.toNat 32 32, bt.sigTop := bitsOf r.toNat 32 32 }
  | none => hubRecord 0x0B04 0 (wr { s with bt.nextLeaf := 0, bt.sigTop := 0 } SEC_STATUS_RETIRED 0 0 1)

/-! ### Frog mode and failed starts (R382, R384) -/

/-- The boot policy of the swatch band (R381). -/
def bootPolicy (s : State) : Nat := bitsOf (rd s BOOT_STATUS_BAND 0 0) 1 2

/-- Every Ply link held DOWN. -/
def linksOff (s : State) : State :=
  (List.range 24).foldl (fun s k =>
    if rdB s PLY_CTRL_EN k 0 || linkState s k != 0 then wr (linkDown k s) PLY_CTRL_EN k 0 0 else s) s

/-- Frog mode: the K-dies are in reset and the Ply links down; the stack rails are off, so that their contents are gone; the
recovery firmware writes the PF's configuration space. -/
def enterFrog (s : State) : State :=
  let s1 := wr (wr (linksOff (resetUnits s)) BOOT_STATUS_STATE 0 0 2) BOOT_STATUS_IMAGE 0 0 3
  { s1 with
    mem := s1.mem.filter (fun e => decide (e.1 < 2 ^ 52))
    training := []
    hst.cfgReady := !s1.bt.endpointRst
    bt.exiting := 0
    bt.wdogRuns := false }

/-- A start fails: START_FAIL, FAULT, and the fatal-error source with reach COLD; under policy 0b10, after RAM_START, frog
mode instead. -/
def startFail (s : State) : State :=
  if bootPolicy s = 2 then enterFrog (hubRecord 0x0B02 0 s)
  else assertSource 8 5 (wr (fileFatal 0x0B02 0 0 .hubfw s) BOOT_STATUS_STATE 0 0 3)

/-! ### A start (R382) -/

/-- An initialisation list's entries: address, exits, value and mask. -/
def parseInit (bs : List Byte) : List (Nat × Nat × Nat × Nat) :=
  (List.range (bs.length / 16)).map (fun i =>
    let v := leNum ((bs.drop (16 * i)).take 16)
    (bitsOf v 0 48, bitsOf v 48 3, bitsOf v 64 32, bitsOf v 96 32))

/-- The control tree and link enables of a LINKPLAN section. -/
def applyLinkPlan (bs : List Byte) (s : State) : State :=
  let x := Config.linkPlan bs
  let s1 := wr (wr s PLY_CTREE_UP 0 0 (bitsOf x 24 5)) PLY_CTREE_ALTUP 0 0 (bitsOf x 29 5)
  let s2 := wr (wr s1 PLY_CDOWN_DOWN 0 0 (bitsOf x 34 24)) PLY_CTDOWN_TDOWN 0 0 (bitsOf x 58 24)
  (List.range 24).foldl (fun s k =>
    if bitsOf x k 1 = 1 then plyCtrl k false s (wr s PLY_CTRL_EN k 0 1) else s) s2

/-- The verified image becomes active: its digest, security version and lists. -/
def adoptImage (code : Nat) (img : Nat → Byte) (s : State) : State :=
  let d := leNum (imgDigest img)
  let s1 := (List.range 8).foldl (fun s w => wr s BOOT_DIGEST_DIGEST 0 w (bitsOf d (32 * w) 32)) s
  wr { s1 with bt.activeSvn := (img 6).toNat, bt.initList := parseInit (imgSection img 2) } BOOT_STATUS_IMAGE 0 0 code

/-- The firmware of the active image runs: its register initialisation list for the exit, training of every stack, COLD or
WARM, and of the links that the plan enables. -/
def runImage (exit kind : Nat) (img : Nat → Byte) (s : State) : State :=
  let s1 := applyLinkPlan (imgSection img 4) (applyInit (exit - 3) s)
  (List.range 12).foldl (fun s k => wr { s with training := mapSet 0 s.training k kind } PHY_STATUS_TBUSY k 0 1) s1

/-- The copies in the order of the boot policy (R387). -/
def copyOrder (s : State) : List Nat := if bootPolicy s = 1 then [1, 0] else [0, 1]

/-- The copies checked in order until one passes: the copy, and the state with the records of those that failed; bit c of
`bad` says that a read of copy c fails. -/
def tryCopies (bad : Nat) : List Nat → State → Option Nat × State
  | [], s => (none, s)
  | c :: cs, s =>
    let n := imgCheck s (bitsOf bad c 1 == 1) (flashByte s c)
    if n = 0 then (some c, s) else tryCopies bad cs (imageBadRec c n s)

/-- The start after the boot record: frog mode by the policy, or the copies in flash. -/
def startImages (bad : Nat) (s : State) : State :=
  if 2 ≤ bootPolicy s then enterFrog s
  else match tryCopies bad (copyOrder s) s with
    | (some c, s1) => runImage s.bt.exiting (if s.bt.exiting = 4 then 3 else 2) (flashByte s c) (adoptImage c (flashByte s c) s1)
    | (none, s1) => startFail s1

/-- Steps 1 to 3 of R383, with n from the record in flash. -/
def startRecord (bad : Nat) (s : State) : State :=
  let last := (bootEntries s).getLast?
  let pins := bitsOf (rd s RST_LAST_SRC 0 0) 1 2 != 0
  let attempt := match last with | some e => entryOk e && bitsOf e.toNat 0 4 == beAttempt | none => false
  let s1 := if pins && attempt then appendBoot beCancel s else s
  let n := bootCount s1
  let s2 := wr s1 BOOT_STATUS_FAILS 0 0 (min 7 n)
  if max 2 (rd s2 FUSE_BOOT_FROGN 0 0) ≤ n then enterFrog (appendBoot beFrog s2)
  else startImages bad (appendBoot (attemptFields s2) s2)

/-- The programming of a boot-record entry cut short by a power loss: the entry fails its CRC (R383); its other bits are a
free value. -/
def cutEntry (s : State) : State :=
  match bootSector s with
  | none => s
  | some i =>
    let v := Config.free s.freeIdx 0 % 2 ^ 112
    let e := BitVec.ofNat 128 (v + 2 ^ 112 * (crc16 14 v 0xFFFF ^^^ 1))
    let sec := s.bt.bootSecs.getD i ⟨false, 0, []⟩
    { s with freeIdx := s.freeIdx + 1, bt.bootSecs := s.bt.bootSecs.set i { sec with entries := sec.entries ++ [e] } }

/-- START: the boot ROM's part of a start and the firmware's up to training. `pll` says that the PLLs lock, `bad` which
copies a flash read fails on, `recOk` that the boot record could be written; else a new record fails, or the start's first
entry is cut short and it goes no further. -/
def execStart (pll : Bool) (bad : Nat) (recOk : Bool) (s : State) : Host.Outcome State Fault Refusal :=
  .next (
    if s.bt.exiting = 0 ∨ rd s BOOT_STATUS_STATE 0 0 ≠ 0 ∨ rd s BOOT_STATUS_IMAGE 0 0 ≠ 3 then s
    else if s.bt.exiting = 5 ∧ pll = false then startFail s
    else
      let s1 := readSigState s
      if (bootSector s1).isSome then (if recOk then startRecord bad s1 else cutEntry s1)
      else if recOk then startRecord bad (newBootRecord s1)
      else enterFrog s1)

/-- An image given as bytes, as the checks read it. -/
def listImg (bs : List Byte) (i : Nat) : Byte := bs.getD i 0

/-- The active image. -/
def activeImg (s : State) : Nat → Byte :=
  let c := rd s BOOT_STATUS_IMAGE 0 0
  if c = 2 then listImg s.bt.hostImage else flashByte s c

/-- The partition defaults of a PARTDEF section: register writes by hub core 0 (R382; log entry 63). -/
def applyPartDef (bs : List Byte) (s : State) : State :=
  (Config.partDefaults bs).foldl (fun s x => writeReg (.hub 0) x.1 (BitVec.ofNat 32 x.2) 0xF s) s

/-- The records kept for READY printed on the UART and given to the ERR block (R392). -/
def fileKept (s : State) : State :=
  s.bootRecs.foldl (fun s e => raise .hubfw e s) { s with bootRecs := [], hst.printed := s.hst.printed ++ s.bootRecs }

/-- START_READY: training has ended, and the start reaches READY, or fails where a stack has failed. -/
def execStartReady (s : State) : Host.Outcome State Fault Refusal :=
  .next (
    if s.bt.exiting = 0 ∨ rd s BOOT_STATUS_STATE 0 0 ≠ 0 ∨ rd s BOOT_STATUS_IMAGE 0 0 = 3 ∨ s.training ≠ [] then s
    else if (List.range 12).any (fun k => !(rdB s MEM_STATUS_TRAINED k 0)) then startFail s
    else
      let s0 := applyPartDef (imgSection (activeImg s) 5) s
      let s1 := appendBoot (beSuccess + 2 ^ 19 * rd s BOOT_STATUS_IMAGE 0 0) (wr s0 BOOT_STATUS_STATE 0 0 1)
      let s2 := fileKept s1
      { s2 with
        hst.cfgReady := !s2.bt.endpointRst
        bt.exiting := 0
        bt.wdogRuns := rd s2 RST_WDOG_TMO 0 0 != 0 })

/-- START_TIMEOUT: READY has not been reached within 8 s of the exit start. -/
def execStartTimeout (s : State) : Host.Outcome State Fault Refusal :=
  .next (if s.bt.exiting = 0 ∨ rd s BOOT_STATUS_STATE 0 0 ≠ 0 then s else startFail s)

/-! ### Exits (R375, R377 to R379, R381) -/

/-- The band of a converter code (Table 17.5). -/
def bandOf (code : Nat) : Nat :=
  ([2, 7, 12, 16, 20, 25, 29, 34, 38, 42, 46, 49, 52, 54, 59].filter (fun x => decide (x < code))).length

/-- Every row's DCOL loaded from FCOL, and the clusters with an invalid row marked (R19, R154, R155). -/
def loadDarning (s : State) : State :=
  (List.range 96).foldl (fun s c => (List.range 4).foldl (fun s r =>
    let f := rd s CLU_DARN_FCOL c r
    let s1 := wr (wr s CLU_DARN_DCOL c r f) CLU_DARN_OVR c r 0
    if f = 7 ∨ maskOff (rd s CLU_DARN_FAIL c r) f ≠ 0 then
      raise (.cluster c) (plainRec 0x0304 false (c + 2 ^ 8 * r) 0) (wr s1 CLU_STATUS_DARNBAD c 0 1)
    else s1) s) s

/-- RST_LAST written; after power-on it reads only bit 0 (Table 17.3). -/
def writeLast (s : State) : State :=
  wr (wr s RST_LAST_SRC 0 0 (if s.bt.lastSrc % 2 = 1 then 1 else s.bt.lastSrc)) RST_LAST_REACH 0 0 s.bt.latched

/-- The swatch strap sampled with converter code c: BOOT_STATUS and the strapped fields of PLY_GID (R381, Table 14.11). -/
def sampleSwatch (c : Nat) (s : State) : State :=
  let b := bandOf c
  wr (wr (wr (wr s BOOT_STATUS_CODE 0 0 c) BOOT_STATUS_BAND 0 0 b) PLY_GID_SIDE 0 0 (b / 8)) PLY_GID_MCAP 0 0 (b % 2)

/-- RESET_EXIT: every source has released, internal pulses have ended, and the exit of the latched reach starts; `code` is
the converter code that a COLD exit samples at SWATCH. -/
def execResetExit (code : Nat) (s : State) : Host.Outcome State Fault Refusal :=
  .next (
    if s.bt.latched = 0 ∨ s.pw.power ≠ 2 ∨ sourceOn s 0 ∨ sourceOn s 1 ∨ sourceOn s 2 ∨ sourceOn s 7 then s
    else
      let s1 := writeLast (wr s RST_STATUS_SRC 0 0 0)
      let s2 : State := { s1 with bt.latched := 0 }
      if s.bt.latched ≤ 3 then
        (if rd s BOOT_STATUS_STATE 0 0 = 2 then s2 else replayWrites (applyInit 0 s2))
      else
        let s3 := loadDarning { s2 with bt.exiting := s.bt.latched }
        let c := min 63 code
        if s.bt.latched = 5 then sampleSwatch c s3 else s3)

/-- PCIE_ENDPOINT_RESET_EXIT: the endpoint leaves reset once the power-on and PERST_N sources have released. -/
def execPcieEndpointResetExit (s : State) : Host.Outcome State Fault Refusal :=
  .next (
    if !s.bt.endpointRst || sourceOn s 0 || sourceOn s 1 || s.pw.power != 2 then s
    else { s with bt.endpointRst := false, hst.cfgReady := hubServes s })

/-- POWER_ON: every rail is in its window; PWR_OK rises and the power-on source releases (R374, Table 19.5). -/
def execPowerOn (s : State) : Host.Outcome State Fault Refusal :=
  .next (if s.pw.power = 1 then releaseSource 0 { s with pw.power := 2 } else s)

/-- VIN_RISE: the input reaches `vin`, in 10 mV units; through 39.5 V the rails start. Above the limit of Table 19.7 the
spec gives no behaviour (R416). -/
def execVinRise (vin : Nat) (s : State) : Host.Outcome State Fault Refusal :=
  if 4800 < vin then .fault .outsideRatings
  else .next (if s.pw.power = 0 ∧ 3950 ≤ vin then { s with pw.power := 1 } else s)

end Sys2Proof.Machine
end

