-- ==== Sys2Proof/Machine/Trust.lean ====
section
/-! DEFINITION. The flash, identity and debug services of the mailbox (R380, R383, R384, R386, R388 to R391, Table 17.13),
and the UART console. -/

namespace Sys2Proof.Machine

/-- A service for the PF alone; `frog` says whether frog mode serves it (Table 17.13). -/
def service (frog : Bool) (f : Nat) (act : State → Reply) (s : State) : Reply :=
  if f ≠ 0 ∨ (inFrog s = true ∧ frog = false) then answerErr stDenied s else act s

/-- An answer of n bytes. -/
def answerBytes (n v : Nat) (s : State) : Reply := ⟨stOk, n, v, s⟩

/-! ### Images -/

/-- The check of an image in host memory: it also fails check 1 where it ends before its signature. -/
def hostCheck (s : State) (bs : List Byte) : Nat :=
  let n := imgCheck s false (listImg bs)
  if n = 0 ∧ bs.length < imgUsed (listImg bs) + (imgSig (listImg bs)).length then 1 else n

/-- n bytes written to erased flash from address a. -/
def flashPut : Nat → List Byte → SMap Byte → SMap Byte
  | _, [], m => m
  | a, b :: bs, m => flashPut (a + 1) bs (mapSet 0 m a (b ^^^ 0xFF))

/-- Copy c erased and programmed. -/
def programCopy (c : Nat) (bs : List Byte) (s : State) : State :=
  { s with bt.flash := flashPut (0x10000000 * c) bs (mapClear s.bt.flash (0x10000000 * c) 0x10000000) }

/-- FLASH_WRITE of copy c with the image that host memory holds; `ok` says that erasing, programming and reading back
succeed. -/
def execFlashWrite (ring : Bool) (f seq c : Nat) (img : List Byte) (ok : Bool) (s : State) : Host.Outcome State Fault Refusal :=
  .next (mailbox ring f seq (service true f (fun s =>
    let n := hostCheck s img
    if 1 < c then answerErr stBadArg s
    else if inFrog s = false ∧ rd s BOOT_STATUS_IMAGE 0 0 = c then answerErr stDenied s
    else if n ≠ 0 then answerErr stBadArg (imageBadRec 2 n s)
    else if ok then answerOk (appendBoot beFlashed (programCopy c img s))
    else answerErr stBadArg (hubRecord 0x0B06 c (programCopy c [] s)))) s)

/-- RAM_START: a start from a checked host image, in frog mode under policy 0b10. The stacks' contents are gone, so that
training is COLD. -/
def execRamStart (ring : Bool) (f seq : Nat) (img : List Byte) (s : State) : Host.Outcome State Fault Refusal :=
  .next (mailbox ring f seq (service true f (fun s =>
    let n := hostCheck s img
    if inFrog s = false ∨ bootPolicy s ≠ 2 then answerErr stDenied s
    else if n ≠ 0 then answerErr stBadArg (imageBadRec 2 n s)
    else
      let r := if rd s RST_LAST_REACH 0 0 = 4 then 4 else 5
      let s1 := wr { s with bt.exiting := r, bt.hostImage := img, hst.cfgReady := false } BOOT_STATUS_STATE 0 0 0
      answerOk (runImage r 2 (listImg img) (adoptImage 2 (listImg img) s1)))) s)

/-- RESTART: answered, and then the software source asserts with reach COLD. -/
def execRestart (ring : Bool) (f seq : Nat) (s : State) : Host.Outcome State Fault Refusal :=
  .next (
    let served := fnLive s f && !ring && hubServes s && s.hst.doorbell.head? == some f && f == 0
    let s1 := mailbox ring f seq (service true f answerOk) s
    if served then assertSource 5 5 s1 else s1)

/-- BOOT_RECORD: n, and the last 64 entries from byte 16 on, oldest first, to the buffer at host address `buf`. -/
def execBootRecord (ring : Bool) (f seq buf : Nat) (s : State) : Host.Outcome State Fault Refusal :=
  .next (mailbox ring f seq (service true f (fun s =>
    let es := bootEntries s
    let last := es.drop (es.length - 64)
    answerOk (postHost f 2 (buf + 16) (16 * last.length) (packN 128 (last.map (fun e => e.toNat)))
      (postHost f 1 buf 16 (bootCount s) s)))) s)

/-! ### Identity (R388 to R390) -/

/-- IDENTITY: the public key in the response; KGEN, SEC_LEAVES and RETIRED in the word at mailbox offset 0x88. -/
def execIdentity (ring : Bool) (f seq : Nat) (s : State) : Host.Outcome State Fault Refusal :=
  .next (mailbox ring f seq (service true f (fun s =>
    let kgen := rd s FUSE_SEC_KGEN 0 0
    let more := rd s SEC_LEAVES_LEFT 0 0 + 2 ^ 24 * kgen + 2 ^ 31 * rd s SEC_STATUS_RETIRED 0 0
    answerBytes 60 (Config.identityKey kgen) (postHost f 0 (mbxBase s f + 0x88) 4 more s))) s)

/-- A new TOP reserved where the next leaf has reached it. -/
def reserveLeaves (s : State) : State :=
  if s.bt.nextLeaf < s.bt.sigTop then s
  else showLeaves (appendSig (rd s FUSE_SEC_KGEN 0 0) (s.bt.sigTop + 1024) s)

/-- The attestation report's first 89 bytes, for a leaf. -/
def attestReport (s : State) (nonce leaf : Nat) : Nat :=
  let digest := packN 32 ((List.range 8).map (fun w => rd s BOOT_DIGEST_DIGEST 0 w))
  let last := rd s RST_LAST_SRC 0 0 + 2 ^ 9 * rd s RST_LAST_REACH 0 0
  nonce % 2 ^ 256 + 2 ^ 256 * rd64 s FUSE_SERIAL_LO_SERIAL FUSE_SERIAL_HI_SERIAL 0 0 +
    2 ^ 320 * (rd s FUSE_DEVID_STEPPING 0 0 + 2 ^ 4 * rd s FUSE_DEVID_DEVICE 0 0) + 2 ^ 352 * digest +
    2 ^ 608 * (s.bt.activeSvn % 256) + 2 ^ 616 * rd s SEC_STATUS_DBG 0 0 + 2 ^ 624 * rd s FUSE_SEC_KGEN 0 0 +
    2 ^ 632 * rd s BOOT_STATUS_IMAGE 0 0 + 2 ^ 640 * leaf + 2 ^ 672 * last + 2 ^ 704 * rd s BOOT_STATUS_FAILS 0 0

/-- The low n bytes of a number, least significant first. -/
def leBytes : Nat → Nat → List Byte
  | 0, _ => []
  | n + 1, v => BitVec.ofNat 8 v :: leBytes n (v / 256)

/-- ATTEST: the report of 128 bytes and its signature to the buffer at host address `buf`. -/
def execAttest (ring : Bool) (f seq nonce buf : Nat) (s : State) : Host.Outcome State Fault Refusal :=
  .next (mailbox ring f seq (service false f (fun s =>
    if rdB s SEC_STATUS_RETIRED 0 0 then answerErr (if s.bt.sigTop = 2 ^ 20 then stNone else stDenied) s
    else
      let s1 := reserveLeaves s
      let leaf := s1.bt.nextLeaf
      let rep := attestReport s1 nonce leaf
      let sig := Config.identitySig (rd s1 FUSE_SEC_KGEN 0 0) leaf (leNum (sha256 (leBytes 128 rep)))
      answerOk (postHost f 2 (buf + 128) 2964 sig (postHost f 1 buf 128 rep { s1 with bt.nextLeaf := leaf + 1 })))) s)

/-- FUSE_SERIAL's bytes. -/
def serialBytes (s : State) : List Byte := leBytes 8 (rd64 s FUSE_SERIAL_LO_SERIAL FUSE_SERIAL_HI_SERIAL 0 0)

/-- Whether a token holds: a signature of the SHA-256 of a message by a key that passes checks 4 and 5 of R386. -/
def tokenOk (s : State) (key sig msg : List Byte) : Bool := vendorKey s key && hssVerify key (sha256 msg) sig

/-- REPROVISION: KGEN + 1 is burned, and the new key begins at leaf 0. -/
def execReprovision (ring : Bool) (f seq : Nat) (key sig : List Byte) (s : State) : Host.Outcome State Fault Refusal :=
  .next (mailbox ring f seq (service true f (fun s =>
    let k := rd s FUSE_SEC_KGEN 0 0 + 1
    if 15 < k then answerErr stNone s
    else if tokenOk s key sig (serialBytes s ++ beBytes 1 k) then
      let s1 := appendSig k 0 (wr (wr s FUSE_SEC_KGEN 0 0 k) SEC_STATUS_RETIRED 0 0 0)
      answerOk (showLeaves { s1 with bt.nextLeaf := 0 })
    else answerErr stBadArg (hubRecord 0x0B05 0 s))) s)

/-! ### Debug locking (R391) -/

/-- DEBUG_NONCE: a fresh nonce, a free value. -/
def execDebugNonce (ring : Bool) (f seq : Nat) (s : State) : Host.Outcome State Fault Refusal :=
  .next (mailbox ring f seq (service true f (fun s =>
    let v := Config.free s.freeIdx 0 % 2 ^ 256
    answerBytes 32 v { s with freeIdx := s.freeIdx + 1, bt.nonce := some v })) s)

/-- DEBUG_UNLOCK: a level opened on a token over the serial number, the last nonce and the level. -/
def execDebugUnlock (ring : Bool) (f seq level : Nat) (key sig : List Byte) (s : State) : Host.Outcome State Fault Refusal :=
  .next (mailbox ring f seq (service true f (fun s =>
    let ok := match s.bt.nonce with
      | some v => tokenOk s key sig (serialBytes s ++ leBytes 32 v ++ beBytes 1 level)
      | none => false
    if rd s FUSE_SEC_DBGMAX 0 0 < level ∨ 2 < level then answerErr stDenied s
    else if ok then answerOk (wr { s with bt.nonce := none } SEC_STATUS_DBG 0 0 level)
    else answerErr stBadArg (hubRecord 0x0B05 0 s))) s)

/-- DEBUG_LOCK. -/
def execDebugLock (ring : Bool) (f seq : Nat) (s : State) : Host.Outcome State Fault Refusal :=
  .next (mailbox ring f seq (service true f (fun s => answerOk (wr s SEC_STATUS_DBG 0 0 0))) s)

/-- SVN_COMMIT: the fused SVN raised to the active image's. -/
def execSvnCommit (ring : Bool) (f seq : Nat) (s : State) : Host.Outcome State Fault Refusal :=
  .next (mailbox ring f seq (service false f (fun s =>
    answerOk (wr s FUSE_SEC_SVN 0 0 (max (rd s FUSE_SEC_SVN 0 0) s.bt.activeSvn)))) s)

/-! ### The skein spill (R380) -/

/-- One 64-byte burst of a stack's copy of the spill, numbered from the start of the copy. -/
def spillBurst (s : State) (k i : Nat) : Nat :=
  packN 8 ((List.range 64).map (fun j => (mapGet 0 s.mem (spillKey k 0 + 64 * i + j)).toNat))

/-- Burst i of the spill as SPILL reads it: stack 0's copy, or stack 6's where stack 0 raises MEM_UE. -/
def readSpill (ue : List Nat) (i : Nat) (s : State) : Nat × State :=
  if ue.contains i then
    let ca := 0x78000000 + 0x4800000 + 64 * i
    (spillBurst s 6 i, raise (.memctl 0) (ueRec none 0 false 0 0 ca nodeSkein) (markUe 0 (moduleAddr s 0 0 ca) s))
  else (spillBurst s 0 i, s)

/-- The bursts from i on, n of them, to function f's host buffer. -/
def copySpill (ue : List Nat) (f : Nat) : Nat → Nat → Nat → State → State
  | 0, _, _, s => s
  | n + 1, i, buf, s =>
    let r := readSpill ue i s
    copySpill ue f n (i + 1) (buf + 64) (postHost f (if n = 0 then 0 else 1) buf 64 r.1 r.2)

/-- Whether a SPILL waits: it reads a stack whose controller serves nothing, as in self-refresh (R292, R373). -/
def spillWaits (f first count : Nat) (ue : List Nat) (s : State) : Bool :=
  f == 0 && !(inFrog s) && decide (0 < count) && decide (first + count ≤ 65536) &&
    (!(chanReady s 0 0) || (!(ue.isEmpty) && !(chanReady s 6 0)))

/-- SPILL: `count` entries of the spill from entry `first` to the buffer at `buf`; RELEASE resumes spilling. `ue` names
the bursts on which stack 0 raises MEM_UE. -/
def execSpill (ring : Bool) (f seq first count buf : Nat) (release : Bool) (ue : List Nat) (s : State) :
    Host.Outcome State Fault Refusal :=
  .next (if !ring && spillWaits f first count ue s then s
    else mailbox ring f seq (service false f (fun s =>
    if 65536 < first + count then answerErr stBadArg s
    else
      let s1 := copySpill ue f (2 * count) (2 * first) buf s
      answerOk { s1 with spilling := release || s1.spilling })) s)

/-! ### The console (R391) -/

/-- UART_CONSOLE_INPUT: a byte goes to the hub-firmware console at debug level DEBUG or TEST; the spec names none of the
commands that its bytes make (log 89). -/
def execUartConsoleInput (b : Byte) (s : State) : Host.Outcome State Fault Refusal :=
  .next (if rd s SEC_STATUS_DBG 0 0 = 0 then s else { s with hst.uartOut := s.hst.uartOut ++ [b] })

end Sys2Proof.Machine
end

