-- ==== Sys2Proof/Machine/Dispatch.lean ====
section
/-! DEFINITION. One arm per command: one direct call of its meaning. -/

namespace Sys2Proof.Machine

/-- The effect of a command on everything but the queue. -/
def exec (i : Instr) (s : State) : Host.Outcome State Fault Refusal :=
  match i with
  | .registerWrite rq ofs v be => Sys2Proof.Machine.execRegisterWrite rq ofs v be s
  | .rcRead rq ofs => Sys2Proof.Machine.execRcRead rq ofs s
  | .counterLowRead rq ofs => Sys2Proof.Machine.execCounterLowRead rq ofs s
  | .ill t n w => Sys2Proof.Machine.execIll t n w s
  | .endOp t n w => Sys2Proof.Machine.execEnd t n w s
  | .br t n w => Sys2Proof.Machine.execBr t n w s
  | .jr t n w => Sys2Proof.Machine.execJr t n w s
  | .salu t n w => Sys2Proof.Machine.execSalu t n w s
  | .salui t n w => Sys2Proof.Machine.execSalui t n w s
  | .sflg t n w => Sys2Proof.Machine.execSflg t n w s
  | .aaluAdd t n w => Sys2Proof.Machine.execAaluAdd t n w s
  | .movsa t n w => Sys2Proof.Machine.execMovsa t n w s
  | .movlo t n w => Sys2Proof.Machine.execMovlo t n w s
  | .movhi t n w => Sys2Proof.Machine.execMovhi t n w s
  | .aalui t n w => Sys2Proof.Machine.execAalui t n w s
  | .ld t n w rq => Sys2Proof.Machine.execLd t n w rq s
  | .st t n w rq => Sys2Proof.Machine.execSt t n w rq s
  | .ldv t n w rq => Sys2Proof.Machine.execLdv t n w rq s
  | .stv t n w rq => Sys2Proof.Machine.execStv t n w rq s
  | .fadd t n w rq => Sys2Proof.Machine.execFadd t n w rq s
  | .fsub t n w rq => Sys2Proof.Machine.execFsub t n w rq s
  | .fmul t n w rq => Sys2Proof.Machine.execFmul t n w rq s
  | .fma t n w rq => Sys2Proof.Machine.execFma t n w rq s
  | .fmin t n w rq => Sys2Proof.Machine.execFmin t n w rq s
  | .fmax t n w rq => Sys2Proof.Machine.execFmax t n w rq s
  | .fcmpeq t n w rq => Sys2Proof.Machine.execFcmpeq t n w rq s
  | .fcmplt t n w rq => Sys2Proof.Machine.execFcmplt t n w rq s
  | .fcmple t n w rq => Sys2Proof.Machine.execFcmple t n w rq s
  | .fneg t n w rq => Sys2Proof.Machine.execFneg t n w rq s
  | .fabs t n w rq => Sys2Proof.Machine.execFabs t n w rq s
  | .vint t n w rq => Sys2Proof.Machine.execVint t n w rq s
  | .vbc t n w rq => Sys2Proof.Machine.execVbc t n w rq s
  | .cvt t n w rq => Sys2Proof.Machine.execCvt t n w rq s
  | .z4Unpack t n w rq => Sys2Proof.Machine.execZ4Unpack t n w rq s
  | .z4Pack t n w rq => Sys2Proof.Machine.execZ4Pack t n w rq s
  | .prun t n w rq => Sys2Proof.Machine.execPrun t n w rq s
  | .awl t n w rq => Sys2Proof.Machine.execAwl t n w rq s
  | .awlExact t n w rq => Sys2Proof.Machine.execAwlExact t n w rq s
  | .awlReblock t n w rq => Sys2Proof.Machine.execAwlReblock t n w rq s
  | .weightLoadComplete t => Sys2Proof.Machine.execWeightLoadComplete t s
  | .amm t n w rq => Sys2Proof.Machine.execAmm t n w rq s
  | .arrayResultReady a => Sys2Proof.Machine.execArrayResultReady a s
  | .adrStore t n w rq => Sys2Proof.Machine.execAdrStore t n w rq s
  | .adrAdd t n w rq => Sys2Proof.Machine.execAdrAdd t n w rq s
  | .adrConvert t n w rq => Sys2Proof.Machine.execAdrConvert t n w rq s
  | .ashp t n w rq => Sys2Proof.Machine.execAshp t n w rq s
  | .slv t n w rq => Sys2Proof.Machine.execSlv t n w rq s
  | .sig t n w => Sys2Proof.Machine.execSig t n w s
  | .waitObserve t n w => Sys2Proof.Machine.execWaitObserve t n w s
  | .waitTake t n w => Sys2Proof.Machine.execWaitTake t n w s
  | .lwOpen t win via => Sys2Proof.Machine.execLwOpen t win via s
  | .lwClose t win via => Sys2Proof.Machine.execLwClose t win via s
  | .lwRelease t win via => Sys2Proof.Machine.execLwRelease t win via s
  | .xfer t n w => Sys2Proof.Machine.execXfer t n w s
  | .send t n w => Sys2Proof.Machine.execSend t n w s
  | .sendStallTimeout t n => Sys2Proof.Machine.execSendStallTimeout t n s
  | .jq t n w => Sys2Proof.Machine.execJq t n w s
  | .bkick t n w => Sys2Proof.Machine.execBkick t n w s
  | .ifill t n w rq => Sys2Proof.Machine.execIfill t n w rq s
  | .ifillGo rq t v => Sys2Proof.Machine.execIfillGo rq t v s
  | .ifillComplete t => Sys2Proof.Machine.execIfillComplete t s
  | .tileLtagWrite rq t v => Sys2Proof.Machine.execTileLtagWrite rq t v s
  | .prlLoadGo rq t v => Sys2Proof.Machine.execPrlLoadGo rq t v s
  | .prlLoadComplete t => Sys2Proof.Machine.execPrlLoadComplete t s
  | .gatherOff rq t v => Sys2Proof.Machine.execGatherOff rq t v s
  | .gatherFlushTimeout t => Sys2Proof.Machine.execGatherFlushTimeout t s
  | .arrival a => Sys2Proof.Machine.execArrival a s
  | .castPhaseStart t => Sys2Proof.Machine.execCastPhaseStart t s
  | .cend t => Sys2Proof.Machine.execCend t s
  | .cwr t => Sys2Proof.Machine.execCwr t s
  | .crd t => Sys2Proof.Machine.execCrd t s
  | .cxr t => Sys2Proof.Machine.execCxr t s
  | .csig t => Sys2Proof.Machine.execCsig t s
  | .cwait t => Sys2Proof.Machine.execCwait t s
  | .cbar t => Sys2Proof.Machine.execCbar t s
  | .tileArrive t => Sys2Proof.Machine.execTileArrive t s
  | .courseBoundary p m left => Sys2Proof.Machine.execCourseBoundary p m left s
  | .tileRelease t => Sys2Proof.Machine.execTileRelease t s
  | .barrierTimerExpire p => Sys2Proof.Machine.execBarrierTimerExpire p s
  | .stitchAddition ix => Sys2Proof.Machine.execStitchAddition ix s
  | .waiterRelease t who => Sys2Proof.Machine.execWaiterRelease t who s
  | .waitTimerExpire t who => Sys2Proof.Machine.execWaitTimerExpire t who s
  | .subBarrierComplete p plane => Sys2Proof.Machine.execSubBarrierComplete p plane s
  | .partitionResetRelease p => Sys2Proof.Machine.execPartitionResetRelease p s
  | .stcXtDataWrite rq p v => Sys2Proof.Machine.execStcXtDataWrite rq p v s
  | .stcCtlWrite rq die v => Sys2Proof.Machine.execStcCtlWrite rq die v s
  | .txOpenCmd t n ep v => Sys2Proof.Machine.execTxOpenCmd t n ep v s
  | .txCloseCmd t n ep v => Sys2Proof.Machine.execTxCloseCmd t n ep v s
  | .rxOpenCmd t n ep v => Sys2Proof.Machine.execRxOpenCmd t n ep v s
  | .rxCloseCmd t n ep v => Sys2Proof.Machine.execRxCloseCmd t n ep v s
  | .openReq pid => Sys2Proof.Machine.execOpenReq pid s
  | .openAck pid => Sys2Proof.Machine.execOpenAck pid s
  | .openNak pid => Sys2Proof.Machine.execOpenNak pid s
  | .credit pid => Sys2Proof.Machine.execCredit pid s
  | .close pid => Sys2Proof.Machine.execClose pid s
  | .closeAck pid => Sys2Proof.Machine.execCloseAck pid s
  | .orphan pid => Sys2Proof.Machine.execOrphan pid s
  | .strandData a => Sys2Proof.Machine.execStrandData a s
  | .headWrite t n ep v => Sys2Proof.Machine.execHeadWrite t n ep v s
  | .join a ecc => Sys2Proof.Machine.execJoin a ecc s
  | .routerForward c port aged ecc => Sys2Proof.Machine.execRouterForward c port aged ecc s
  | .creditReturn c port vc k => Sys2Proof.Machine.execCreditReturn c port vc k s
  | .clusterStoreWrite a => Sys2Proof.Machine.execClusterStoreWrite a s
  | .rdreq a ecc => Sys2Proof.Machine.execRdreq a ecc s
  | .mergeWindowExpire c line => Sys2Proof.Machine.execMergeWindowExpire c line s
  | .rdrsp a => Sys2Proof.Machine.execRdrsp a s
  | .transposeRead pid ecc => Sys2Proof.Machine.execTransposeRead pid ecc s
  | .cluTestWrite rq c v => Sys2Proof.Machine.execCluTestWrite rq c v s
  | .cluDarnWrite rq c row v => Sys2Proof.Machine.execCluDarnWrite rq c row v s
  | .hankAdd a ecc => Sys2Proof.Machine.execHankAdd a ecc s
  | .hankRead a ecc => Sys2Proof.Machine.execHankRead a ecc s
  | .hnkFreshGo rq c v => Sys2Proof.Machine.execHnkFreshGo rq c v s
  | .freshenComplete c => Sys2Proof.Machine.execFreshenComplete c s
  | .stashFiringComplete p entry ue => Sys2Proof.Machine.execStashFiringComplete p entry ue s
  | .gather ix out => Sys2Proof.Machine.execGather ix out s
  | .gatherchk ix out => Sys2Proof.Machine.execGatherchk ix out s
  | .shardRelease ix => Sys2Proof.Machine.execShardRelease ix s
  | .gatherReceipt ix => Sys2Proof.Machine.execGatherReceipt ix s
  | .pinTimerExpire b handle => Sys2Proof.Machine.execPinTimerExpire b handle s
  | .update ix => Sys2Proof.Machine.execUpdate ix s
  | .abort ix => Sys2Proof.Machine.execAbort ix s
  | .blkAbortGo rq b v => Sys2Proof.Machine.execBlkAbortGo rq b v s
  | .updateStart u => Sys2Proof.Machine.execUpdateStart u s
  | .updateBlock b out => Sys2Proof.Machine.execUpdateBlock b out s
  | .updateComplete b => Sys2Proof.Machine.execUpdateComplete b s
  | .sknRead rq v => Sys2Proof.Machine.execSknRead rq v s
  | .sknCreate rq v => Sys2Proof.Machine.execSknCreate rq v s
  | .sknCancel rq v => Sys2Proof.Machine.execSknCancel rq v s
  | .batchBuild p => Sys2Proof.Machine.execBatchBuild p s
  | .returnAccept p ue => Sys2Proof.Machine.execReturnAccept p ue s
  | .skeinEmit k ue => Sys2Proof.Machine.execSkeinEmit k ue s
  | .evictStart p => Sys2Proof.Machine.execEvictStart p s
  | .evictComplete e => Sys2Proof.Machine.execEvictComplete e s
  | .restoreStart p => Sys2Proof.Machine.execRestoreStart p s
  | .restoreComplete k => Sys2Proof.Machine.execRestoreComplete k s
  | .sknBcfgEnWrite rq p v => Sys2Proof.Machine.execSknBcfgEnWrite rq p v s
  | .memAccept pid => Sys2Proof.Machine.execMemAccept pid s
  | .memCtrlEnWrite rq k v => Sys2Proof.Machine.execMemCtrlEnWrite rq k v s
  | .burstIssue k ch ix aged ecc => Sys2Proof.Machine.execBurstIssue k ch ix aged ecc s
  | .refresh k ch bank => Sys2Proof.Machine.execRefresh k ch bank s
  | .scrub k ch us => Sys2Proof.Machine.execScrub k ch us s
  | .tempPoll k temp => Sys2Proof.Machine.execTempPoll k temp s
  | .phyTrainGo rq k v => Sys2Proof.Machine.execPhyTrainGo rq k v s
  | .stackTrainingComplete k lanes => Sys2Proof.Machine.execStackTrainingComplete k lanes s
  | .phyMrunGo rq k v => Sys2Proof.Machine.execPhyMrunGo rq k v s
  | .marginRunComplete k errs => Sys2Proof.Machine.execMarginRunComplete k errs s
  | .plyEnable rq k v => Sys2Proof.Machine.execPlyEnable rq k v s
  | .plyRetrain rq k v => Sys2Proof.Machine.execPlyRetrain rq k v s
  | .plyTrainingComplete k up4 peer plink => Sys2Proof.Machine.execPlyTrainingComplete k up4 peer plink s
  | .flitReceive k flit corrected unc => Sys2Proof.Machine.execFlitReceive k flit corrected unc s
  | .nak k flit corrected unc => Sys2Proof.Machine.execNak k flit corrected unc s
  | .replayTimerExpire k => Sys2Proof.Machine.execReplayTimerExpire k s
  | .plyLinkFail k => Sys2Proof.Machine.execPlyLinkFail k s
  | .spanArrive ix => Sys2Proof.Machine.execSpanArrive ix s
  | .spanRelease ix => Sys2Proof.Machine.execSpanRelease ix s
  | .grace ix => Sys2Proof.Machine.execGrace ix s
  | .hb ix => Sys2Proof.Machine.execHb ix s
  | .attachReq ix => Sys2Proof.Machine.execAttachReq ix s
  | .attachAck ix => Sys2Proof.Machine.execAttachAck ix s
  | .attachNak ix => Sys2Proof.Machine.execAttachNak ix s
  | .mirrorReady ix => Sys2Proof.Machine.execMirrorReady ix s
  | .detachReq ix => Sys2Proof.Machine.execDetachReq ix s
  | .drainDone ix => Sys2Proof.Machine.execDrainDone ix s
  | .handover ix => Sys2Proof.Machine.execHandover ix s
  | .handoverAck ix => Sys2Proof.Machine.execHandoverAck ix s
  | .handoverNak ix => Sys2Proof.Machine.execHandoverNak ix s
  | .handback ix => Sys2Proof.Machine.execHandback ix s
  | .resetReq ix => Sys2Proof.Machine.execResetReq ix s
  | .groupJoin ix => Sys2Proof.Machine.execGroupJoin ix s
  | .joinAck ix => Sys2Proof.Machine.execJoinAck ix s
  | .dispatch ix cons => Sys2Proof.Machine.execDispatch ix cons s
  | .rollout ix cons => Sys2Proof.Machine.execRollout ix cons s
  | .genPublished ix => Sys2Proof.Machine.execGenPublished ix s
  | .genAdopted ix => Sys2Proof.Machine.execGenAdopted ix s
  | .twinAttach rq v => Sys2Proof.Machine.execTwinAttach rq v s
  | .twinDetach rq v => Sys2Proof.Machine.execTwinDetach rq v s
  | .twinPartnerLost => Sys2Proof.Machine.execTwinPartnerLost s
  | .heartbeatTimer pin => Sys2Proof.Machine.execHeartbeatTimer pin s
  | .twinHbPulse => Sys2Proof.Machine.execTwinHbPulse s
  | .ckptEntryCopy => Sys2Proof.Machine.execCkptEntryCopy s
  | .configRequest req => Sys2Proof.Machine.execConfigRequest req s
  | .bar2Write f ofs n v en => Sys2Proof.Machine.execBar2Write f ofs n v en s
  | .bar2Read f ofs b => Sys2Proof.Machine.execBar2Read f ofs b s
  | .barReadTimeout f => Sys2Proof.Machine.execBarReadTimeout f s
  | .dmaTailDoorbell f e v => Sys2Proof.Machine.execDmaTailDoorbell f e v s
  | .rolloutConsDoorbell f v => Sys2Proof.Machine.execRolloutConsDoorbell f v s
  | .rolloutModerationTimer p => Sys2Proof.Machine.execRolloutModerationTimer p s
  | .dmaEnable rq e v => Sys2Proof.Machine.execDmaEnable rq e v s
  | .dmaStop rq e v => Sys2Proof.Machine.execDmaStop rq e v s
  | .dmaCopy e desc out => Sys2Proof.Machine.execDmaCopy e desc out s
  | .dmaFill e desc => Sys2Proof.Machine.execDmaFill e desc s
  | .dmaNop e desc => Sys2Proof.Machine.execDmaNop e desc s
  | .dmaDescriptorComplete e => Sys2Proof.Machine.execDmaDescriptorComplete e s
  | .vfFlr f => Sys2Proof.Machine.execVfFlr f s
  | .pfFlr => Sys2Proof.Machine.execPfFlr s
  | .hotReset => Sys2Proof.Machine.execHotReset s
  | .dlDown => Sys2Proof.Machine.execDlDown s
  | .partCreate ring f seq p mask planes first count prof budget => Sys2Proof.Machine.execPartCreate ring f seq p mask planes first count prof budget s
  | .partDestroy ring f seq p => Sys2Proof.Machine.execPartDestroy ring f seq p s
  | .partHold ring f seq p hold => Sys2Proof.Machine.execPartHold ring f seq p hold s
  | .windowSet ring f seq p w base len grants => Sys2Proof.Machine.execWindowSet ring f seq p w base len grants s
  | .stitchMap ring f seq p list => Sys2Proof.Machine.execStitchMap ring f seq p list s
  | .dmaeAssign ring f seq e owner => Sys2Proof.Machine.execDmaeAssign ring f seq e owner s
  | .shardSet ring f seq p b entry valid cur base0 base1 len gen0 gen1 => Sys2Proof.Machine.execShardSet ring f seq p b entry valid cur base0 base1 len gen0 gen1 s
  | .tensionSet ring f seq p budget => Sys2Proof.Machine.execTensionSet ring f seq p budget s
  | .plySet ring f seq k n valid p lbase llen pbase ppart grants => Sys2Proof.Machine.execPlySet ring f seq k n valid p lbase llen pbase ppart grants s
  | .groupSet ring f seq gid role up altup down tdown spans => Sys2Proof.Machine.execGroupSet ring f seq gid role up altup down tdown spans s
  | .msgSend ring f seq kind dst arg => Sys2Proof.Machine.execMsgSend ring f seq kind dst arg s
  | .flashWrite ring f seq c img ok => Sys2Proof.Machine.execFlashWrite ring f seq c img ok s
  | .ramStart ring f seq img => Sys2Proof.Machine.execRamStart ring f seq img s
  | .restart ring f seq => Sys2Proof.Machine.execRestart ring f seq s
  | .bootRecord ring f seq buf => Sys2Proof.Machine.execBootRecord ring f seq buf s
  | .identity ring f seq => Sys2Proof.Machine.execIdentity ring f seq s
  | .attest ring f seq nonce buf => Sys2Proof.Machine.execAttest ring f seq nonce buf s
  | .reprovision ring f seq key sig => Sys2Proof.Machine.execReprovision ring f seq key sig s
  | .debugNonce ring f seq => Sys2Proof.Machine.execDebugNonce ring f seq s
  | .debugUnlock ring f seq level key sig => Sys2Proof.Machine.execDebugUnlock ring f seq level key sig s
  | .debugLock ring f seq => Sys2Proof.Machine.execDebugLock ring f seq s
  | .svnCommit ring f seq => Sys2Proof.Machine.execSvnCommit ring f seq s
  | .spill ring f seq first count buf release ue => Sys2Proof.Machine.execSpill ring f seq first count buf release ue s
  | .smbDeviceId pec => Sys2Proof.Machine.execSmbDeviceId pec s
  | .smbState pec => Sys2Proof.Machine.execSmbState pec s
  | .smbTemperatures pec => Sys2Proof.Machine.execSmbTemperatures pec s
  | .smbPower pec => Sys2Proof.Machine.execSmbPower pec s
  | .smbThrottle pec => Sys2Proof.Machine.execSmbThrottle pec s
  | .smbErrors pec => Sys2Proof.Machine.execSmbErrors pec s
  | .smbHostCap pec v => Sys2Proof.Machine.execSmbHostCap pec v s
  | .hostcapWrite rq v => Sys2Proof.Machine.execHostcapWrite rq v s
  | .powerLoss => Sys2Proof.Machine.execPowerLoss s
  | .railFault rail mv => Sys2Proof.Machine.execRailFault rail mv s
  | .tensionRecheck p => Sys2Proof.Machine.execTensionRecheck p s
  | .overdrawHoldEnd p => Sys2Proof.Machine.execOverdrawHoldEnd p s
  | .inputDroop vin => Sys2Proof.Machine.execInputDroop vin s
  | .inputCurrentLimit => Sys2Proof.Machine.execInputCurrentLimit s
  | .emergencyStepTimer ev d => Sys2Proof.Machine.execEmergencyStepTimer ev d s
  | .emergencyEnd ev obj vin => Sys2Proof.Machine.execEmergencyEnd ev obj vin s
  | .graceResendTimer => Sys2Proof.Machine.execGraceResendTimer s
  | .sensorSample vin iin pin dies due => Sys2Proof.Machine.execSensorSample vin iin pin dies due s
  | .alignHoldExpire d => Sys2Proof.Machine.execAlignHoldExpire d s
  | .recoveryStep d => Sys2Proof.Machine.execRecoveryStep d s
  | .capStepTimer pavg => Sys2Proof.Machine.execCapStepTimer pavg s
  | .powerOn => Sys2Proof.Machine.execPowerOn s
  | .perstNAssert => Sys2Proof.Machine.execPerstNAssert s
  | .perstNRelease => Sys2Proof.Machine.execPerstNRelease s
  | .mresetNAssert => Sys2Proof.Machine.execMresetNAssert s
  | .mresetNRelease => Sys2Proof.Machine.execMresetNRelease s
  | .wdogKick rq v => Sys2Proof.Machine.execWdogKick rq v s
  | .wdogExpire => Sys2Proof.Machine.execWdogExpire s
  | .swreqTile rq v => Sys2Proof.Machine.execSwreqTile rq v s
  | .swreqPartition rq v => Sys2Proof.Machine.execSwreqPartition rq v s
  | .swreqCompute rq v => Sys2Proof.Machine.execSwreqCompute rq v s
  | .swreqWarm rq v => Sys2Proof.Machine.execSwreqWarm rq v s
  | .swreqCold rq v => Sys2Proof.Machine.execSwreqCold rq v s
  | .rstPholdWrite rq v => Sys2Proof.Machine.execRstPholdWrite rq v s
  | .resetExit code => Sys2Proof.Machine.execResetExit code s
  | .pcieEndpointResetExit => Sys2Proof.Machine.execPcieEndpointResetExit s
  | .start pll bad recOk => Sys2Proof.Machine.execStart pll bad recOk s
  | .startReady => Sys2Proof.Machine.execStartReady s
  | .startTimeout => Sys2Proof.Machine.execStartTimeout s
  | .censusAtBoundary rq v => Sys2Proof.Machine.execCensusAtBoundary rq v s
  | .censusNow rq v => Sys2Proof.Machine.execCensusNow rq v s
  | .censusCancel rq v => Sys2Proof.Machine.execCensusCancel rq v s
  | .censusDone => Sys2Proof.Machine.execCensusDone s
  | .cnsSdataRead rq => Sys2Proof.Machine.execCnsSdataRead rq s
  | .recordFile ix bad => Sys2Proof.Machine.execRecordFile ix bad s
  | .errQpop rq v => Sys2Proof.Machine.execErrQpop rq v s
  | .tileResetRelease t => Sys2Proof.Machine.execTileResetRelease t s
  | .hostRefclkLoss => Sys2Proof.Machine.execHostRefclkLoss s
  | .hostRefclkReturn => Sys2Proof.Machine.execHostRefclkReturn s
  | .plyLinkLoss k => Sys2Proof.Machine.execPlyLinkLoss k s
  | .initialMirrorComplete => Sys2Proof.Machine.execInitialMirrorComplete s
  | .twinDrainComplete => Sys2Proof.Machine.execTwinDrainComplete s
  | .pcieLinkUp speed width => Sys2Proof.Machine.execPcieLinkUp speed width s
  | .hostCompletion ix data ok => Sys2Proof.Machine.execHostCompletion ix data ok s
  | .hostCompletionTimeout ix => Sys2Proof.Machine.execHostCompletionTimeout ix s
  | .vinRise vin => Sys2Proof.Machine.execVinRise vin s
  | .uartConsoleInput b => Sys2Proof.Machine.execUartConsoleInput b s
  | .mailboxUnknownCmd ring f seq cmd => Sys2Proof.Machine.execMailboxUnknownCmd ring f seq cmd s

end Sys2Proof.Machine
end

