-- ==== Sys2Proof/Safety.lean ====
section
/-! DEFINITION. What counts as a safe state and a safe run. -/

namespace Sys2Proof.Machine

/-- The module's memory and the host's are in canonical form: addresses strictly rising, and no listed byte equal to what
an unlisted address reads as. -/
def memOk (s : State) : Prop := Memory.wf s.mem = true ∧ Memory.wf s.hostMem = true

/-- A run of n steps that neither faults nor refuses, and the state it ends in. -/
def runs : Nat → State → Option State
  | 0, s => some s
  | n + 1, s => match step s with
    | .next t => runs n t
    | _ => none

/-- A safe run: every one of its n steps answers a next state. -/
def safeRun (n : Nat) (s : State) : Prop := (runs n s).isSome = true

/-! ### When a needle's instruction runs -/

/-- Needle n of tile t can issue word w now, with its effect: it fetches it (R45, R46), R63 accepts it, its guard lets it
execute (R64), and no earlier result of the needle is still to become readable (R69). -/
def issuable (s : State) (t : Nat) (n : Needle) (w : W64) : Prop :=
  canFetch s t (needleCode n) = true ∧ pageValid s t (needleCode n) = true ∧ wordAt s t (needleCode n) = w ∧
  lawful w = true ∧ guardOn s t (needleCode n) w = true ∧ s.young.any (ofNeedle t (needleCode n)) = false

/-- The arbiter of a unit of tile t grants needle n among the requesting needles `rq` (R42). -/
def wins (s : State) (t : Nat) (n : Needle) (unit rq : Nat) : Prop :=
  (arbitrate s t unit (reqList rq)).map Prod.fst = some (needleCode n)

/-- The outbound unit of tile t takes an instruction of needle nc: it holds no needle's transfer whose source is still being
read, and none reached it before this one (R423). -/
def outboundTakes (s : State) (t nc : Nat) : Prop :=
  s.outb.any (fun o => o.tile == t && decide (o.who < 3)) = false ∧ ∀ x, s.outWait.find? (fun x => x.1 == t) = some x → x.2 = nc

/-! ### Frames -/

/-- Every register field of r is that of s but those of the listed keys. -/
def regsBut (ks : List Nat) (s r : State) : Prop := ∀ f u n, fkey f u n ∉ ks → rd r f u n = rd s f u n

/-- No register field changes but fields of the listed kinds, of whichever unit and index. -/
def fieldsBut (fs : List Field) (s r : State) : Prop :=
  ∀ g u n, (∀ f ∈ fs, g.id % 1024 ≠ f.id % 1024) → rd r g u n = rd s g u n

/-- A requester's write of the register of field f of unit u at index n is taken: the offset is that register's, the
requester reaches it, and its frame is out of reset (R23, R338, R341). -/
def writable (s : State) (rq : Requester) (f : Field) (u n : Nat) : Prop :=
  locateFor s rq (regOf f u n) = some (f.frame, u, f.off + n * f.step) ∧
  reaches s rq f.frame u (f.off + n * f.step) true = true ∧ stalled s f.frame = false

/-- Every byte of the module's memory reads as before. -/
def bytesKept (s r : State) : Prop := ∀ a, rdByte r a = rdByte s a

/-- Every byte of memory outside the n from `a` on reads as before. -/
def bytesBut (a n : Nat) (s r : State) : Prop := ∀ x, (x < a ∨ a + n ≤ x) → rdByte r x = rdByte s x

/-- Every scalar register but s[x] of one needle is as before. -/
def sregsBut (t nc x : Nat) (s r : State) : Prop :=
  ∀ t' nc' x', nc' < 4 → x' < 32 → ¬(t' = t ∧ nc' = nc ∧ x' = x) → getS r t' nc' x' = getS s t' nc' x'

/-- Every address register but a[x] of one needle is as before. -/
def aregsBut (t nc x : Nat) (s r : State) : Prop :=
  ∀ t' nc' x', nc' < 4 → x' < 16 → ¬(t' = t ∧ nc' = nc ∧ x' = x) → getA r t' nc' x' = getA s t' nc' x'

/-- Every lane of every vector register but those of v[x] of one needle is as before. -/
def vregsBut (t nc x : Nat) (s r : State) : Prop :=
  ∀ t' nc' x' i, nc' < 4 → x' < 32 → i < 64 → ¬(t' = t ∧ nc' = nc ∧ x' = x) → getLane r t' nc' x' i = getLane s t' nc' x' i

/-- Every predicate register but p[x] of one needle is as before. -/
def pregsBut (t nc x : Nat) (s r : State) : Prop :=
  ∀ t' nc' x', nc' < 4 → x' < 8 → ¬(t' = t ∧ nc' = nc ∧ x' = x) → getP r t' nc' x' = getP s t' nc' x'

/-- The needle stands at the next word, and every other needle where it stood. -/
def pcNext (t nc : Nat) (s r : State) : Prop :=
  getPC r t nc = (getPC s t nc + 1) % 4096 ∧
  ∀ t' nc', nc' < 4 → ¬(t' = t ∧ nc' = nc) → getPC r t' nc' = getPC s t' nc'

/-- The flags of needle nc of tile t gain those of `fl`, and lose none (R76). -/
def flagsGain (t nc fl : Nat) (s r : State) : Prop :=
  ∀ i, i < NDL_FLAGS.width → (rd r NDL_FLAGS t nc).testBit i = ((rd s NDL_FLAGS t nc).testBit i || fl.testBit i)

/-- What a needle's instruction leaves alone when it writes scalar register x at most: every other scalar register, every
other needle's place, every register field but the needle's flags, every byte of memory, and every other component of
the state but the model's own note of older values (R69). -/
def scalarFrame (t nc x : Nat) (s r : State) : Prop :=
  sregsBut t nc x s r ∧ pcNext t nc s r ∧ regsBut [fkey NDL_FLAGS t nc] s r ∧ bytesKept s r ∧
  r = { s with regs := r.regs, sreg := r.sreg, pcs := r.pcs, young := r.young }

/-- The same of an instruction that writes address register x. -/
def addressFrame (t nc x : Nat) (s r : State) : Prop :=
  aregsBut t nc x s r ∧ pcNext t nc s r ∧ bytesKept s r ∧ r = { s with areg := r.areg, pcs := r.pcs, young := r.young }

/-- The same of an instruction of the purl fabric that writes vector register x: the arbiter's accumulators and the note of
the fabric's use (R362) change besides. -/
def vectorFrame (t nc x : Nat) (s r : State) : Prop :=
  vregsBut t nc x s r ∧ pcNext t nc s r ∧ regsBut [fkey NDL_FLAGS t nc] s r ∧ bytesKept s r ∧
  r = { s with regs := r.regs, vreg := r.vreg, pcs := r.pcs, young := r.young, arb := r.arb, pw.usage := r.pw.usage }

/-- The same of one that writes predicate register x. -/
def predicateFrame (t nc x : Nat) (s r : State) : Prop :=
  pregsBut t nc x s r ∧ pcNext t nc s r ∧ regsBut [fkey NDL_FLAGS t nc] s r ∧ bytesKept s r ∧
  r = { s with regs := r.regs, preg := r.preg, pcs := r.pcs, young := r.young, arb := r.arb, pw.usage := r.pw.usage }

/-- The lanes of v[RD] in the guard's mask hold f, and its other lanes are kept (R64). -/
def lanesHold (t nc : Nat) (w : W64) (f : Nat → Nat) (s r : State) : Prop :=
  ∀ i, i < 64 → getLane r t nc (wRD w) i =
    if guardMask s t nc w / 2 ^ i % 2 = 1 then BitVec.ofNat 32 (f i) else getLane s t nc (wRD w) i

/-- A result of class LF: in every lane of the guard's mask the value and the flags that f gives; nothing else (R64, R76). -/
def laneDone (t nc : Nat) (w : W64) (f : Nat → Nat × Nat) (s r : State) : Prop :=
  lanesHold t nc w (fun i => (f i).1) s r ∧ flagsGain t nc (laneFlags (guardMask s t nc w) (fun i => (f i).2)) s r ∧
  vectorFrame t nc (wRD w) s r

/-- A compare: the mask's bits of p[RD] hold what f gives, p0 apart, its other bits are kept, and the flags are gained;
nothing else (R64, R76, R79). -/
def compareDone (t nc : Nat) (w : W64) (f : Nat → Bool × Nat) (s r : State) : Prop :=
  (∀ i, i < 64 → getP r t nc (wRD w) / 2 ^ i % 2 =
    if wRD w ≠ 0 ∧ guardMask s t nc w / 2 ^ i % 2 = 1 then (if (f i).1 then 1 else 0) else getP s t nc (wRD w) / 2 ^ i % 2) ∧
  flagsGain t nc (laneFlags (guardMask s t nc w) (fun i => (f i).2)) s r ∧ predicateFrame t nc (wRD w) s r

/-- A weight load is accepted (R71, R90): its buffer is LOADING, it stands last on the weight-load path with its format and
mode, and the needle goes on; nothing else. -/
def loadTaken (t : Nat) (n : Needle) (w : W64) (fmt mode : Nat) (s r : State) : Prop :=
  rd r ARY_STATUS_BST t (wBUF w) = 1 ∧ rd r ARY_STATUS_BFMT t (wBUF w) = fmt ∧ rd r ARY_STATUS_BMODE t (wBUF w) = mode ∧
  regsBut [fkey ARY_STATUS_BST t (wBUF w), fkey ARY_STATUS_BFMT t (wBUF w), fkey ARY_STATUS_BMODE t (wBUF w)] s r ∧
  r.wloads = s.wloads ++ [⟨t, needleCode n, wBUF w, fmt, mode, getA s t (needleCode n) (wAN w), getPC s t (needleCode n)⟩] ∧
  pcNext t (needleCode n) s r ∧ bytesKept s r ∧
  r = { s with regs := r.regs, pcs := r.pcs, arb := r.arb, young := r.young, wform := r.wform, wloads := r.wloads }

/-- The sums `c` of an AMM or an SLV, with their latches and flags, are in flight and stand in the accumulator bank for the
next instruction (R69, R93, R94); nothing else but counters and the model's own notes. -/
def summed (t : Nat) (n : Needle) (slv : Bool) (c : List (Nat × W32) × List (Nat × Nat) × Nat) (s r : State) : Prop :=
  r.flights = s.flights ++ [⟨t, needleCode n, slv, c.2.2, c.1⟩] ∧ r.acc = c.1.foldl (fun m p => mapSet 0 m p.1 p.2) s.acc ∧
  r.latch = c.2.1.foldl (fun m p => mapSet 0x3C00 m p.1 p.2) s.latch ∧ pcNext t (needleCode n) s r ∧
  r = { s with
    regs := r.regs, pcs := r.pcs, arb := r.arb, young := r.young, acc := r.acc, flights := r.flights, latch := r.latch,
    pw.usage := r.pw.usage }

/-- Row image i of a converting ADR: 64 scaled entries of its row in the destination's format, in two blocks (R96, R125). -/
def convRow (s : State) (t : Nat) (w : W64) (i : Nat) : Nat :=
  let half : Nat → Nat := fun b =>
    (narrow32 (wFMT1 w) (gaugePolOf s t none) 0 (fun e => rndAt s t (wMODE w) 0 (rngCount s t + 8 * i) (32 * b + e)) (2 * i + b)
      ((((scaledRow s t (wACC w + i)).1.map val32).drop (32 * b)).take 32)).1
  half 0 + 2 ^ (4 * rowImage w) * half 1

/-- Only the named place of a needle and the model's own note of older values change. -/
def pcFrame (t nc : Nat) (s r : State) : Prop :=
  (∀ t' nc', nc' < 4 → ¬(t' = t ∧ nc' = nc) → getPC r t' nc' = getPC s t' nc') ∧
  r = { s with pcs := r.pcs, young := r.young }

/-! ### A unit's own accesses -/

/-- Every channel of stack memory accepts requests: its controller is enabled, not in self-refresh, and its queue has room (R291,
R292, R300). -/
def stacksTake (s : State) : Prop := ∀ k ch, k < 12 → chanReady s k ch = true

/-- Address a lies in stack memory and in no Ply window of partition p. -/
def inStack (s : State) (p a : Nat) : Prop := (∃ y, target s a = .stack y) ∧ plyLinkOf s p a = none

/-- Update u of state s is u' in r, for the same descriptor, and no other update changes. -/
def updTo (u u' : Upd) (s r : State) : Prop :=
  u'.d = u.d ∧ r.upds = s.upds.map (fun x => if x.blk = u.blk ∧ x.part = u.part ∧ uTag x = uTag u then u' else x)

/-- Update u of state s has left its Blocker in r. -/
def updGone (u : Upd) (s r : State) : Prop :=
  r.upds = s.upds.filter (fun x => !(x.blk == u.blk && x.part == u.part && uTag x == uTag u))

/-- Command c asks in state s for the abort of update `tag` of partition p on Blocker b: the ABORT descriptor of tile `who`, which
is gone in s', or requester `who`'s write of BLK_ABORT (R262). -/
def abortAsked (c : Instr) (b p tag who : Nat) (s s' : State) : Prop :=
  (∃ i x, c = .abort i ∧ descAt s i = some x ∧ gKind x = 5 ∧ x.blk = b ∧ x.tile = who ∧ partOfTile s who = some p ∧
    x.addr % 32 = 0 ∧ tag = bitsOf x.data 16 16 ∧ x.data = 5 + 2 ^ 16 * tag ∧ s' = { s with descs := s.descs.eraseIdx i }) ∨
  (∃ rq v, c = .blkAbortGo rq b v ∧ b < 12 ∧ bitsOf v.toNat 15 1 = 1 ∧ writable s rq BLK_ABORT_GO b 0 ∧
    p = bitsOf v.toNat 0 4 ∧ tag = bitsOf v.toNat 16 16 ∧ who = reqNode rq ∧ s' = s)

/-- The moments of block j of update u, as its gradients step them. -/
def momentsNext (u : Upd) (j : Nat) (s : State) : List (Nat × Nat) := (readMoments u j none s).2.1

/-- State s with the stepped moments of block j of update u written in stack memory (R254). -/
def momentsPut (u : Upd) (j : Nat) (s : State) : State :=
  wrLE (vAddr u.d (256 * j)) 1024 (packN 32 ((momentsNext u j s).map (·.2)))
    (wrLE (mAddr u.d (256 * j)) 1024 (packN 32 ((momentsNext u j s).map (·.1))) s)

/-- State s with the moments, remainders and masters of block j of update u written in stack memory (R254, Table 11.3). -/
def mastersPut (u : Upd) (j : Nat) (s : State) : State :=
  let q := stepPar u
  let n := 256 * masterSize u.d
  let m := momentsNext u j s
  let out := (List.range 256).map (fun i => masterStep q (m.getD i (0, 0)).1 (m.getD i (0, 0)).2
    (masterElem q.bf (rdLE s (wAddr u.d (256 * j)) n) i) (masterElem q.bf (rdLE s (cAddr u.d (256 * j)) n) i))
  wrLE (wAddr u.d (256 * j)) n (masterBytes q.bf (out.map (·.1)))
    (wrLE (cAddr u.d (256 * j)) n (masterBytes q.bf (out.map (·.2))) (momentsPut u j s))

/-! ### Error records -/

/-- A unit raised a record: it holds it to be filed, or, its slot being full, the record is counted as lost (R405). -/
def raised (u : UnitId) (e : ErrRec) (s r : State) : Prop :=
  if u ≠ .hubfw ∧ s.held.any (fun h => decide (h.unit = u)) = true then
    u ∈ r.lossy ∧ rd r ERR_LOST_LOST 0 0 = min (rd s ERR_LOST_LOST 0 0 + 1) (2 ^ 32 - 1)
  else ⟨u, e, s.lossy.contains u⟩ ∈ r.held

/-- A needle of tile t was trapped: its record is raised, it is in TRAP and its status bit is set, its place and every
register of the needles are as before (R41, R60, R129). -/
def trapped (t nc code object source : Nat) (s r : State) : Prop :=
  raised (.tile t) (tileRec s t code true object source) s r ∧ rd r NDL_STATE t nc = nsTrap ∧
  rd r TILE_STATUS_TRAP t nc = 1 ∧ r.pcs = s.pcs ∧ r.sreg = s.sreg ∧ r.areg = s.areg ∧ r.vreg = s.vreg ∧ r.preg = s.preg ∧
  r.mem = s.mem

/-! ### Packets -/

/-- Packet p has been taken where it arrived, and the bytes that it enables stand at its address; every other byte of memory is as
before (R135, R151). -/
def dataLanded (p : Pkt) (s r : State) : Prop :=
  (∀ x ∈ r.net, x.pid ≠ p.pid) ∧ ∀ x, rdByte r x =
    if p.addr ≤ x ∧ x < p.addr + p.len * 16 ∧ p.en / 2 ^ (x - p.addr) % 2 = 1 then BitVec.ofNat 8 (p.data / 256 ^ (x - p.addr))
    else rdByte s x

/-- Read request p has been taken and answered with one response of data v, for its own tag and owner; memory is as before
(R135, R144). -/
def repliedWith (p : Pkt) (v : Nat) (s r : State) : Prop :=
  r.mem = s.mem ∧ ∃ q, r.net = s.net.filter (fun x => decide (x.pid ≠ p.pid)) ++ [q] ∧
    q.typ = .rdrsp ∧ q.addr = bitsOf p.data 0 48 ∧ q.data = v ∧ q.tag = p.tag ∧ q.owner = p.owner

/-- Tag g of unit u is free again, and no other of its tags has changed (R144). -/
def tagFreed (u g : Nat) (s r : State) : Prop :=
  (mapGet 0 r.tags u).testBit g = false ∧ ∀ i, i ≠ g → (mapGet 0 r.tags u).testBit i = (mapGet 0 s.tags u).testBit i

/-- The replay timer of link k, whose held flits are f and fs, ran out: they are sent again and counted, and the sixteenth time that
the first is still unacknowledged the link trains anew (R311, R313). -/
def flitsReplayed (k : Nat) (f : LFlit) (fs : List LFlit) (s r : State) : Prop :=
  let last := mapGet (0, 0) s.ply.replayRun k
  let n : Nat := if last.1 = f.seq then last.2 + 1 else 1
  rd r PLY_REPLAY_REPLAY k 0 = min (rd s PLY_REPLAY_REPLAY k 0 + 1) (2 ^ 32 - 1) ∧
  rd64 r PLY_TXFLIT_LO_TX PLY_TXFLIT_HI_TX k 0 = (rd64 s PLY_TXFLIT_LO_TX PLY_TXFLIT_HI_TX k 0 + (1 + fs.length)) % 2 ^ 64 ∧
  rd r PLY_STATUS_STATE k 0 = (if n < 16 then rd s PLY_STATUS_STATE k 0 else 4) ∧
  (n < 16 → mapGet (0, 0) r.ply.replayRun k = (f.seq, n)) ∧ r.ply.replay = s.ply.replay ∧
  fieldsBut [PLY_REPLAY_REPLAY, PLY_SATSTICKY_SREPLAY, PLY_TXFLIT_LO_TX, PLY_TXFLIT_HI_TX, PLY_STATUS_STATE,
    PLY_PEER_VALID] s r ∧ bytesKept s r ∧ r.ply.sent.length = s.ply.sent.length + (1 + fs.length) ∧
  r = { s with
    regs := r.regs, ply.replayRun := r.ply.replayRun, ply.sent := r.ply.sent, ply.lfreed := r.ply.lfreed,
    ply.landedFor := r.ply.landedFor }

/-! ### The host's side -/

/-- Vector v of function f is masked or unmasked, and sent where unmasking met it pending; nothing else changes (R343). -/
def maskedVec (f v : Nat) (masked : Bool) (s r : State) : Prop :=
  let k := f * 2048 + v
  mapGet false r.vecMask k = !masked ∧
  (if masked = false ∧ mapGet false s.vecPend k = true then
    mapGet false r.vecPend k = false ∧ mapGet 0 r.vecSent k = mapGet 0 s.vecSent k + 1
   else r.vecPend = s.vecPend ∧ r.vecSent = s.vecSent) ∧
  r = { s with vecMask := r.vecMask, vecPend := r.vecPend, vecSent := r.vecSent }

/-- An access of function f to address x raised ADDR_WINDOW with the function as source, and reached no memory (R23). -/
def hostDenied (f x : Nat) (s r : State) : Prop :=
  (f = 0 → raised .endpoint (plainRec 0x0101 false (awObj x) (awSrc 0xE00 x)) s r) ∧
  (∀ p, f = p + 1 → raised .endpoint (partRec s p 0x0101 false (awObj x) (awSrc (0xE01 + p) x)) s r) ∧ r.mem = s.mem ∧ r.net = s.net

/-- A write of function f to n bytes at address a became write packets of its partition: one where it lies in one line, of whole
16-byte units with the bytes enabled (R340). -/
def hostWrote (f a n v en : Nat) (s r : State) : Prop :=
  (∃ ps : List Pkt, r.net = s.net ++ ps ∧ (∀ q ∈ ps, q.typ = .wr ∧ q.src = nodeHdie ∧ q.who = 32 + f ∧ q.part = fnPart f) ∧
    (n ≤ 256 - a % 256 → ps.map (fun q => (q.addr, q.data, q.en)) =
      [(a - a % 16, v % 2 ^ (8 * n) * 2 ^ (8 * (a % 16)), en % 2 ^ n * 2 ^ (a % 16))])) ∧
  fieldsBut [CRS_TALLY_SENT_SENT] s r ∧ bytesKept s r ∧ r = { s with regs := r.regs, net := r.net, nextPid := r.nextPid }

/-- A read of function f of n bytes at address a returned what the place holds, with no byte reported (R340). -/
def hostGot (f a n : Nat) (s r : State) : Prop :=
  r.hst.barData = (unitRead 1 nodeHdie (fnPart f) none a n s).1 ∧ (∀ y, target s a = .stack y → r.hst.barData = rdLE s a n) ∧
  r.regs = s.regs ∧ ((∀ t x, target s a ≠ .store t x) → r.mem = s.mem)

/-- The VF of partition p is as after its FLR: its mailbox, vectors and moderation cleared, nothing of it waiting, and its
partition held in PARTITION reset (R354). -/
def vfFresh (p : Nat) (s r : State) : Prop :=
  rd r PCI_STATUS_FLR 0 0 = 1 ∧ rd r PCI_FN_STATUS_MBUSY 0 (p + 1) = 0 ∧ rd r PCI_FN_MBX_LO_BASE 0 (p + 1) = 0 ∧
  rd r PCI_FN_MBX_HI_BASE 0 (p + 1) = 0 ∧ mapGet 0 r.roPend p = 0 ∧ (∀ x ∈ r.hst.doorbell, x ≠ p + 1) ∧
  (∀ x ∈ r.hst.barWait, x.1 ≠ p + 1) ∧
  (∀ v, v < 2048 → mapGet false r.vecMask ((p + 1) * 2048 + v) = false ∧ mapGet false r.vecPend ((p + 1) * 2048 + v) = false) ∧
  (mapGet false s.parts p = true → rd r CRS_STATUS_STATE p 0 = 0 ∧ 16 + p ∈ r.bt.swParts)

/-- Every function is as after a PF FLR: the VFs disabled, every partition held in PARTITION reset, every engine stopped (R354). -/
def hostFresh (s r : State) : Prop :=
  rd r PCI_STATUS_FLR 0 0 = 1 ∧ r.hst.numVFs = 0 ∧ r.roPend = [] ∧ (∀ x ∈ r.hst.doorbell, 16 < x) ∧
  (∀ p, p < 16 → mapGet false s.parts p = true → rd r CRS_STATUS_STATE p 0 = 0 ∧ rd r RST_PHOLD_HOLD 0 0 / 2 ^ p % 2 = 1) ∧
  (∀ e, e < 32 → rd r PCI_DMA_STATUS_STATE 0 e = 0 ∧ rd r PCI_DMA_CTL_EN 0 e = 0 ∧ rd r PCI_DMA_IDX_TAIL 0 e = 0 ∧
    rd r PCI_DMA_IDX_CHEAD 0 e = 0)

/-! ### The mailbox -/

/-- Hub firmware, or the recovery firmware, can perform function f's request now: it is the oldest (R351). -/
def served (s : State) (f : Nat) : Prop :=
  fnLive s f = true ∧ hubServes s = true ∧ s.hst.doorbell.head? = some f

/-- The state with the oldest request taken. -/
def tookBell (s : State) : State := { s with hst.doorbell := s.hst.doorbell.drop 1 }

/-- A request of function f that left state q was answered with STATUS `st` and its SEQ: the response stands in host memory at
offset 64 of the function's mailbox buffer, MBUSY reads 0, and nothing else of q changes but
the signal of vector 0 and the requests that the endpoint has made of the host (R351). -/
def answered (s : State) (f seq st : Nat) (q r : State) : Prop :=
  rd r PCI_FN_STATUS_MBUSY 0 f = 0 ∧
  (∀ i, i < 4 → rdHost r (mbxBase s f + 64 + i) = BitVec.ofNat 8 ((st + 2 ^ 16 * (seq % 2 ^ 16)) / 256 ^ i)) ∧
  regsBut [fkey PCI_FN_STATUS_MBUSY 0 f] q r ∧
  r = { q with
    regs := r.regs, hostMem := r.hostMem, vecPend := r.vecPend, vecSent := r.vecSent, hst.sent := r.hst.sent }

/-- A request is refused with a STATUS and changes nothing else. -/
def denies (c : Instr) (f seq st : Nat) (s : State) : Prop :=
  ∃ r, exec c s = .next r ∧ answered s f seq st (tookBell s) r

/-- A request is performed with STATUS OK, and leaves what P says. -/
def grants (c : Instr) (f seq : Nat) (s : State) (P : State → Prop) : Prop :=
  ∃ q r, exec c s = .next r ∧ answered s f seq stOk q r ∧ P q

/-- Partition p is made in q of what was asked: held in PARTITION reset, its hank lines FRESH, its course number 0 (R30, R229). -/
def partMade (p mask planes first count prof budget : Nat) (s q : State) : Prop :=
  mapGet false q.parts p = true ∧ (∀ x, x ≠ p → mapGet false q.parts x = mapGet false s.parts x) ∧
  mapGet 0 q.profile p = prof ∧ rd q CRS_PLANES_MASK p 0 = planes ∧ rd q SKN_RANGE_FIRST 0 p = first ∧
  rd q SKN_RANGE_COUNT 0 p = count ∧ rd q PWR_BUDGET_BUDGET 0 p = budget ∧ courseOf q p = 0 ∧
  rd q CRS_STATUS_STATE p 0 = 0 ∧ rd q RST_PHOLD_HOLD 0 0 / 2 ^ p % 2 = 1 ∧
  (∀ x ∈ maskClusters mask, partOfCluster q x = some p ∧ ∀ line, line < 8192 → mapGet false q.fresh (x * 8192 + line) = false) ∧
  (∀ x, x ∉ maskClusters mask → partOfCluster q x = partOfCluster s x) ∧ q.mem = s.mem

/-- Entry n of link k is bound in q to a window of partition p, with the link's grants, and nothing else of the state with the
request taken has changed (R315, R317). -/
def plyBound (k n p lbase llen pbase ppart mask : Nat) (s q : State) : Prop :=
  rd q PLY_WINLOC_LBASE k n = lbase ∧ rd q PLY_WINLOC_LLEN k n = llen ∧ rd q PLY_WINLOC_PART k n = p ∧
  rd q PLY_WINPEER_PBASE k n = pbase ∧ rd q PLY_WINPEER_PPART k n = ppart ∧ rd q PLY_WINPEER_VALID k n = 1 ∧
  rd q PLY_INGRANT_MASK k 0 = mask ∧ bytesKept s q ∧ q = { tookBell s with regs := q.regs } ∧
  regsBut [fkey PLY_WINLOC_LBASE k n, fkey PLY_WINLOC_LLEN k n, fkey PLY_WINLOC_PART k n, fkey PLY_WINPEER_PBASE k n,
    fkey PLY_WINPEER_PPART k n, fkey PLY_WINPEER_VALID k n, fkey PLY_INGRANT_MASK k 0] s q

/-- A span entry stands in q as it was given: its number, the word of PLY_SPAN_CFG and DMASK; nothing has arrived (R324). -/
def spanWritten (x : Nat × W32 × Nat) (q : State) : Prop :=
  rd q PLY_SPAN_CFG_ID 0 x.1 = bitsOf x.2.1.toNat 0 12 ∧ spanPart q x.1 = bitsOf x.2.1.toNat 12 4 ∧
  rd q PLY_SPAN_CFG_VALID 0 x.1 = bitsOf x.2.1.toNat 31 1 ∧ spanDmask q x.1 = x.2.2 ∧ mapGet 0 q.ply.spanGot x.1 = 0

/-! ### Messages and reset sources -/

/-- Message number i of those received is m, of kind `kind`, on link k, and the first of its link and virtual channel; group
logic is in service and not DETACHED (R322, R333). -/
def nextMsg (s : State) (i kind k : Nat) (m : BitVec 128) : Prop :=
  s.ply.msgs[i]? = some (k, m) ∧ mKind m = kind ∧ (s.ply.msgs.take i).any (fun x => x.1 == k && mVc x.2 == mVc m) = false ∧
  rdB s PLY_GCTL_EN 0 0 = true ∧ twinState s ≠ 4

/-- The state once message i, which came on link k, has left the buffer: on a twin link it is a sign of the partner (R330). -/
def tookMsg (s : State) (i k : Nat) : State :=
  { s with ply.msgs := s.ply.msgs.eraseIdx i, ply.twin.heard := isTwin s k || s.ply.twin.heard }

/-- A source of reset is asserted: it reads 1, the reach is the widest of those in force and its own, an exit sequence under way
is abandoned, and the debug nonce is void (R375). -/
def sourced (i reach : Nat) (s r : State) : Prop :=
  sourceOn r i = true ∧ r.bt.latched = max reach (max s.bt.latched s.bt.exiting) ∧ r.bt.exiting = 0 ∧ r.bt.nonce = none

/-- The twin logic has left its pair for state `st` with a record, and no longer mirrors (Table 14.10). -/
def twinLeft (st code : Nat) (s r : State) : Prop :=
  let a := rd s PLY_TWIN_CTL_LINKA 0 0
  twinState r = st ∧ r.mirroring = false ∧ raised .group (plainRec code false a (peerId s a)) s r

/-- No partition waits for its next course's charge, or has had one accepted (R361). -/
def chargesIdle (s : State) : Prop := ∀ p, p < 16 → mapGet 0 s.pw.tension p = 0

/-- Every partition out of reset has been given one more notice of grace (R367). -/
def noticed (s r : State) : Prop :=
  ∀ p, p < 16 → mapGet false s.parts p = true → inReset s p = false →
    rd r CRS_GRACE_GRACE p 0 = min 0xFFFFFF (rd s CRS_GRACE_GRACE p 0 + graceUs s) ∧ rd r CRS_STATUS_GRACE p 0 = 1

/-- An emergency event of every K-die begins: its throttle reason stretches them, it is recorded unless a charge had to be checked
again first, and grace is noticed where no event was in force (R365, R367, Table 16.6). -/
def eventBegun (ev : Nat) (s r : State) : Prop :=
  r.pw.emerg = s.pw.emerg ++ [(ev, 0)] ∧ (∀ d, d < 4 → mapGet false r.pw.stretch (d * 8 + eventReason ev) = true) ∧
  (chargesIdle s → raised .governor (plainRec 0x0A03 false (powerObj 2 0) ev) s r) ∧ (s.pw.emerg = [] → noticed s r) ∧ r.mem = s.mem

/-- Held record h has been filed as the next number: queued for the hub or lost to it, counted for the SMBus, put at PROD of the rings
that are enabled, with the counts of vector 1 and the HALTED event it carries; bit 0 of `bad` says that the write to the PF's
ring failed (R406 to R410, Tables 18.3 and 18.5). -/
def filed (h : Held) (bad : Nat) (s r : State) : Prop :=
  let ws := recWords h (rd s ERR_FILED_LO_FILED 0 0)
  rd64 r ERR_FILED_LO_FILED ERR_FILED_HI_FILED 0 0 = (rd64 s ERR_FILED_LO_FILED ERR_FILED_HI_FILED 0 0 + 1) % 2 ^ 64 ∧
  (if s.errQueue.length < 256 then r.errQueue = s.errQueue ++ [ws] else r.errQueue = s.errQueue ∧ rd r ERR_STATUS_QOVF 0 0 = 1) ∧
  rd r ERR_SMB_COUNT 0 0 = min 0xFFFF (rd s ERR_SMB_COUNT 0 0 + 1) ∧ rd r ERR_SMB_CODE 0 0 = h.err.code % 2 ^ 16 ∧
  (∀ f ∈ recFuncs h.err, rdB s ERR_RCFG_EN 0 f = true → rd r ERR_RPROD_PROD 0 f = (rd s ERR_RPROD_PROD 0 f + 1) % 2 ^ 32) ∧
  (h.err.part = none → rdB s ERR_RCFG_EN 0 0 = true → bad % 2 = 0 →
    ∀ j, j < 16 → rdHost r (errBase s 0 + rd s ERR_RPROD_PROD 0 0 % 2 ^ errLog2 s 0 * 16 + j) =
      BitVec.ofNat 8 (packN 32 (ws.map BitVec.toNat) / 256 ^ j)) ∧
  (rdB s ERR_RCFG_EN 0 0 = true → bad % 2 = 1 → rd r ERR_STATUS_RDROP 0 0 = 1) ∧
  (h.err.trap = true ∨ h.err.fatal = true → ∀ f ∈ recFuncs h.err, mapGet 0 r.vecCnt f = 0) ∧
  (∀ p, h.err.halt = some p → p < 16 → rd r ERR_PHALT_HALT 0 0 / 2 ^ p % 2 = 1 ∧ r.hubIrq = true)

/-- What sending over the Ply links may change: their queues, blocks, counts and flits sent, with what those return, and nothing of
memory. -/
def sentOnly (s r : State) : Prop :=
  fieldsBut [PLY_TXFLIT_LO_TX, PLY_TXFLIT_HI_TX] s r ∧ bytesKept s r ∧
  r = { s with
    regs := r.regs, mirrorQ := r.mirrorQ, ply.lqueue := r.ply.lqueue, ply.replay := r.ply.replay, ply.lseq := r.ply.lseq,
    ply.lcred := r.ply.lcred, ply.sent := r.ply.sent, ply.lfreed := r.ply.lfreed, ply.landedFor := r.ply.landedFor }

end Sys2Proof.Machine
end

