-- ==== Sys2Proof/Certificates/Slice0/Obligations.lean ====
section
/-! DEFINITION. The statements about this model. Their helper predicates stand in Safety.lean. -/

section
open Sys2Proof Sys2Proof.Machine

/-- A step takes the command at the front of the queue and is `exec` of it with the queue's rest; on an empty queue the
block idles. The queue and the idling are the model's own (log entry 1). -/
def Obligations.StepRunsFront : Prop :=
  (∀ (c : Instr) (rest : List Instr) (s : State), s.pending = c :: rest → step s = exec c { s with pending := rest }) ∧
  (∀ s : State, s.pending = [] → step s = .next s)

/-- Every step keeps both memories in canonical form: addresses strictly rising, and no listed byte equal to what an
unlisted address reads as.
Where the spec leaves it open, the model's choice stands: log entry 5. -/
def Obligations.StepKeepsMemoryCanonical : Prop := ∀ s r : State, memOk s → step s = .next r → memOk r

/-- SALU, SALUI, MOVLO, MOVHI and SFLG of a needle that may issue them write s[RD], a write of s0 discarded, and the flags
that Table 3.6 gives; SFLG moves the needle's flags into s[RD] and clears them. Nothing else changes. -/
def Obligations.ScalarInstructions : Prop :=
  ∀ (t : Nat) (n : Needle) (w : W64) (s : State), issuable s t n w →
    (isOp w 0x04 (fun f => decide (f < 15)) = true → ∃ r, exec (.salu t n w) s = .next r ∧
      getS r t (needleCode n) (wRD w) = (if wRD w = 0 then 0 else
        (intFn (wFN w) (getS s t (needleCode n) (wRA w)) (getS s t (needleCode n) (wRB w))).1) ∧
      flagsGain t (needleCode n) (intFn (wFN w) (getS s t (needleCode n) (wRA w)) (getS s t (needleCode n) (wRB w))).2 s r ∧
      scalarFrame t (needleCode n) (wRD w) s r) ∧
    (isOp w 0x05 (fun f => decide (f < 15)) = true → ∃ r, exec (.salui t n w) s = .next r ∧
      getS r t (needleCode n) (wRD w) = (if wRD w = 0 then 0 else
        (intFn (wFN w) (getS s t (needleCode n) (wRA w)) (BitVec.ofNat 32 (wIMM w))).1) ∧
      flagsGain t (needleCode n) (intFn (wFN w) (getS s t (needleCode n) (wRA w)) (BitVec.ofNat 32 (wIMM w))).2 s r ∧
      scalarFrame t (needleCode n) (wRD w) s r) ∧
    (isOp w 0x06 (· == 2) = true → ∃ r, exec (.movlo t n w) s = .next r ∧
      getS r t (needleCode n) (wRD w) = (if wRD w = 0 then 0 else
        BitVec.ofNat 32 (getA s t (needleCode n) (wRA w))) ∧
      flagsGain t (needleCode n) 0 s r ∧ scalarFrame t (needleCode n) (wRD w) s r) ∧
    (isOp w 0x06 (· == 3) = true → ∃ r, exec (.movhi t n w) s = .next r ∧
      getS r t (needleCode n) (wRD w) = (if wRD w = 0 then 0 else
        BitVec.ofNat 32 (getA s t (needleCode n) (wRA w) / 2 ^ 32 % 2 ^ 16)) ∧
      flagsGain t (needleCode n) 0 s r ∧ scalarFrame t (needleCode n) (wRD w) s r) ∧
    (isOp w 0x04 (· == 15) = true → ∃ r, exec (.sflg t n w) s = .next r ∧
      getS r t (needleCode n) (wRD w) = (if wRD w = 0 then 0 else BitVec.ofNat 32 (rd s NDL_FLAGS t (needleCode n))) ∧
      rd r NDL_FLAGS t (needleCode n) = 0 ∧ scalarFrame t (needleCode n) (wRD w) s r)

/-- AALU ADD, MOVSA and AALUI of a needle that may issue them write a[RD] modulo 2^48 (Table 3.3). Nothing else changes. -/
def Obligations.AddressInstructions : Prop :=
  ∀ (t : Nat) (n : Needle) (w : W64) (s : State), issuable s t n w →
    (isOp w 0x06 (· == 0) = true → ∃ r, exec (.aaluAdd t n w) s = .next r ∧
      (getA r t (needleCode n) (wRD w) : Int) =
        ((getA s t (needleCode n) (wRA w) : Int) + (getS s t (needleCode n) (wRB w)).toInt) % 2 ^ 48 ∧
      addressFrame t (needleCode n) (wRD w) s r) ∧
    (isOp w 0x06 (· == 1) = true → ∃ r, exec (.movsa t n w) s = .next r ∧
      getA r t (needleCode n) (wRD w) = (getS s t (needleCode n) (wRA w)).toNat ∧
      addressFrame t (needleCode n) (wRD w) s r) ∧
    (isOp w 0x07 (· == 0) = true → ∃ r, exec (.aalui t n w) s = .next r ∧
      (getA r t (needleCode n) (wRD w) : Int) =
        ((getA s t (needleCode n) (wRA w) : Int) + (BitVec.ofNat 32 (wIMM w)).toInt) % 2 ^ 48 ∧
      addressFrame t (needleCode n) (wRD w) s r)

/-- BR and JR set the needle's place, END moves it to DONE once nothing of it is in flight, a JR whose target is above 4,095
and every word whose opcode or function is unassigned trap with ILLEGAL_OP (Table 3.3, R62, R63, R72).
Where the spec leaves it open, the model's choice stands: log entry 10. -/
def Obligations.ControlInstructions : Prop :=
  ∀ (t : Nat) (n : Needle) (w : W64) (s : State),
    (issuable s t n w →
      (isOp w 0x02 (fun f => decide (f < 9)) = true → ∃ r, exec (.br t n w) s = .next r ∧
        getPC r t (needleCode n) =
          (if brTaken s t (needleCode n) w then wTARGET w else (getPC s t (needleCode n) + 1) % 4096) ∧
        pcFrame t (needleCode n) s r) ∧
      (isOp w 0x03 (· == 0) = true →
        ((getS s t (needleCode n) (wRA w)).toNat < 4096 → ∃ r, exec (.jr t n w) s = .next r ∧
          getPC r t (needleCode n) = (getS s t (needleCode n) (wRA w)).toNat ∧ pcFrame t (needleCode n) s r) ∧
        (4096 ≤ (getS s t (needleCode n) (wRA w)).toNat → ∃ r, exec (.jr t n w) s = .next r ∧
          trapped t (needleCode n) 0x0208 (tileObj t (getPC s t (needleCode n))) (tileSrc t (needleCode n)) s r)) ∧
      (isOp w 0x01 (· == 0) = true → s.flights.any (fun f => f.tile == t && f.needle == needleCode n) = false →
        ∃ r, exec (.endOp t n w) s = .next r ∧ rd r NDL_STATE t (needleCode n) = nsDone ∧
          pcNext t (needleCode n) s r ∧ regsBut [fkey NDL_STATE t (needleCode n)] s r ∧ bytesKept s r ∧
          r = { s with regs := r.regs, pcs := r.pcs, young := r.young })) ∧
    (canFetch s t (needleCode n) = true → pageValid s t (needleCode n) = true → wordAt s t (needleCode n) = w →
      assigned w = false → ∃ r, exec (.ill t n w) s = .next r ∧
        trapped t (needleCode n) 0x0208 (tileObj t (getPC s t (needleCode n))) (tileSrc t (needleCode n)) s r)

/-- LD and LDV read the tile's own store through the engine port: LD extends the bytes as its function says and LDV loads
64 lanes, gathered bytes flushed first; a load that leaves the tile's store writes zero (R53, R66, Table 3.3).
ST and STV write the tile's own store through the engine port: the bytes of the access hold the value, and every other
byte of memory is as before. The range meets no unread ring span and no strand descriptor, and nothing of the tile is
gathered; the other cases are the strand commands' and the gather buffer's (R53, R66, R184, R191).
Where the spec leaves it open, the model's choice stands: log entry 11. -/
def Obligations.LoadAndStoreInstructions : Prop :=
  (∀ (t : Nat) (n : Needle) (w : W64) (rq : Nat) (s : State), issuable s t n w → wins s t n unitEngine rq →
     (isOp w 0x08 (fun f => decide (f < 5)) = true → ∃ r, exec (.ld t n w rq) s = .next r ∧
       getS r t (needleCode n) (wRD w) = (if wRD w = 0 then 0 else
         match ownOff t (alignTo (effAddr s t (needleCode n) w) (ldSize (wFN w)).1) (ldSize (wFN w)).1 with
         | some off => extendLd (wFN w) (storeLE s t off (ldSize (wFN w)).1)
         | none => 0) ∧
       sregsBut t (needleCode n) (wRD w) s r ∧ pcNext t (needleCode n) s r ∧ r.mem = s.mem) ∧
     (isOp w 0x0A (· == 0) = true → ∃ r, exec (.ldv t n w rq) s = .next r ∧
       (∀ i, i < 64 → getLane r t (needleCode n) (wRD w) i =
         match ownOff t (alignTo (effAddr s t (needleCode n) w) 256) 256 with
         | some off => BitVec.ofNat 32 (bitsOf (storeLE (flushRange t off 256 s) t off 256) (32 * i) 32)
         | none => 0) ∧
       vregsBut t (needleCode n) (wRD w) s r ∧ pcNext t (needleCode n) s r)) ∧
  (∀ (t : Nat) (n : Needle) (w : W64) (rq off : Nat) (s : State), issuable s t n w → wins s t n unitEngine rq →
     s.gather.any (fun g => g.tile == t) = false →
     (isOp w 0x09 (fun f => decide (f < 3)) = true →
       ownOff t (alignTo (effAddr s t (needleCode n) w) (2 ^ wFN w)) (2 ^ wFN w) = some off →
       overrunAt s t off (2 ^ wFN w) = none → meets off (2 ^ wFN w) (tableOff s t) 1024 = false →
       ∃ r, exec (.st t n w rq) s = .next r ∧
         (∀ i, i < 2 ^ wFN w → rdByte r (storeBase t + off + i) =
           BitVec.ofNat 8 ((getS s t (needleCode n) (wRD w)).toNat / 256 ^ i)) ∧
         bytesBut (storeBase t + off) (2 ^ wFN w) s r ∧ pcNext t (needleCode n) s r ∧
         r = { s with mem := r.mem, pcs := r.pcs, arb := r.arb, young := r.young }) ∧
     (isOp w 0x0B (· == 0) = true →
       ownOff t (alignTo (effAddr s t (needleCode n) w) 256) 256 = some off →
       overrunAt s t off 256 = none → meets off 256 (tableOff s t) 1024 = false →
       ∃ r, exec (.stv t n w rq) s = .next r ∧
         (∀ i, i < 64 → bitsOf (rdLE r (storeBase t + off) 256) (32 * i) 32 = (getLane s t (needleCode n) (wRD w) i).toNat) ∧
         bytesBut (storeBase t + off) 256 s r ∧ pcNext t (needleCode n) s r ∧
         r = { s with mem := r.mem, pcs := r.pcs, arb := r.arb, young := r.young }))

/-- The purl fabric, of a needle that may issue and is granted. FADD, FSUB, FMUL, FMA, FMIN, FMAX, FNEG, FABS, VINT and VBC
write their result in every lane of the guard's mask, every other lane is kept, and the flags of those lanes are gained; the
compares write the mask's bits of p[RD], a write of p0 discarded (R64, R76 to R79, Tables 3.6 to 3.8).
CVT between FP32 and a narrow format, and between the two forms of Z4, writes the lanes of the mask; its flags are those of
every source element (R112 to R115, R123, Table 5.7).
PRUN of a loaded slot writes the lanes that the run leaves, gains its flags and keeps what the guard shuts out; a disabled
fabric and an empty slot trap (R59, R80, R273; what a program leaves that the spec does not give is free: log entries 4 and
104). -/
def Obligations.PurlInstructions : Prop :=
  ∀ (t : Nat) (n : Needle) (w : W64) (rq : Nat) (s : State), issuable s t n w → wins s t n unitPurl rq →
    let nc := needleCode n
    let a : Nat → Nat := fun i => laneCode s t nc (wRA w) i
    let b : Nat → Nat := fun i => laneCode s t nc (wRB w) i
    let x : Nat → FVal := fun i => val32 (a i)
    let y : Nat → FVal := fun i => val32 (b i)
    let z : Nat → FVal := fun i => val32 (laneCode s t nc (wRC w) i)
    let k : Nat → Nat × Nat := fun i =>
      let v := intFn (wFN w) (getLane s t nc (wRA w) i) (getLane s t nc (wRB w) i)
      (v.1.toNat, v.2)
    let rm := rndOfRM (wRM w)
    let op : Nat → Nat → Prop := fun o f => isOp w o (· == f) = true
    let lane : (Nat → Nat × Nat) → State → Prop := fun f r => laneDone t nc w f s r
    let bits : (Nat → Bool × Nat) → State → Prop := fun f r => compareDone t nc w f s r
    let va := getVec s t nc (wRA w)
    let o := runOut s t nc w
    (op 0x0C 0 → ∃ r, exec (.fadd t n w rq) s = .next r ∧ lane (fun i => fadd32 rm (x i) (y i)) r) ∧
    (op 0x0C 1 → ∃ r, exec (.fsub t n w rq) s = .next r ∧ lane (fun i => fsub32 rm (x i) (y i)) r) ∧
    (op 0x0C 2 → ∃ r, exec (.fmul t n w rq) s = .next r ∧ lane (fun i => fmul32 rm (x i) (y i)) r) ∧
    (op 0x0C 3 → ∃ r, exec (.fma t n w rq) s = .next r ∧ lane (fun i => fma32 rm (x i) (y i) (z i)) r) ∧
    (op 0x0C 4 → ∃ r, exec (.fmin t n w rq) s = .next r ∧ lane (fun i => fminmax32 false (a i) (b i)) r) ∧
    (op 0x0C 5 → ∃ r, exec (.fmax t n w rq) s = .next r ∧ lane (fun i => fminmax32 true (a i) (b i)) r) ∧
    (op 0x0C 9 → ∃ r, exec (.fneg t n w rq) s = .next r ∧ lane (fun i => (negCode (a i), 0)) r) ∧
    (op 0x0C 10 → ∃ r, exec (.fabs t n w rq) s = .next r ∧ lane (fun i => (absCode (a i), 0)) r) ∧
    (op 0x0C 6 → ∃ r, exec (.fcmpeq t n w rq) s = .next r ∧ bits (fun i => fcmpEq (x i) (y i)) r) ∧
    (op 0x0C 7 → ∃ r, exec (.fcmplt t n w rq) s = .next r ∧ bits (fun i => fcmpLt (x i) (y i)) r) ∧
    (op 0x0C 8 → ∃ r, exec (.fcmple t n w rq) s = .next r ∧ bits (fun i => fcmpLe (x i) (y i)) r) ∧
    (isOp w 0x0D (fun f => decide (f < 15)) = true → ∃ r, exec (.vint t n w rq) s = .next r ∧ lane k r) ∧
    (op 0x0D 15 → ∃ r, exec (.vbc t n w rq) s = .next r ∧ lane (fun _ => ((getS s t nc (wRA w)).toNat, 0)) r) ∧
    (op 0x0E 0 →
      (isRepack w = false → wSRCF w ≠ 0 → ∃ r, exec (.cvt t n w rq) s = .next r ∧
        lanesHold t nc w (fun i => (widenElem (wSRCF w) (wRC w) va i).1) s r ∧
        flagsGain t nc (laneFlags allLanes (fun i => (widenElem (wSRCF w) (wRC w) va i).2)) s r ∧ vectorFrame t nc (wRD w) s r) ∧
      (isRepack w = false → wSRCF w = 0 → ∃ r, exec (.cvt t n w rq) s = .next r ∧
        lanesHold t nc w (fun i => bitsOf (narrowValue s t nc w (getVec s t nc (wRD w))) (32 * i) 32) s r ∧
        flagsGain t nc (gaugeRepAdd (narrowHalf s t nc w 0).2 (narrowHalf s t nc w 1).2).flags s r ∧
        vregsBut t nc (wRD w) s r ∧ pcNext t nc s r ∧ bytesKept s r) ∧
      (isRepack w = true → wRM w = 0 → ∃ r, exec (.z4Unpack t n w rq) s = .next r ∧
        lanesHold t nc w (fun i => bitsOf (z4Unpack va) (32 * i) 32) s r ∧ vectorFrame t nc (wRD w) s r) ∧
      (isRepack w = true → wRM w = 1 → ∃ r, exec (.z4Pack t n w rq) s = .next r ∧
        lanesHold t nc w (fun i => bitsOf (z4Pack va) (32 * i) 32) s r ∧ vectorFrame t nc (wRD w) s r)) ∧
    (op 0x0F 0 →
      (rdB s PRL_CTRL_EN t 0 = true → rdB s PRL_STATUS_SLOTVALID t (wSLOT w) = true → ∃ r, exec (.prun t n w rq) s = .next r ∧
        lanesHold t nc w (fun i => o.lanes.getD i 0) s r ∧ flagsGain t nc o.flags s r ∧ vregsBut t nc (wRD w) s r ∧
        pregsBut t nc (wPD w) s r ∧ pcNext t nc s r ∧ bytesKept s r) ∧
      (rdB s PRL_CTRL_EN t 0 = false → ∃ r, exec (.prun t n w rq) s = .next r ∧
        trapped t nc 0x0207 (tileObj t (getPC s t nc)) (tileSrc t nc) s r))

/-- AMM and SLV put their results in flight: the values and flags of the array's or the slip path's sums stand in the
accumulator bank for the next instruction, the latches of a START with them, and become readable later; ARRAY_RESULT_READY
makes the oldest result of the tile's array, or of its slip path, readable with its flags, and of the entries that an older
one still in flight writes too the newer value stands (R69, R76, R81, R86, R91 to R94, R101, R102; log entries 100 and
101).
ASHP changes the array's form and empties both weight buffers, once no weight load and no AMM is under way, and waits
until then with RESHAPE 1; an ADR writes the scaled entries of its rows into the store, adds them to what stands there, or
writes them converted, and no other byte (R93, R96, R97, R125, Table 4.3).
Where the spec leaves it open, the model's choice stands: log entries 10, 64, 101, 102. -/
def Obligations.ArrayInstructions : Prop :=
  ((∀ (t : Nat) (n : Needle) (w : W64) (rq off : Nat) (s : State), issuable s t n w →
     let base := getA s t (needleCode n) (wAN w)
     s.gather.any (fun g => g.tile == t) = false →
     (isOp w 0x11 (· == 0) = true → wins s t n unitArray rq →
       let shallow := rdB s ARY_STATUS_FORM t 0
       let vs := actSize (wFMT2 w) (innerDim shallow (wFMT1 w))
       wN w ≠ 0 → wACC w + (if shallow then 4 * wN w else wN w) ≤ 256 → rd s ARY_STATUS_BST t (wBUF w) = 2 →
       rd s ARY_STATUS_BFMT t (wBUF w) = wFMT1 w → pairs (wFMT1 w) (wFMT2 w) = true → base % min vs 128 = 0 →
       ownOff t base (wN w * vs) = some off →
       ∃ r, exec (.amm t n w rq) s = .next r ∧ summed t n false (ammCompute s t w shallow off) s r ∧
         fieldsBut [ARY_OPS_LO_OPS, ARY_OPS_HI_OPS] s r) ∧
     (isOp w 0x14 (· == 0) = true → wins s t n unitSlip rq → wN w ≠ 0 → wACC w * 64 + wN w ≤ 16384 →
       pairs (wFMT1 w) (wFMT2 w) = true → base % 256 = 0 → ownOff t base (wN w * slvRowBytes (wFMT1 w)) = some off →
       ∃ r, exec (.slv t n w rq) s = .next r ∧ summed t n true (slvCompute s t (needleCode n) w off) s r ∧
         fieldsBut [SLP_READS_LO_READS, SLP_READS_HI_READS] s r)) ∧
   (∀ (a : ArrayOut) (f : Flight) (older newer : List Flight) (s : State), s.flights = older ++ f :: newer → f.tile = a.t →
     f.slv = a.slv → older.any (fun g => g.tile == a.t && g.slv == a.slv) = false →
     ∃ r, exec (.arrayResultReady a) s = .next r ∧ r.flights = older.map (lateFlight a.t f.vals) ++ newer ∧
       flagsGain a.t f.needle f.flags s r ∧ r.accR = f.vals.foldl (fun m p => mapSet 0 m p.1 p.2) s.accR ∧
       regsBut [fkey NDL_FLAGS a.t f.needle] s r ∧ r = { s with regs := r.regs, flights := r.flights, accR := r.accR })) ∧
  (∀ (t : Nat) (n : Needle) (w : W64) (rq off : Nat) (s : State), issuable s t n w → wins s t n unitArray rq →
     let nc := needleCode n
     let base := getA s t nc (wAN w)
     let busy := s.wloads.any (fun x => x.tile == t) || s.flights.any (fun f => f.tile == t && !f.slv)
     (isOp w 0x13 (· == 0) = true →
       (busy = false → rd s ARY_STATUS_FORM t 0 ≠ wMODE w → ∃ r, exec (.ashp t n w rq) s = .next r ∧
         rd r ARY_STATUS_FORM t 0 = wMODE w ∧ rd r ARY_STATUS_BST t 0 = 0 ∧ rd r ARY_STATUS_BST t 1 = 0 ∧ pcNext t nc s r ∧
         bytesKept s r ∧ r = { s with regs := r.regs, pcs := r.pcs, arb := r.arb, young := r.young, ashps := r.ashps }) ∧
       (busy = true → ∃ r, exec (.ashp t n w rq) s = .next r ∧ rd r ARY_STATUS_RESHAPE t 0 = 1 ∧
         regsBut [fkey ARY_STATUS_RESHAPE t 0] s r ∧ r = { s with regs := r.regs, ashps := r.ashps })) ∧
     (adrHeld s t nc w = false → wN w ≠ 0 → wACC w + wN w ≤ 256 → base % rowImage w = 0 →
       ownOff t base (wN w * rowImage w) = some off → overrunAt s t off (wN w * rowImage w) = none →
       meets off (wN w * rowImage w) (tableOff s t) 1024 = false → s.gather.any (fun g => g.tile == t) = false →
       let row : State → Nat → Nat := fun r i => rdLE r (storeBase t + off + rowImage w * i) (rowImage w)
       let kept : State → Prop := fun r => bytesBut (storeBase t + off) (wN w * rowImage w) s r ∧ pcNext t nc s r
       (isOp w 0x12 (· == 0) = true → ∃ r, exec (.adrStore t n w rq) s = .next r ∧ kept r ∧
         (∀ i e, i < wN w → e < 64 → bitsOf (row r i) (32 * e) 32 = (scaled s t (wACC w + i) e).1 % 2 ^ 32)) ∧
       (isOp w 0x12 (· == 1) = true → ∃ r, exec (.adrAdd t n w rq) s = .next r ∧ kept r ∧
         (∀ i e, i < wN w → e < 64 → bitsOf (row r i) (32 * e) 32 =
           (fadd32 .nearest (val32 (scaled s t (wACC w + i) e).1) (val32 (bitsOf (row s i) (32 * e) 32))).1 % 2 ^ 32)) ∧
       (isOp w 0x12 (· == 2) = true → ∃ r, exec (.adrConvert t n w rq) s = .next r ∧ kept r ∧
         (∀ i, i < wN w → row r i = convRow s t w i % 2 ^ (8 * rowImage w)))))

/-- SIG sends an addition to the stitch network, and both WAITs act at the stitch's bank: a wait that is met lets the needle
go on, one that is not records it as a waiter and leaves it in WAIT, and a wait on a stitch that is not mapped traps
(R169 to R173, Table 2.2, Table 7.4).
An addition reaching its bank goes to the takers first, in their order, and what they do not take raises COUNT,
which saturates; then every observer whose threshold COUNT reaches is released. An addition to a stitch that is not mapped is
discarded with STITCH_UNMAPPED (R169, R170, R173). Additions of one unit to one stitch are applied in their order (log entry
12).
Where the spec leaves it open, the model's choice stands: log entry 12. -/
def Obligations.StitchInstructionsAndBanks : Prop :=
  (∀ (t : Nat) (n : Needle) (w : W64) (p : Nat) (s : State), issuable s t n w → partOfTile s t = some p →
     let nc := needleCode n
     let lid := wSTITCH w
     (isOp w 0x18 (fun f => decide (f < 2)) = true → stitchHeld s t p lid false = false →
       ∃ r, exec (.sig t n w) s = .next r ∧
         r.stops = s.stops ++ [⟨p, lid, if wFN w = 0 then wCOUNT w else (getS s t nc (wBRA w)).toNat, t, nc, 0, t⟩] ∧
         pcNext t nc s r ∧ bytesKept s r ∧ r = { s with pcs := r.pcs, stops := r.stops, young := r.young }) ∧
     (isOp w 0x19 (· == 0) = true → stitchHeld s t p lid true = false → ∀ ph, xlat s p lid = some ph →
       ∃ r, exec (.waitObserve t n w) s = .next r ∧ rd r STC_CTL_SEENOBS (ph / 4096) (ph % 4096) = 1 ∧
         (if wCOUNT w ≤ stCount s ph then r.waiters = s.waiters ∧ rd r NDL_STATE t nc = nsRun
          else r.waiters = s.waiters ++ [⟨.observe (wCOUNT w), ph, p, lid, t, nc, wTCLASS w⟩] ∧ rd r NDL_STATE t nc = nsWait) ∧
         pcNext t nc s r ∧ fieldsBut [STC_CTL_SEENOBS, NDL_STATE] s r ∧ bytesKept s r ∧
         r = { s with regs := r.regs, pcs := r.pcs, waiters := r.waiters, young := r.young }) ∧
     (isOp w 0x19 (· == 1) = true → stitchHeld s t p lid true = false → ∀ ph, xlat s p lid = some ph →
       ∃ r, exec (.waitTake t n w) s = .next r ∧ rd r STC_CTL_SEENTAKE (ph / 4096) (ph % 4096) = 1 ∧
         (if 1 ≤ stCount s ph then
           stCount r ph = (stCount s ph - 1) % 2 ^ 32 ∧ r.waiters = s.waiters ∧ rd r NDL_STATE t nc = nsRun
          else stCount r ph = 0 ∧ r.waiters = s.waiters ++ [⟨.take, ph, p, lid, t, nc, wTCLASS w⟩] ∧
           rd r NDL_STATE t nc = nsWait) ∧
         pcNext t nc s r ∧ fieldsBut [STC_CTL_SEENTAKE, STC_CNT_COUNT, NDL_STATE] s r ∧ bytesKept s r ∧
         r = { s with regs := r.regs, pcs := r.pcs, waiters := r.waiters, young := r.young }) ∧
     (isOp w 0x19 (· == 0) = true → stitchHeld s t p lid true = false → xlat s p lid = none →
       ∃ r, exec (.waitObserve t n w) s = .next r ∧ raised (.xlat p) (unmappedRec s p lid t nc true) s r ∧
         rd r NDL_STATE t nc = nsTrap ∧ r.waiters = s.waiters ∧ r.pcs = s.pcs) ∧
     (isOp w 0x19 (· == 1) = true → stitchHeld s t p lid true = false → xlat s p lid = none →
       ∃ r, exec (.waitTake t n w) s = .next r ∧ raised (.xlat p) (unmappedRec s p lid t nc true) s r ∧
         rd r NDL_STATE t nc = nsTrap ∧ r.waiters = s.waiters ∧ r.pcs = s.pcs)) ∧
  ((∀ (i : Nat) (o : StOp) (s : State), s.stops[i]? = some o → opHeld s o (s.stops.take i) = false → o.grp = 0 →
     (∀ ph, xlat s o.part o.lid = some ph →
       let takers := s.waiters.filter (fun w => atStitch ph w && decide (w.kind = .take))
       ∃ r, exec (.stitchAddition i) s = .next r ∧ r.stops = s.stops.eraseIdx i ∧
         stCount r ph = min (stCount s ph + (o.add - (takers.take o.add).length)) (2 ^ 32 - 1) ∧
         (∀ w ∈ takers.take o.add, (w.tile, w.who) ∈ r.released ∧ w ∉ r.waiters) ∧
         (∀ w ∈ s.waiters, ∀ th, atStitch ph w = true → w.kind = .observe th →
           if th ≤ stCount r ph then (w.tile, w.who) ∈ r.released ∧ w ∉ r.waiters else w ∈ r.waiters) ∧
         (∀ w ∈ s.waiters, atStitch ph w = false → w ∈ r.waiters) ∧
         fieldsBut [STC_CNT_COUNT, STC_STATUS_SAT] s r ∧ bytesKept s r ∧
         r = { s with regs := r.regs, stops := r.stops, waiters := r.waiters, released := r.released }) ∧
     (xlat s o.part o.lid = none → ∃ r, exec (.stitchAddition i) s = .next r ∧ r.stops = s.stops.eraseIdx i ∧
       raised (.xlat o.part) (unmappedRec s o.part o.lid o.src o.who false) s r ∧ r.waiters = s.waiters)))

/-- XFER, SEND, JQ and BKICK hand their transfer to the tile's outbound unit and go on: a push injects the pieces of the
source as WR packets, each read through its store's ports (nothing of the tile is gathered), a pull injects read requests, a message takes its credits and its place in the ring, a contribution
injects JOIN packets, and a descriptor leaves with its bytes. A length or alignment out of range traps (R144, R166, R188,
R189, R194, R248, R423). The unit takes one transfer at a time, in the order in which they reached it.
Where the spec leaves it open, the model's choice stands: log entries 13, 14, 96, 99. -/
def Obligations.TransferInstructions : Prop :=
  ∀ (t : Nat) (n : Needle) (w : W64) (s : State), issuable s t n w → outboundTakes s t (needleCode n) →
    s.gather.any (fun g => g.tile == t) = false →
    let nc := needleCode n
    let k := (getS s t nc (wBRA w)).toNat
    let a := getA s t nc (wAN w)
    let d := getA s t nc (wAD w)
    (isOp w 0x1B (fun f => decide (f < 2)) = true →
      (k % 16 = 0 → 16 ≤ k → k ≤ 65536 → a % 16 = 0 → d % 16 = 0 → transferRefused s t a d k = none →
        ((ownOff t a 1).isSome = true → ∃ r, exec (.xfer t n w) s = .next r ∧
          (∃ ps : List Pkt, r.net = s.net ++ ps ∧
            ps.map (fun p => (p.typ, p.src, p.addr, p.data)) =
              (pieces (k + 1) a d k).map (fun x => (PType.wr, t, x.2.1, srcLE s x.1 x.2.2))) ∧
          pcNext t nc s r ∧ fieldsBut [CRS_TALLY_SENT_SENT, MESH_PKTOUT_LO_PKTOUT, MESH_PKTOUT_HI_PKTOUT] s r ∧ bytesKept s r ∧
          r = { s with
            regs := r.regs, pcs := r.pcs, net := r.net, nextPid := r.nextPid, young := r.young, outWait := r.outWait }) ∧
        (ownOff t a 1 = none → s.outb.any (fun o => o.tile == t) = false → ∃ r, exec (.xfer t n w) s = .next r ∧
          (∃ ps : List Pkt, r.net = s.net ++ ps ∧ (∀ p ∈ ps, p.typ = .rdreq ∧ p.src = t) ∧
            ((freeTag s t).isSome = true → ps.head?.map (fun p => p.addr) = some a)) ∧
          pcNext t nc s r ∧ fieldsBut [CRS_TALLY_SENT_SENT, MESH_PKTOUT_LO_PKTOUT, MESH_PKTOUT_HI_PKTOUT] s r ∧ bytesKept s r)) ∧
      ((k % 16 ≠ 0 ∨ k < 16 ∨ 65536 < k ∨ a % 16 ≠ 0 ∨ d % 16 ≠ 0) → ∃ r, exec (.xfer t n w) s = .next r ∧
        trapped t nc 0x0208 (tileObj t (getPC s t nc)) (tileSrc t nc) s r)) ∧
    (isOp w 0x1C (· == 0) = true →
      (∀ off, k % 16 = 0 → 16 ≤ k → k ≤ 16384 → ownOff t a k = some off →
        let e := getTx s t (wTGT w)
        e.st = 2 → 2 * (k + 16) ≤ e.rsize * 256 → recordNeed s t e (k + 16) ≤ e.credits →
        ∃ r, exec (.send t n w) s = .next r ∧
          getTx r t (wTGT w) = { e with
            credits := e.credits - recordNeed s t e (k + 16)
            tail := ((if recordFits s t e (k + 16) then e.tail else 0) + (k + 16) / 16) % (e.rsize * 16)
            mseq := (e.mseq + 1) % 2 ^ 32 } ∧
          (∃ ps : List Pkt, r.net = s.net ++ ps ∧ ps ≠ [] ∧ ∀ p ∈ ps, p.typ = .strand ∧ p.src = t) ∧
          bytesBut (storeBase t + (tableOff s t + wTGT w * 16 + 4)) 12 s r ∧ pcNext t nc s r) ∧
      ((k % 16 ≠ 0 ∨ k < 16 ∨ 16384 < k) → ∃ r, exec (.send t n w) s = .next r ∧
        trapped t nc 0x0208 (tileObj t (getPC s t nc)) (tileSrc t nc) s r)) ∧
    (isOp w 0x1D (· == 0) = true →
      (k % 256 = 0 → 256 ≤ k → k ≤ 4096 → (ownOff t a k).isSome = true →
        s.outb.any (fun o => o.tile == t) = false →
        ∃ r, exec (.jq t n w) s = .next r ∧
          (∃ ps : List Pkt, r.net = s.net ++ ps ∧ (∀ p ∈ ps, p.typ = .join ∧ p.src = t) ∧
            (mapGet 0 s.joinCred t + 17 ≤ 34 → ps ≠ []) ∧
            (r.outb = s.outb → ps.map (fun p => p.addr) =
              (List.range (k / 256)).map (fun i => clusterBase (t / 24) + wTGT w * 0x1000 + 256 * i))) ∧
          pcNext t nc s r ∧ bytesKept s r) ∧
      ((k % 256 ≠ 0 ∨ k < 256 ∨ 4096 < k) → ∃ r, exec (.jq t n w) s = .next r ∧
        trapped t nc 0x0208 (tileObj t (getPC s t nc)) (tileSrc t nc) s r)) ∧
    (isOp w 0x1E (· == 0) = true → ∀ o0 off, ownOff t a 16 = some o0 →
      ownOff t a (descSize (storeLE s t o0 1 % 16)) = some off →
      ∃ r, exec (.bkick t n w) s = .next r ∧
        r.descs = s.descs ++ [⟨t, nc, getPC s t nc, wTGT w, a, storeLE s t off (descSize (storeLE s t o0 1 % 16))⟩] ∧
        pcNext t nc s r ∧ bytesKept s r ∧ 
        r = { s with pcs := r.pcs, descs := r.descs, young := r.young, outWait := r.outWait })

/-- A stalled SEND whose timer expires traps with STRAND_STALL about its endpoint (R189).
Where the spec leaves it open, the model's choice stands: log entry 14. -/
def Obligations.SendStallTimeoutTraps : Prop :=
  ∀ (t : Nat) (n : Needle) (s : State), s.stalls.any (fun x => x.1 == t && x.2.1 == needleCode n) = true →
    let ep := wTGT (wordAt s t (needleCode n))
    ∃ r, exec (.sendStallTimeout t n) s = .next r ∧
      trapped t (needleCode n) 0x0211 (strandObj t ep false) (tileSrc (txPeer s t ep) (needleCode n)) s r ∧
      r.stalls = s.stalls.filter (fun x => !(x.1 == t && x.2.1 == needleCode n))

/-- A landing window is opened, closed or released by an LW instruction or by a write of TST_LW_CMD: opening clears its
count, closing needs it OPEN and releasing needs it CLOSED; a command that does not apply sets LWCMDIGN and changes nothing
else (R55, Table 2.10). -/
def Obligations.LandingWindowCommands : Prop :=
  ∀ (t win : Nat) (s : State), win < 16 →
    let asInstr : Nat → (Instr) → (State → Prop) → Prop := fun fn c post => ∀ (n : Needle) (w : W64),
      c = (if fn = 0 then .lwOpen t win (.insn n w) else if fn = 1 then .lwClose t win (.insn n w) else .lwRelease t win (.insn n w)) →
      issuable s t n w → isOp w 0x1A (· == fn) = true → wSTITCH w % 16 = win →
      ∃ r, exec c s = .next r ∧ post r ∧ pcNext t (needleCode n) s r ∧ bytesKept s r ∧
        r = { s with regs := r.regs, pcs := r.pcs, young := r.young }
    let asWrite : Nat → (Instr) → (State → Prop) → Prop := fun fn c post => ∀ rq : Requester,
      c = (if fn = 0 then .lwOpen t win (.bus rq) else if fn = 1 then .lwClose t win (.bus rq) else .lwRelease t win (.bus rq)) →
      writable s rq TST_LW_CMD_OP t 0 → ∃ r, exec c s = .next r ∧ post r ∧ bytesKept s r ∧ r = { s with regs := r.regs }
    let both : Nat → (State → Prop) → Prop := fun fn post => ∀ c, asInstr fn c post ∧ asWrite fn c post
    let moved : Nat → State → Prop := fun v r => rd r TST_LW_CTRL_STATE t win = v ∧ regsBut [fkey TST_LW_CTRL_STATE t win] s r
    let ignored : State → Prop := fun r => rd r TST_STATUS_LWCMDIGN t 0 = 1 ∧ regsBut [fkey TST_STATUS_LWCMDIGN t 0] s r
    (winState s t win ≠ 1 → winLen s t win ≠ 0 →
      (∀ v, v < 16 → v ≠ win → winState s t v ≠ 0 →
        meets (winBase s t win) (winLen s t win) (winBase s t v) (winLen s t v) = false) →
      both 0 (fun r => rd r TST_LW_CTRL_STATE t win = 1 ∧ rd r TST_LW_COUNT_COUNT t win = 0 ∧
        regsBut [fkey TST_LW_CTRL_STATE t win, fkey TST_LW_COUNT_COUNT t win] s r)) ∧
    (winState s t win = 1 ∨ winLen s t win = 0 → both 0 ignored) ∧
    (winState s t win = 1 → both 1 (moved 2)) ∧ (winState s t win ≠ 1 → both 1 ignored) ∧
    (winState s t win = 2 → both 2 (moved 0)) ∧ (winState s t win ≠ 2 → both 2 ignored)

/-- A write of TILE_LTAG is compared with the tile's latency set: the tile leaves interlocked operation where they agree, and
else enters it with LTAG_MISMATCH (R73).
A page of the instruction buffer is filled on IFILL or on a write of TILE_IFILL with GO: the fill is under way until it
completes, which makes the page valid with the 512 words of the source page; an IFILL waits for a fill in progress, and a page
with the PC of a needle in RUN or WAIT is refused without effect but its record (R42, R45, R46, Tables 2.8 and 2.15).
Where the spec leaves it open, the model's choice stands: log entries 15, 98. -/
def Obligations.LatencyTagsAndPageFills : Prop :=
  (∀ (rq : Requester) (t : Nat) (v : W32) (s : State), t < 2304 → writable s rq TILE_LTAG_LTAG t 0 → needlesActive s t = false →
     ∃ r, exec (.tileLtagWrite rq t v) s = .next r ∧ rd r TILE_LTAG_LTAG t 0 = bitsOf v.toNat 0 4 ∧
       (if bitsOf v.toNat 0 4 = latencySet s t then
         rd r TILE_STATUS_INTERLOCK t 0 = 0 ∧ regsBut [fkey TILE_LTAG_LTAG t 0, fkey TILE_STATUS_INTERLOCK t 0] s r ∧
           r = { s with regs := r.regs }
        else rd r TILE_STATUS_INTERLOCK t 0 = 1 ∧
         raised (.tile t) (tileRec s t 0x020A false (tileObj t 0) (tileSrc t 7)) s r) ∧ bytesKept s r) ∧
  ((∀ (t : Nat) (n : Needle) (w : W64) (rq : Nat) (s : State), issuable s t n w → isOp w 0x1F (· == 0) = true →
     let kept : State → Prop := fun r => pcNext t (needleCode n) s r ∧ bytesKept s r ∧ r.ibuf = s.ibuf ∧ r.ipage = s.ipage
     (fillBusy s t = true → exec (.ifill t n w rq) s = .next s) ∧
     (fillBusy s t = false → wins s t n unitEngine rq → fillRefused s t (wf w 8 3) = false →
       ∃ r, exec (.ifill t n w rq) s = .next r ∧ r.fills = s.fills ++ [⟨t, wf w 0 7, wf w 8 3⟩] ∧
         rd r TILE_IFILL_SRCPAGE t 0 = wf w 0 7 ∧ rd r TILE_IFILL_DPAGE t 0 = wf w 8 3 ∧ rd r TILE_IFILL_BUSY t 0 = 1 ∧ kept r ∧
         regsBut [fkey TILE_IFILL_SRCPAGE t 0, fkey TILE_IFILL_DPAGE t 0, fkey TILE_IFILL_BUSY t 0] s r ∧
         r = { s with regs := r.regs, pcs := r.pcs, arb := r.arb, fills := r.fills, young := r.young }) ∧
     (fillBusy s t = false → wins s t n unitEngine rq → fillRefused s t (wf w 8 3) = true →
       ∃ r, exec (.ifill t n w rq) s = .next r ∧ r.fills = s.fills ∧ rd r TILE_STATUS_IBUSY t 0 = 1 ∧ kept r ∧
         rd r TILE_IFILL_SRCPAGE t 0 = rd s TILE_IFILL_SRCPAGE t 0 ∧ rd r TILE_IFILL_DPAGE t 0 = rd s TILE_IFILL_DPAGE t 0 ∧
         raised (.tile t) (tileRec s t 0x0202 false (tileObj t (wf w 8 3)) (tileSrc t (needleCode n))) s r)) ∧
   (∀ (rq : Requester) (t : Nat) (v : W32) (s : State), t < 2304 → bitsOf v.toNat 31 1 = 1 → writable s rq TILE_IFILL_GO t 0 →
     fillBusy s t = false → fillRefused s t (bitsOf v.toNat 8 3) = false →
     ∃ r, exec (.ifillGo rq t v) s = .next r ∧ r.fills = s.fills ++ [⟨t, bitsOf v.toNat 0 7, bitsOf v.toNat 8 3⟩] ∧
       rd r TILE_IFILL_BUSY t 0 = 1 ∧ bytesKept s r ∧
       regsBut [fkey TILE_IFILL_SRCPAGE t 0, fkey TILE_IFILL_DPAGE t 0, fkey TILE_IFILL_BUSY t 0] s r ∧
       r = { s with regs := r.regs, fills := r.fills }) ∧
   (∀ (t : Nat) (f : Fill) (s : State), s.fills.find? (fun f => f.tile == t) = some f → s.gather.any (fun g => g.tile == t) = false →
     ∃ r, exec (.ifillComplete t) s = .next r ∧ r.fills = s.fills.erase f ∧
       (∀ i, i < 512 → mapGet 0 r.ibuf (t * 4096 + f.page * 512 + i) = BitVec.ofNat 64 (storeLE s t (f.src * 4096 + 8 * i) 8)) ∧
       (∀ k, (k < t * 4096 + f.page * 512 ∨ t * 4096 + f.page * 512 + 512 ≤ k) → mapGet 0 r.ibuf k = mapGet 0 s.ibuf k) ∧
       mapGet false r.ipage (t * 8 + f.page) = true ∧ rd r TILE_IFILL_BUSY t 0 = 0 ∧
       regsBut [fkey TILE_IFILL_BUSY t 0] s r ∧ bytesKept s r ∧
       r = { s with regs := r.regs, ibuf := r.ibuf, ipage := r.ipage, fills := r.fills }))

/-- Turning gather mode off and the gather buffer's timeout both flush the buffer: every byte of the store then reads as a
read through the buffer found it before, no other byte of memory changes, and the buffer is empty (R52, R53). The entries of
a tile's buffer are distinct store entries.
A purl load copies 1 KiB of the store into a configuration slot or a page of table memory: it is under way from the write
of PRL_LOAD until it completes, which makes a slot valid (R59, Table 2.12).
A weight load (AWL in its three modes) is accepted into the tile's weight-load path: the buffer is LOADING with the
format and mode of the load, and the needle goes on; WEIGHT_LOAD_COMPLETE ends the load at the head of the path: the buffer
holds the image, copied, widened or re-quantised, and is READY unless another load is under way into it (R67, R71, R90, R98,
R99, Table 4.3).
Where the spec leaves it open, the model's choice stands: log entry 4. -/
def Obligations.GatherBufferAndPurlLoads : Prop :=
  (∀ (t : Nat) (s : State), t < 2304 → ((s.gather.filter (fun g => g.tile == t)).map (fun g => g.entry)).Nodup →
     (∀ g ∈ s.gather, g.tile = t → g.entry < 0x8000) →
     let flushed : State → Prop := fun r =>
       (∀ off, off < 0x80000 → (rdByte r (storeBase t + off)).toNat = storeByte s t off) ∧ bytesBut (storeBase t) 0x80000 s r ∧
       r.gather = s.gather.filter (fun g => !(g.tile == t))
     (∃ r, exec (.gatherFlushTimeout t) s = .next r ∧ flushed r ∧ r = { s with mem := r.mem, gather := r.gather }) ∧
     (∀ (rq : Requester) (v : W32), bitsOf v.toNat 0 1 = 0 → writable s rq TST_CTRL_GATHER t 0 →
       ∃ r, exec (.gatherOff rq t v) s = .next r ∧ flushed r ∧ rd r TST_CTRL_GATHER t 0 = 0 ∧
         regsBut [fkey TST_CTRL_GATHER t 0] s r ∧ r = { s with regs := r.regs, mem := r.mem, gather := r.gather })) ∧
  ((∀ (rq : Requester) (t : Nat) (v : W32) (s : State), t < 2304 → bitsOf v.toNat 31 1 = 1 → writable s rq PRL_LOAD_GO t 0 →
     rdB s PRL_CTRL_EN t 0 = false → rdB s PRL_STATUS_LBUSY t 0 = false →
     ∃ r, exec (.prlLoadGo rq t v) s = .next r ∧
       r.prlLoads = s.prlLoads ++ [⟨t, bitsOf v.toNat 0 12 * 128, bitsOf v.toNat 12 5⟩] ∧ rd r PRL_STATUS_LBUSY t 0 = 1 ∧
       regsBut [fkey PRL_LOAD_SRC t 0, fkey PRL_LOAD_DST t 0, fkey PRL_STATUS_LBUSY t 0] s r ∧ bytesKept s r ∧
       r = { s with regs := r.regs, prlLoads := r.prlLoads }) ∧
   (∀ (t : Nat) (f : PrlLoad) (s : State), s.prlLoads.find? (fun f => f.tile == t) = some f →
     s.gather.any (fun g => g.tile == t) = false →
     ∃ r, exec (.prlLoadComplete t) s = .next r ∧ r.prlLoads = s.prlLoads.erase f ∧ rd r PRL_STATUS_LBUSY t 0 = 0 ∧
       (f.dst < 16 → rd r PRL_STATUS_SLOTVALID t f.dst = 1) ∧
       (∀ i, i < 1024 → f.src + i < 0x80000 →
         mapGet 0 r.prl (32768 * t + f.dst * 1024 + i) = BitVec.ofNat 8 (storeByte s t (f.src + i))) ∧
       (∀ k, (k < 32768 * t + f.dst * 1024 ∨ 32768 * t + f.dst * 1024 + 1024 ≤ k) → mapGet 0 r.prl k = mapGet 0 s.prl k) ∧
       regsBut [fkey PRL_STATUS_LBUSY t 0, fkey PRL_STATUS_SLOTVALID t f.dst] s r ∧ bytesKept s r ∧
       r = { s with regs := r.regs, prl := r.prl, prlLoads := r.prlLoads, freeIdx := r.freeIdx })) ∧
  ((∀ (t : Nat) (n : Needle) (w : W64) (rq : Nat) (s : State), issuable s t n w → wins s t n unitEngine rq →
     (s.wloads.filter (fun x => x.tile == t)).length < 2 → rdB s ARY_STATUS_RESHAPE t 0 = false → isOp w 0x10 (· == 0) = true →
     let base := getA s t (needleCode n) (wAN w)
     let deep := rdB s ARY_STATUS_FORM t 0 = false
     (wMODE w = 0 → (¬deep → wFMT1 w ≠ 5) → base % 256 = 0 → (ownOff t base (imageSize (wFMT1 w))).isSome = true →
       ∃ r, exec (.awl t n w rq) s = .next r ∧ loadTaken t n w (wFMT1 w) 0 s r) ∧
     (wMODE w = 1 → deep → base % 256 = base % 4 → (ownOff t (base - base % 4) 0x1800).isSome = true →
       ∃ r, exec (.awlExact t n w rq) s = .next r ∧ loadTaken t n w 1 1 s r) ∧
     (wMODE w = 2 → deep → base % 256 = base % 2 → (ownOff t (base - base % 2) 0x3000).isSome = true →
       ∃ r, exec (.awlReblock t n w rq) s = .next r ∧ loadTaken t n w 4 2 s r)) ∧
   (∀ (t : Nat) (x : WLoad) (s : State), s.wloads.find? (fun x => x.tile == t) = some x →
     s.gather.any (fun g => g.tile == t) = false → x.fmt < 16 → x.buf < 2 →
     let get : Nat → Nat → Nat → Nat := fun sel o n => storeLE s t (x.base - sel - storeBase t + o) n
     ∃ r, exec (.weightLoadComplete t) s = .next r ∧ r.wloads = s.wloads.erase x ∧ rd r ARY_STATUS_BFMT t x.buf = x.fmt ∧
       ((s.wloads.erase x).any (fun y => y.tile == t && y.buf == x.buf) = false → rd r ARY_STATUS_BST t x.buf = 2) ∧
       (x.mode = 0 → wbufLE r t x.buf 0 (imageSize x.fmt) = get 0 0 (imageSize x.fmt)) ∧
       (x.mode = 1 → wbufLE r t x.buf 0 0x1000 = (exactImage (get (x.base % 4)) (x.base % 4)).1 % 2 ^ 0x8000) ∧
       (x.mode = 2 → wbufLE r t x.buf 0 0x1800 =
         (reblockImage (get (x.base % 2)) (gaugePolOf s t none) (x.base % 2)).1 % 2 ^ 0xC000) ∧
       r.pcs = s.pcs ∧ r.mem = s.mem))

/-- A write packet at its tile, the next of its source there: outside every landing window, and inside one that is OPEN, its
enabled bytes are written, the window counting them; a packet that meets a CLOSED window is dropped whole and counted late;
either way it has left the network. An engine write of one of its entries in the same cycle sets WWCOL (R51, R54, R56, R149,
R159). The tile is not in gather mode, and the packet neither signals nor completes a round.
A data packet of the endpoint's own sender is written into its ring; the last of a message moves ARRIVED and the unread
span on, counts the message and adds to the endpoint's stitch; a packet that finds no ring is dropped, and the end of a record
counted (R190, R191, R193, Table 8.5).
Where the spec leaves it open, the model's choice stands: log entries 16, 17, 18, 97. -/
def Obligations.ArrivalAtTile : Prop :=
  (∀ (a : Landing) (t : Nat) (p : Pkt) (s : State), arrived s a.pid = some p → p.typ = .wr → p.dst = t → t < 2304 →
     tileTurn s t p = true → storeBase t ≤ p.addr → p.len ≤ 16 → p.addr + p.len * 16 ≤ storeBase t + 0x80000 →
     (p.addr - storeBase t) % 16 = 0 → overrunAt s t (p.addr - storeBase t) (p.len * 16) = none →
     rdB s TST_CTRL_GATHER t 0 = false → s.gather.any (fun g => g.tile == t) = false → sigOps p = [] →
     let off := p.addr - storeBase t
     let n := p.len * 16
     let gone : State → Prop := fun r => ∀ q ∈ r.net, q.pid ≠ a.pid
     let written : State → Prop := fun r => gone r ∧ (a.col = true → rd r TST_STATUS_WWCOL t 0 = 1) ∧ ∀ x, rdByte r x =
       if p.addr ≤ x ∧ x < p.addr + n ∧ p.en / 2 ^ (x - p.addr) % 2 = 1 then BitVec.ofNat 8 (p.data / 256 ^ (x - p.addr))
       else rdByte s x
     let fs := [CRS_TALLY_LANDED_LANDED, PLY_TXFLIT_LO_TX, PLY_TXFLIT_HI_TX] ++ (if a.col then [TST_STATUS_WWCOL] else [])
     (windowHit s t off n = none → ∃ r, exec (.arrival a) s = .next r ∧ written r ∧ fieldsBut fs s r) ∧
     (∀ w, windowHit s t off n = some w → winBase s t w ≤ off → off + n ≤ winBase s t w + winLen s t w →
       (winState s t w = 1 → rdB s TST_LW_CTRL_SIGNAL t w = false → ∃ r, exec (.arrival a) s = .next r ∧ written r ∧
         rd r TST_LW_COUNT_COUNT t w =
           min (rd s TST_LW_COUNT_COUNT t w + (if rdB s TST_LW_CTRL_UNIT t w then 1 else n)) (2 ^ 32 - 1) ∧
         fieldsBut (fs ++ [TST_LW_COUNT_COUNT, TST_SATSTICKY_COUNT]) s r) ∧
       (winState s t w ≠ 1 → ∃ r, exec (.arrival a) s = .next r ∧ r.mem = s.mem ∧
         rd r TST_LW_LATE_LATE t w = min (rd s TST_LW_LATE_LATE t w + 1) (2 ^ 32 - 1) ∧ gone r))) ∧
  (∀ (a : Landing) (t : Nat) (p : Pkt) (s : State), arrived s a.pid = some p → p.typ = .strand → p.dst = t → t < 2304 →
     isCtl p = false → tileTurn s t p = true → rdB s TST_CTRL_GATHER t 0 = false →
     s.gather.any (fun g => g.tile == t) = false → p.len ≤ 16 →
     let off := p.addr - storeBase t
     (ringAt s t off = none → ∃ r, exec (.strandData a) s = .next r ∧ r.mem = s.mem ∧
       rd r STR_DROP_DROP t 0 = (if p.last then min (rd s STR_DROP_DROP t 0 + 1) (2 ^ 32 - 1) else rd s STR_DROP_DROP t 0) ∧
       (∀ q ∈ r.net, q.pid ≠ a.pid) ∧
       fieldsBut [STR_DROP_DROP, STR_SATSTICKY_SDROP, CRS_TALLY_LANDED_LANDED, PLY_TXFLIT_LO_TX, PLY_TXFLIT_HI_TX] s r) ∧
     (∀ m, ringAt s t off = some m →
       let e := getRx s t m
       let pos := off / 16 - e.rbase * 16
       e.st = 3 ∨ e.st = 4 → p.src = e.stile → storeBase t ≤ p.addr → off % 16 = 0 →
       off + p.len * 16 ≤ (e.rbase + e.rsize) * 256 → (e.rbase + e.rsize) * 256 ≤ 0x80000 →
       meetsUnread e off (p.len * 16) = false → windowHit s t off (p.len * 16) = none →
       (p.last = false → sigOps p = [] → ∃ r, exec (.strandData a) s = .next r ∧ getRx r t m = e ∧
         (∀ q ∈ r.net, q.pid ≠ a.pid) ∧ (a.col = true → rd r TST_STATUS_WWCOL t 0 = 1) ∧ ∀ x, rdByte r x =
           if p.addr ≤ x ∧ x < p.addr + p.len * 16 ∧ p.en / 2 ^ (x - p.addr) % 2 = 1 then
             BitVec.ofNat 8 (p.data / 256 ^ (x - p.addr)) else rdByte s x) ∧
       (p.last = true → isSkip e p pos = false → ∃ r, exec (.strandData a) s = .next r ∧
         getRx r t m = { e with
           arrived := (pos + p.len) % ringUnits e
           unread := e.unread + ((pos + p.len) % ringUnits e + ringUnits e - e.arrived) % ringUnits e } ∧
         rd64 r STR_MSGIN_LO_MSGIN STR_MSGIN_HI_MSGIN t 0 =
           (rd64 s STR_MSGIN_LO_MSGIN STR_MSGIN_HI_MSGIN t 0 + 1) % 2 ^ 64 ∧
         (∀ q, partOfTile s t = some q → ∃ o ∈ r.stops, o.part = q ∧ o.lid = e.stitch ∧ o.add = 1))))

/-- A cast phase begins once the tile's needles have stopped: its engine enters CAST, and reads its first word from the cast
pointer, or has nothing to do where casts are off or the pointer is not valid. CEND ends the program, CBAR records the engine
on a sub-plane of its partition, and a sub-barrier on which every tile of the partition has arrived releases them all (R157,
R164, R165, R178).
Where the spec leaves it open, the model's choice stands: log entry 19. -/
def Obligations.CastPhases : Prop :=
  (∀ (t : Nat) (s : State), castReady s t = true →
    let x := storeLE s t (rd s TILE_CAST_PTR t 0 * 16) 16
    (rdB s TILE_CAST_EN t 0 = false ∨ x % 2 = 0 → ∃ r, exec (.castPhaseStart t) s = .next r ∧ rd r TILE_CSTAT_STATE t 0 = 1 ∧
      mapGet false r.castDone t = true ∧ regsBut [fkey TILE_CSTAT_STATE t 0] s r ∧ bytesKept s r ∧
      r = { s with regs := r.regs, castDone := r.castDone }) ∧
    (rdB s TILE_CAST_EN t 0 = true → x % 2 = 1 → bitsOf x 1 3 = 0 → bitsOf x 19 109 = 0 →
      ∃ r, exec (.castPhaseStart t) s = .next r ∧ rd r TILE_CSTAT_STATE t 0 = 1 ∧ rd r TILE_CSTAT_CPC t 0 = bitsOf x 4 15 ∧
        regsBut [fkey TILE_CSTAT_STATE t 0, fkey TILE_CSTAT_CPC t 0] s r ∧ bytesKept s r ∧ r = { s with regs := r.regs })) ∧
  (∀ (t : Nat) (s : State), castCanStep s t = true → castLawful (castWord s t) = true →
    (cwCOP (castWord s t) = 0 → ∃ r, exec (.cend t) s = .next r ∧ mapGet false r.castDone t = true ∧
      (∀ u, u ≠ t → mapGet false r.castDone u = mapGet false s.castDone u) ∧ r = { s with castDone := r.castDone }) ∧
    (∀ p, cwCOP (castWord s t) = 6 → partOfTile s t = some p → rd s CRS_PLANES_MASK p 0 / 2 ^ cwPLANE (castWord s t) % 2 = 1 →
      ∃ r, exec (.cbar t) s = .next r ∧ rd r TILE_CSTAT_CWAIT t 0 = 1 ∧
        r.waiters = s.waiters ++
          [⟨.plane, cwPLANE (castWord s t), p, cwPLANE (castWord s t), t, 3, cwTCLASS (castWord s t)⟩] ∧
        regsBut [fkey TILE_CSTAT_CWAIT t 0] s r ∧ bytesKept s r ∧ r = { s with regs := r.regs, waiters := r.waiters })) ∧
  (∀ (p plane : Nat) (s : State), tilesOf s p ≠ [] →
    (∀ t ∈ tilesOf s p, s.waiters.any (fun w => onPlane p plane w && w.tile == t) = true) →
    ∃ r, exec (.subBarrierComplete p plane) s = .next r ∧ r.waiters = s.waiters.filter (fun w => !(onPlane p plane w)) ∧
      r.released = s.released ++ (s.waiters.filter (onPlane p plane)).map (fun w => (w.tile, w.who)) ∧
      r = { s with waiters := r.waiters, released := r.released })

/-- The words of a cast program that move data and signal: CWR pushes the pieces of its source, CRD and CXR inject read
requests (nothing of the tile is gathered), CSIG sends an addition, and CWAIT goes on or waits at the stitch's bank; the engine goes on to its next word, or is
held by its wait (R144, R164 to R167, R170 to R172, Table 7.3).
Where the spec leaves it open, the model's choice stands: log entries 13, 19. -/
def Obligations.CastTransfers : Prop :=
  ∀ (t p : Nat) (s : State), castCanStep s t = true → castLawful (castWord s t) = true → partOfTile s t = some p →
    s.gather.any (fun g => g.tile == t) = false →
    let x := castWord s t
    let a := cwSADDR x
    let d := cwDADDR x
    let k := cwLEN x * 16
    let onward : State → Prop := fun r => rd r TILE_CSTAT_CPC t 0 = (rd s TILE_CSTAT_CPC t 0 + 1) % 2 ^ 15
    let moved : State → Prop := fun r => onward r ∧ bytesKept s r ∧
      fieldsBut [TILE_CSTAT_CPC, CRS_TALLY_SENT_SENT, MESH_PKTOUT_LO_PKTOUT, MESH_PKTOUT_HI_PKTOUT] s r ∧
      r = { s with regs := r.regs, net := r.net, nextPid := r.nextPid, tags := r.tags, outb := r.outb, joinCred := r.joinCred }
    (cwCOP x = 1 → firstNotOwn t a k = none → firstRefusedPush s p d k = none → ∃ r, exec (.cwr t) s = .next r ∧
      (∃ ps : List Pkt, r.net = s.net ++ ps ∧ ps.map (fun q => (q.typ, q.src, q.addr, q.data)) =
        (pieces (k + 1) a d k).map (fun y => (PType.wr, t, y.2.1, srcLE s y.1 y.2.2))) ∧ moved r) ∧
    (cwCOP x = 2 → firstRefused s p a k false = none → firstRefused s p d k true = none →
      s.outb.any (fun o => o.tile == t) = false → ∃ r, exec (.crd t) s = .next r ∧
      (∃ ps : List Pkt, r.net = s.net ++ ps ∧ (∀ q ∈ ps, q.typ = .rdreq ∧ q.src = t ∧ q.tmode = 0) ∧
        ((freeTag s t).isSome = true → ps.head?.map (fun q => q.addr) = some a)) ∧ moved r) ∧
    (cwCOP x = 3 → xposeRefused s p a (xposeSrc (cwTMODE x)) (cwTMODE x) = none →
      firstRefused s p d (xposeDst (cwTMODE x)) true = none → s.outb.any (fun o => o.tile == t) = false →
      ∃ r, exec (.cxr t) s = .next r ∧
      (∃ ps : List Pkt, r.net = s.net ++ ps ∧ (∀ q ∈ ps, q.typ = .rdreq ∧ q.src = t ∧ q.tmode = cwTMODE x ∧ q.addr = a) ∧
        ((freeTag s t).isSome = true → ps.length = 1)) ∧ moved r) ∧
    (cwCOP x = 4 → stitchHeld s t p (cwSTITCH x) false = false → ∃ r, exec (.csig t) s = .next r ∧
      r.stops = s.stops ++ [⟨p, cwSTITCH x, cwLEN x, t, 3, 0, t⟩] ∧ onward r ∧ regsBut [fkey TILE_CSTAT_CPC t 0] s r ∧
      bytesKept s r ∧ r = { s with regs := r.regs, stops := r.stops }) ∧
    (∀ ph, cwCOP x = 5 → stitchHeld s t p (cwSTITCH x) true = false → xlat s p (cwSTITCH x) = some ph →
      ∃ r, exec (.cwait t) s = .next r ∧ rd r STC_CTL_SEENOBS (ph / 4096) (ph % 4096) = 1 ∧
        (if bitsOf x 40 32 ≤ stCount s ph then onward r ∧ r.waiters = s.waiters
         else rd r TILE_CSTAT_CWAIT t 0 = 1 ∧
          r.waiters = s.waiters ++ [⟨.observe (bitsOf x 40 32), ph, p, cwSTITCH x, t, 3, cwTCLASS x⟩]) ∧
        fieldsBut [STC_CTL_SEENOBS, TILE_CSTAT_CPC, TILE_CSTAT_CWAIT] s r ∧ bytesKept s r ∧
        r = { s with regs := r.regs, waiters := r.waiters })

/-- A tile arrives on its course plane when R158's conditions hold, which starts the barrier timer; the partition enters
CLOSING with its last tile, a tile held in TILE reset counting as arrived, unless its charge halts it, where no module group
is in service. A barrier timer that expires halts
its partition with BARRIER_TIMEOUT (R158, R179, R361, Table 7.1).
Where the spec leaves it open, the model's choice stands: log entries 21, 56. -/
def Obligations.TileArrivals : Prop :=
  (∀ (t p : Nat) (s : State), t < 2304 → partOfTile s t = some p → canArrive s t = true → s.releases.contains t = false →
    rdB s PLY_GCTL_EN 0 0 = false →
    (¬(rd s CRS_STATUS_STATE p 0 = 1 ∧ ∀ u ∈ tilesOf s p, u = t ∨ hasArrived s u = true) →
      ∃ r, exec (.tileArrive t) s = .next r ∧ rd r TILE_CSTAT_STATE t 0 = 2 ∧ mapGet false r.btRun p = true ∧
        regsBut [fkey TILE_CSTAT_STATE t 0] s r ∧ bytesKept s r ∧ r = { s with regs := r.regs, btRun := r.btRun }) ∧
    (rd s CRS_STATUS_STATE p 0 = 1 → (∀ u ∈ tilesOf s p, u = t ∨ hasArrived s u = true) →
      ∃ r, exec (.tileArrive t) s = .next r ∧ rd r TILE_CSTAT_STATE t 0 = 2 ∧ mapGet false r.btRun p = true ∧
        rd r CRS_STATUS_STATE p 0 = (if mapGet 0 s.pw.tension p = 2 ∨ chargeOf s p (courseOf s p + 1) ≤ budgetNext s p ∨
          rdB s PWR_TPOL_STALL 0 p = true then 2 else 3))) ∧
  (∀ (p : Nat) (s : State), p < 16 → mapGet false s.btRun p = true →
    rd s CRS_STATUS_STATE p 0 = 1 ∨ rd s CRS_STATUS_STATE p 0 = 2 →
    let late := ((tilesOf s p).find? (fun t => !(hasArrived s t))).getD 0xFFF
    let e := partRec s p 0x0405 true (rd s CRS_CTRL_PLANE p 0 + 2 ^ 16 * p) (late + 2 ^ 12 * 7 + 2 ^ 16 * waitOn s p)
    ∃ r, exec (.barrierTimerExpire p) s = .next r ∧ rd r CRS_STATUS_STATE p 0 = 3 ∧ rd r CRS_STATUS_BTMO p 0 = 1 ∧
      mapGet false r.btRun p = false ∧ raised (.root p) { e with halt := some p } s r ∧ r.mem = s.mem)

/-- A PARTITION reset that nothing holds any longer ends in course 0, with every tile of the partition in that course; the
partition is RUNNING unless every tile of it stays held in TILE reset (R158, R424, Table 7.1).
At a boundary that R160's conditions allow, and that no mismatch or overdraw holds, the partition's course number grows by
one, its tallies return to zero and it is RUNNING again, unless an error of the new course's stash or batch halts it, with
every one of its tiles to be released; a release sets a tile's
course, returns its engine to COMPUTE and starts the needles that wait for a course (R160 to R163, Table 2.2, Table 7.1).
Where the spec leaves it open, the model's choice stands: log entries 54, 55, 56, 116, 117. -/
def Obligations.PartitionResetEndsAndCourseTurns : Prop :=
  (∀ (p : Nat) (s : State), p < 16 → canRelease s p = true → ∃ r, exec (.partitionResetRelease p) s = .next r ∧
     (tilesOf s p = [] ∨ (∃ t ∈ tilesOf s p, s.bt.swTiles.contains t = false) → rd r CRS_STATUS_STATE p 0 = 1) ∧
     courseOf r p = 0 ∧ ∀ t ∈ tilesOf s p, mapGet 0 r.tcourse t = 0 ∧ rd r TILE_CSTAT_STATE t 0 = 0) ∧
  ((∀ (p : Nat) (m : Measured) (left : BatchLeft) (s : State), p < 16 → mapGet false s.parts p = true → atBarrier s p = true → cond5 s p = true →
     mapGet 0 s.pw.chargeNow p = 0 → driftOf s p = [] → mixedOf s p = [] →
     ∃ r, exec (.courseBoundary p m left) s = .next r ∧ courseOf r p = (courseOf s p + 1) % 2 ^ 64 ∧
       rd r CRS_TALLY_SENT_SENT p 0 = 0 ∧ rd r CRS_TALLY_LANDED_LANDED p 0 = 0 ∧
       (rdNext s SKN_STQ_SIZE_SIZE 0 p = 0 → rdNext s CRS_XPOL_TADDR p 0 = 0 → (∃ t ∈ tilesOf s p, tileHeld s t = false) →
         rd r CRS_STATUS_STATE p 0 = 1) ∧
       ∀ t, t ∈ tilesOf s p → t ∈ r.releases) ∧
   (∀ (t p : Nat) (s : State), partOfTile s t = some p → s.releases.contains t = true → mapGet false s.newKey p = false →
     ∃ r, exec (.tileRelease t) s = .next r ∧ r.releases = s.releases.erase t ∧ mapGet 0 r.tcourse t = courseOf s p ∧
       rd r TILE_CSTAT_STATE t 0 = 0 ∧ rd r TILE_CSTAT_CPC t 0 = 0 ∧ mapGet false r.castDone t = false ∧
       (∀ nc, nc < 3 → rd r NDL_STATE t nc = (if rd s NDL_STATE t nc = nsDone then nsRun
         else if rd s NDL_STATE t nc = nsIdle ∧ rdB s NDL_ENTRY_VALID t nc = true then nsRun else rd s NDL_STATE t nc) ∧
         getPC r t nc = (if rd s NDL_STATE t nc = nsIdle ∧ rdB s NDL_ENTRY_VALID t nc = true then rd s NDL_ENTRY_PC t nc % 4096
           else getPC s t nc)) ∧
       bytesKept s r ∧ r.sreg = s.sreg ∧ r.areg = s.areg ∧ r.vreg = s.vreg ∧ r.preg = s.preg))

/-- A translation entry of a partition in reset takes the stitch that a write of STC_XT_DATA names, if the partition owns it;
ownership of the selected stitch of a bank follows a write of STC_CTL while its owner is in reset, its count taking its base
(R168, R169, Table 7.4, Table 7.7).
Releases reach their needle or cast engine, and a waiter's timer that expires first ends its wait with WAIT_TIMEOUT (R164,
R173, R177, Tables 2.2 and 7.2). -/
def Obligations.StitchOwnership : Prop :=
  ((∀ (rq : Requester) (p : Nat) (v : W32) (s : State), p < 16 → writable s rq STC_XT_DATA_PHYS p 0 →
     let ph := bitsOf v.toNat 0 14
     let i := rd s STC_XT_IDX_IDX p 0
     let own := rdB s STC_CTL_OWNED (ph / 4096) (ph % 4096) && rd s STC_CTL_OWNER (ph / 4096) (ph % 4096) == p
     (inReset s p = true → (bitsOf v.toNat 31 1 = 0 ∨ own = true) → ∃ r, exec (.stcXtDataWrite rq p v) s = .next r ∧
       rd r STC_XT_DATA_PHYS p i = ph ∧ rd r STC_XT_DATA_VALID p i = bitsOf v.toNat 31 1 ∧
       regsBut [fkey STC_XT_DATA_PHYS p i, fkey STC_XT_DATA_VALID p i] s r ∧ bytesKept s r ∧ r = { s with regs := r.regs }) ∧
     (bitsOf v.toNat 31 1 = 1 → own = false → ∃ r, exec (.stcXtDataWrite rq p v) s = .next r ∧
       rd r STC_XT_STATUS_WRIGN p 0 = 1 ∧ regsBut [fkey STC_XT_STATUS_WRIGN p 0, fkey STC_XT_WRIGN_OFS p 0] s r ∧
       bytesKept s r ∧ r = { s with regs := r.regs })) ∧
   (∀ (rq : Requester) (die : Nat) (v : W32) (s : State), die < 4 → writable s rq STC_CTL_OWNED die 0 →
     let i := rd s STC_SEL_INDEX die 0
     rdB s STC_CTL_OWNED die i = false ∨ inReset s (rd s STC_CTL_OWNER die i) = true →
     ∃ r, exec (.stcCtlWrite rq die v) s = .next r ∧ rd r STC_CTL_OWNER die i = bitsOf v.toNat 0 4 ∧
       rd r STC_CTL_OWNED die i = bitsOf v.toNat 4 1 ∧ rdNext r STC_CTL_CHECK die i = bitsOf v.toNat 8 1 ∧
       (rdB s STC_CTL_OWNED die i = (bitsOf v.toNat 4 1 == 1) ∨
         rd r STC_CNT_COUNT die i = rd s STC_BASE_BASE die i % 2 ^ 32) ∧
       (rdB s STC_CTL_OWNED die i = true → bitsOf v.toNat 4 1 = 0 →
         r.waiters = s.waiters.filter (fun w => !(atStitch (die * 4096 + i) w))) ∧
       fieldsBut [STC_CTL_OWNER, STC_CTL_OWNED, STC_CNT_COUNT] s r ∧ bytesKept s r ∧
       r = { s with regs := r.regs, rws := r.rws, waiters := r.waiters })) ∧
  ((∀ (t who : Nat) (s : State), s.released.contains (t, who) = true →
     (who < 3 → needleState s t who = nsWait → s.trapLater.contains (t, who) = false →
       ∃ r, exec (.waiterRelease t who) s = .next r ∧ r.released = s.released.erase (t, who) ∧ rd r NDL_STATE t who = nsRun ∧
         regsBut [fkey NDL_STATE t who] s r ∧ bytesKept s r ∧ r = { s with regs := r.regs, released := r.released }) ∧
     (who = 3 → ∃ r, exec (.waiterRelease t who) s = .next r ∧ r.released = s.released.erase (t, who) ∧
       rd r TILE_CSTAT_CWAIT t 0 = 0 ∧ rd r TILE_CSTAT_CPC t 0 = (rd s TILE_CSTAT_CPC t 0 + 1) % 2 ^ 15 ∧
       regsBut [fkey TILE_CSTAT_CWAIT t 0, fkey TILE_CSTAT_CPC t 0] s r ∧ bytesKept s r ∧
       r = { s with regs := r.regs, released := r.released })) ∧
   (∀ (t who : Nat) (w : Waiter) (s : State), s.waiters.find? (fun w => w.tile == t && w.who == who) = some w → w.kind ≠ .plane →
     let e := partRec s w.part 0x0401 true (w.lid + 2 ^ 16 * w.part) (t + 2 ^ 12 * who)
     (who < 3 → ∃ r, exec (.waitTimerExpire t who) s = .next r ∧ r.waiters = s.waiters.erase w ∧
       raised (.bank (w.key / 4096)) e s r ∧ rd r NDL_STATE t who = nsTrap ∧ r.pcs = s.pcs ∧ r.mem = s.mem) ∧
     (who = 3 → ∃ r, exec (.waitTimerExpire t who) s = .next r ∧ r.waiters = s.waiters.erase w ∧
       rd r TILE_CSTAT_STATE t 0 = 3 ∧ rd r TILE_CSTAT_CWAIT t 0 = 0 ∧ r.mem = s.mem ∧
       (rd s CRS_STATUS_STATE w.part 0 = 1 ∨ rd s CRS_STATUS_STATE w.part 0 = 2 → rd r CRS_STATUS_STATE w.part 0 = 3))))

/-- A needle's write of a strand descriptor acts on its endpoint: OPEN and CLOSE commands move it as Tables 8.3 and 8.4 say,
with their control packet to the peer, and a HEAD write frees the units passed over, which go back as CREDIT (R184, R187,
R192); of a closed RX endpoint ARRIVED keeps its value. The write meets no unread ring span, and nothing of the tile is
gathered.
Where the spec leaves it open, the model's choice stands: log entry 18. -/
def Obligations.StrandCommands : Prop :=
  ∀ (t : Nat) (n : Needle) (ep : Nat) (v : W32) (s : State), t < 2304 → ep < 32 →
    needleState s t (needleCode n) = nsRun → s.gather.any (fun g => g.tile == t) = false →
    let frame : State → Prop := fun r => fieldsBut [STR_TXOPEN_TXOPEN, STR_RXOPEN_RXOPEN, CRS_TALLY_SENT_SENT,
      MESH_PKTOUT_LO_PKTOUT, MESH_PKTOUT_HI_PKTOUT] s r ∧ r.pcs = s.pcs
    let sent : State → Nat → Nat → Prop := fun r d x =>
      ∃ p, r.net = s.net ++ [p] ∧ p.typ = .strand ∧ p.src = t ∧ p.addr = storeBase d ∧ p.data = x
    (overrunAt s t (tableOff s t + ep * 16) 4 = none →
      let e := getTx s t ep
      (bitsOf v.toNat 30 2 = 1 → e.st = 0 → bitsOf v.toNat 0 12 < 2304 → (partOfTile s t).isSome = true →
        partOfTile s (bitsOf v.toNat 0 12) = partOfTile s t →
        ∃ r, exec (.txOpenCmd t n ep v) s = .next r ∧
          getTx r t ep = { txNone with st := 1, dtile := bitsOf v.toNat 0 12, dep := bitsOf v.toNat 12 5 } ∧
          sent r (bitsOf v.toNat 0 12) (ctlFlit 1 ep (bitsOf v.toNat 12 5) 0 0 0) ∧
          (rd r STR_TXOPEN_TXOPEN t 0).testBit ep = true ∧ frame r) ∧
      (bitsOf v.toNat 30 2 = 2 → e.st ≠ 0 → e.st ≠ 4 → ∃ r, exec (.txCloseCmd t n ep v) s = .next r ∧
        getTx r t ep = { e with st := 4 } ∧ sent r e.dtile (ctlFlit 5 ep e.dep 0 0 0) ∧ frame r)) ∧
    (overrunAt s t (tableOff s t + (0x200 + ep * 16)) 4 = none →
      let e := getRx s t ep
      let w1 := storeLE s t (tableOff s t + 0x200 + ep * 16 + 4) 4
      let opened : RxEp := ⟨1, bitsOf v.toNat 0 11, bitsOf v.toNat 12 11, bitsOf w1 0 14, bitsOf w1 14 12, bitsOf w1 26 5, 0, 0, 0, none⟩
      (bitsOf v.toNat 30 2 = 1 → rxValid s t ep (bitsOf v.toNat 0 11) (bitsOf v.toNat 12 11) = true →
        (e.st = 0 → e.held = none → ∃ r, exec (.rxOpenCmd t n ep v) s = .next r ∧ getRx r t ep = opened ∧ r.net = s.net ∧
          (rd r STR_RXOPEN_RXOPEN t 0).testBit ep = true ∧ frame r) ∧
        (e.st = 2 → e.held = some (opened.stile, opened.sep) → ∃ r, exec (.rxOpenCmd t n ep v) s = .next r ∧
          getRx r t ep = { opened with st := 3 } ∧
          sent r opened.stile (ctlFlit 2 opened.sep ep 0 opened.rbase opened.rsize) ∧ frame r)) ∧
      (bitsOf v.toNat 30 2 = 2 →
        (e.st = 1 ∨ e.st = 4 → ∃ r, exec (.rxCloseCmd t n ep v) s = .next r ∧ getRx r t ep = rxClosed e ∧ r.net = s.net ∧ frame r) ∧
        (e.st = 3 → ∃ r, exec (.rxCloseCmd t n ep v) s = .next r ∧ getRx r t ep = { e with st := 5 } ∧
          sent r e.stile (ctlFlit 7 e.sep ep 0 0 0) ∧ frame r) ∧
        (∀ x, e.st = 2 → e.held = some x → ∃ r, exec (.rxCloseCmd t n ep v) s = .next r ∧ getRx r t ep = rxClosed e ∧
          sent r x.1 (ctlFlit 3 x.2 ep 0 0 0) ∧ frame r))) ∧
    (overrunAt s t (tableOff s t + (0x200 + ep * 16 + 8)) 4 = none →
      let e := getRx s t ep
      let h := bitsOf v.toNat 0 15
      let adv := (h + ringUnits e - e.head) % ringUnits e
      h < ringUnits e → adv ≤ e.unread →
        (e.st = 3 → adv ≠ 0 → ∃ r, exec (.headWrite t n ep v) s = .next r ∧
          getRx r t ep = { e with head := h, unread := e.unread - adv } ∧ sent r e.stile (ctlFlit 4 e.sep ep adv 0 0) ∧ frame r) ∧
        (e.st = 4 ∨ (e.st = 3 ∧ adv = 0) → ∃ r, exec (.headWrite t n ep v) s = .next r ∧
          getRx r t ep = { e with head := h, unread := e.unread - adv } ∧ r.net = s.net ∧ frame r))

/-- A control flit at its endpoint, the next of its source there, moves the endpoint as Tables 8.3 and 8.4 say, is answered
where they say so, and has left the network (R149, R163, R185, R186, R192, R193). Its number is not the next packet's, as the
model numbers packets in the order they are sent.
Where the spec leaves it open, the model's choice stands: log entry 18. -/
def Obligations.StrandControlAndData : Prop :=
  (∀ (pid : Nat) (p : Pkt) (s : State), arrived s pid = some p → isCtl p = true → tileTurn s p.dst p = true →
     pid ≠ s.nextPid → p.after = none →
     let t := p.dst
     let tx := getTx s t (ctlSep p)
     let rx := getRx s t (ctlRep p)
     let ownTx : Prop := p.src = tx.dtile ∧ ctlRep p = tx.dep
     let ownRx : Prop := p.src = rx.stile ∧ ctlSep p = rx.sep
     let answered : State → Nat → Prop := fun r x =>
       ∃ q, r.net = s.net.filter (fun y => decide (y.pid ≠ pid)) ++ [q] ∧ q.typ = .strand ∧ q.src = t ∧
         q.addr = storeBase p.src ∧ q.data = x
     let quiet : State → Prop := fun r => r.net = s.net.filter (fun y => decide (y.pid ≠ pid))
     (ctlKind p = 1 →
       (rx.st = 0 → ∃ r, exec (.openReq pid) s = .next r ∧
         getRx r t (ctlRep p) = { rxClosed rx with st := 2, held := some (p.src, ctlSep p) } ∧ quiet r) ∧
       (rx.st = 1 → ownRx → ∃ r, exec (.openReq pid) s = .next r ∧ getRx r t (ctlRep p) = { rx with st := 3 } ∧
         answered r (ctlFlit 2 (ctlSep p) (ctlRep p) 0 rx.rbase rx.rsize)) ∧
       ((rx.st = 1 ∧ ¬ownRx) ∨ 1 < rx.st → ∃ r, exec (.openReq pid) s = .next r ∧ getRx r t (ctlRep p) = rx ∧
         answered r (ctlFlit 3 (ctlSep p) (ctlRep p) 0 0 0))) ∧
     (ctlKind p = 2 → ownTx → tx.st = 1 → ∃ r, exec (.openAck pid) s = .next r ∧ quiet r ∧
       getTx r t (ctlSep p) =
         ⟨2, tx.dtile, tx.dep, bitsOf p.data 32 11, bitsOf p.data 48 11, bitsOf p.data 48 11 * 16, 0, 0⟩) ∧
     (ctlKind p = 3 → ownTx → tx.st = 1 → ∃ r, exec (.openNak pid) s = .next r ∧ quiet r ∧
       getTx r t (ctlSep p) = { tx with st := 0 } ∧
       raised (.tile t) (tileRec s t 0x0213 false (strandObj t (ctlSep p) false) (tileSrc tx.dtile 7)) s r) ∧
     (ctlKind p = 4 → ownTx → tx.st = 2 → tx.credits + ctlCredits p ≤ tx.rsize * 16 →
       ∃ r, exec (.credit pid) s = .next r ∧ quiet r ∧
         getTx r t (ctlSep p) = { tx with credits := tx.credits + ctlCredits p }) ∧
     (ctlKind p = 5 → ∃ r, exec (.close pid) s = .next r ∧ answered r (ctlFlit 6 (ctlSep p) (ctlRep p) 0 0 0) ∧
       getRx r t (ctlRep p) = (if rx.st = 2 ∧ rx.held = some (p.src, ctlSep p) then rxClosed rx
         else if rx.st = 3 ∧ p.src = rx.stile ∧ ctlSep p = rx.sep then { rx with st := 4 }
         else if rx.st = 5 ∧ p.src = rx.stile ∧ ctlSep p = rx.sep then { rx with st := 0 } else rx)) ∧
     (ctlKind p = 6 → ownTx → tx.st = 4 → ∃ r, exec (.closeAck pid) s = .next r ∧ quiet r ∧
       getTx r t (ctlSep p) = { tx with st := 0 }) ∧
     (ctlKind p = 7 → ownTx → tx.st = 2 → ∃ r, exec (.orphan pid) s = .next r ∧ quiet r ∧
       getTx r t (ctlSep p) = { tx with st := 3 }))

/-- A JOIN packet that its bank grants combines its words into the line of its queue, element by element as the queue's type says, and gives its
tile's credits back; the last packet of a contribution counts it, and the contribution that completes a round is copied out,
the queue's count returning to zero and its lines to FRESH (R194 to R197, Table 8.6). No word is reported by the code, and
the tile has no transfer waiting.
A packet at a hank buffer, once its bank grants it, is added word by word into its line, FRESH lines counting as minus zero, and a read takes the line,
its FRESH words as zero, and harvests it where its zone says so; FRESH is given to a range of lines by HNK_FRESH (R225 to
R229). No word is reported by the code.
Where the spec leaves it open, the model's choice stands: log entries 20, 106. -/
def Obligations.JoinPacketsAndHankBuffer : Prop :=
  (∀ (a : Service) (p : Pkt) (s : State), arrived s a.pid = some p → p.typ = .join → bankGrants s (p.src / 24) 2 p a.aged = true →
     s.outb.any (fun o => o.tile == p.src) = false →
     let c := p.src / 24
     let q := (p.addr - clusterBase c) / 0x1000
     let k := (p.addr - clusterBase c) % 0x1000 / 0x100
     let len := rd s JNQ_CFG_LEN c q
     let l := rd s JNQ_ACC_ACC c q + k
     let ty := rd s JNQ_CFG_TYPE c q
     let n := rd s JNQ_COUNT_COUNT c q + 1
     rdB s JNQ_CFG_VALID c q = true → k < len → (p.last = true → k + 1 = len) →
     (p.last = false ∨ n % 2 ^ 12 ≠ rd s JNQ_CFG_CONTRIB c q → ∃ r, exec (.join a ⟨.ok, .ok⟩) s = .next r ∧
       (∀ i, i < 64 → bitsOf (rdLE r (hankAddr c l) 256) (32 * i) 32 =
         joinCombine ty ((lineWords s c l (joinIdentity ty) .ok).getD i 0) (bitsOf p.data (32 * i) 32) % 2 ^ 32) ∧
       bytesBut (hankAddr c l) 256 s r ∧ isFresh r c l = false ∧
       rd r JNQ_COUNT_COUNT c q = (if p.last then n % 2 ^ 12 else rd s JNQ_COUNT_COUNT c q) ∧
       mapGet 0 r.joinCred p.src = mapGet 0 s.joinCred p.src - 17 ∧ (∀ x ∈ r.net, x.pid ≠ a.pid) ∧
       fieldsBut [JNQ_COUNT_COUNT, CRS_TALLY_LANDED_LANDED] s r) ∧
     (p.last = true → n % 2 ^ 12 = rd s JNQ_CFG_CONTRIB c q →
       let dest := rd s JNQ_DEST_LO_DEST c q * 256 + 2 ^ 32 * rd s JNQ_DEST_HI_DEST c q
       firstRefusedPush s (p.part.getD 16) dest (len * 256) = none → ∃ r, exec (.join a ⟨.ok, .ok⟩) s = .next r ∧
         rd r JNQ_COUNT_COUNT c q = 0 ∧ (∀ i, i < len → isFresh r c (rd s JNQ_ACC_ACC c q + i) = true) ∧
         rd r JNQ_ROUNDS_ROUNDS c q = min (rd s JNQ_ROUNDS_ROUNDS c q + 1) (2 ^ 32 - 1) ∧
         r.net.length = s.net.length + (pieces (len * 256 + 1) (hankAddr c (rd s JNQ_ACC_ACC c q)) dest (len * 256)).length)) ∧
  ((∀ (a : Service) (c off : Nat) (p : Pkt) (s : State), arrived s a.pid = some p → target s p.addr = .hank c off →
     bankGrants s c 1 p a.aged = true → p.typ = .wr → sigOps p = [] → p.owner = none →
     let l := (p.addr - hankAddr c 0) / 256
     let lo := p.addr % 256 / 4
     ∃ r, exec (.hankAdd a .ok) s = .next r ∧
       (∀ i, i < 64 → bitsOf (rdLE r (hankAddr c l) 256) (32 * i) 32 =
         if lo ≤ i ∧ i < lo + p.len * 4 then
           (fadd32 .nearest (val32 ((lineWords s c l 0x80000000 .ok).getD i 0)) (val32 (bitsOf p.data (32 * (i - lo)) 32))).1 % 2 ^ 32
         else (lineWords s c l 0 .ok).getD i 0) ∧
       bytesBut (hankAddr c l) 256 s r ∧ isFresh r c l = false ∧
       rd64 r HNK_ADDS_LO_ADDS HNK_ADDS_HI_ADDS c 0 = (rd64 s HNK_ADDS_LO_ADDS HNK_ADDS_HI_ADDS c 0 + 1) % 2 ^ 64 ∧
       (∀ x ∈ r.net, x.pid ≠ a.pid)) ∧
   (∀ (a : Service) (c off : Nat) (p : Pkt) (s : State), arrived s a.pid = some p → target s p.addr = .hank c off →
     bankGrants s c 1 p a.aged = true → p.typ = .rdreq → p.tmode = 0 → p.after = none →
     ∃ r, exec (.hankRead a .ok) s = .next r ∧
       repliedWith p (bitsOf (packN 32 (lineWords s c (off / 256) 0 .ok)) (8 * (off % 256)) (8 * reqBytes p)) s r ∧
       isFresh r c (off / 256) = (isFresh s c (off / 256) || harvested s c (off / 256))) ∧
   (∀ (rq : Requester) (c : Nat) (v : W32) (s : State), c < 96 → bitsOf v.toNat 31 1 = 1 → writable s rq HNK_FRESH_GO c 0 →
     rdB s HNK_STATUS_FBUSY c 0 = false → bitsOf v.toNat 13 14 ≠ 0 → bitsOf v.toNat 0 13 + bitsOf v.toNat 13 14 ≤ 8192 →
     ∃ r, exec (.hnkFreshGo rq c v) s = .next r ∧ r.freshen = s.freshen ++ [(c, bitsOf v.toNat 0 13, bitsOf v.toNat 13 14)] ∧
       rd r HNK_STATUS_FBUSY c 0 = 1 ∧ bytesKept s r ∧
       regsBut [fkey HNK_FRESH_FIRST c 0, fkey HNK_FRESH_COUNT c 0, fkey HNK_STATUS_FBUSY c 0] s r ∧
       r = { s with regs := r.regs, freshen := r.freshen }) ∧
   (∀ (c : Nat) (f : Nat × Nat × Nat) (s : State), s.freshen.find? (fun f => f.1 == c) = some f →
     ∃ r, exec (.freshenComplete c) s = .next r ∧ r.freshen = s.freshen.erase f ∧ rd r HNK_STATUS_FBUSY c 0 = 0 ∧
       (∀ i, i < f.2.2 → isFresh r c (f.2.1 + i) = true) ∧ regsBut [fkey HNK_STATUS_FBUSY c 0] s r ∧ bytesKept s r ∧
       r = { s with regs := r.regs, freshen := r.freshen, fresh := r.fresh }))

/-- Packets at a cluster store, once it grants them: a write lands its enabled bytes and closes the merge entry of its line, a
plain read that is its source's oldest is answered from the store or from an open entry, an entry closes when its window
expires, and a response lands like a write and gives its tile's read tag back, once no other response of its read is on its way;
a response also lands at a tile's store and in host memory, and a tile's store answers reads (R135 to R138, R144, R149, R152).
No word is reported by the code, and nothing of the tile is gathered.
A transposing read that is next at its cluster is answered with the image of its source, as 16 or 24 responses of 256 bytes
at rising addresses from the request's return address, split where that is not aligned on a line (log entry 107); the rewritten
image of a REBLOCK is computed under the requester's gauge policies (R139, R140, R287). No word is reported by the code.
Where the spec leaves it open, the model's choice stands: log entry 23. -/
def Obligations.ClusterStoreAndTransposeReads : Prop :=
  ((∀ (c line : Nat) (s : State), ∃ r, exec (.mergeWindowExpire c line) s = .next r ∧
     r = { s with merge := s.merge.filter (fun m => !(m.1 == c && m.2.1 == line)) }) ∧
   (∀ (pid : Nat) (p : Pkt) (col aged : Bool) (s : State), arrived s pid = some p → p.after = none → p.len ≤ 16 →
     (p.typ = .rdrsp → sigOps p = [] → ∀ u, p.owner = some u → s.outb.any (fun o => o.tile == u) = false → moreOf p s = false →
       (∀ c off, target s p.addr = .cstore c off → storeGrants s c p aged = true →
         ∃ r, exec (.rdrsp ⟨pid, col, aged⟩) s = .next r ∧ dataLanded p s r ∧ tagFreed u p.tag s r) ∧
       (∀ t off, target s p.addr = .store t off → tileTurn s t p = true → off % 16 = 0 → off + p.len * 16 ≤ 0x80000 →
         overrunAt s t off (p.len * 16) = none → windowHit s t off (p.len * 16) = none → rdB s TST_CTRL_GATHER t 0 = false →
         s.gather.any (fun g => g.tile == t) = false → ∃ r, exec (.rdrsp ⟨pid, col, aged⟩) s = .next r ∧ dataLanded p s r ∧ tagFreed u p.tag s r)) ∧
     (∀ h, target s p.addr = .host h → p.typ = .rdrsp → sigOps p = [] → p.owner = none → s.hst.hclk = true →
       ∃ r, exec (.rdrsp ⟨pid, col, aged⟩) s = .next r ∧
         (∀ i, i < p.len * 16 → rdHost r (h + i) = BitVec.ofNat 8 (p.data / 256 ^ i)) ∧ r.mem = s.mem ∧ (∀ x ∈ r.net, x.pid ≠ pid)) ∧
     (∀ c off, target s p.addr = .cstore c off → p.typ = .wr → sigOps p = [] → storeGrants s c p aged = true →
       ∃ r, exec (.clusterStoreWrite ⟨pid, aged⟩) s = .next r ∧ dataLanded p s r ∧
         r.merge = s.merge.filter (fun m => !(m.1 == c && m.2.1 == p.addr / 256)) ∧
         fieldsBut [CRS_TALLY_LANDED_LANDED, PLY_TXFLIT_LO_TX, PLY_TXFLIT_HI_TX] s r) ∧
     (∀ c off, target s p.addr = .cstore c off → p.typ = .rdreq → p.tmode = 0 → storeOldest s c p = true →
       let line := p.addr / 256
       let v := rdLE s (line * 256) 256
       (s.merge.find? (fun m => m.1 == c && m.2.1 == line) = none → storeGrants s c p aged = true →
         ∃ r, exec (.rdreq ⟨pid, aged⟩ .ok) s = .next r ∧ repliedWith p (ofLine p v) s r ∧
           r.merge = (if (s.merge.filter (fun m => m.1 == c)).length < 32 ∧ rd s CLU_MERGECTL_WINDOW c 0 ≠ 0 then
             s.merge ++ [(c, line, v)] else s.merge)) ∧
       (∀ m, s.merge.find? (fun m => m.1 == c && m.2.1 == line) = some m → ∃ r, exec (.rdreq ⟨pid, aged⟩ .ok) s = .next r ∧
         repliedWith p (ofLine p m.2.2) s r ∧ r.merge = s.merge ∧ rd64 r CLU_MERGED_LO_MERGED CLU_MERGED_HI_MERGED c 0 =
           (rd64 s CLU_MERGED_LO_MERGED CLU_MERGED_HI_MERGED c 0 + 1) % 2 ^ 64)) ∧
     (∀ t off, target s p.addr = .store t off → p.typ = .rdreq → p.tmode = 0 → tileTurn s t p = true →
       s.gather.any (fun g => g.tile == t) = false → ∃ r, exec (.rdreq ⟨pid, aged⟩ .ok) s = .next r ∧
         repliedWith p (storeLE s t off (reqBytes p)) s r))) ∧
  (∀ (pid c off : Nat) (p : Pkt) (s : State), arrived s pid = some p → target s p.addr = .cstore c off → xposeNext s c pid = true →
     p.after = none →
     let get : Nat → Nat → Nat := fun o n => bitsOf (rdLE s p.addr (xposeSrc p.tmode)) (8 * o) (8 * n)
     let sel := bitsOf p.data 53 2
     let image : Nat := if p.tmode = 1 then (exactImage get sel).1 else (reblockImage get (gaugePolOf s p.src none) (sel % 2)).1
     let k : Nat := if p.tmode = 1 then 16 else 24
     ∃ r ps, exec (.transposeRead pid .ok) s = .next r ∧ r.net = s.net.filter (fun x => decide (x.pid ≠ p.pid)) ++ ps ∧
       ps.map (fun q => (q.typ, q.addr, q.data)) = (imagePieces (k + 1) 0 (bitsOf p.data 0 48) (256 * k)).map (fun x =>
         (PType.rdrsp, x.2.1, bitsOf image (8 * x.1) (8 * x.2.2))) ∧
       r.mem = s.mem)

/-- An output of a router, a cluster switch, a tile's or a controller's end, or the H-die switch, moves the packet that it
grants by one hop, to the end of the waiting packets, and debits its flits from the output's credits, which come back by credit
returns; a write that reaches the H-die for a host address is posted to host memory (R145 to R148, R151, R349, Table 6.6).
The six positions of a row are its physical columns but the darned one, in order (R18). The darning override: test mode is entered only while the debug lock is open at TEST, and only in test mode, in a cluster
that belongs to no partition, does a row take another column (R155).
Where the spec leaves it open, the model's choice stands: log entries 22, 25, 26, 105. -/
def Obligations.MeshHopsAndDarningOverride : Prop :=
  ((∀ (c port : Nat) (aged : Option Nat) (p : Pkt) (s : State), senderUp s c = true → granteeOf s c port aged = some p →
     let debited : State → Prop := fun r => ∀ k, mapGet 0 r.credUsed k = mapGet 0 s.credUsed k +
         (if isLink c port = true ∧ k = vcKey c port (vcOf p) then flitsOf p else 0)
     (¬(hopTo c port p.src p.dst = .dest ∧ placeOf p.dst = .hdie) → ∃ r, exec (.routerForward c port aged .ok) s = .next r ∧
       r.net = s.net.filter (fun x => decide (x.pid ≠ p.pid)) ++ [{ p with
         loc := hopTo c port p.src p.dst
         vch := if c = 96 ∨ (c < 96 ∧ 5 ≤ port ∧ port ≤ 7) then p.vch + 1 else p.vch }] ∧
       debited r ∧ fieldsBut [MESH_PKTOUT_LO_PKTOUT, MESH_PKTOUT_HI_PKTOUT, MESH_PKTIN_LO_PKTIN, MESH_PKTIN_HI_PKTIN] s r ∧
       bytesKept s r ∧ r = { s with regs := r.regs, net := r.net, credUsed := r.credUsed, rrPtr := r.rrPtr, respRun := r.respRun }) ∧
     (∀ h, hopTo c port p.src p.dst = .dest → placeOf p.dst = .hdie → p.typ = .wr → target s p.addr = .host h →
       sigOps p = [] → ∃ r, exec (.routerForward c port aged .ok) s = .next r ∧ debited r ∧
         (∀ i, i < p.len * 16 → rdHost r (h + i) = BitVec.ofNat 8 (p.data / 256 ^ i)) ∧ (∀ x ∈ r.net, x.pid ≠ p.pid) ∧
         r.mem = s.mem)) ∧
   (∀ (c port vc k : Nat) (s : State), vc < 6 → hasLink c port = true →
     k ≤ mapGet 0 s.credUsed (vcKey c port vc) →
     ∃ r, exec (.creditReturn c port vc k) s = .next r ∧
       mapGet 0 r.credUsed (vcKey c port vc) = mapGet 0 s.credUsed (vcKey c port vc) - k ∧
       (∀ x, x ≠ vcKey c port vc → mapGet 0 r.credUsed x = mapGet 0 s.credUsed x) ∧ r = { s with credUsed := r.credUsed })) ∧
  ((∀ (c i j : Nat) (s : State), i < j → j < 6 → ∀ row, row < 4 →
     (siteOf s c (6 * row + i)).2 ≠ rd s CLU_DARN_DCOL c row ∧ (siteOf s c (6 * row + j)).2 ≠ rd s CLU_DARN_DCOL c row ∧
     (siteOf s c (6 * row + i)).2 < (siteOf s c (6 * row + j)).2 ∧ (siteOf s c (6 * row + j)).2 < 7 ∧
     (siteOf s c (6 * row + i)).1 = row) ∧
   ∀ (rq : Requester) (c : Nat) (v : W32) (s : State), c < 96 →
     (writable s rq CLU_TEST_TMODE c 0 →
       (bitsOf v.toNat 0 1 = 0 ∨ rd s SEC_STATUS_DBG 0 0 = 2 → ∃ r, exec (.cluTestWrite rq c v) s = .next r ∧
         rd r CLU_TEST_TMODE c 0 = bitsOf v.toNat 0 1 ∧ regsBut [fkey CLU_TEST_TMODE c 0] s r ∧ bytesKept s r ∧
         r = { s with regs := r.regs }) ∧
       (bitsOf v.toNat 0 1 = 1 → rd s SEC_STATUS_DBG 0 0 ≠ 2 → ∃ r, exec (.cluTestWrite rq c v) s = .next r ∧
         rd r CLU_STATUS_WRIGN c 0 = 1 ∧ regsBut [fkey CLU_STATUS_WRIGN c 0, fkey CLU_WRIGN_OFS c 0] s r ∧
         r = { s with regs := r.regs })) ∧
     (∀ row, row < 4 → writable s rq CLU_DARN_DCOL c row →
       let d := bitsOf v.toNat 0 3
       (d ≠ 7 → d ≠ rd s CLU_DARN_DCOL c row → rdB s CLU_TEST_TMODE c 0 = true → partOfCluster s c = none →
         ∃ r, exec (.cluDarnWrite rq c row v) s = .next r ∧ rd r CLU_DARN_DCOL c row = d ∧
           rd r CLU_DARN_OVR c row = (if d = rd s CLU_DARN_FCOL c row then 0 else 1) ∧
           regsBut [fkey CLU_DARN_DCOL c row, fkey CLU_DARN_OVR c row] s r ∧ bytesKept s r ∧ r = { s with regs := r.regs }) ∧
       (d ≠ rd s CLU_DARN_DCOL c row → rdB s CLU_TEST_TMODE c 0 = false → ∃ r, exec (.cluDarnWrite rq c row v) s = .next r ∧
         rd r CLU_STATUS_WRIGN c 0 = 1 ∧ regsBut [fkey CLU_STATUS_WRIGN c 0, fkey CLU_WRIGN_OFS c 0] s r ∧
         r = { s with regs := r.regs })))

/-- A gather, and a checked gather of the generation that it names, is served from the slot of that generation: its data goes out
as write packets of the Blocker, a pin is taken under a handle that was free where it asks for one, and its receipt waits for
the data to land; the pin's handle is a free value (log entry 4). A generation that no slot holds is refused with SHARD_STALE
(R236, R240 to R243). The slot lies in stack memory, which the partition may read and whose channels accept requests, and no burst
is uncorrectable.
A release frees the pin record that it names; a gather's receipt is written once its data packets have landed; and a pin's
timer that expires counts and records PIN_TIMEOUT once, the pin staying held (R240, R243, R244).
Where the spec leaves it open, the model's choice stands: log entries 33, 34, 35, 96. -/
def Obligations.GatherRequestsPinsAndReceipts : Prop :=
  (∀ (i p : Nat) (d : Desc) (s : State), descAt s i = some d → partOfTile s d.tile = some p → requestBad s d p = false →
     gatherBad s d = false → firstRefused s p (gDst d) (gLen d * 256) true = none → firstRefused s p (gRcpt d) 16 true = none →
     let e := gEntry d
     let n := gLen d * 256
     let at' : Nat → Nat := fun slot => slotBase s d.blk e slot + gOfs d * 256
     let served : Nat → State → Prop := fun slot r => r.descs = s.descs.eraseIdx i ∧
       (∃ ps : List Pkt, r.net = s.net ++ ps ∧ ps.map (fun q => (q.typ, q.src, q.addr, q.data)) =
         (pieces (n + 1) (at' slot) (gDst d) n).map (fun x => (PType.wr, nodeBlocker d.blk, x.2.1,
           bitsOf (rdLE s (at' slot) n) (8 * (x.1 - at' slot)) (8 * x.2.2))) ∧
         ∃ words, r.gathers = s.gathers ++ [⟨d.blk, p, d.tile, s.nextPid, s.nextPid + ps.length, gRcpt d, words,
             bitsOf d.data 5 1 == 1, bitsOf d.data 32 14⟩] ∧
           (gPin d = false → r.pins = s.pins ∧ words = slotGen s d.blk e slot + 2 ^ 32 * gShard d + 2 ^ 61 * slot) ∧
           (gPin d = true → ∃ h, h < 8192 ∧ s.pins.any (fun x => x.blk == d.blk && x.handle == h) = false ∧
             r.pins = s.pins ++ [⟨d.blk, h, p, d.tile, e, slot, bitsOf d.data 6 3, false⟩] ∧
             words = slotGen s d.blk e slot + 2 ^ 32 * gShard d + 2 ^ 48 * h + 2 ^ 61 * slot + 2 ^ 62)) ∧ bytesKept s r
     let room : Prop := gPin d = true → ∃ h, h < 8192 ∧ s.pins.any (fun x => x.blk == d.blk && x.handle == h) = false
     let open' : Nat → Prop := fun slot => (∃ y, target s (at' slot) = .stack y) ∧ firstRefused s p (at' slot) n false = none ∧
       stacksTake s
     (∀ slot ce, gKind d = 1 → room → open' slot →
       slot = (slotOfGen s d.blk e (servedGen s d.blk e p)).getD (rd s BLK_SH_CTL_CURSLOT d.blk e) →
       ∃ r, exec (.gather i ⟨none, ce⟩) s = .next r ∧ served slot r) ∧
     (∀ slot ce, gKind d = 2 → room → open' slot → slotOfGen s d.blk e (gExp d) = some slot →
       ∃ r, exec (.gatherchk i ⟨none, ce⟩) s = .next r ∧ served slot r) ∧
     (∀ out, gKind d = 2 → slotOfGen s d.blk e (gExp d) = none → needleState s d.tile d.needle = nsRun →
       ∃ r, exec (.gatherchk i out) s = .next r ∧ r.descs = s.descs.eraseIdx i ∧ r.pins = s.pins ∧ r.net = s.net ∧
         rd r NDL_STATE d.tile d.needle = nsTrap ∧
         raised (.tile d.tile) (tileRec s d.tile 0x0218 true (gShard d + 2 ^ 16 * (gExp d % 2 ^ 16))
           (dSrc d + 2 ^ 16 * (currentGen s d.blk e % 2 ^ 16))) s r)) ∧
  ((∀ (i p : Nat) (d : Desc) (s : State), descAt s i = some d → partOfTile s d.tile = some p → gKind d = 3 →
     requestBad s d p = false → s.pins.any (isPin d.blk (gHandle d) p) = true →
     ∃ r, exec (.shardRelease i) s = .next r ∧
       r = { s with descs := s.descs.eraseIdx i, pins := s.pins.filter (fun x => !(isPin d.blk (gHandle d) p x)) }) ∧
   (∀ (i : Nat) (g : Gth) (s : State), s.gathers[i]? = some g →
     s.net.any (fun q => decide (g.lo ≤ q.pid ∧ q.pid < g.hi)) = false →
     ∃ r q, exec (.gatherReceipt i) s = .next r ∧ r.gathers = s.gathers.eraseIdx i ∧ r.net = s.net ++ [q] ∧ q.typ = .wr ∧
       q.src = nodeBlocker g.blk ∧ q.part = some g.part ∧ q.addr = g.rcpt ∧ q.data = g.words ∧ q.sig = g.sig ∧
       q.stitch = g.stitch ∧ bytesKept s r) ∧
   (∀ (b handle : Nat) (x : Pin) (s : State), s.pins.find? (fun x => x.blk == b && x.handle == handle && !x.expired) = some x →
     ∃ r, exec (.pinTimerExpire b handle) s = .next r ∧
       r.pins = s.pins.map (fun y => if y = x then { y with expired := true } else y) ∧
       rd r BLK_PIN_TMO_TMO b 0 = min (rd s BLK_PIN_TMO_TMO b 0 + 1) (2 ^ 32 - 1) ∧
       (rd s CRS_STATUS_STATE x.part 0 = 1 ∨ rd s CRS_STATUS_STATE x.part 0 = 2 → rd r CRS_STATUS_STATE x.part 0 = 3) ∧
       r.mem = s.mem))

/-- An UPDATE that R251 admits is queued at its Blocker; an abort, whether a descriptor or a write of BLK_ABORT, ends the update
that it names, where no completion of it stands and none of its writes is on its way, with its completion record of status 2, and an
abort of no update is recorded (R249, R251, R261, R262). The layer header lies in stack memory, and the record may be written.
A Blocker with no active update starts its oldest eligible one with the group entry and the layer header of stack memory; a
block of pass 1 rewrites the moments of its 256 elements, a block of pass 2 of an update without trust ratio or emission the
moments, remainders and masters, and each moves the update on; a completed update publishes the next generation in the other slot
and writes its completion record (R235, R250, R253, R254, R261, Table 11.3). Every array lies in stack memory, whose channels accept
requests; every access is allowed; no burst is reported, and no gradient is infinite or NaN.
Where the spec leaves it open, the model's choice stands: log entries 33, 34, 36, 38, 96. -/
def Obligations.UpdateRequestsAndRuns : Prop :=
  ((∀ (i p : Nat) (x : Desc) (s : State), descAt s i = some x → partOfTile s x.tile = some p → gKind x = 4 → x.addr % 32 = 0 →
     updateBad x.data = false → updateShardBad s x.blk p x.data = false → findUpd s x.blk p (dB x.data 64 16) = none →
     (s.upds.filter (fun u => u.blk == x.blk && u.part == p)).length < 16 →
     ∃ r u, exec (.update i) s = .next r ∧ r.upds = s.upds ++ [u] ∧ u.blk = x.blk ∧ u.part = p ∧ u.tile = x.tile ∧ u.d = x.data ∧
       u.pass = 0 ∧ u.block = 0 ∧ r = { s with descs := s.descs.eraseIdx i, upds := r.upds }) ∧
   (∀ (i : Nat) (rq : Requester) (v : W32) (b p tag who : Nat) (s s' : State), ∀ c ∈ [Instr.abort i, .blkAbortGo rq b v],
     abortAsked c b p tag who s s' →
     (∀ u y, findUpd s b p tag = some u → updEnded u = false → (u.pass = 0 ∨ updSends s b = false) →
       firstRefused s p (uMom u.d) 16 false = none → target s (uMom u.d) = .stack y → firstRefused s p (uStat u.d) 16 true = none →
       ∃ r q, exec c s = .next r ∧ r.descs = s'.descs ∧ updGone u s r ∧ r.net = s.net ++ [q] ∧ q.typ = .wr ∧
         q.src = nodeBlocker b ∧ q.addr = uStat u.d ∧ q.data % 16 = 2 ∧ (u.pass < 4 → bitsOf q.data 16 16 = tag) ∧ r.mem = s.mem) ∧
     (findUpd s b p tag = none → ∃ r, exec c s = .next r ∧ r.descs = s'.descs ∧ r.upds = s.upds ∧ r.net = s.net ∧
       raised (.blocker b) (partRec s p 0x0505 false (updObj p tag) who) s r))) ∧
  (∀ (b : Nat) (u : Upd) (s : State), stacksTake s →
     let d := u.d
     let j := u.block
     let e := uEntry u
     let cur := rd s BLK_SH_CTL_CURSLOT b e
     let a := groupTable s b u.part + 32 * dB d 8 8
     let g := rdLE s a 32
     (activeUpd s b = none → s.upds.find? (fun u => u.blk == b && !(ineligible s u)) = some u →
       firstRefused s u.part a 32 false = none → groupBad g (uLam d) = false → firstRefused s u.part (uMom d) 256 false = none →
       inStack s u.part a → inStack s u.part (uMom d) →
       ∃ r u', exec (.updateStart ⟨b, none, []⟩) s = .next r ∧ updTo u u' s r ∧ u'.pass = (if geTren g then 1 else 2) ∧ u'.block = 0 ∧
         u'.ge = g ∧ u'.step = (bitsOf (rdLE s (uMom d) 256) 0 32 + 1) % 2 ^ 32 ∧
         r = { s with upds := r.upds, memq := r.memq, pw := r.pw }) ∧
     (activeUpd s b = some u → u.fin = 0 → j < passBlocks u → firstOf s u.part (blockAccesses u j []) = none →
       (readMoments u j none s).1.filter nonFinite = [] →
       (∀ x ∈ [mAddr d (256 * j), vAddr d (256 * j), wAddr d (256 * j), cAddr d (256 * j)] ++
         (List.range (uNg d)).map (fun k => uG d k + 1024 * j), inStack s u.part x) →
       let onward : Nat → Nat → State → Prop := fun pass block r => ∃ u', updTo u u' s r ∧ u'.pass = pass ∧ u'.block = block
       (u.pass = 1 → ∃ r, exec (.updateBlock b ⟨none, []⟩) s = .next r ∧ r.mem = (momentsPut u j s).mem ∧
         onward (if j + 1 < passBlocks u then 1 else 2) (if j + 1 < passBlocks u then j + 1 else 0) r) ∧
       (u.pass = 2 → geTren u.ge = false → uEmits u = false →
         ∃ r, exec (.updateBlock b ⟨none, []⟩) s = .next r ∧ onward 2 (j + 1) r ∧
           r.mem = (mastersPut u j s).mem ∧
           rd64 r BLK_BLOCKS_LO_BLOCKS BLK_BLOCKS_HI_BLOCKS b 0 = (rd64 s BLK_BLOCKS_LO_BLOCKS BLK_BLOCKS_HI_BLOCKS b 0 + 1) % 2 ^ 64)) ∧
     (activeUpd s b = some u → u.fin = 0 → u.pass ≠ 1 → passBlocks u ≤ j → updSends s b = false → inStack s u.part (uMom d) →
       firstRefused s u.part (uMom d) 256 true = none → firstRefused s u.part (uStat d) 16 true = none →
       ∃ r q, exec (.updateComplete b) s = .next r ∧ updGone u s r ∧
         rd64 r BLK_UPD_LO_UPD BLK_UPD_HI_UPD b 0 = (rd64 s BLK_UPD_LO_UPD BLK_UPD_HI_UPD b 0 + 1) % 2 ^ 64 ∧
         r.net.getLast? = some q ∧ q.typ = .wr ∧ q.addr = uStat d ∧ q.data % 16 = 1 ∧
         (if uEmits u then rd r BLK_SH_CTL_CURSLOT b e = (1 - cur) % 2 ∧ slotValid r b e (1 - cur) = true ∧
           slotGen r b e (1 - cur) = (currentGen s b e + 1) % 2 ^ 32
          else rd r BLK_SH_CTL_CURSLOT b e = cur)))

/-- A stash firing whose last byte has moved waits for its READY course, or signals at once and counts as late where that course
has begun; an outward firing has then posted its bytes to the host (R218, R221). No burst is uncorrectable, and the channels accept an outward firing's reads.
Where the spec leaves it open, the model's choice stands: log entries 33, 43, 115. -/
def Obligations.StashFirings : Prop :=
  ∀ (p entry : Nat) (f : Firing) (s : State), s.firings.find? (fun f => f.part == p && f.entry == entry && !f.done) = some f →
    (stIn f.d = true → inLanded s f = true) → (stIn f.d = false → stacksTake s) →
    let a := stSrc f.d
    let h := stDst f.d - hostBase
    let posted : State → Prop := fun r => if stIn f.d then r.hostMem = s.hostMem else
      ∀ i, i < stBytes f.d → rdHost r (h + i) = BitVec.ofNat 8 (rdLE s a (stBytes f.d) / 256 ^ i)
    (courseOf s f.part < f.ready → ∃ r, exec (.stashFiringComplete p entry none) s = .next r ∧ posted r ∧ r.stops = s.stops ∧
      r.firings = s.firings.map (fun g => if g = f then { g with done := true } else g) ∧ bytesKept s r) ∧
    (f.ready ≤ courseOf s f.part → ∃ r, exec (.stashFiringComplete p entry none) s = .next r ∧ posted r ∧
      r.firings = s.firings.erase f ∧
      rd r SKN_STQ_LATE_LATE 0 f.part = min (rd s SKN_STQ_LATE_LATE 0 f.part + 1) (2 ^ 32 - 1) ∧
      r.stops = s.stops ++ (if stSig f.d then [⟨f.part, stStitch f.d, 1, nodeSkein, 7, 0, nodeSkein⟩] else []) ∧ bytesKept s r)

/-- SKN_CMD on the skein that the requester has selected, of a partition that the requester may command: READ copies the entry to
the EDATA words; CREATE makes an entry in PREFILL from the EDATA words, with its pages, or answers why not; CANCEL ends a skein
with the reason CANCELLED, or marks one that moves (R265, R267, R268, Table 12.7). The channels accept the requests of a CREATE.
SKN_BCFG.EN set from 0 makes every page of the pool but those that hold the free stack free, in an order the spec leaves
open (log entry 4), and the pool, in stack memory, is written; cleared, it takes effect only while every skein of the partition is FREE (R269, R282).
Where the spec leaves it open, the model's choice stands: log entries 33, 41, 42, 96, 109. -/
def Obligations.SkeinCommandsAndEnable : Prop :=
  (∀ (rq : Requester) (v : W32) (p : Nat) (s : State), writable s rq SKN_CMD_OP 0 0 →
     let k := rd s SKN_ESEL_SKEIN 0 (reqIdx rq)
     let result : State → Nat → Prop := fun r x => rd r SKN_CMDRES_RESULT 0 (reqIdx rq) = x
     let others : State → Prop := fun r => ∀ j, j ≠ k → skein r j = skein s j
     skeinOwner s k = some p → reqPart rq = none ∨ reqPart rq = some p →
     (bitsOf v.toNat 0 3 = 1 → ∃ r, exec (.sknRead rq v) s = .next r ∧ result r 0 ∧
       (∀ i, i < 32 → rd r SKN_EDATA_DATA 0 (i + 32 * reqIdx rq) = bitsOf (skein s k) (32 * i) 32) ∧
       fieldsBut [SKN_EDATA_DATA, SKN_CMDRES_RESULT] s r ∧ bytesKept s r ∧ r = { s with regs := r.regs }) ∧
     (bitsOf v.toNat 0 3 = 2 →
       let e := packN 32 ((List.range 32).map (fun i => rd s SKN_EDATA_DATA 0 (i + 32 * reqIdx rq)))
       let g := (ePlen e + max 1 (kvtok s p) - 1) / max 1 (kvtok s p)
       let refused : Nat → Prop := fun x => ∃ r, exec (.sknCreate rq v) s = .next r ∧ result r x ∧
         regsBut [fkey SKN_CMDRES_RESULT 0 (reqIdx rq)] s r ∧ bytesKept s r ∧ r = { s with regs := r.regs }
       (rdB s SKN_BCFG_EN 0 p = false → refused 5) ∧
       (rdB s SKN_BCFG_EN 0 p = true → eState (skein s k) ≠ kFree → refused 2) ∧
       (rdB s SKN_BCFG_EN 0 p = true → eState (skein s k) = kFree → hostFieldsOk s p e = false → refused 3) ∧
       (rdB s SKN_BCFG_EN 0 p = true → eState (skein s k) = kFree → hostFieldsOk s p e = true →
         (freePg s p < g * kvpg s p → refused 4) ∧
         (∀ s1, stacksTake s → allocPages p (newEntry s p e) 0 (g * kvpg s p) s = .ok s1 → ∃ r, exec (.sknCreate rq v) s = .next r ∧
           result r 0 ∧ skein r k = newEntry s p e % 2 ^ 1024 ∧ mapGet 0 r.groups k = g ∧
           freePg r p = (freePg s p - g * kvpg s p) % 2 ^ 24 ∧ others r))) ∧
     (bitsOf v.toNat 0 3 = 3 →
       let st := eState (skein s k)
       (st = kFree ∨ st = kEmitting → ∃ r, exec (.sknCancel rq v) s = .next r ∧ result r 2 ∧ others r ∧ skein r k = skein s k) ∧
       (st = kStashing ∨ st = kRestoring → ∃ r, exec (.sknCancel rq v) s = .next r ∧ result r 0 ∧ others r ∧
         eState (skein r k) = st ∧ eReason (skein r k) = 4) ∧
       (st = kPrefill ∨ st = kReady ∨ st = kStashed ∨ st = kBatched → ∃ r, exec (.sknCancel rq v) s = .next r ∧ result r 0 ∧
         others r ∧ eState (skein r k) = kEmitting ∧ eReason (skein r k) = 4 ∧
         (st = kBatched → k < 40960 → ∀ x ∈ r.rets, x.skein ≠ k)))) ∧
  (∀ (rq : Requester) (p : Nat) (v : W32) (s : State), p < 16 → writable s rq SKN_BCFG_EN 0 p →
     let n := rd s SKN_NPAGES_NPAGES 0 p
     let own := (n + 16383) / 16384
     (rdB s SKN_BCFG_EN 0 p = false → bitsOf v.toNat 31 1 = 1 → n = 0 ∨
         (firstRefused s p (poolBase s p) (2 ^ 16 * own) true = none ∧ inStack s p (poolBase s p)) → stacksTake s →
       ∃ r, exec (.sknBcfgEnWrite rq p v) s = .next r ∧ rd r SKN_BCFG_EN 0 p = 1 ∧ freePg r p = (n - own) % 2 ^ 24 ∧
         rdNext r SKN_BCFG_BMAX 0 p = bitsOf v.toNat 0 13 ∧ rdNext r SKN_BCFG_PTOK 0 p = bitsOf v.toNat 16 15 ∧
         fieldsBut [SKN_BCFG_EN, SKN_FREEPG_FREE] s r) ∧
     (rdB s SKN_BCFG_EN 0 p = true → bitsOf v.toNat 31 1 = 0 →
       ((∀ k ∈ skeinsOf s p, eState (skein s k) = kFree) → ∃ r, exec (.sknBcfgEnWrite rq p v) s = .next r ∧
         rd r SKN_BCFG_EN 0 p = 0 ∧ fieldsBut [SKN_BCFG_EN] s r ∧ bytesKept s r) ∧
       ((∃ k ∈ skeinsOf s p, eState (skein s k) ≠ kFree) → ∃ r, exec (.sknBcfgEnWrite rq p v) s = .next r ∧
         rd r SKN_BCFG_EN 0 p = 1 ∧ rd r SKN_STATUS_WRIGN 0 0 = 1 ∧ bytesKept s r)))

/-- The skein that the order of placement picks is placed in the batch of the next course, its pages grown where its position
needs them; a returned record that is well formed gives its token to its skein, one that says it holds none takes the skein out
of the batch, and one that is malformed ends it with FAULT (R270, R272, R274, Table 12.2). The channels accept the unit's requests.
Where the spec leaves it open, the model's choice stands: log entries 33, 41, 96. -/
def Obligations.DecodeBatches : Prop :=
  (∀ (p k : Nat) (s s1 : State), stacksTake s → rdB s SKN_BCFG_EN 0 p = true → inReset s p = false → (builtOf s p).length < bmax s p →
    firstPlaced s ((skeinsOf s p).filter (placeable s p (courseOf s p + 1))) = some k → growSkein p k s = .ok s1 →
    firstRefused s p (batchRegion s p (courseOf s p + 1) + 0x100 + (builtOf s p).length * 64) 64 true = none →
    ∃ r, exec (.batchBuild p) s = .next r ∧ r.built = s.built ++ [⟨p, courseOf s p + 1, (builtOf s p).length, k⟩] ∧
      eState (skein r k) = kBatched ∧ (∀ j, j ≠ k → skein r j = skein s j) ∧ r.leftOut = s.leftOut) ∧
  (∀ (p : Nat) (x : Ret) (s : State), s.rets.find? (fun x => x.part == p) = some x → x.skein < 40960 →
    eState (skein s x.skein) = kBatched →
    let e := skein s x.skein
    let gb := decide (0 < eTcount e) && eB e 76 4 != x.gen
    let taken : State → Prop := fun r => r.rets = s.rets.erase x ∧ ∀ j, j ≠ x.skein → skein r j = skein s j
    (stacksTake s → bitsOf x.words 24 8 = 0 → bitsOf x.words 97 31 = 0 → bitsOf x.words 96 1 = 1 →
      firstRefused s x.part (eB e 88 6 + eTcount e * 16) 16 true = none →
      ∃ r, exec (.returnAccept p none) s = .next r ∧ taken r ∧ skein r x.skein = tokenEntry s x gb e % 2 ^ 1024 ∧
        rd64 r SKN_TOK_LO_TOK SKN_TOK_HI_TOK 0 p = (rd64 s SKN_TOK_LO_TOK SKN_TOK_HI_TOK 0 p + 1) % 2 ^ 64) ∧
    (bitsOf x.words 24 8 = 0 → bitsOf x.words 97 31 = 0 → bitsOf x.words 96 1 = 0 →
      ∃ r, exec (.returnAccept p none) s = .next r ∧ taken r ∧ eState (skein r x.skein) = unbatched e ∧
        rd r SKN_NORET_NORET 0 p = min (rd s SKN_NORET_NORET 0 p + 1) (2 ^ 32 - 1)) ∧
    (bitsOf x.words 24 8 ≠ 0 ∨ bitsOf x.words 97 31 ≠ 0 → ∃ r, exec (.returnAccept p none) s = .next r ∧ taken r ∧
      eState (skein r x.skein) = kEmitting ∧ eReason (skein r x.skein) = 5 ∧
      raised .skein (skeinRec s p 0x0603 false x.skein x.slot) s r))

/-- An ended skein writes its output record at PROD of its partition's rollout ring, while a record is free, and becomes FREE;
its tokens may be copied to the host (R276, R350, Table 12.6a). The channels accept the unit's requests.
Below the low watermark the next READY skein begins to move out, and becomes STASHED once its pages are with the host; with
pages free the next STASHED skein takes pages and begins to move back, and is READY once they have landed, or ends where it was
cancelled meanwhile (R280, R281, Table 12.2). The partition may access the page table, the pool and the pages, and the channels accept
the requests.
Where the spec leaves it open, the model's choice stands: log entries 33, 41, 42, 96. -/
def Obligations.SkeinOutputAndMoves : Prop :=
  (∀ (k d : Nat) (s : State), eState (skein s k) = kEmitting →
     let e := skein s k
     let p := ePart e
     let l := rd s PCI_RO_CFG_LOG2 0 p
     let prod := rd s PCI_RO_PROD_PROD 0 p
     let ring := rd s PCI_RO_BASE_LO_BASE 0 p * 2 ^ 12 + 2 ^ 32 * rd s PCI_RO_BASE_HI_BASE 0 p
     ringFree s p = true → eTcount e = 0 ∨ firstRefused s p (eB e 88 6) (eTcount e * 16) false = none →
     target s (eB e 96 6) = .host d → stacksTake s →
     ∃ r, exec (.skeinEmit k none) s = .next r ∧ eState (skein r k) = kFree ∧ (∀ j, j ≠ k → skein r j = skein s j) ∧
       mapGet 0 r.groups k = 0 ∧ rd r PCI_RO_PROD_PROD 0 p = (prod + 1) % 2 ^ 32 ∧
       (∀ i, i < 64 → rdHost r (ring + prod % 2 ^ l * 64 + i) = BitVec.ofNat 8 (outputRecord k e / 256 ^ i)) ∧
       rd64 r SKN_DONE_LO_DONE SKN_DONE_HI_DONE 0 p = (rd64 s SKN_DONE_LO_DONE SKN_DONE_HI_DONE 0 p + 1) % 2 ^ 64) ∧
  ((∀ (p k : Nat) (s : State), rdB s SKN_BCFG_EN 0 p = true →
     freePg s p < rd s SKN_WATER_LOWAT 0 p * 256 ∨ mapGet false s.evicting p = true →
     freePg s p + leavingPages s p < rd s SKN_WATER_HIWAT 0 p * 256 → (movingSkeins s).length < 8 →
     pickEvict s ((skeinsOf s p).filter (evictable s p)) = some k →
     ∃ r, exec (.evictStart p) s = .next r ∧ eState (skein r k) = kStashing ∧ (∀ j, j ≠ k → skein r j = skein s j) ∧
       mapGet false r.evicting p = true) ∧
   (∀ (k : Nat) (s : State), eState (skein s k) = kStashing →
     let e := skein s k
     let p := ePart e
     let js := (validPages s k).filter (fun j => ptEntry s e j / 2 % 2 == 0)
     (∀ j ∈ js, ∃ h, target s (hostSlot s p k j) = .host h) → firstOf s p (evictAccesses s k js) = none → stacksTake s →
     ∃ r, exec (.evictComplete ⟨k, none⟩) s = .next r ∧ eState (skein r k) = (if eReason e = 4 then kEmitting else kStashed) ∧
       (∀ j, j ≠ k → skein r j = skein s j) ∧
       rd r SKN_EVICT_EVICT 0 p = min (rd s SKN_EVICT_EVICT 0 p + 1) (2 ^ 32 - 1)) ∧
   (∀ (p k : Nat) (s : State), firstPlaced s ((skeinsOf s p).filter (fun k => eState (skein s k) == kStashed)) = some k →
     let js := validPages s k
     let pages := topPages s p js.length
     rd s SKN_WATER_HIWAT 0 p * 256 + js.length ≤ freePg s p → (movingSkeins s).length < 8 →
     (∀ i ∈ pages, i < rd s SKN_NPAGES_NPAGES 0 p) → stacksTake s → firstOf s p (tableRead s k) = none →
     js = [] ∨ firstOf s p [(poolBase s p + 4 * (freePg s p - js.length), 4 * js.length, false)] = none →
     firstOf s p (pages.map (fun i => (poolBase s p + 2 ^ 16 * i, 16, true))) = none →
     ∃ r, exec (.restoreStart p) s = .next r ∧ eState (skein r k) = kRestoring ∧ (∀ j, j ≠ k → skein r j = skein s j) ∧
       r.moves = s.moves ++ [⟨k, js.zip pages⟩] ∧ r.hreads.length = s.hreads.length + (js.zip pages).length ∧
       freePg r p = (freePg s p - js.length) % 2 ^ 24) ∧
   (∀ (k : Nat) (m : Move) (s : State), s.moves.find? (fun m => m.skein == k) = some m → eState (skein s k) = kRestoring →
     restored s m = true → firstOf s (ePart (skein s k)) (m.pages.map (fun x => (eKvroot (skein s k) + 8 * x.1, 8, true))) = none →
     stacksTake s →
     ∃ r, exec (.restoreComplete k) s = .next r ∧ r.moves = s.moves.erase m ∧ (∀ j, j ≠ k → skein r j = skein s j) ∧
       eState (skein r k) = (if eReason (skein s k) = 4 then kEmitting else kReady)))

/-- A packet at its controller, the first of its attachment, enters its channel's queue while EN is 1, its stack is not in
self-refresh and fewer than 64 requests wait: a write is visible and lands at once, a read takes its bytes and leaves the mesh (R291 to R293, R300).
Where the spec leaves it open, the model's choice stands: log entry 39. -/
def Obligations.MemoryAcceptance : Prop :=
  (∀ (pid k ch ca y : Nat) (p : Pkt) (s : State), arrived s pid = some p → target s p.addr = .stack y →
    dramOf s p.addr = some (k, ch, ca) → p.dst = nodeMem k → chanReady s k ch = true →
    s.net.find? (fun q => q.dst == p.dst && q.loc == .dest && attachOf q == attachOf p) = some p →
    (p.typ = .rdreq → p.tmode = 0 → ∃ r, exec (.memAccept pid) s = .next r ∧
      r.memq = s.memq ++ [⟨k, ch, 0, memClass s p, ca - ca % 64, burstsOf p.addr (reqBytes p), 0, rdLE s p.addr (reqBytes p), p⟩] ∧
      (∀ q ∈ r.net, q.pid ≠ pid) ∧ r.mem = s.mem) ∧
    (p.typ = .wr → sigOps p = [] → p.owner = none → ∃ r, exec (.memAccept pid) s = .next r ∧
      (∃ q, r.memq.getLast? = some q ∧ q.kind = 1 ∧ q.stack = k ∧ q.ch = ch ∧ q.cls = memClass s p ∧
        q.left = burstsOf p.addr (p.len * 16)) ∧
      (∀ q ∈ r.net, q.pid ≠ pid) ∧ r.mem = (wrEn p.addr (p.len * 16) p.data p.en s).mem)) ∧
  (∀ (rq : Requester) (k : Nat) (v : W32) (s : State), k < 12 → writable s rq MEM_CTRL_EN k 0 →
    ∃ r, exec (.memCtrlEnWrite rq k v) s = .next r ∧ rd r MEM_CTRL_EN k 0 = bitsOf v.toNat 0 1 ∧
      regsBut [fkey MEM_CTRL_EN k 0] s r ∧ bytesKept s r ∧ r = { s with regs := r.regs })

/-- A request that may issue moves one burst, which opens its row and is counted, and the last burst of a packet's read sends
its response; a refresh closes a bank's row; and a scrub, PERIOD after its channel's last, queues the read of the next burst, round
the channel's 2^31 bytes, in class 3 (R291, R293 to R295, R298).
No burst is reported by the code.
Where the spec leaves it open, the model's choice stands: log entries 33, 39, 119. -/
def Obligations.MemoryBursts : Prop :=
  (∀ (k ch i aged : Nat) (q : MReq) (s : State), (chanQueue s k ch)[i]? = some q → rd s MEM_STATUS_THR k 0 ≠ 3 →
    mayIssue s (chanQueue s k ch) i aged q = true →
    let opened : State → Prop := fun r => mapGet 0 r.openRow (bankKey k ch (bankOf q.addr)) = rowOf q.addr + 1 ∧
      ∀ x, x ≠ bankKey k ch (bankOf q.addr) → mapGet 0 r.openRow x = mapGet 0 s.openRow x
    (q.kind = 0 → ∃ r, exec (.burstIssue k ch i aged .ok) s = .next r ∧ opened r ∧ bytesKept s r ∧
      rd64 r MEM_RDB_LO_RDB MEM_RDB_HI_RDB k 0 = (rd64 s MEM_RDB_LO_RDB MEM_RDB_HI_RDB k 0 + 1) % 2 ^ 64 ∧
      (if q.left ≤ 1 ∧ q.pkt.who ≠ 9 then ∃ x, r.net = s.net ++ [x] ∧ x.typ = .rdrsp ∧ x.addr = bitsOf q.pkt.data 0 48 ∧ x.data = q.data
       else r.net = s.net)) ∧
    (q.kind ≠ 0 → ∃ r, exec (.burstIssue k ch i aged .ok) s = .next r ∧ opened r ∧ bytesKept s r ∧ r.net = s.net ∧
      (if q.kind = 3 then rd64 r MEM_RDB_LO_RDB MEM_RDB_HI_RDB k 0 = (rd64 s MEM_RDB_LO_RDB MEM_RDB_HI_RDB k 0 + 1) % 2 ^ 64
       else rd64 r MEM_WRB_LO_WRB MEM_WRB_HI_WRB k 0 = (rd64 s MEM_WRB_LO_WRB MEM_WRB_HI_WRB k 0 + 1) % 2 ^ 64))) ∧
  (∀ (k ch bank : Nat) (s : State), bank < 16 → ∃ r, exec (.refresh k ch bank) s = .next r ∧
    mapGet 0 r.openRow (bankKey k ch bank) = 0 ∧
    (∀ x, x ≠ bankKey k ch bank → mapGet 0 r.openRow x = mapGet 0 s.openRow x) ∧ r = { s with openRow := r.openRow }) ∧
  (∀ (k ch us : Nat) (s : State), rd s MEM_SCRUB_PERIOD k 0 ≠ 0 → rd s MEM_SCRUB_PERIOD k 0 ≤ us → chActive s k ch = true →
    chanReady s k ch = true →
    let a := mapGet 0 s.scrubPtr (k * 32 + ch)
    ∃ r x, exec (.scrub k ch us) s = .next r ∧ x.stack = k ∧ x.ch = ch ∧ x.kind = 3 ∧ x.cls = 3 ∧ x.addr = a ∧ x.left = 1 ∧
      r = { s with memq := s.memq ++ [x], scrubPtr := r.scrubPtr } ∧ mapGet 0 r.scrubPtr (k * 32 + ch) = (a + 64) % 2 ^ 31 ∧
      ∀ y, y ≠ k * 32 + ch → mapGet 0 r.scrubPtr y = mapGet 0 s.scrubPtr y)

/-- A training of a stack is started by PHY_TRAIN while EN is 0, and ends by its measured eyes: more than two failing lanes of channel
0, or a failing spare, fail the stack, else the spares, the channels in service, TRAINED and the training record are set, and the
module's total follows; a warm training with a valid record measures nothing; a margin run is started by PHY_MRUN and ends with its errors (R301 to R305, Table 13.8).
Where the spec leaves it open, the model's choice stands: log entries 31, 40, 108. -/
def Obligations.StackTraining : Prop :=
  (∀ (rq : Requester) (k : Nat) (v : W32) (s : State), k < 12 →
    (bitsOf v.toNat 0 1 = 1 → writable s rq PHY_TRAIN_GO k 0 → rdB s MEM_CTRL_EN k 0 = false →
      ∃ r, exec (.phyTrainGo rq k v) s = .next r ∧ mapGet 0 r.training k = 1 ∧ rd r PHY_STATUS_TBUSY k 0 = 1 ∧
        regsBut [fkey PHY_STATUS_TBUSY k 0] s r ∧ bytesKept s r ∧ r = { s with regs := r.regs, training := r.training }) ∧
    (bitsOf v.toNat 0 1 = 1 → writable s rq PHY_TRAIN_GO k 0 → rdB s MEM_CTRL_EN k 0 = true →
      ∃ r, exec (.phyTrainGo rq k v) s = .next r ∧ rd r PHY_STATUS_WRIGN k 0 = 1 ∧
        regsBut [fkey PHY_STATUS_WRIGN k 0, fkey PHY_WRIGN_OFS k 0] s r ∧ r = { s with regs := r.regs }) ∧
    (bitsOf v.toNat 31 1 = 1 → writable s rq PHY_MRUN_GO k 0 → rdB s PHY_STATUS_MBUSY k 0 = false →
      rdB s MEM_CTRL_EN k 0 = false → ∃ r, exec (.phyMrunGo rq k v) s = .next r ∧ rd r PHY_STATUS_MBUSY k 0 = 1 ∧
        rd r PHY_MRUN_BURSTS k 0 = bitsOf v.toNat 0 16 ∧
        regsBut [fkey PHY_STATUS_MBUSY k 0, fkey PHY_MRUN_BURSTS k 0] s r ∧ bytesKept s r ∧ r = { s with regs := r.regs })) ∧
  (∀ (k : Nat) (lanes : List LaneEyes) (s : State), k < 12 →
    let kind := mapGet 0 s.training k
    let bad := badLanes lanes 0 0 36
    let failed : Bool := decide (2 < bad.length) || !((badLanes lanes 0 36 2).isEmpty)
    let mask := rd s MEM_FORCEOUT_MASK k 0
    let ended : State → Prop := fun r => mapGet 0 r.training k = 0 ∧ rd r PHY_STATUS_TBUSY k 0 = 0 ∧
      rd r MEM_TOTAL_NCH 0 0 =
        ((List.range 12).map (fun k => popCount (rd r MEM_CHMAP_ACTIVE k 0) 32)).sum % 2 ^ MEM_TOTAL_NCH.width
    (kind = 3 → recordValid s k = true → ∃ r, exec (.stackTrainingComplete k lanes) s = .next r ∧ ended r ∧
      rd r MEM_STATUS_TRAINED k 0 = 1 ∧ r.mem = s.mem ∧ r.eyes = s.eyes) ∧
    (kind ≠ 0 → ¬(kind = 3 ∧ recordValid s k = true) → failed = true → ∃ r, exec (.stackTrainingComplete k lanes) s = .next r ∧ ended r ∧
      rd r MEM_STATUS_TRAINED k 0 = 0 ∧ rd r PHY_STATUS_TFAIL k 0 = 1 ∧ r.mem = s.mem) ∧
    (kind ≠ 0 → ¬(kind = 3 ∧ recordValid s k = true) → failed = false → ∃ r, exec (.stackTrainingComplete k lanes) s = .next r ∧ ended r ∧
      rd r MEM_STATUS_TRAINED k 0 = 1 ∧ rd r MEM_SPARE_LANE36 k 0 = bad.getD 0 0x3F ∧ rd r MEM_SPARE_LANE37 k 0 = bad.getD 1 0x3F ∧
      (∀ c, c < 32 → chActive r k c = !(decide (0 < c) && (decide (mask / 2 ^ (c - 1) % 2 = 1) ||
        !((badLanes lanes c 0 36).isEmpty)))) ∧
      recordValid r k = true ∧ (kind ≠ 2 →
        ∀ x, x < recordKey k 0 ∨ recordKey k (recordLen + 4) ≤ x → mapGet 0 r.mem x = mapGet 0 s.mem x))) ∧
  (∀ (k errs : Nat) (s : State), rdB s PHY_STATUS_MBUSY k 0 = true → ∃ r, exec (.marginRunComplete k errs) s = .next r ∧
    rd r PHY_STATUS_MBUSY k 0 = 0 ∧ rd r PHY_MERR_ERR k 0 = min errs (2 ^ 32 - 1) ∧
    regsBut [fkey PHY_STATUS_MBUSY k 0, fkey PHY_MERR_ERR k 0] s r ∧
    r = { s with regs := r.regs, mem := r.mem, freeIdx := r.freeIdx })

/-- A link leaves DOWN for training when PLY_CTRL.EN rises or RETRAIN is written, an UP link retrains, and EN cleared takes it down
with all it holds; a training that completes brings it up with its peer named, its sequence numbers at 0 and what it holds
numbered anew; a loss of flits retrains it, and the last failed retraining takes it down, reports it and halts the partitions that have a
window or a grant on it (R309, R319, Table 14.7).
Where the spec leaves it open, the model's choice stands: log entries 45, 47, 111. -/
def Obligations.LinkTraining : Prop :=
  (∀ (rq : Requester) (k : Nat) (v : W32) (s : State), k < 24 → writable s rq PLY_CTRL_EN k 0 →
    let written : State → Prop := fun r => rd r PLY_CTRL_EN k 0 = bitsOf v.toNat 0 1 ∧ rd r PLY_CTRL_RETRY k 0 = bitsOf v.toNat 4 4
    let only : State → Prop := fun r => bytesKept s r ∧ r = { s with regs := r.regs } ∧ regsBut [fkey PLY_CTRL_EN k 0,
      fkey PLY_CTRL_RETRY k 0, fkey PLY_STATUS_STATE k 0, fkey PLY_PEER_VALID k 0] s r
    let starts : State → Prop := fun r => written r ∧ only r ∧ rd r PLY_STATUS_STATE k 0 = 1 ∧ rd r PLY_PEER_VALID k 0 = 0
    let same : State → Prop := fun r => written r ∧ only r ∧ rd r PLY_STATUS_STATE k 0 = rd s PLY_STATUS_STATE k 0
    let down : State → Prop := fun r => written r ∧ rd r PLY_STATUS_STATE k 0 = 0 ∧ rd r PLY_PEER_VALID k 0 = 0 ∧
      heldFlits r k = [] ∧ (∀ x ∈ r.ply.lqueue, x.link ≠ k) ∧ (∀ a ∈ r.ply.away, a.1 ≠ k)
    (bitsOf v.toNat 1 1 = 0 → bitsOf v.toNat 0 1 = 1 → rdB s PLY_CTRL_EN k 0 = false →
      ∃ r, exec (.plyEnable rq k v) s = .next r ∧ starts r) ∧
    (bitsOf v.toNat 1 1 = 0 → (bitsOf v.toNat 0 1 == 1) = rdB s PLY_CTRL_EN k 0 →
      ∃ r, exec (.plyEnable rq k v) s = .next r ∧ same r) ∧
    (bitsOf v.toNat 1 1 = 0 → bitsOf v.toNat 0 1 = 0 → rdB s PLY_CTRL_EN k 0 = true →
      ∃ r, exec (.plyEnable rq k v) s = .next r ∧ down r) ∧
    (bitsOf v.toNat 1 1 = 1 → bitsOf v.toNat 0 1 = 1 → rdB s PLY_CTRL_EN k 0 = false ∨ rd s PLY_STATUS_STATE k 0 = 0 →
      ∃ r, exec (.plyRetrain rq k v) s = .next r ∧ starts r) ∧
    (bitsOf v.toNat 1 1 = 1 → bitsOf v.toNat 0 1 = 1 → rdB s PLY_CTRL_EN k 0 = true → linkUp s k = true →
      ∃ r, exec (.plyRetrain rq k v) s = .next r ∧ written r ∧ only r ∧ rd r PLY_STATUS_STATE k 0 = 4 ∧
        rd r PLY_PEER_VALID k 0 = 0) ∧
    (bitsOf v.toNat 1 1 = 1 → bitsOf v.toNat 0 1 = 0 → rdB s PLY_CTRL_EN k 0 = true →
      ∃ r, exec (.plyRetrain rq k v) s = .next r ∧ down r)) ∧
  (∀ (k peer plink : Nat) (up4 : Bool) (s : State), k < 24 → linkState s k = 1 ∨ linkState s k = 4 →
    ∃ r, exec (.plyTrainingComplete k up4 peer plink) s = .next r ∧ rd r PLY_STATUS_STATE k 0 = (if up4 then 3 else 2) ∧
      rd r PLY_PEER_ID k 0 = peer % 2 ^ 12 ∧ rd r PLY_PEER_LINK k 0 = plink % 32 ∧ rd r PLY_PEER_VALID k 0 = 1 ∧
      mapGet 0 r.ply.lexpect k = 0 ∧ mapGet false r.ply.lnak k = false ∧
      (∀ f ∈ renumber k (heldFlits s k), f ∈ heldFlits r k) ∧ r.ply.away = s.ply.away ∧
      fieldsBut [PLY_STATUS_STATE, PLY_PEER_ID, PLY_PEER_LINK, PLY_PEER_VALID, PLY_TXFLIT_LO_TX, PLY_TXFLIT_HI_TX,
        PLY_REPLAY_REPLAY, PLY_SATSTICKY_SREPLAY] s r ∧ bytesKept s r ∧
      r = { s with regs := r.regs, ply := r.ply, mirrorQ := r.mirrorQ }) ∧
  (∀ (k : Nat) (s : State), k < 24 → linkUp s k = true → ∃ r, exec (.plyLinkLoss k) s = .next r ∧
    rd r PLY_STATUS_STATE k 0 = 4 ∧ rd r PLY_PEER_VALID k 0 = 0 ∧
    regsBut [fkey PLY_STATUS_STATE k 0, fkey PLY_PEER_VALID k 0] s r ∧ bytesKept s r ∧ r = { s with regs := r.regs }) ∧
  (∀ (k : Nat) (s : State), k < 24 → linkState s k = 4 → ∃ r, exec (.plyLinkFail k) s = .next r ∧
    rd r PLY_STATUS_STATE k 0 = 0 ∧ rd r PLY_PEER_VALID k 0 = 0 ∧ rd r PLY_STATUS_DOWNEV k 0 = 1 ∧ heldFlits r k = [] ∧
    (∀ x ∈ r.ply.lqueue, x.link ≠ k) ∧ (∀ a ∈ r.ply.away, a.1 ≠ k) ∧ r.mem = s.mem ∧
    (linkParts s k = [] → raised (.link k) (plainRec 0x0801 false k (peerId s k)) s r) ∧
    (∀ p ∈ linkParts s k, rd s CRS_STATUS_STATE p 0 = 1 ∨ rd s CRS_STATUS_STATE p 0 = 2 → rd r CRS_STATUS_STATE p 0 = 3))

/-- Of the flits that come in on an UP link, one that does not pass is only counted; a DATA flit in order is accepted, with its
block forwarded once it is whole, and one out of order is discarded and answered by a NAK; every good one returns credit, and
counts the packets it says have landed. A NAK, and a replay time that runs out, resend what is held, and the sixteenth replay in
a row retrains the link (R312 to R314, R318).
Where the spec leaves it open, the model's choice stands: log entries 44, 45, 46, 48, 111. -/
def Obligations.LinkFlits : Prop :=
  (∀ (k corrected unc : Nat) (flit : BitVec 2048) (s : State), k < 24 → linkUp s k = true →
    let x := flit.toNat
    let taken := (s.ply.away.filter (fun a => a.1 == k && a.2.1 == fPart x)).take (fCount x)
    let first := bitsOf x 30 1 == 1
    let ofBlock : LFlit → Bool := fun f => f.link == k && f.vc == fVc x
    let earlier := if first then [] else (s.ply.lbuf.filter ofBlock).flatMap (fun f => f.slots)
    let returned : State → Prop := fun r => r.ply.away = s.ply.away.filter (fun a => !(taken.contains a)) ∧
      mapGet false r.ply.heardOn k = true
    (flitGood x unc = false → ∃ r, exec (.flitReceive k flit corrected unc) s = .next r ∧
      rd64 r PLY_FECCW_LO_CW PLY_FECCW_HI_CW k 0 = (rd64 s PLY_FECCW_LO_CW PLY_FECCW_HI_CW k 0 + corrected) % 2 ^ 64 ∧
      rd r PLY_FECUNC_UNC k 0 = min (rd s PLY_FECUNC_UNC k 0 + unc) (2 ^ 32 - 1) ∧
      fieldsBut [PLY_FECCW_LO_CW, PLY_FECCW_HI_CW, PLY_FECUNC_UNC, PLY_SATSTICKY_SUNC] s r ∧ bytesKept s r ∧
      r = { s with regs := r.regs }) ∧
    (flitGood x unc = true → credOver s k x = false → fKind x = 1 → fSeq x = mapGet 0 s.ply.lexpect k →
      ∃ r, exec (.flitReceive k flit corrected unc) s = .next r ∧ returned r ∧
        mapGet 0 r.ply.lexpect k = (fSeq x + 1) % 4096 ∧ mapGet false r.ply.lnak k = false ∧
        (bitsOf x 31 1 = 0 → r.ply.lbuf = s.ply.lbuf.filter (fun f => !(first && ofBlock f)) ++
          [⟨k, fSeq x, fVc x, first, false, fSlots x, 0⟩]) ∧
        (bitsOf x 31 1 = 1 → r.ply.lbuf = s.ply.lbuf.filter (fun f => !(ofBlock f)) ∧
          (fVc x = 1 ∨ fVc x = 2 → rdB s PLY_GCTL_EN 0 0 = true → r.ply.msgs = s.ply.msgs ++
            (((earlier ++ fSlots x).filter knownKind).map (fun m => (k, m)))))) ∧
    (flitGood x unc = true → credOver s k x = false → fKind x = 1 → fSeq x ≠ mapGet 0 s.ply.lexpect k →
      ∃ r, exec (.flitReceive k flit corrected unc) s = .next r ∧ returned r ∧ r.ply.lexpect = s.ply.lexpect ∧
        mapGet false r.ply.lnak k = true ∧ r.ply.lbuf = s.ply.lbuf ∧ r.ply.msgs = s.ply.msgs ∧ bytesKept s r) ∧
    (flitGood x unc = true → credOver s k x = false → fKind x = 2 →
      ∃ r, exec (.flitReceive k flit corrected unc) s = .next r ∧ returned r ∧ r.ply.lexpect = s.ply.lexpect ∧
        r.ply.lnak = s.ply.lnak ∧ r.ply.lbuf = s.ply.lbuf ∧ r.ply.msgs = s.ply.msgs ∧ bytesKept s r ∧
        ((∀ y ∈ s.ply.lqueue, y.link ≠ k) → s.mirrorQ = [] →
          (∀ vc, vc < 4 → mapGet 0 r.ply.lcred (lvKey k vc) = mapGet 0 s.ply.lcred (lvKey k vc) - fCred x vc) ∧
          heldFlits r k = (if (heldFlits s k).any (fun f => f.seq == fAck x) then
            ((heldFlits s k).dropWhile (fun f => f.seq != fAck x)).drop 1 else heldFlits s k))) ∧
    (flitGood x unc = true → credOver s k x = false → fKind x = 3 →
      let rest := heldFlits (takeAck k (fAck x) s) k
      ∃ r, exec (.nak k flit corrected unc) s = .next r ∧ returned r ∧ r.ply.lexpect = s.ply.lexpect ∧
        r.ply.lbuf = s.ply.lbuf ∧ r.ply.msgs = s.ply.msgs ∧ bytesKept s r ∧
        rd r PLY_REPLAY_REPLAY k 0 = (if rest = [] then rd s PLY_REPLAY_REPLAY k 0
          else min (rd s PLY_REPLAY_REPLAY k 0 + 1) (2 ^ 32 - 1)))) ∧
  (∀ (k : Nat) (f : LFlit) (fs : List LFlit) (s : State), linkUp s k = true → heldFlits s k = f :: fs →
    ∃ r, exec (.replayTimerExpire k) s = .next r ∧ flitsReplayed k f fs s r)

/-- ARRIVE on a link of a span's DMASK is noted, a span entry that is ready then tells its UP link, or at the root steps to its
next course and gives condition 3 of R160 to its member; RELEASE on the UP link does the same below the root; a message of another
course is SPAN_SKEW. GRACE adds to the timers of the span's member (R180, R181, R324, R325).
Where the spec leaves it open, the model's choice stands: log entries 49, 50. -/
def Obligations.SpanMessages : Prop :=
  ∀ (i k e : Nat) (m : BitVec 128) (s : State), spanEntries s (mSpan m) = [e] →
    let bit : Nat := spanDmask s e / 2 ^ k % 2
    let skew : State → Prop := fun r => raised .group (plainRec 0x0804 false (k + 2 ^ 16 * mSpan m) (peerId s k)) s r ∧
      r.ply = (tookMsg s i k).ply ∧ r.mem = s.mem
    let turned : State → Prop := fun r => rd r PLY_SPAN_STATE_COURSE 0 e = (spanCourse s e + 1) % 2 ^ 16 ∧
      mapGet 0 r.ply.spanGot e = 0 ∧ mapGet false r.ply.spanSent e = false ∧
      (spanMember s e = true → mapGet false r.grpRel (spanPart s e) = true)
    let frame : State → Prop := fun r => r.ply.msgs = s.ply.msgs.eraseIdx i ∧ bytesKept s r ∧
      fieldsBut [PLY_SPAN_STATE_COURSE, PLY_TXFLIT_LO_TX, PLY_TXFLIT_HI_TX] s r ∧
      r = { s with regs := r.regs, ply := r.ply, mirrorQ := r.mirrorQ, grpRel := r.grpRel }
    (nextMsg s i 1 k m → groupLogic s = true →
      let got := mapGet 0 s.ply.spanGot e ||| 2 ^ k
      let ready : Bool := (!(spanMember s e) || localArrived s (spanPart s e)) && (got &&& spanDmask s e) == spanDmask s e
      let waits : Bool := mapGet false s.ply.spanSent e || (spanMember s e && mapGet false s.grpRel (spanPart s e))
      (bit = 1 → mArg m % 2 ^ 16 = spanCourse s e → ready = false ∨ waits = true →
        ∃ r, exec (.spanArrive i) s = .next r ∧ mapGet 0 r.ply.spanGot e = got ∧ r.ply.spanSent = s.ply.spanSent ∧
          r.regs = s.regs ∧ frame r) ∧
      (bit = 1 → mArg m % 2 ^ 16 = spanCourse s e → ready = true → waits = false → rdB s PLY_SPAN_CFG_ROOT 0 e = true →
        ∃ r, exec (.spanArrive i) s = .next r ∧ turned r ∧ frame r) ∧
      (bit = 1 → mArg m % 2 ^ 16 = spanCourse s e → ready = true → waits = false → rdB s PLY_SPAN_CFG_ROOT 0 e = false →
        ∃ r, exec (.spanArrive i) s = .next r ∧ mapGet 0 r.ply.spanGot e = got ∧ mapGet false r.ply.spanSent e = true ∧
          r.grpRel = s.grpRel ∧ rd r PLY_SPAN_STATE_COURSE 0 e = rd s PLY_SPAN_STATE_COURSE 0 e ∧ frame r) ∧
      (bit = 1 → mArg m % 2 ^ 16 ≠ spanCourse s e → ∃ r, exec (.spanArrive i) s = .next r ∧ skew r) ∧
      (bit = 0 → exec (.spanArrive i) s = .next (tookMsg s i k))) ∧
    (nextMsg s i 2 k m → groupLogic s = true →
      (k = upLink s → mArg m % 2 ^ 16 = spanCourse s e → ∃ r, exec (.spanRelease i) s = .next r ∧ turned r ∧ frame r) ∧
      (k = upLink s → mArg m % 2 ^ 16 ≠ spanCourse s e → ∃ r, exec (.spanRelease i) s = .next r ∧ skew r) ∧
      (k ≠ upLink s → exec (.spanRelease i) s = .next (tookMsg s i k))) ∧
    (nextMsg s i 3 k m →
      let p := spanPart s e
      let us := bitsOf (mArg m) 16 16
      (spanMember s e = true → mapGet false s.parts p = true → inReset s p = false →
        ∃ r, exec (.grace i) s = .next r ∧ rd r CRS_GRACE_GRACE p 0 = min 0xFFFFFF (rd s CRS_GRACE_GRACE p 0 + us) ∧
          rd r CRS_STATUS_GRACE p 0 = 1 ∧ mapGet false r.pw.peerGrace p = true ∧ r.ply.msgs = s.ply.msgs.eraseIdx i ∧
          raised (.root p) (partRec s p 0x0407 false (2 ^ 16 * p) (mArg m % 2 ^ 12 + 2 ^ 16 * us)) s r) ∧
      (spanMember s e = false → ∃ r, exec (.grace i) s = .next r ∧ sentOnly (tookMsg s i k) r))

/-- The management messages that name no twin command: each leaves the buffer, and one for another module is passed on over the
control tree. A JOIN makes a member known and JOIN_ACK is noted; DISPATCH and ROLLOUT are put in the PF's inbox, or found it full;
the generations that another module has published or adopted are kept, and may be passed on; a RESET_REQ asserts the twin's or the Ply link's reset
source where it may, and HANDBACK returns this module to its UP link (R322, R323, R326, R332, R352).
Where the spec leaves it open, the model's choice stands: log entries 49, 52, 112. -/
def Obligations.GroupMessages : Prop :=
  ∀ (i k cons : Nat) (m : BitVec 128) (s : State),
    let u := tookMsg s i k
    (∀ x ∈ [((0x10 : Nat), Instr.hb i), (0x11, .attachReq i), (0x12, .attachAck i), (0x13, .attachNak i), (0x14, .mirrorReady i),
        (0x15, .detachReq i), (0x16, .drainDone i), (0x18, .handoverAck i), (0x19, .handoverNak i), (0x1B, .resetReq i),
        (0x20, .groupJoin i), (0x21, .joinAck i), (0x22, .dispatch i cons), (0x23, .rollout i cons), (0x24, .genPublished i),
        (0x25, .genAdopted i)], nextMsg s i x.1 k m → addressed s m = false →
      exec x.2 s = .next (flood k m u) ∧ sentOnly u (flood k m u)) ∧
    (nextMsg s i 0x10 k m → addressed s m = true → exec (.hb i) s = .next u) ∧
    (nextMsg s i 0x20 k m → addressed s m = true → ∃ r, exec (.groupJoin i) s = .next r ∧ mSrc m ∈ r.ply.members ∧
      (∀ x, x ≠ mSrc m → (x ∈ r.ply.members ↔ x ∈ s.ply.members)) ∧ sentOnly { u with ply.members := r.ply.members } r) ∧
    (nextMsg s i 0x21 k m → addressed s m = true → exec (.joinAck i) s = .next { u with ply.joined := true }) ∧
    (nextMsg s i 0x24 k m → addressed s m = true → ∃ r, exec (.genPublished i) s = .next r ∧
      mapGet 0 r.ply.published (mSrc m) = mArg m % 2 ^ 32 + 1 ∧
      (∀ x, x ≠ mSrc m → mapGet 0 r.ply.published x = mapGet 0 s.ply.published x) ∧
      sentOnly { u with ply.published := r.ply.published } r) ∧
    (nextMsg s i 0x25 k m → addressed s m = true → ∃ r, exec (.genAdopted i) s = .next r ∧
      mapGet 0 r.ply.adopted (mSrc m) = mArg m % 2 ^ 32 + 1 ∧
      (∀ x, x ≠ mSrc m → mapGet 0 r.ply.adopted x = mapGet 0 s.ply.adopted x) ∧
      sentOnly { u with ply.adopted := r.ply.adopted } r) ∧
    (∀ x ∈ [((0x22 : Nat), Instr.dispatch i cons), (0x23, .rollout i cons)], nextMsg s i x.1 k m → addressed s m = true →
      let prod := s.hst.inboxProd
      let used := (prod + 2 ^ 32 - cons % 2 ^ 32) % 2 ^ 32
      let slot := mbxBase s 0 + 0x100 + prod % 32 * 16
      (used < 32 → ∃ r, exec x.2 s = .next r ∧ r.hst.inboxProd = (prod + 1) % 2 ^ 32 ∧ r.ply = u.ply ∧
        (∀ j, j < 16 → rdHost r (slot + j) = BitVec.ofNat 8 (m.toNat / 256 ^ j)) ∧
        (∀ j, j < 4 → rdHost r (mbxBase s 0 + 0x80 + j) = BitVec.ofNat 8 ((prod + 1) % 2 ^ 32 / 256 ^ j)) ∧
        (∀ h, (h < slot ∨ slot + 16 ≤ h) → (h < mbxBase s 0 + 0x80 ∨ mbxBase s 0 + 0x84 ≤ h) → rdHost r h = rdHost s h) ∧
        r = { u with hostMem := r.hostMem, hst := r.hst, vecPend := r.vecPend, vecSent := r.vecSent }) ∧
      (32 ≤ used → ∃ r, exec x.2 s = .next r ∧ raised .endpoint (plainRec 0x0905 false 0 0) s r ∧ r.hostMem = s.hostMem ∧
        r.hst = s.hst ∧ r.ply = u.ply)) ∧
    (nextMsg s i 0x1B k m → addressed s m = true →
      let src : Nat := if isTwin s k then 3 else 6
      (rdB s PLY_GCTL_RSTEN 0 0 = true → isTwin s k = true ∨ k = upLink s → ∃ r, exec (.resetReq i) s = .next r ∧
        sourced src (namedReach s src (mArg m % 8)) s r) ∧
      (rdB s PLY_GCTL_RSTEN 0 0 = false ∨ (isTwin s k = false ∧ k ≠ upLink s) → ∃ r, exec (.resetReq i) s = .next r ∧
        raised .group (plainRec 0x080A false k (peerId s k)) s r ∧ r.ply = u.ply ∧ r.bt = s.bt)) ∧
    (nextMsg s i 0x1A k m → ∃ r, exec (.handback i) s = .next r ∧ r.ply.msgs = s.ply.msgs.eraseIdx i ∧
      rd r PLY_CTREE_ALT 0 0 = (if rd s PLY_CTREE_UP 0 0 < 24 ∧ rd s PLY_PEER_ID (rd s PLY_CTREE_UP 0 0) 0 = mArg m % 2 ^ 12 then 0
        else rd s PLY_CTREE_ALT 0 0) ∧
      fieldsBut [PLY_CTREE_ALT, PLY_TXFLIT_LO_TX, PLY_TXFLIT_HI_TX] s r ∧ bytesKept s r ∧
      r = { s with regs := r.regs, ply := r.ply, mirrorQ := r.mirrorQ })

/-- The attachment of twins: ATTACH begins it and DETACH ends a pair; in it, a request or acknowledgement of the other side with
this module's digest starts the full mirror, one of the same side or of another digest refuses it, and both mirrors complete make
the modules PAIRED. A partner lost, or that has drained, is covered once its confirmer agrees or where it has none, and a refusal is
TWIN_CONFLICT; a leaving module goes when its own leave is acknowledged (R327, R328, R331, Table 14.10).
Messages by which cover begins.
Where the spec leaves it open, the model's choice stands: log entries 51, 52, 53. -/
def Obligations.TwinAttachmentAndCover : Prop :=
  ((∀ (rq : Requester) (v : W32) (s : State), writable s rq PLY_TWIN_CTL_CMD 0 0 → rdB s PLY_GCTL_EN 0 0 = true →
     (bitsOf v.toNat 28 3 = 1 → twinState s = 0 → ∃ r, exec (.twinAttach rq v) s = .next r ∧ twinState r = 1 ∧
       r.ply.twin = ⟨false, false, false, false, false, false, false, 0⟩ ∧ r.ply.heardOn = [] ∧ r.ply.silent = [] ∧ bytesKept s r) ∧
     (bitsOf v.toNat 28 3 = 2 → twinState s = 2 → ∃ r, exec (.twinDetach rq v) s = .next r ∧ twinState r = 3 ∧
       r.ply.twin.drained = false ∧ bytesKept s r)) ∧
   (∀ (i k : Nat) (m : BitVec 128) (s : State), addressed s m = true →
     let stays : State → Prop := fun r => sentOnly (tookMsg s i k) r
     let side := rd s PLY_GID_SIDE 0 0
     let refused : State → Prop := fun r => rd r PLY_TWIN_STATUS_REFUSED 0 0 = 1 ∧ twinLeft 0 0x0808 s r
     let met : State → Prop := fun r => twinState r = 1 ∧ rd r PLY_TWIN_STATUS_PARTNER 0 0 = mSrc m ∧ r.mirroring = true ∧
       r.ply.twin.acked = true ∧ bytesKept s r
     (∀ x ∈ [((0x11 : Nat), Instr.attachReq i), (0x12, .attachAck i)], nextMsg s i x.1 k m → twinState s = 1 →
       (mSide m = side ∨ mArg m ≠ myDigest s → ∃ r, exec x.2 s = .next r ∧ refused r) ∧
       (mSide m ≠ side → mArg m = myDigest s → ∃ r, exec x.2 s = .next r ∧ met r)) ∧
     (nextMsg s i 0x11 k m → twinState s = 0 → ∃ r, exec (.attachReq i) s = .next r ∧ stays r) ∧
     (nextMsg s i 0x12 k m → twinState s ≠ 1 → exec (.attachAck i) s = .next (tookMsg s i k)) ∧
     (nextMsg s i 0x13 k m → twinState s = 1 → mArg m = 1 ∨ mArg m = 2 → ∃ r, exec (.attachNak i) s = .next r ∧ refused r) ∧
     (nextMsg s i 0x13 k m → twinState s ≠ 1 ∨ (mArg m ≠ 1 ∧ mArg m ≠ 2) →
       exec (.attachNak i) s = .next (tookMsg s i k)) ∧
     (nextMsg s i 0x14 k m → ∃ r, exec (.mirrorReady i) s = .next r ∧ r.ply.twin.readyGot = true ∧ bytesKept s r ∧
       twinState r = (if s.ply.twin.readySent = true ∧ (twinState s = 1 ∨ twinState s = 5) then 2 else twinState s))) ∧
   (∀ s : State, twinState s = 1 ∨ twinState s = 5 → s.mirroring = true → s.ply.twin.readySent = false → mirrorFlushed s = true →
     rd s PLY_CKPT_CNT_COUNT 0 0 ≤ s.ply.ckptNext → s.ply.ckptOpen = none → ∃ r, exec .initialMirrorComplete s = .next r ∧
       r.ply.twin.readySent = true ∧ twinState r = (if s.ply.twin.readyGot = true then 2 else twinState s) ∧ bytesKept s r)) ∧
  (∀ (i k : Nat) (m : BitVec 128) (s : State), addressed s m = true →
     let x := mArg m % 2 ^ 12
     let partner := rd s PLY_TWIN_STATUS_PARTNER 0 0
     let covered : State → Prop := fun r => twinState r = 5 ∧ r.ply.twin.covered = partner + 1 ∧ r.mirroring = false ∧
       (s.ply.twin.lost = true → rd r PLY_TWIN_STATUS_LOST 0 0 = 1 ∧ twinLeft 5 0x0805 s r)
     (nextMsg s i 0x16 k m → twinState s = 2 → mSrc m = partner → ∃ r, exec (.drainDone i) s = .next r ∧
       (partner = 0 → covered r) ∧ (partner ≠ 0 → sentOnly { tookMsg s i k with freeIdx := s.freeIdx + 1 } r)) ∧
     (nextMsg s i 0x18 k m →
       (twinState s = 2 → x = partner → ∃ r, exec (.handoverAck i) s = .next r ∧ covered r) ∧
       (twinState s = 3 → x = myId s → ∃ r, exec (.handoverAck i) s = .next r ∧ twinState r = 4 ∧
         regsBut [fkey PLY_TWIN_STATUS_STATE 0 0] s r ∧ r = { tookMsg s i k with regs := r.regs, mirroring := false })) ∧
     (nextMsg s i 0x19 k m → twinState s = 2 → x = partner → ∃ r, exec (.handoverNak i) s = .next r ∧
       rd r PLY_TWIN_STATUS_CONFLICT 0 0 = 1 ∧ twinLeft 0 0x0807 s r))

/-- A module on leave is known to its confirmer, which answers HANDOVER; to every other module HANDOVER is news. In a pair
heartbeats and pulses are sent, and their absence over a loss time is noted; the mirror engine copies the next entry of the checkpoint
list, once no update of its layer is active, or finds it bad (R329 to R333, Table 14.10).
Where the spec leaves it open, the model's choice stands: log entries 50, 51, 53, 113. -/
def Obligations.TwinLossAndCheckpoints : Prop :=
  (∀ (i k : Nat) (m : BitVec 128) (s : State),
    let x := mArg m % 2 ^ 12
    (nextMsg s i 0x15 k m → addressed s m = true → ∃ r, exec (.detachReq i) s = .next r ∧ mSrc m ∈ r.ply.detached ∧
      (∀ y, y ≠ mSrc m → (y ∈ r.ply.detached ↔ y ∈ s.ply.detached)) ∧
      r = { tookMsg s i k with ply.detached := r.ply.detached }) ∧
    (nextMsg s i 0x17 k m →
      (∀ d, addressed s m = true → downLinkTo s x = some d → ∃ r, exec (.handover i) s = .next r ∧ sentOnly (tookMsg s i k) r) ∧
      (addressed s m = false ∨ downLinkTo s x = none → ∃ r, exec (.handover i) s = .next r ∧
        let up := rd s PLY_CTREE_UP 0 0
        rd r PLY_CTREE_ALT 0 0 = (if up < 24 ∧ rd s PLY_PEER_ID up 0 = x ∧ rd s PLY_CTREE_ALTUP 0 0 ≠ 31 then 1
          else rd s PLY_CTREE_ALT 0 0) ∧ r.ply.msgs = s.ply.msgs.eraseIdx i ∧ bytesKept s r))) ∧
  (∀ s : State, rdB s PLY_GCTL_EN 0 0 = true →
    (inPair s = true → ∃ r, exec (.heartbeatTimer true) s = .next r ∧ r.ply.pulses = s.ply.pulses + 1 ∧
      r = { s with ply.pulses := r.ply.pulses }) ∧
    (inPair s = true → ∃ r, exec (.heartbeatTimer false) s = .next r ∧ sentOnly s r) ∧
    (∃ r, exec .twinHbPulse s = .next r ∧ r = { s with ply.twin.pulsed := true }) ∧
    (twinState s = 3 → s.ply.twin.drained = false → allHeld s = true → mirrorFlushed s = true →
      s.mirroring = false ∨ s.ply.ckptOpen = none →
      ∃ r, exec .twinDrainComplete s = .next r ∧ sentOnly { s with ply.twin.drained := true } r) ∧
    (twinState s ≠ 4 → ∃ r, exec .twinPartnerLost s = .next r ∧ r.ply.twin.heard = false ∧ r.ply.twin.pulsed = false ∧
      rd r PLY_TWIN_STATUS_PINLOST 0 0 = (if s.ply.twin.pulsed = true then 0 else 1) ∧
      (∀ k, k < 24 → mapGet false r.ply.silent k = !(mapGet false s.ply.heardOn k)) ∧
      (s.ply.twin.heard = true → rd r PLY_TWIN_STATUS_LINKLOST 0 0 = 0 ∧ twinState r = twinState s) ∧
      (s.ply.twin.heard = false → s.ply.twin.pulsed = true → inPair s = true → rd r PLY_TWIN_STATUS_LINKLOST 0 0 = 1 ∧
        twinState r = twinState s ∧ (rdB s PLY_TWIN_STATUS_LINKLOST 0 0 = false → r.mirroring = false)) ∧
      (s.ply.twin.heard = false → s.ply.twin.pulsed = false → twinState s = 2 → s.ply.twin.lost = false →
        r.ply.twin.lost = true ∧ (twinState r = if rd s PLY_TWIN_STATUS_PARTNER 0 0 = 0 then 5 else 2)))) ∧
  (∀ s : State, rdB s PLY_GCTL_EN 0 0 = true → s.mirroring = true →
    let n := rd s PLY_CKPT_CNT_COUNT 0 0
    let j := s.ply.ckptNext % n
    let e := ckptEntry s j
    let a := rd s PLY_TWIN_CTL_LINKA 0 0
    let copied : State → Prop := fun r => r.ply.ckptOpen = none ∧ bytesKept s r
    n ≠ 0 → rd s PLY_CKPT_CNT_RATE 0 0 ≠ 0 →
    (∀ i f, s.ply.ckptOpen = some (i, f) → (ckBusy s f = true → exec .ckptEntryCopy s = .next s) ∧
      (ckBusy s f = false → ∃ r, exec .ckptEntryCopy s = .next r ∧ copied r ∧ r.ply.ckptNext = s.ply.ckptNext)) ∧
    (s.ply.ckptOpen = none → ∃ r, exec .ckptEntryCopy s = .next r ∧ r.ply.ckptNext = s.ply.ckptNext + 1 ∧
      (ckptBad s e = true → raised .group (plainRec 0x0809 false (a + 2 ^ 16 * ckPart e) (peerId s a)) s r ∧ r.mem = s.mem) ∧
      (ckptBad s e = false → ckBusy s e = true → r.ply.ckptOpen = some (j, e) ∧ bytesKept s r) ∧
      (ckptBad s e = false → ckBusy s e = false → copied r)))

/-- The endpoint: the reference clock and the link as their events set them; a configuration request is answered with Request Retry
Status until hub firmware has written the configuration space, and then reads a field, or sets NumVFs, a BAR2's size or a function's
Relaxed Ordering; a vector is masked or unmasked and a doorbell read; a BAR2 write becomes write packets, and a BAR2 read returns the
module's bytes, waits, or is refused; a read that has waited its time is aborted with BAR_STALL (R26, R335 to R343, R349). No word of
a read is reported by its code.
The resets of the host's side: a VF's FLR holds its partition in PARTITION reset, clears its mailbox and vectors and ends its
moderation; a PF FLR, a hot reset and DL_Down hold every partition and disable every VF, and DL_Down loses the link (R354).
Where the spec leaves it open, the model's choice stands: log entries 72, 73, 74, 96, 110, 118. -/
def Obligations.EndpointAccessesAndHostResets : Prop :=
  ((∀ s : State, exec .hostRefclkLoss s = .next { s with hst.hclk := false } ∧
     exec .hostRefclkReturn s = .next { s with hst.hclk := true }) ∧
   (∀ (speed width : Nat) (s : State), s.bt.endpointRst = false → s.hst.hclk = true → 1 ≤ speed → speed ≤ 5 →
     [1, 4, 8, 16].contains width = true → ∃ r, exec (.pcieLinkUp speed width) s = .next r ∧ rd r PCI_STATUS_SPEED 0 0 = speed ∧
       rd r PCI_STATUS_WIDTH 0 0 = width ∧ rd r PCI_STATUS_LINKUP 0 0 = 1 ∧ r = { s with regs := r.regs } ∧
       regsBut [fkey PCI_STATUS_SPEED 0 0, fkey PCI_STATUS_WIDTH 0 0, fkey PCI_STATUS_LINKUP 0 0] s r) ∧
   (∀ s : State, s.bt.endpointRst = false → rdB s PCI_STATUS_LINKUP 0 0 = true → s.hst.hclk = true →
     (∀ q, toConfig q = true → s.hst.cfgReady = false → exec (.configRequest q) s = .next { s with hst.cfgAnswer := 1 }) ∧
     (s.hst.cfgReady = true → exec (.configRequest .other) s = .next { s with hst.cfgAnswer := 2 } ∧
       (∀ f x, exec (.configRequest (.read f x)) s = .next (if fnThere s f then cfgGive (cfgField s f x) s
         else { s with hst.cfgAnswer := 3 })) ∧
       (∀ f on, fnThere s f = true → ∃ r, exec (.configRequest (.relaxed f on)) s = .next r ∧ mapGet false r.hst.roOff f = !on ∧
         (∀ g, g ≠ f → mapGet false r.hst.roOff g = mapGet false s.hst.roOff g) ∧
         r = { s with hst.cfgAnswer := 2, hst.roOff := r.hst.roOff }) ∧
       (inFrog s = false → (∀ n, n ≤ 16 → exec (.configRequest (.numVFs n)) s = .next { s with hst.cfgAnswer := 2, hst.numVFs := n }) ∧
         ∀ f l, f ≤ 16 → l ≤ 6 → ∃ r, exec (.configRequest (.bar2 f l)) s = .next r ∧ bar2Size r f = 2 ^ (30 + l) ∧
           (∀ g, g ≠ f → bar2Size r g = bar2Size s g) ∧ r = { s with hst.cfgAnswer := 2, hst.b2size := r.hst.b2size })) ∧
     (∀ f v masked, fnLive s f = true → f ≤ 16 → vecThere s f v = true → ∃ r, exec (.configRequest (.msixMask f v masked)) s = .next r ∧
       maskedVec f v masked s r) ∧
     (∀ f, barLive s f = true → exec (.configRequest (.mailboxRead f)) s = .next (cfgGive 0 s) ∧
       (∀ p, f = p + 1 → exec (.configRequest (.consRead f)) s = .next (cfgGive (rd s PCI_RO_CONS_CONS 0 p) s)) ∧
       ∀ e, e < 32 → exec (.configRequest (.tailRead f e)) s = .next (cfgGive (if dmaOwner s e = f then dmaTail s e else 0) s))) ∧
   (∀ (f ofs n v en : Nat) (s : State), barLive s f = true → ofs + n ≤ bar2Size s f → n ≠ 0 →
     let a := bar2Addr s f ofs
     (∀ x, bar2Refused s f a n true = some x → ∃ r, exec (.bar2Write f ofs n v en) s = .next r ∧ hostDenied f x s r) ∧
     (bar2Refused s f a n true = none → ∃ r, exec (.bar2Write f ofs n v en) s = .next r ∧
       hostWrote f a n v en s r) ∧
     let rest := s.hst.barWait.erase (f, ofs, n)
     (∀ x out, bar2Refused s f a n false = some x → ∃ r, exec (.bar2Read f ofs ⟨n, out⟩) s = .next r ∧ hostDenied f x s r ∧
       r.hst.barData = 0 ∧ r.hst.barAnswer = 1 ∧ r.hst.barWait = rest) ∧
     (∀ out, bar2Refused s f a n false = none → bar2Blocked s f a n = true →
       exec (.bar2Read f ofs ⟨n, out⟩) s = .next { s with hst.barWait := rest ++ [(f, ofs, n)] }) ∧
     (bar2Refused s f a n false = none → bar2Blocked s f a n = false → ∃ r, exec (.bar2Read f ofs ⟨n, none, []⟩) s = .next r ∧
       hostGot f a n s r ∧ r.hst.barAnswer = 1 ∧ r.hst.barWait = rest)) ∧
   (∀ (f : Nat) (x : Nat × Nat × Nat) (s : State), s.hst.barWait.find? (fun x => x.1 == f) = some x →
     ∃ r, exec (.barReadTimeout f) s = .next r ∧ r.hst.barWait = s.hst.barWait.erase x ∧ r.hst.barAnswer = 2 ∧
       raised .endpoint (plainRec 0x0904 false (f - 1) f) s r ∧ r.mem = s.mem)) ∧
  (∀ s : State,
     (∀ p, p < 16 → fnLive s (p + 1) = true → ∃ r, exec (.vfFlr (p + 1)) s = .next r ∧ vfFresh p s r) ∧
     (fnLive s 0 = true → (∃ r, exec .pfFlr s = .next r ∧ hostFresh s r) ∧ (∃ r, exec .hotReset s = .next r ∧ hostFresh s r) ∧
       (∃ r, exec .dlDown s = .next r ∧ hostFresh s r ∧ rd r PCI_STATUS_LINKUP 0 0 = 0 ∧ rd r PCI_STATUS_SPEED 0 0 = 0 ∧
         rd r PCI_STATUS_WIDTH 0 0 = 0)))

/-- The doorbells and the state of a DMA engine: TAIL and CONS take a value that the ring's room allows, and any other is ignored with
DOORBELL_BAD; the moderation time signals the ring's vector; EN takes an engine from IDLE to RUN and from HALTED to IDLE, and STOP
ends an idle ring at once, a descriptor that is done with its record, and any other early (R342, R350, Table 15.6).
Where the spec leaves it open, the model's choice stands: log entries 70, 110. -/
def Obligations.EngineControl : Prop :=
  (∀ (f e v : Nat) (s : State), barLive s f = true → e < 32 →
    let n := dmaSize s e
    let used := (dmaTail s e + n - dmaHead s e) % n
    let fits := dmaOwner s e = f ∧ v < n ∧ (v + n - dmaTail s e) % n ≤ n - 1 - used
    (fits → ∃ r, exec (.dmaTailDoorbell f e v) s = .next r ∧ dmaTail r e = v ∧ regsBut [fkey PCI_DMA_IDX_TAIL 0 e] s r ∧
      bytesKept s r ∧ r = { s with regs := r.regs }) ∧
    (¬fits → ∃ r, exec (.dmaTailDoorbell f e v) s = .next r ∧ rd r PCI_FN_STATUS_DBIGN 0 f = 1 ∧
      raised .endpoint (plainRec 0x0903 false e f) s r ∧ dmaTail r e = dmaTail s e ∧ r.mem = s.mem)) ∧
  (∀ (p v : Nat) (s : State), barLive s (p + 1) = true →
    let cons := rd s PCI_RO_CONS_CONS 0 p
    let fits := (v % 2 ^ 32 + 2 ^ 32 - cons) % 2 ^ 32 ≤ (rd s PCI_RO_PROD_PROD 0 p + 2 ^ 32 - cons) % 2 ^ 32
    (fits → ∃ r, exec (.rolloutConsDoorbell (p + 1) v) s = .next r ∧ rd r PCI_RO_CONS_CONS 0 p = v % 2 ^ 32 ∧
      regsBut [fkey PCI_RO_CONS_CONS 0 p] s r ∧ bytesKept s r ∧ r = { s with regs := r.regs }) ∧
    (¬fits → ∃ r, exec (.rolloutConsDoorbell (p + 1) v) s = .next r ∧ rd r PCI_FN_STATUS_DBIGN 0 (p + 1) = 1 ∧
      raised .endpoint (plainRec 0x0903 false p (p + 1)) s r ∧ r.mem = s.mem)) ∧
  (∀ (p : Nat) (s : State), mapGet 0 s.roPend p ≠ 0 → rd s PCI_RO_CFG_MODUS 0 p ≠ 0 →
    ∃ r, exec (.rolloutModerationTimer p) s = .next r ∧ mapGet 0 r.roPend p = 0 ∧
      let k := (p + 1) * 2048 + rd s PCI_RO_CFG_VECTOR 0 p
      (vecThere s (p + 1) (rd s PCI_RO_CFG_VECTOR 0 p) = true → if mapGet false s.vecMask k = true then mapGet 0 r.vecSent k = mapGet 0 s.vecSent k + 1 else mapGet false r.vecPend k = true) ∧
      r = { s with roPend := r.roPend, vecSent := r.vecSent, vecPend := r.vecPend }) ∧
  (∀ (rq : Requester) (e : Nat) (v : W32) (s : State), e < 32 → writable s rq PCI_DMA_CTL_EN 0 e →
    let frame : State → Prop := fun r => bytesKept s r ∧ r = { s with regs := r.regs } ∧
      fieldsBut [PCI_DMA_CTL_EN, PCI_DMA_CTL_VECTOR, PCI_DMA_STATUS_STATE, PCI_STATUS_WRIGN, PCI_WRIGN_OFS] s r
    (bitsOf v.toNat 1 1 = 0 → ∃ r, exec (.dmaEnable rq e v) s = .next r ∧ rd r PCI_DMA_CTL_EN 0 e = bitsOf v.toNat 0 1 ∧
      dmaState r e = (if rdB s PCI_DMA_CTL_EN 0 e = false ∧ bitsOf v.toNat 0 1 = 1 ∧ dmaState s e = 0 then 1
        else if rdB s PCI_DMA_CTL_EN 0 e = true ∧ bitsOf v.toNat 0 1 = 0 ∧ dmaState s e = 3 then 0 else dmaState s e) ∧ frame r) ∧
    (bitsOf v.toNat 1 1 = 1 → dmaState s e = 1 → dmaNow s e = none → ∃ r, exec (.dmaStop rq e v) s = .next r ∧
      rd r PCI_DMA_CTL_EN 0 e = 0 ∧ dmaState r e = 0 ∧ frame r) ∧
    (∀ x, bitsOf v.toNat 1 1 = 1 → dmaState s e = 1 → dmaNow s e = some x → dmaDone s x = true → x.stop = false →
      ∃ r, exec (.dmaStop rq e v) s = .next r ∧ rd r PCI_DMA_CTL_EN 0 e = 0 ∧ dmaState r e = 0 ∧ dmaHead r e = (x.idx + 1) % dmaSize s e ∧
        r.hst.dmas = s.hst.dmas.erase x ∧ bytesKept s r) ∧
    (∀ x, bitsOf v.toNat 1 1 = 1 → dmaState s e = 1 → dmaNow s e = some x → dmaDone s x = false ∨ x.stop = true →
      ∃ r, exec (.dmaStop rq e v) s = .next r ∧ dmaState r e = 1 ∧ dmaNow r e = some { x with stop := true } ∧ r.hreads = s.hreads.filter (fun h => h.kind != .dma e) ∧
      bytesKept s r))

/-- A descriptor that its engine takes up at CHEAD: a malformed one, one whose read fails and one whose address is refused end
FAILED with their record, the engine HALTED; a COPY out of the host becomes a read, a COPY into the host is posted there, and
a COPY within the module and a FILL become write packets of the engine (R26, R218, R344 to R347, Tables 15.4 to 15.6). HCLK runs, no
firing goes ahead on the engine, the channels accept a COPY's reads, and no word that it reads is reported by its code.
Where the spec leaves it open, the model's choice stands: log entries 33, 70, 71, 96, 118. -/
def Obligations.DescriptorsStart : Prop :=
  ∀ (e : Nat) (desc : BitVec 256) (s : State), e < 32 → dmaState s e = 1 → rdB s PCI_DMA_CTL_EN 0 e = true →
    dmaHead s e ≠ dmaTail s e → dmaNow s e = none → s.hst.hclk = true → firingOn s e = false →
    let d := desc.toNat
    let n := ddLen d
    let x : Dma := ⟨e, dmaHead s e, d, 0, false⟩
    let x1 : Dma := { x with bytes := n }
    let failed : State → Prop := fun r => dmaState r e = 3 ∧ dmaHead r e = (dmaHead s e + 1) % dmaSize s e ∧
      (∀ y ∈ r.hreads, y.kind ≠ .dma e) ∧ r.mem = s.mem ∧ r.net = s.net
    let halted : State → Prop := fun r => ∀ p, dmaPart s e = some p → rd s CRS_STATUS_STATE p 0 = 1 ∨ rd s CRS_STATUS_STATE p 0 = 2 →
      rd r CRS_STATUS_STATE p 0 = 3
    let kept : State → Prop := fun r => (∀ t y, target s (ddSrc d) ≠ .store t y) → bytesKept s r
    let pushed : State → Prop := fun r => r.hst.dmas = s.hst.dmas ++ [x1] ∧ kept r ∧ r.hreads = s.hreads ∧
      ∃ ps : List Pkt, r.net = s.net ++ ps ∧ ps.length = (pieces (n + 1) (ddDst d) (ddDst d) n).length ∧
        (∀ q ∈ ps, q.typ = .wr ∧ q.src = nodeDma e ∧ q.part = dmaPart s e ∧ q.who = 7 ∧ q.tag = dmaHead s e) ∧
        ps.map (fun q => q.addr) = (pieces (n + 1) (ddDst d) (ddDst d) n).map (fun y => y.2.1)
    let srcOk := dmaRefused s e (ddSrc d) n false = none
    let dstOk := dmaRefused s e (ddDst d) n true = none
    (∀ out, ddOp d = 1 → dmaBad s e d = true → ∃ r, exec (.dmaCopy e desc out) s = .next r ∧ failed r ∧ halted r) ∧
    (∀ out, ddOp d = 1 → dmaBad s e d = false → ¬(srcOk ∧ dstOk) → ∃ r, exec (.dmaCopy e desc out) s = .next r ∧ failed r) ∧
    (∀ h, ddOp d = 1 → dmaBad s e d = false → srcOk → dstOk → target s (ddSrc d) = .host h →
      ∃ r, exec (.dmaCopy e desc ⟨none, []⟩) s = .next r ∧ r.hst.dmas = s.hst.dmas ++ [x] ∧
        r.hreads = s.hreads ++ [⟨.dma e, h, ddDst d, n, e, dmaPart s e, ddSig d, ddStitch d⟩] ∧
        r = { s with hst := r.hst, hreads := r.hreads }) ∧
    (∀ h, ddOp d = 1 → dmaBad s e d = false → srcOk → dstOk → (∀ g, target s (ddSrc d) ≠ .host g) → target s (ddDst d) = .host h →
      stacksTake s → ∃ r, exec (.dmaCopy e desc ⟨none, []⟩) s = .next r ∧ r.hst.dmas = s.hst.dmas ++ [x1] ∧ kept r ∧ r.net = s.net ∧
        (∀ i, i < n → rdHost r (h + i) = BitVec.ofNat 8 ((unitRead 1 (nodeDma e) (dmaPart s e) none (ddSrc d) n s).1 / 256 ^ i)) ∧
        (∀ i, i < h ∨ h + n ≤ i → rdHost r i = rdHost s i)) ∧
    (ddOp d = 1 → dmaBad s e d = false → srcOk → dstOk → (∀ g, target s (ddSrc d) ≠ .host g) →
      (∀ g, target s (ddDst d) ≠ .host g) → stacksTake s → ∃ r, exec (.dmaCopy e desc ⟨none, []⟩) s = .next r ∧ pushed r) ∧
    (ddOp d = 2 → dmaBad s e d = true → ∃ r, exec (.dmaFill e desc) s = .next r ∧ failed r ∧ halted r) ∧
    (ddOp d = 2 → dmaBad s e d = false → ¬dstOk → ∃ r, exec (.dmaFill e desc) s = .next r ∧ failed r) ∧
    (ddOp d = 2 → dmaBad s e d = false → dstOk → ∃ r, exec (.dmaFill e desc) s = .next r ∧ pushed r) ∧
    (ddOp d ≠ 1 → ddOp d ≠ 2 → dmaBad s e d = true → ∃ r, exec (.dmaNop e (some desc)) s = .next r ∧ failed r ∧ halted r) ∧
    (dmaBad s e d = false → ddOp d = 3 → ∃ r, exec (.dmaNop e (some desc)) s = .next r ∧ r.hst.dmas = s.hst.dmas ++ [x] ∧
      r = { s with hst := r.hst }) ∧
    (∃ r, exec (.dmaNop e none) s = .next r ∧ failed r ∧ halted r)

/-- A descriptor that is done gets its completion record and, if it asks, its engine's vector; a stopped one ends STOPPED with EN 0.
A completion brings the next bytes of a host read, as packets of the engine or as the answer to a tile; a failed or missing one is
DMA_HOSTERR, and ends what read (R345, R346, R348, R349). HCLK runs (R26).
Where the spec leaves it open, the model's choice stands: log entries 70, 71, 118. -/
def Obligations.DescriptorsEnd : Prop :=
  (∀ (e : Nat) (x : Dma) (s : State), s.hst.hclk = true → dmaNow s e = some x → dmaDone s x = true →
    let base := rd s PCI_DMA_CBASE_LO_BASE 0 e * 2 ^ 12 + 2 ^ 32 * rd s PCI_DMA_CBASE_HI_BASE 0 e + x.idx * 16
    let ended : State → Nat → Prop := fun r st => dmaHead r e = (x.idx + 1) % dmaSize s e ∧ r.hst.dmas = s.hst.dmas.erase x ∧
      (∀ i, i < 16 → rdHost r (base + i) =
        BitVec.ofNat 8 ((st + 2 ^ 16 * ddTag x.d + 2 ^ 32 * (x.bytes % 2 ^ 32) + 2 ^ 80 * x.idx) / 256 ^ i)) ∧
      (∀ i, i < base ∨ base + 16 ≤ i → rdHost r i = rdHost s i) ∧ r.mem = s.mem
    (x.stop = true → ∃ r, exec (.dmaDescriptorComplete e) s = .next r ∧ ended r 2 ∧ rd r PCI_DMA_CTL_EN 0 e = 0 ∧ dmaState r e = 0) ∧
    (x.stop = false → ∃ r, exec (.dmaDescriptorComplete e) s = .next r ∧ ended r 1 ∧ dmaState r e = dmaState s e ∧
      (∀ p, dmaPart s e = some p → ddSig x.d = true → inStash (ddDst x.d) = true →
        r.stops = s.stops ++ [⟨p, ddStitch x.d, 1, nodeDma e, 7, 0, nodeDma e⟩]) ∧
      (ddIrq x.d = true → vecThere s (dmaOwner s e) (rd s PCI_DMA_CTL_VECTOR 0 e) = true →
        let k := dmaOwner s e * 2048 + rd s PCI_DMA_CTL_VECTOR 0 e
        if mapGet false s.vecMask k = true then mapGet 0 r.vecSent k = mapGet 0 s.vecSent k + 1
        else mapGet false r.vecPend k = true) ∧
      (ddIrq x.d = false → r.vecSent = s.vecSent ∧ r.vecPend = s.vecPend))) ∧
  (∀ (i data : Nat) (h : HRead) (s : State), s.hst.hclk = true → s.hreads[i]? = some h →
    let k := hostChunk h
    (∃ r, exec (.hostCompletion i data true) s = .next r ∧ bytesKept s r ∧
      r.hreads = (advanceRead k i s).hreads ∧
      (∀ p, h.kind = .mesh p → ∃ q : Pkt, r.net = s.net ++ [q] ∧ q.typ = .rdrsp ∧ q.data = data % 2 ^ (8 * k)) ∧
      ((∀ p, h.kind ≠ .mesh p) → ∃ ps : List Pkt, r.net = s.net ++ ps ∧ ps.length ≤ (pieces (k + 1) h.dst h.dst k).length ∧
        ∀ q ∈ ps, q.typ = .wr ∧ q.src = nodeDma h.eng ∧ q.part = h.part)) ∧
    (∀ c ∈ [Instr.hostCompletion i data false, .hostCompletionTimeout i],
      (∀ p, h.kind = .mesh p → ∃ r, exec c s = .next r ∧ r.hreads = s.hreads.erase h ∧ r.mem = s.mem ∧
        ∀ q, h.part = some q → rd s CRS_STATUS_STATE q 0 = 1 ∨ rd s CRS_STATUS_STATE q 0 = 2 → rd r CRS_STATUS_STATE q 0 = 3) ∧
      (∀ e x, h.kind = .dma e → dmaNow s e = some x → ∃ r, exec c s = .next r ∧ dmaState r e = 3 ∧
        dmaHead r e = (x.idx + 1) % dmaSize s e ∧ (∀ y ∈ r.hreads, y.kind ≠ .dma e) ∧ r.mem = s.mem) ∧
      (∀ p entry, h.kind = .firing p entry → ∃ r, exec c s = .next r ∧ r.mem = s.mem ∧
        ∀ f ∈ r.firings, ¬(f.part = p ∧ f.entry = entry)) ∧
      (∀ y, h.kind = .restore y → ∃ r, exec c s = .next r ∧ eState (skein r y) = kEmitting ∧ eReason (skein r y) = 5 ∧
        (∀ m ∈ r.moves, m.skein ≠ y) ∧ (∀ z ∈ r.hreads, z.kind ≠ .restore y))))

/-- A mailbox doorbell puts the function's request behind the others and shows it busy, or is ignored while one is in progress; a
request that the function, or frog mode, may not make is refused with its STATUS and changes nothing (R342, R351, Tables 15.7 and
17.13).
Where the spec leaves it open, the model's choice stands: log entries 31, 77. -/
def Obligations.MailboxRequests : Prop :=
  ∀ (f seq a b d e g h i j k l : Nat) (x y : Bool) (bs cs : List Byte) (ws : List W32) (sp : List (Nat × W32 × Nat)) (us : List Nat)
    (s : State),
    let partition : Bool → List Instr := fun z => [.partCreate z f seq a b d e g h i, .partDestroy z f seq a,
      .windowSet z f seq a b d e g, .dmaeAssign z f seq a b, .tensionSet z f seq a b, .plySet z f seq a b x d e g h i j,
      .groupSet z f seq a b d e g h sp, .msgSend z f seq a b d]
    let owners : Bool → List Instr := fun z => [.partHold z f seq a x, .stitchMap z f seq a ws,
      .shardSet z f seq a b d x e g h i j k]
    let frogs : Bool → List Instr := fun z => [.flashWrite z f seq a bs x, .ramStart z f seq bs, .restart z f seq,
      .bootRecord z f seq a, .identity z f seq, .reprovision z f seq bs cs, .debugNonce z f seq, .debugUnlock z f seq a bs cs,
      .debugLock z f seq]
    let starts : Bool → List Instr := fun z => [.attest z f seq a b, .svnCommit z f seq, .spill z f seq a b d y us]
    let unknown : Bool → List Instr := fun z => if (1 ≤ l ∧ l ≤ 0x0B) ∨ (0x10 ≤ l ∧ l ≤ 0x1B) then [] else
      [.mailboxUnknownCmd z f seq l]
    (∀ c ∈ partition true ++ owners true ++ frogs true ++ starts true ++ unknown true, fnLive s f = true →
      (f ∈ s.hst.doorbell → ∃ r, exec c s = .next r ∧ rd r PCI_FN_STATUS_DBIGN 0 f = 1 ∧ r.hst = s.hst ∧
        raised .endpoint (plainRec 0x0903 false (f - 1) f) s r) ∧
      (f ∉ s.hst.doorbell → ∃ r, exec c s = .next r ∧ r.hst.doorbell = s.hst.doorbell ++ [f] ∧
        rd r PCI_FN_STATUS_MBUSY 0 f = 1 ∧ regsBut [fkey PCI_FN_STATUS_MBUSY 0 f] s r ∧
        r = { s with regs := r.regs, hst.doorbell := r.hst.doorbell })) ∧
    (served s f →
      (∀ c ∈ partition false ++ owners false, inFrog s = true → denies c f seq stUnknown s) ∧
      (∀ c ∈ partition false, inFrog s = false → f ≠ 0 → denies c f seq stDenied s) ∧
      (∀ c ∈ owners false, inFrog s = false → f ≠ 0 → f ≠ a + 1 → denies c f seq stDenied s) ∧
      (∀ c ∈ frogs false ++ starts false, f ≠ 0 → denies c f seq stDenied s) ∧
      (∀ c ∈ starts false, inFrog s = true → denies c f seq stDenied s) ∧
      (∀ c ∈ unknown false, denies c f seq stUnknown s))

/-- What hub firmware does with the requests that make, free and hold partitions, give them windows, and map their stitches, for the
PF, and where a VF may make them for its owner (R30 to R33, R154, R168, R290, R337, R351).
Where the spec leaves it open, the model's choice stands: log entries 32, 77, 78, 79. -/
def Obligations.PartitionServices : Prop :=
  (∀ (seq p mask planes first count prof budget : Nat) (s : State), served s 0 → inFrog s = false →
    let c : Instr := .partCreate false 0 seq p mask planes first count prof budget
    let bad := 16 ≤ p ∨ 2 ^ 96 ≤ mask ∨ 2 ^ 32 ≤ planes ∨ 40960 < first + count ∨ 1 < prof
    (bad → denies c 0 seq stBadArg s) ∧
    (¬bad → createConflict s p mask planes first count budget = true → denies c 0 seq stConflict s) ∧
    (¬bad → createConflict s p mask planes first count budget = false →
      grants c 0 seq s (partMade p mask planes first count prof budget s))) ∧
  (∀ (seq p : Nat) (s : State), served s 0 → inFrog s = false →
    (p < 16 → mapGet false s.parts p = true → grants (.partDestroy false 0 seq p) 0 seq s (fun q =>
      mapGet false q.parts p = false ∧ (∀ x, partOfCluster q x ≠ some p) ∧
      (∀ w, w < 8 → mapGet ⟨0, 0, 0⟩ q.windows (p * 8 + w) = ⟨0, 0, 0⟩) ∧ rd q CRS_PLANES_MASK p 0 = 0 ∧
      rd q SKN_RANGE_COUNT 0 p = 0 ∧ rd q PWR_BUDGET_BUDGET 0 p = 0 ∧ rd q RST_PHOLD_HOLD 0 0 / 2 ^ p % 2 = 0)) ∧
    (¬(p < 16 ∧ mapGet false s.parts p = true) → denies (.partDestroy false 0 seq p) 0 seq stBadArg s)) ∧
  (∀ (f seq p : Nat) (s : State), served s f → inFrog s = false → f = 0 ∨ f = p + 1 → p < 16 → mapGet false s.parts p = true →
    grants (.partHold false f seq p true) f seq s (fun q => rd q RST_PHOLD_HOLD 0 0 / 2 ^ p % 2 = 1 ∧
      (rd s RST_PHOLD_HOLD 0 0 / 2 ^ p % 2 = 0 → rd q CRS_STATUS_STATE p 0 = 0)) ∧
    grants (.partHold false f seq p false) f seq s (fun q => rd q RST_PHOLD_HOLD 0 0 / 2 ^ p % 2 = 0 ∧
      regsBut [fkey RST_PHOLD_HOLD 0 0] s q ∧ q = { tookBell s with regs := q.regs }) ∧
    (∀ list : List W32, f = 0 ∨ inReset s p = true →
      let z := list.foldl (mapEntry p) (answerOk (tookBell s))
      (z.status = stOk → grants (.stitchMap false f seq p list) f seq s (fun q => q = z.next)) ∧
      (z.status ≠ stOk → denies (.stitchMap false f seq p list) f seq z.status s))) ∧
  (∀ (p : Nat) (x : W32) (s : State), p < 16 →
    let z := mapEntry p (answerOk s) x
    let lid := bitsOf x.toNat 0 14
    let al := bitsOf x.toNat 16 14
    let ph := rd s STC_XT_DATA_PHYS p al
    let mine := rdB s STC_CTL_OWNED (ph / 4096) (ph % 4096) = true ∧ rd s STC_CTL_OWNER (ph / 4096) (ph % 4096) = p
    let bound : Nat → Prop := fun y => rd z.next STC_XT_DATA_VALID p lid = 1 ∧ rd z.next STC_XT_DATA_PHYS p lid = y % 2 ^ 14
    (bitsOf x.toNat 31 1 = 1 → (rdB s STC_XT_DATA_VALID p al = true → z.status = stOk ∧ (mine → bound ph) ∧
        (¬mine → rd z.next STC_XT_DATA_VALID p lid = rd s STC_XT_DATA_VALID p lid)) ∧
      (rdB s STC_XT_DATA_VALID p al = false → z.status = stBadArg)) ∧
    (bitsOf x.toNat 31 1 = 0 → freeStitch s p = none → z.status = stNone) ∧
    (∀ y, bitsOf x.toNat 31 1 = 0 → freeStitch s p = some y → z.status = stOk ∧ bound y ∧
      rdB z.next STC_CTL_OWNED (y / 4096) (y % 4096) = true ∧ rd z.next STC_CTL_OWNER (y / 4096) (y % 4096) = p)) ∧
  (∀ (seq p w base len mask : Nat) (s : State), served s 0 → inFrog s = false → p < 16 → mapGet false s.parts p = true → w < 8 →
    mask < 2 ^ 16 →
    (windowConflict s p base len = true → denies (.windowSet false 0 seq p w base len mask) 0 seq stConflict s) ∧
    (windowConflict s p base len = false → grants (.windowSet false 0 seq p w base len mask) 0 seq s (fun q =>
      mapGet ⟨0, 0, 0⟩ q.windows (p * 8 + w) = (if len = 0 then ⟨0, 0, 0⟩ else ⟨base, len, mask⟩) ∧
      (∀ x, x ≠ p * 8 + w → mapGet ⟨0, 0, 0⟩ q.windows x = mapGet ⟨0, 0, 0⟩ s.windows x) ∧
      q = { tookBell s with windows := q.windows })))

/-- What hub firmware does with the requests about shards, engines, budgets, links, groups and messages, for the PF, and about
shards for the owner too (R32, R218, R234, R238, R315, R317, R321, R322, R324, R344, R351).
Where the spec leaves it open, the model's choice stands: log entries 31, 78, 79. -/
def Obligations.ResourceServices : Prop :=
  (∀ (f seq p b entry cur base0 base1 len gen0 gen1 : Nat) (valid : Bool) (s : State), served s f → inFrog s = false →
    f = 0 ∨ f = p + 1 → p < 16 → mapGet false s.parts p = true → inReset s p = true → b < 12 → entry < 4096 → cur ≤ 1 →
    base0 % 256 = 0 → base1 % 256 = 0 → base0 < 2 ^ 48 → base1 < 2 ^ 48 → len < 2 ^ 24 →
    rdB s BLK_SH_CTL_VALID b entry = false ∨ rd s BLK_SH_CTL_PART b entry = p →
    grants (.shardSet false f seq p b entry valid cur base0 base1 len gen0 gen1) f seq s (fun q =>
      rd q BLK_SH_CTL_PART b entry = p ∧ rd q BLK_SH_CTL_VALID b entry = (if valid then 1 else 0) ∧
      rd q BLK_SH_CTL_CURSLOT b entry = cur ∧ rd q BLK_SH_LEN_LEN b entry = len ∧ slotBase q b entry 0 = base0 ∧
      slotBase q b entry 1 = base1 ∧ slotGen q b entry 0 = gen0 % 2 ^ 32 ∧ slotGen q b entry 1 = gen1 % 2 ^ 32 ∧
      (valid = true → slotValid q b entry cur = false ∧ slotValid q b entry (1 - cur) = true) ∧
      bytesKept s q ∧ q = { tookBell s with regs := q.regs })) ∧
  (∀ (seq e owner p budget : Nat) (s : State), served s 0 → inFrog s = false →
    (e < 32 → owner ≤ 16 ∨ owner = 31 →
      (firingOn s e = true → denies (.dmaeAssign false 0 seq e owner) 0 seq stNone s) ∧
      (firingOn s e = false → dmaState s e ≠ 0 → denies (.dmaeAssign false 0 seq e owner) 0 seq stConflict s) ∧
      (firingOn s e = false → dmaState s e = 0 → grants (.dmaeAssign false 0 seq e owner) 0 seq s (fun q => dmaOwner q e = owner ∧
        regsBut [fkey PCI_DMA_CTL_OWNER 0 e] s q ∧ q = { tookBell s with regs := q.regs }))) ∧
    (p < 16 → mapGet false s.parts p = true → budget < 2 ^ 15 →
      (22000 < budgetsBut s p + budget → denies (.tensionSet false 0 seq p budget) 0 seq stConflict s) ∧
      (budgetsBut s p + budget ≤ 22000 → grants (.tensionSet false 0 seq p budget) 0 seq s (fun q =>
        rdNext q PWR_BUDGET_BUDGET 0 p = budget ∧ rd q PWR_BUDGET_BUDGET 0 p = rd s PWR_BUDGET_BUDGET 0 p ∧ q.mem = s.mem)))) ∧
  (∀ (seq k n p lbase llen pbase ppart mask : Nat) (s : State), served s 0 → inFrog s = false → k < 24 → n < 16 → p < 16 →
    lbase < 2 ^ 14 → llen < 2 ^ 14 → pbase < 2 ^ 22 → ppart < 16 → mask < 2 ^ 16 → llen ≠ 0 →
    (∃ i, i < 8 ∧ (mapGet ⟨0, 0, 0⟩ s.windows (p * 8 + i)).base = lbase ∧ (mapGet ⟨0, 0, 0⟩ s.windows (p * 8 + i)).len = llen) →
    rdB s PLY_WINPEER_VALID k n = false ∨ inReset s (rd s PLY_WINLOC_PART k n) = true →
    (∀ x ∈ plyWindows s, (x.1 = k ∧ x.2.1 = n) ∨ rangesMeet lbase llen x.2.2.1 x.2.2.2 = false) →
    grants (.plySet false 0 seq k n true p lbase llen pbase ppart mask) 0 seq s (plyBound k n p lbase llen pbase ppart mask s)) ∧
  (∀ (seq gid role up altup down tdown : Nat) (sp : List (Nat × W32 × Nat)) (s : State), served s 0 → inFrog s = false →
    (rdB s PLY_GCTL_EN 0 0 = true → denies (.groupSet false 0 seq gid role up altup down tdown sp) 0 seq stDenied s) ∧
    (rdB s PLY_GCTL_EN 0 0 = false → gid < 2 ^ 12 → role < 3 → valueRefused s PLY_GID_ROLE 0 0 role 0 = false → up < 32 → altup < 32 →
      down < 2 ^ 24 → tdown < 2 ^ 24 → sp.any (spanBad (down ||| tdown)) = false →
      grants (.groupSet false 0 seq gid role up altup down tdown sp) 0 seq s (fun q => myId q = gid ∧
        rd q PLY_GID_ROLE 0 0 = role ∧ rd q PLY_CTREE_UP 0 0 = up ∧ rd q PLY_CTREE_ALTUP 0 0 = altup ∧
        rd q PLY_CDOWN_DOWN 0 0 = down ∧ rd q PLY_CTDOWN_TDOWN 0 0 = tdown ∧ bytesKept s q ∧
        ∀ x, sp.getLast? = some x → spanWritten x q))) ∧
  (∀ (seq kind dst arg : Nat) (s : State), served s 0 → inFrog s = false → kind = 0x22 ∨ kind = 0x23 → dst < 2 ^ 12 →
    arg < 2 ^ 64 →
    (rdB s PLY_GCTL_EN 0 0 = false → denies (.msgSend false 0 seq kind dst arg) 0 seq stDenied s) ∧
    (rdB s PLY_GCTL_EN 0 0 = true → grants (.msgSend false 0 seq kind dst arg) 0 seq s (fun q =>
      q = sendTo kind dst arg (tookBell s) ∧ sentOnly (tookBell s) q)))

/-- The services of the flash and of starts: a checked image is programmed into the copy that does not run, or is run from memory
in frog mode under policy 0b10; RESTART is answered and then resets the module with reach COLD; BOOT_RECORD posts the count of failed
starts and the last entries. An image that fails a check is reported and nothing else changes (R383 to R386, Table 17.13).
Where the spec leaves it open, the model's choice stands: log entries 61, 90, 91. -/
def Obligations.ImageServices : Prop :=
  ∀ (seq c buf : Nat) (img : List Byte) (ok : Bool) (s : State), served s 0 →
    let n := hostCheck s img
    (1 < c → denies (.flashWrite false 0 seq c img ok) 0 seq stBadArg s) ∧
    (c ≤ 1 → inFrog s = false → rd s BOOT_STATUS_IMAGE 0 0 = c → denies (.flashWrite false 0 seq c img ok) 0 seq stDenied s) ∧
    (c ≤ 1 → inFrog s = true ∨ rd s BOOT_STATUS_IMAGE 0 0 ≠ c → img.length ≤ 0x10000000 →
      ∃ q r, exec (.flashWrite false 0 seq c img ok) s = .next r ∧
        answered s 0 seq (if n = 0 ∧ ok = true then stOk else stBadArg) q r ∧
        (if n ≠ 0 then q = imageBadRec 2 n (tookBell s)
         else (∀ i, i < 0x10000000 → flashByte q c i = (if ok = true ∧ i < img.length then img.getD i 0 else 0xFF) ∧
            flashByte q (1 - c) i = flashByte s (1 - c) i) ∧
          q.bt.bootSecs = (if ok then (appendBoot beFlashed s).bt.bootSecs else s.bt.bootSecs) ∧ q.mem = s.mem ∧
          q.hostMem = s.hostMem)) ∧
    (inFrog s = false ∨ bootPolicy s ≠ 2 → denies (.ramStart false 0 seq img) 0 seq stDenied s) ∧
    (inFrog s = true → bootPolicy s = 2 → ∃ q r, exec (.ramStart false 0 seq img) s = .next r ∧
      answered s 0 seq (if n = 0 then stOk else stBadArg) q r ∧
      (if n ≠ 0 then q = imageBadRec 2 n (tookBell s)
       else (∀ k, k < 12 → mapGet 0 q.training k = 2 ∧ rd q PHY_STATUS_TBUSY k 0 = 1) ∧
        (parseInit (imgSection (listImg img) 2) = [] → rd q BOOT_STATUS_STATE 0 0 = 0 ∧ rd q BOOT_STATUS_IMAGE 0 0 = 2 ∧
          q.bt.exiting = (if rd s RST_LAST_REACH 0 0 = 4 then 4 else 5) ∧ q.bt.hostImage = img ∧
          q.bt.activeSvn = (listImg img 6).toNat))) ∧
    (∃ r, exec (.restart false 0 seq) s = .next r ∧ sourced 5 5 s r ∧
      ∀ i, i < 4 → rdHost r (mbxBase s 0 + 64 + i) = BitVec.ofNat 8 (2 ^ 16 * (seq % 2 ^ 16) / 256 ^ i)) ∧
    grants (.bootRecord false 0 seq buf) 0 seq s (fun q =>
      let last := (bootEntries s).drop ((bootEntries s).length - 64)
      (∀ i, i < 16 → rdHost q (buf + i) = BitVec.ofNat 8 (bootCount s / 256 ^ i)) ∧
      (∀ e x i, last[e]? = some x → i < 16 → rdHost q (buf + 16 + 16 * e + i) = BitVec.ofNat 8 (x.toNat / 256 ^ i)) ∧
      q = { tookBell s with hostMem := q.hostMem })

/-- The services of identity and debugging: IDENTITY answers the public key, ATTEST a report and its signature by the next
leaf, REPROVISION burns the next key generation on a valid token; DEBUG_NONCE answers a fresh value that the spec leaves open (log
entry 4), DEBUG_UNLOCK opens a level on a valid token over it and DEBUG_LOCK closes it; SVN_COMMIT raises the fused version; SPILL
posts skein entries of the spill to the host; and the console takes its input while a level is open (R380, R388 to R391).
Where the spec leaves it open, the model's choice stands: log entries 61, 62, 87, 89, 91, 92. -/
def Obligations.IdentityServices : Prop :=
  (∀ (seq nonce buf level first count : Nat) (key sig : List Byte) (release : Bool) (ue : List Nat) (s : State), served s 0 →
    let base := mbxBase s 0
    let kgen := rd s FUSE_SEC_KGEN 0 0
    let only : State → Prop := fun q => q = { tookBell s with regs := q.regs }
    (∃ q r, exec (.identity false 0 seq) s = .next r ∧ answered s 0 seq stOk q r ∧
      (∀ i, i < 60 → rdHost r (base + 68 + i) = BitVec.ofNat 8 (Config.identityKey kgen / 256 ^ i)) ∧
      (∀ i, i < 4 → rdHost r (base + 0x88 + i) = BitVec.ofNat 8 ((rd s SEC_LEAVES_LEFT 0 0 + 2 ^ 24 * kgen +
        2 ^ 31 * rd s SEC_STATUS_RETIRED 0 0) / 256 ^ i)) ∧ q = { tookBell s with hostMem := q.hostMem }) ∧
    (inFrog s = false → rdB s SEC_STATUS_RETIRED 0 0 = true →
      denies (.attest false 0 seq nonce buf) 0 seq (if s.bt.sigTop = 2 ^ 20 then stNone else stDenied) s) ∧
    (inFrog s = false → rdB s SEC_STATUS_RETIRED 0 0 = false → grants (.attest false 0 seq nonce buf) 0 seq s (fun q =>
      let rep := attestReport (reserveLeaves (tookBell s)) nonce s.bt.nextLeaf
      q.bt.nextLeaf = s.bt.nextLeaf + 1 ∧
      q.bt.sigTop = (if s.bt.nextLeaf < s.bt.sigTop then s.bt.sigTop else s.bt.sigTop + 1024) ∧
      (∀ i, i < 128 → rdHost q (buf + i) = BitVec.ofNat 8 (rep / 256 ^ i)) ∧
      (∀ i, i < 2964 → rdHost q (buf + 128 + i) =
        BitVec.ofNat 8 (Config.identitySig kgen s.bt.nextLeaf (leNum (sha256 (leBytes 128 rep))) / 256 ^ i)) ∧ q.mem = s.mem)) ∧
    (15 ≤ kgen → denies (.reprovision false 0 seq key sig) 0 seq stNone s) ∧
    (kgen < 15 → let ok := tokenOk s key sig (serialBytes s ++ beBytes 1 (kgen + 1))
      ∃ q r, exec (.reprovision false 0 seq key sig) s = .next r ∧ answered s 0 seq (if ok then stOk else stBadArg) q r ∧
        (if ok then rd q FUSE_SEC_KGEN 0 0 = kgen + 1 ∧ rd q SEC_STATUS_RETIRED 0 0 = 0 ∧ rd q SEC_LEAVES_LEFT 0 0 = 2 ^ 20 ∧
          q.bt.nextLeaf = 0 ∧ q.bt.sigTop = 0 else q = hubRecord 0x0B05 0 (tookBell s))) ∧
    (∃ q r, exec (.debugNonce false 0 seq) s = .next r ∧ answered s 0 seq stOk q r ∧
      (∀ v, q.bt.nonce = some v → ∀ i, i < 32 → rdHost r (base + 68 + i) = BitVec.ofNat 8 (v / 256 ^ i)) ∧
      q.bt.nonce = some (Config.free s.freeIdx 0 % 2 ^ 256) ∧
      q = { tookBell s with freeIdx := s.freeIdx + 1, bt.nonce := q.bt.nonce }) ∧
    (rd s FUSE_SEC_DBGMAX 0 0 < level ∨ 2 < level → denies (.debugUnlock false 0 seq level key sig) 0 seq stDenied s) ∧
    (level ≤ rd s FUSE_SEC_DBGMAX 0 0 → level ≤ 2 →
      let ok : Bool := match s.bt.nonce with
        | some v => tokenOk s key sig (serialBytes s ++ leBytes 32 v ++ beBytes 1 level)
        | none => false
      ∃ q r, exec (.debugUnlock false 0 seq level key sig) s = .next r ∧ answered s 0 seq (if ok then stOk else stBadArg) q r ∧
        (if ok then rd q SEC_STATUS_DBG 0 0 = level ∧ q.bt.nonce = none ∧ regsBut [fkey SEC_STATUS_DBG 0 0] s q
          else q = hubRecord 0x0B05 0 (tookBell s))) ∧
    grants (.debugLock false 0 seq) 0 seq s (fun q => rd q SEC_STATUS_DBG 0 0 = 0 ∧ regsBut [fkey SEC_STATUS_DBG 0 0] s q ∧ only q) ∧
    (inFrog s = false → grants (.svnCommit false 0 seq) 0 seq s (fun q =>
      rd q FUSE_SEC_SVN 0 0 = max (rd s FUSE_SEC_SVN 0 0) s.bt.activeSvn % 64 ∧ regsBut [fkey FUSE_SEC_SVN 0 0] s q ∧ only q)) ∧
    (inFrog s = false → 65536 < first + count → denies (.spill false 0 seq first count buf release ue) 0 seq stBadArg s) ∧
    (inFrog s = false → first + count ≤ 65536 → spillWaits 0 first count ue s = false → grants (.spill false 0 seq first count buf release ue) 0 seq s (fun q =>
      q.spilling = (release || s.spilling) ∧ q.mem = s.mem ∧ ∀ j i, j < 2 * count → i < 64 →
        let b := 2 * first + j
        rdHost q (buf + 64 * j + i) = mapGet 0 s.mem (spillKey (if ue.contains b then 6 else 0) 0 + 64 * b + i)))) ∧
  (∀ (b : Byte) (s : State),
    (rd s SEC_STATUS_DBG 0 0 = 0 → exec (.uartConsoleInput b) s = .next s) ∧
    (rd s SEC_STATUS_DBG 0 0 ≠ 0 → exec (.uartConsoleInput b) s = .next { s with hst.uartOut := s.hst.uartOut ++ [b] }))

/-- The SMBus target: while hub firmware serves it and the PEC is right, each command answers what it is for, reading the errors
releases ALERT_N, and SMB_HOST_CAP sets the cap; a command with a wrong PEC is discarded (R353, R369, R410). The bytes of each answer are the model's layout (log entry
65). -/
def Obligations.SmbusCommands : Prop :=
  (∀ (v : Nat) (s : State), smbServes s = true →
    let reads : Instr → Nat → Prop := fun c x => exec c s = .next { s with hst.smbReply := x }
    reads (.smbDeviceId true) (rd s FUSE_DEVID_DEVICE 0 0 + 2 ^ 32 * rd s FUSE_DEVID_STEPPING 0 0 +
      2 ^ 64 * rd64 s FUSE_SERIAL_LO_SERIAL FUSE_SERIAL_HI_SERIAL 0 0) ∧
    reads (.smbState true) (rd s BOOT_STATUS_STATE 0 0 + 2 ^ 16 * rd s BOOT_STATUS_FAILS 0 0) ∧
    (∃ x, reads (.smbTemperatures true) x ∧ (∀ d, d < 4 → bitsOf x (8 * d) 8 = rd s THM_DIE_TEMP d 0 % 256) ∧
      bitsOf x 32 8 = rd s THM_H_TEMP 0 0 % 256) ∧
    reads (.smbPower true) (packN 16 [rd s PWR_INPUT_VIN 0 0, rd s PWR_INPUT_IIN 0 0, rd s PWR_POWER_PIN 0 0]) ∧
    reads (.smbThrottle true) (activeReasons s) ∧
    (∃ r, exec (.smbErrors true) s = .next r ∧ r.hst.smbReply = rd s ERR_SMB_COUNT 0 0 + 2 ^ 16 * rd s ERR_SMB_CODE 0 0 ∧
      rd r ERR_SMB_COUNT 0 0 = 0 ∧ alertLow r = false ∧ regsBut [fkey ERR_SMB_COUNT 0 0] s r ∧
      r = { s with regs := r.regs, hst.smbReply := r.hst.smbReply }) ∧
    (∃ r, exec (.smbHostCap true v) s = .next r ∧ rd r PWR_HOSTCAP_CAP 0 0 = v % 2 ^ 16 ∧
      regsBut [fkey PWR_HOSTCAP_CAP 0 0] s r ∧ r = { s with regs := r.regs })) ∧
  (∀ (v : Nat) (s : State), ∀ c ∈ [Instr.smbDeviceId false, .smbState false, .smbTemperatures false, .smbPower false,
    .smbThrottle false, .smbErrors false, .smbHostCap false v], exec c s = .next s)

/-- The input and the rails: the input starts the rails through 39.5 V and is out of the ratings of Table 19.7 above 48.0 V, where the
block stops (the model's name for R416's "not specified", log entry 2); PWR_OK releases the power-on source; a lost input clears
all but the fuses and the flash; a rail's fault is fatal. An emergency event is recorded with its stretching, takes its steps
down and ends, with grace to every partition; and the checks and holds of tension go on (R4, R356, R361, R362, R365 to R367,
R369, R415, Table 16.6).
Where the spec leaves it open, the model's choice stands: log entries 54, 75. -/
def Obligations.PowerEvents : Prop :=
  (∀ (v : Nat) (s : State), (4800 < v → exec (.vinRise v) s = .fault .outsideRatings) ∧
    (v ≤ 4800 → ∃ r, exec (.vinRise v) s = .next r ∧
      r.pw.power = (if s.pw.power = 0 ∧ 3950 ≤ v then 1 else s.pw.power) ∧ r = { s with pw.power := r.pw.power })) ∧
  (∀ s : State, s.pw.power = 1 → ∃ r, exec .powerOn s = .next r ∧ r.pw.power = 2 ∧ sourceOn r 0 = false ∧
    (∀ i, 1 ≤ i → i < 9 → sourceOn r i = sourceOn s i) ∧ regsBut [fkey RST_STATUS_SRC 0 0] s r ∧
    r = { s with regs := r.regs, pw.power := 2 }) ∧
  (∀ s : State, s.pw.power ≠ 0 → ∃ r, exec .powerLoss s = .next r ∧ r.pw.power = 0 ∧ r.mem = [] ∧ r.bt.latched = 5 ∧
    sourceOn r 0 = true ∧ r.bt.flash = s.bt.flash ∧ r.bt.bootSecs = s.bt.bootSecs ∧ r.bt.sigSecs = s.bt.sigSecs ∧
    ∀ f u n, f.id % 1024 ≠ RST_STATUS_SRC.id % 1024 →
      rd r f u n = (if (frameIds .fuse).contains (f.id % 1024) then rd s f u n else initOf f u)) ∧
  (∀ (rail mv : Nat) (s : State), s.pw.power = 2 → rail ≤ 14 → ∃ r, exec (.railFault rail mv) s = .next r ∧
    sourced 8 (fusedReach s 8) s r) ∧
  (∀ s : State, governed s = true →
    (∀ vin, vin < droopVth s → s.pw.emerg.contains (1, 0) = false → ∃ r, exec (.inputDroop vin) s = .next r ∧
      eventBegun 1 s r ∧ rd r PWR_INPUT_VIN 0 0 = vin % 2 ^ 16) ∧
    (s.pw.emerg.contains (2, 0) = false → ∃ r, exec .inputCurrentLimit s = .next r ∧ eventBegun 2 s r)) ∧
  (∀ (ev d : Nat) (s : State),
    let obj : Nat := if ev = 3 then d else 0
    s.pw.emerg.contains (ev, obj) = true → ∃ r, exec (.emergencyStepTimer ev d) s = .next r ∧
      (∀ k, opOf r k = (if k ∈ eventDies ev obj ∧ opOf s k < 15 then opOf s k + 1 else opOf s k)) ∧ r.pw.emerg = s.pw.emerg ∧
      r.mem = s.mem) ∧
  (∀ (ev obj vin : Nat) (s : State), s.pw.emerg.contains (ev, obj) = true →
    (ev = 1 ∧ droopVth s + 50 ≤ vin) ∨ ev = 2 ∨ (ev = 3 ∧ dieTemp s obj < (rd s THM_LIM_TCRIT obj 0 : Int) - 5) →
    ∃ r, exec (.emergencyEnd ev obj vin) s = .next r ∧ r.pw.emerg = s.pw.emerg.filter (fun e => e != (ev, obj)) ∧
      (∀ d ∈ eventDies ev obj, mapGet false r.pw.stretch (d * 8 + eventReason ev) = false) ∧
      r = { s with pw.emerg := r.pw.emerg, pw.stretch := r.pw.stretch }) ∧
  (∀ s : State, s.pw.emerg ≠ [] → ∃ r, exec .graceResendTimer s = .next r ∧ r.mem = s.mem ∧ noticed s r) ∧
  (∀ (rq : Requester) (v : W32) (s : State), writable s rq PWR_HOSTCAP_CAP 0 0 → ∃ r, exec (.hostcapWrite rq v) s = .next r ∧
    rd r PWR_HOSTCAP_CAP 0 0 = bitsOf v.toNat 0 16 ∧ regsBut [fkey PWR_HOSTCAP_CAP 0 0] s r ∧ r = { s with regs := r.regs }) ∧
  (∀ (p : Nat) (s : State), mapGet 0 s.pw.tension p = 1 → rd s CRS_STATUS_STATE p 0 = 2 →
    let c := chargeOf s p (courseOf s p + 1)
    ∃ r, exec (.tensionRecheck p) s = .next r ∧ r.mem = s.mem ∧
      (c ≤ budgetNext s p → mapGet 0 r.pw.tension p = 2 ∧ mapGet 0 r.pw.chargeNext p = c ∧ r.regs = s.regs) ∧
      (budgetNext s p < c → rdB s PWR_TPOL_STALL 0 p = true → mapGet 0 r.pw.tension p = 1 ∧ r.regs = s.regs) ∧
      (budgetNext s p < c → rdB s PWR_TPOL_STALL 0 p = false → rd r CRS_STATUS_STATE p 0 = 3 ∧
        raised .governor { tensionRec s p 0x0A01 true c (budgetNext s p) with halt := some p } s r)) ∧
  (∀ (p : Nat) (s : State), ∃ r, exec (.overdrawHoldEnd p) s = .next r ∧ mapGet false r.pw.odHold p = false ∧
    (∀ q, q ≠ p → mapGet false r.pw.odHold q = mapGet false s.pw.odHold q) ∧ r = { s with pw.odHold := r.pw.odHold })

/-- Sensors and operating points: a sample sets the temperatures, the thermal causes and the trip; a poll sets a stack's throttle
state; a hold that has run forces a step down and abandons one up; recovery and the power cap ask for their steps, which are taken
at once on a die without partitions and else wait (R299, R300, R364, R368 to R370, Tables 13.7 and 16.6).
Where the spec leaves it open, the model's choice stands: log entries 54, 76, 117. -/
def Obligations.ThermalAndSteps : Prop :=
  (∀ (vin iin pin due : Nat) (dies : List (Int × Nat)) (s : State), s.pw.power = 2 → dies.length = 5 →
    let temps := dies.map (fun x => x.1)
    let lim : Int := rd s THM_LIM_TTRIP 0 0
    ((∀ t ∈ temps, t < lim) → s.pw.thermTrip = false → s.bt.latched < 4 →
      ∃ r, exec (.sensorSample vin iin pin dies due) s = .next r ∧ rd r PWR_INPUT_VIN 0 0 = vin % 2 ^ 16 ∧
        rd r PWR_INPUT_IIN 0 0 = iin % 2 ^ 16 ∧ rd r PWR_POWER_PIN 0 0 = pin % 2 ^ 16 ∧
        (∀ d x, d < 4 → dies[d]? = some x → rd r THM_DIE_TEMP d 0 = (BitVec.ofInt 8 x.1).toNat ∧
          rd r THM_DIE_HOTSEN d 0 = x.2 % 32 ∧
          mapGet false r.pw.hotDie d = (if (rd s THM_LIM_THOT d 0 : Int) ≤ x.1 then true
            else if x.1 < (rd s THM_LIM_THOT d 0 : Int) - 5 then false else mapGet false s.pw.hotDie d)) ∧
        (∀ x, dies[4]? = some x → rd r THM_H_TEMP 0 0 = (BitVec.ofInt 8 x.1).toNat) ∧ r.mem = s.mem) ∧
    ((∃ t ∈ temps, lim ≤ t) → s.pw.thermTrip = false → ∃ r, exec (.sensorSample vin iin pin dies due) s = .next r ∧
      sourced 7 (fusedReach s 7) s r ∧ r.pw.thermTrip = true) ∧
    ((∀ t ∈ temps, t < lim - 10) → s.pw.thermTrip = true → ∃ r, exec (.sensorSample vin iin pin dies due) s = .next r ∧
      sourceOn r 7 = false ∧ r.pw.thermTrip = false)) ∧
  (∀ (k : Nat) (temp : Int) (s : State), k < 12 → s.pw.power = 2 → s.bt.latched = 0 →
    let now := rd s MEM_STATUS_THR k 0
    let nx := nextThr now temp
    ∃ r, exec (.tempPoll k temp) s = .next r ∧ rd r MEM_TEMP_TEMP k 0 = (BitVec.ofInt 8 temp).toNat ∧
      rd r MEM_STATUS_THR k 0 = nx ∧ (85 ≤ temp → rd r MEM_STATUS_HOTREF k 0 = 1) ∧ (temp < 82 → rd r MEM_STATUS_HOTREF k 0 = 0) ∧
      (now ≠ 0 → rd64 r MEM_THRUS_LO_THRUS MEM_THRUS_HI_THRUS k 0 = (rd64 s MEM_THRUS_LO_THRUS MEM_THRUS_HI_THRUS k 0 + 32) % 2 ^ 64) ∧
      (now ≠ 3 → nx = 3 → (4, k) ∈ r.pw.emerg ∧
        (s.held = [] → ⟨.memctl k, plainRec 0x0703 false k (nodeMem k), s.lossy.contains (.memctl k)⟩ ∈ r.held)) ∧
      (now = 3 → nx ≠ 3 → (4, k) ∉ r.pw.emerg) ∧ r.mem = s.mem ∧
      ((now = 3 ↔ nx = 3) → r = { s with regs := r.regs } ∧ fieldsBut [MEM_TEMP_TEMP, MEM_TEMP_PEAK, MEM_STATUS_THR,
        MEM_STATUS_HOTREF, MEM_THRUS_LO_THRUS, MEM_THRUS_HI_THRUS] s r)) ∧
  (∀ (d : Nat) (a : AStep) (s : State), pendingStep s d = some a → a.reason < 8 →
    (∃ p ∈ partsOn s d, mapGet false s.pw.alignHold p = true) → ∃ r, exec (.alignHoldExpire d) s = .next r ∧
      pendingStep r d = none ∧ (∀ p ∈ partsOn s d, mapGet false r.pw.alignHold p = false) ∧ r.mem = s.mem ∧
      opOf r d = (if a.up = false ∧ opOf s d < 15 then opOf s d + 1 else opOf s d) ∧
      (a.up = true → chargesIdle s → r.regs = s.regs) ∧
      (a.up = false → chargesIdle s →
        raised .governor (plainRec 0x0A04 false (powerObj 1 d) (stepTarget s a)) s r)) ∧
  (∀ (d : Nat) (s : State), d < 4 → governed s = true → causesClear s d = true → opOf s d ≠ 0 → pendingStep s d = none →
    ∃ r, exec (.recoveryStep d) s = .next r ∧ r.mem = s.mem ∧
      (partsOn s d = [] → opOf r d = opOf s d - 1 ∧ pendingStep r d = none) ∧
      (partsOn s d ≠ [] → opOf r d = opOf s d ∧ pendingStep r d = some ⟨d, 0, true⟩)) ∧
  (∀ (pavg : Nat) (s : State), governed s = true →
    let lim := powerLimit s
    ∃ r, exec (.capStepTimer pavg) s = .next r ∧ rd r PWR_POWER_PAVG 0 0 = pavg % 2 ^ 16 ∧ r.mem = s.mem ∧
      (lim < pavg → r.pw.capOver = true ∧ r.pw.capCalm = 0 ∧
        rd r PWR_STATUS_CAPLOW 0 0 = (if (List.range 4).all (fun d => opOf s d == 15) then 1 else 0) ∧
        ∀ d, d < 4 → opOf s d < 15 →
          (partsOn s d = [] → opOf r d = opOf s d + 1) ∧
          (partsOn s d ≠ [] → pendingStep s d = none → opOf r d = opOf s d ∧ pendingStep r d = some ⟨d, capReason s, false⟩)) ∧
      (pavg ≤ lim → rd r PWR_STATUS_CAPLOW 0 0 = 0 ∧
        r.pw.capCalm = (if pavg * 100 < 95 * lim then min 10 (s.pw.capCalm + 1) else 0) ∧
        r.pw.capOver = (s.pw.capOver && !(decide (pavg * 100 < 95 * lim) && decide (10 ≤ s.pw.capCalm + 1)))))

/-- The reset sources: a pin, the watchdog and the software request assert theirs, with the wider of the fused reach and the fixed
minimum or with the reach asked for, and a pin releases its own. WARM and COLD give every register but those of Table 17.3 its reset
value and keep only the stacks' bytes; COMPUTE holds every partition, frees every skein and empties the mesh's units; TILE and
PARTITION hold their tile and their partition (R61, R373 to R376, R424, Tables 17.1 to 17.3 and 17.15).
Where the spec leaves it open, the model's choice stands: log entries 58, 59, 60, 66, 68. -/
def Obligations.ResetSources : Prop :=
  (∀ s : State, s.pw.power = 2 →
    (sourceOn s 1 = false → ∃ r, exec .perstNAssert s = .next r ∧ sourced 1 (fusedReach s 1) s r ∧ r.bt.endpointRst = true) ∧
    (sourceOn s 2 = false → ∃ r, exec .mresetNAssert s = .next r ∧ sourced 2 (fusedReach s 2) s r)) ∧
  (∀ s : State, ∀ x ∈ [((1 : Nat), Instr.perstNRelease), (2, .mresetNRelease)], ∃ r, exec x.2 s = .next r ∧
    sourceOn r x.1 = false ∧ (∀ i, i < 9 → i ≠ x.1 → sourceOn r i = sourceOn s i) ∧ regsBut [fkey RST_STATUS_SRC 0 0] s r ∧
    r = { s with regs := r.regs }) ∧
  (∀ (rq : Requester) (v : W32) (s : State), writable s rq RST_WDOG_TMO 0 0 → ∃ r, exec (.wdogKick rq v) s = .next r ∧
    rd r RST_WDOG_TMO 0 0 = bitsOf v.toNat 0 8 ∧
    r.bt.wdogRuns = (decide (rd s BOOT_STATUS_STATE 0 0 = 1) && decide (bitsOf v.toNat 0 8 ≠ 0)) ∧
    regsBut [fkey RST_WDOG_TMO 0 0] s r ∧ r = { s with regs := r.regs, bt.wdogRuns := r.bt.wdogRuns }) ∧
  (∀ s : State, s.bt.wdogRuns = true → ∃ r, exec .wdogExpire s = .next r ∧ sourced 4 (fusedReach s 4) s r) ∧
  (∀ (rq : Requester) (v : W32) (s : State), bitsOf v.toNat 31 1 = 1 → writable s rq RST_SWREQ_GO 0 0 →
    let x := bitsOf v.toNat 3 12
    (bitsOf v.toNat 0 3 = 1 → x < 2304 → s.bt.swTiles.contains x = false → ∃ r, exec (.swreqTile rq v) s = .next r ∧
      r.bt.swTiles = s.bt.swTiles ++ [x] ∧ ∀ nc, nc < 3 → rd r NDL_STATE x nc = nsReset) ∧
    (bitsOf v.toNat 0 3 = 2 → mapGet false s.parts (x % 16) = true → ∃ r, exec (.swreqPartition rq v) s = .next r ∧
      rd r CRS_STATUS_STATE (x % 16) 0 = 0 ∧ rd r CRS_TALLY_SENT_SENT (x % 16) 0 = 0 ∧ rd r CRS_TALLY_LANDED_LANDED (x % 16) 0 = 0 ∧
      x % 16 ∈ r.bt.swParts) ∧
    (bitsOf v.toNat 0 3 = 3 → ∃ r, exec (.swreqCompute rq v) s = .next r ∧ sourced 5 3 s r ∧
      (s.bt.latched = 0 → s.bt.exiting = 0 →
        (∀ p, p < 16 → mapGet false s.parts p = true → rd r CRS_STATUS_STATE p 0 = 0 ∧ rd r RST_PHOLD_HOLD 0 0 / 2 ^ p % 2 = 1) ∧
        (∀ k, eState (skein r k) = kFree) ∧ (∀ q ∈ r.net, s.ply.away.any (fun a => a.2.2 == q.pid) = true) ∧ r.memq = [] ∧
        r.waiters = [] ∧ r.stops = [] ∧ r.pins = [] ∧ r.upds = [])) ∧
    (bitsOf v.toNat 0 3 = 4 → ∃ r, exec (.swreqWarm rq v) s = .next r ∧ sourced 5 4 s r ∧
      (s.bt.latched = 0 → s.bt.exiting = 0 → r.mem = s.mem.filter (fun e => decide (2 ^ 52 ≤ e.1)) ∧ r.hostMem = s.hostMem ∧
        r.bt.flash = s.bt.flash ∧ r.pending = s.pending ∧
        ∀ f u n, warmIds.contains (f.id % 1024) = false → rd r f u n = initOf f u)) ∧
    (bitsOf v.toNat 0 3 = 5 → ∃ r, exec (.swreqCold rq v) s = .next r ∧ sourced 5 5 s r ∧
      (s.bt.latched = 0 → s.bt.exiting = 0 → r.mem = s.mem.filter (fun e => decide (2 ^ 52 ≤ e.1)) ∧
        rd r MEM_CHMAP_ACTIVE 0 0 = initOf MEM_CHMAP_ACTIVE 0 ∧ r.bt.flash = s.bt.flash ∧
        ∀ f u n, warmIds.contains (f.id % 1024) = false → rd r f u n = initOf f u))) ∧
  (∀ (core : Nat) (v : W32) (s : State), writable s (.hub core) RST_PHOLD_HOLD 0 0 →
    ∃ r, exec (.rstPholdWrite (.hub core) v) s = .next r ∧ rd r RST_PHOLD_HOLD 0 0 = bitsOf v.toNat 0 16 ∧
      ∀ p, p < 16 → mapGet false s.parts p = true → rd s RST_PHOLD_HOLD 0 0 / 2 ^ p % 2 = 0 → bitsOf v.toNat p 1 = 1 →
        rd r CRS_STATUS_STATE p 0 = 0) ∧
  (∀ (f : Nat) (v : W32) (s : State), writable s (.func f) RST_PHOLD_HOLD 0 0 →
    ∃ r, exec (.rstPholdWrite (.func f) v) s = .next r ∧ rd r RST_STATUS_WRIGN 0 0 = 1 ∧
      regsBut [fkey RST_STATUS_WRIGN 0 0, fkey RST_WRIGN_OFS 0 0] s r ∧ r = { s with regs := r.regs })

/-- The ends of resets: the exit of the latched reach begins once the sources have released, with RST_LAST written and, from WARM on,
the darning maps loaded and, for COLD, the swatch band taken with the twin side and the manager strap; the endpoint leaves its own reset; and a tile's needles leave
RESET where nothing wider covers it (R19, R154, R155, R375, R377 to R381, Tables 17.3 and 17.5).
Where the spec leaves it open, the model's choice stands: log entries 67, 68, 83. -/
def Obligations.ResetEnds : Prop :=
  (∀ (code : Nat) (s : State), s.bt.latched ≠ 0 → s.pw.power = 2 → sourceOn s 0 = false → sourceOn s 1 = false →
    sourceOn s 2 = false → sourceOn s 7 = false →
    let last : State → Prop := fun r => rd r RST_STATUS_SRC 0 0 = 0 ∧ r.bt.latched = 0 ∧
      rd r RST_LAST_SRC 0 0 = (if s.bt.lastSrc % 2 = 1 then 1 else s.bt.lastSrc % 2 ^ 9) ∧ rd r RST_LAST_REACH 0 0 = s.bt.latched % 8
    (s.bt.latched ≤ 3 → rd s BOOT_STATUS_STATE 0 0 = 2 ∨ (s.bt.initList = [] ∧ s.hst.barWrites = []) →
      ∃ r, exec (.resetExit code) s = .next r ∧ last r ∧ r.mem = s.mem ∧ r.bt.exiting = s.bt.exiting) ∧
    (3 < s.bt.latched → ∃ r, exec (.resetExit code) s = .next r ∧ last r ∧ r.bt.exiting = s.bt.latched ∧ r.mem = s.mem ∧
      (∀ c row, c < 96 → row < 4 → rd r CLU_DARN_DCOL c row = rd s CLU_DARN_FCOL c row % 8 ∧
        (rd s CLU_DARN_FCOL c row = 7 → rd r CLU_STATUS_DARNBAD c 0 = 1)) ∧
      (s.bt.latched = 5 → rd r BOOT_STATUS_CODE 0 0 = min 63 code ∧ rd r BOOT_STATUS_BAND 0 0 = bandOf (min 63 code) ∧
        rd r PLY_GID_SIDE 0 0 = bandOf (min 63 code) / 8 ∧ rd r PLY_GID_MCAP 0 0 = bandOf (min 63 code) % 2))) ∧
  (∀ s : State, s.bt.endpointRst = true → sourceOn s 0 = false → sourceOn s 1 = false → s.pw.power = 2 →
    exec .pcieEndpointResetExit s = .next { s with bt.endpointRst := false, hst.cfgReady := hubServes s }) ∧
  (∀ (t : Nat) (s : State), t < 2304 → s.bt.swTiles.contains t = true →
    let wider : Bool := match partOfTile s t with
      | none => true
      | some p => inReset s p || s.bt.latched != 0 || s.bt.exiting != 0 || rdB s CLU_STATUS_DARNBAD (t / 24) 0
    ∃ r, exec (.tileResetRelease t) s = .next r ∧ r.bt.swTiles = s.bt.swTiles.erase t ∧
      (∀ nc, nc < 3 → rd r NDL_STATE t nc = (if wider = false ∧ rd s NDL_STATE t nc = nsReset then nsIdle else rd s NDL_STATE t nc)) ∧
      fieldsBut [NDL_STATE] s r ∧ bytesKept s r ∧ r = { s with regs := r.regs, bt.swTiles := r.bt.swTiles })

/-- A start: PLLs that do not lock fail it; a boot record that counts enough failed starts, that cannot be made, or a policy of no copy
leads to frog mode; else the copies are checked in the policy's order, the first that passes runs and trains every stack, and where
none passes the start fails. The start ends READY once training has ended with every stack trained, and fails where one is not or
the time runs out (R381 to R387).
Where the spec leaves it open, the model's choice stands: log entries 63, 84, 85, 86, 87, 88, 93. -/
def Obligations.Starts : Prop :=
  let frog : State → Prop := fun r => rd r BOOT_STATUS_STATE 0 0 = 2 ∧ rd r BOOT_STATUS_IMAGE 0 0 = 3 ∧ r.bt.exiting = 0 ∧
    r.bt.wdogRuns = false ∧ (∀ e ∈ r.mem, e.1 < 2 ^ 52) ∧ r.hst.cfgReady = !(r.bt.endpointRst)
  let failed : State → State → Prop := fun s r => (bootPolicy s = 2 → frog r) ∧ (bootPolicy s ≠ 2 → sourced 8 5 s r)
  (∀ (bad : Nat) (pll recOk : Bool) (s : State), s.bt.exiting ≠ 0 → rd s BOOT_STATUS_STATE 0 0 = 0 →
    rd s BOOT_STATUS_IMAGE 0 0 = 3 →
    (s.bt.exiting = 5 → pll = false → ∃ r, exec (.start pll bad recOk) s = .next r ∧ failed s r) ∧
    (s.bt.exiting ≠ 5 ∨ pll = true →
      let s1 := readSigState s
      let s2 := if (bootSector s1).isSome then s1 else newBootRecord s1
      let pins := bitsOf (rd s RST_LAST_SRC 0 0) 1 2 != 0
      let pend := match (bootEntries s2).getLast? with | some e => entryOk e && bitsOf e.toNat 0 4 == beAttempt | none => false
      let s3 := if pins && pend then appendBoot beCancel s2 else s2
      let n := bootCount s3
      ((bootSector s1).isSome = false → recOk = false → ∃ r, exec (.start pll bad recOk) s = .next r ∧ frog r) ∧
      ((bootSector s1).isSome = true → recOk = false → ∃ r e, exec (.start pll bad recOk) s = .next r ∧
        bootEntries r = bootEntries s1 ++ [e] ∧ entryOk e = false ∧ r.mem = s.mem) ∧
      (recOk = true →
        (max 2 (rd s FUSE_BOOT_FROGN 0 0) ≤ n ∨ 2 ≤ bootPolicy s → ∃ r, exec (.start pll bad recOk) s = .next r ∧ frog r ∧
          rd r BOOT_STATUS_FAILS 0 0 = min 7 n) ∧
        (n < max 2 (rd s FUSE_BOOT_FROGN 0 0) → bootPolicy s < 2 → ∃ r, exec (.start pll bad recOk) s = .next r ∧
          match (tryCopies bad (copyOrder s) s).1 with
          | none => sourced 8 5 s r
          | some c =>
            let kind : Nat := if s.bt.exiting = 4 then 3 else 2
            (∀ k, k < 12 → mapGet 0 r.training k = kind ∧ rd r PHY_STATUS_TBUSY k 0 = 1) ∧
            (parseInit (imgSection (flashByte s c) 2) = [] → rd r BOOT_STATUS_IMAGE 0 0 = c ∧ rd r BOOT_STATUS_STATE 0 0 = 0 ∧
              r.bt.exiting = s.bt.exiting ∧ rd r BOOT_STATUS_FAILS 0 0 = min 7 n ∧
              r.bt.activeSvn = (flashByte s c 6).toNat))))) ∧
  (∀ s : State, s.bt.exiting ≠ 0 → rd s BOOT_STATUS_STATE 0 0 = 0 →
    (rd s BOOT_STATUS_IMAGE 0 0 ≠ 3 → s.training = [] → (∀ k, k < 12 → rdB s MEM_STATUS_TRAINED k 0 = true) →
      let s0 := applyPartDef (imgSection (activeImg s) 5) s
      ∃ r, exec .startReady s = .next r ∧ rd r BOOT_STATUS_STATE 0 0 = 1 ∧ r.bt.exiting = 0 ∧
        r.hst.cfgReady = !(s0.bt.endpointRst) ∧ r.bt.wdogRuns = decide (rd s0 RST_WDOG_TMO 0 0 ≠ 0) ∧ r.bootRecs = [] ∧
        r.hst.printed = s0.hst.printed ++ s0.bootRecs ∧
        (∀ e ∈ s0.bootRecs, ∃ h ∈ r.held, h.unit = .hubfw ∧ h.err = e) ∧ r.mem = s0.mem) ∧
    (rd s BOOT_STATUS_IMAGE 0 0 ≠ 3 → s.training = [] → (∃ k, k < 12 ∧ rdB s MEM_STATUS_TRAINED k 0 = false) →
      ∃ r, exec .startReady s = .next r ∧ failed s r) ∧
    (∃ r, exec .startTimeout s = .next r ∧ failed s r))

/-- A record held by a unit is filed as the next number: queued for the hub or lost to it, counted for the SMBus, put at PROD of the
ring of the PF and of its partition's VF where they are enabled, with their vectors' counts, and with the HALTED event it
carries; only a hub core's POP discards the oldest record (R403, R406 to R410, Tables 18.3 and 18.5).
A census armed for a boundary, taken at once, cancelled and done; a capture copies every register to its bank and with ZERO
clears the class S counters, a census asked for while one is armed or under way is ignored, and a read of the shadow answers the
counter that CNS_SADDR names, and steps it (R399 to R402, Table 18.4).
Where the spec leaves it open, the model's choice stands: log entries 27, 28, 57. -/
def Obligations.RecordsFiledAndCensus : Prop :=
  ((∀ (i bad : Nat) (h : Held) (s : State), s.held[i]? = some h → (s.held.take i).any (fun x => decide (x.unit = h.unit)) = false →
     ∃ r, exec (.recordFile i bad) s = .next r ∧ r.held = s.held.eraseIdx i ∧ r.mem = s.mem ∧ filed h bad s r) ∧
   (∀ (core : Nat) (v : W32) (s : State), bitsOf v.toNat 0 1 = 1 → writable s (.hub core) ERR_QPOP_POP 0 0 →
     ∃ r, exec (.errQpop (.hub core) v) s = .next r ∧ r.errQueue = s.errQueue.drop 1 ∧ r = { s with errQueue := r.errQueue }) ∧
   (∀ (f : Nat) (v : W32) (s : State), bitsOf v.toNat 0 1 = 1 → writable s (.func f) ERR_QPOP_POP 0 0 →
     ∃ r, exec (.errQpop (.func f) v) s = .next r ∧ r.errQueue = s.errQueue ∧ rd r ERR_STATUS_WRIGN 0 0 = 1 ∧
       regsBut [fkey ERR_STATUS_WRIGN 0 0, fkey ERR_WRIGN_OFS 0 0] s r)) ∧
  ((∀ (rq : Requester) (v : W32) (s : State), writable s rq CNS_CTRL_GO 0 0 →
     let idle := rdB s CNS_STATUS_ARMED 0 0 = false ∧ rdB s CNS_STATUS_CAPTURING 0 0 = false
     let zero : Bool := bitsOf v.toNat 6 1 == 1
     let b := nextBank s
     (bitsOf v.toNat 31 1 = 1 → bitsOf v.toNat 30 1 = 0 → bitsOf v.toNat 0 2 = 1 → idle →
       ∃ r, exec (.censusAtBoundary rq v) s = .next r ∧ r.bt.armed = some (bitsOf v.toNat 2 4, zero) ∧
         rd r CNS_STATUS_ARMED 0 0 = 1 ∧ fieldsBut [CNS_CTRL_MODE, CNS_CTRL_PART, CNS_CTRL_ZERO, CNS_STATUS_ARMED] s r ∧
         r = { s with regs := r.regs, bt.armed := r.bt.armed }) ∧
     (∀ x ∈ [((1 : Nat), Instr.censusAtBoundary rq v), (2, .censusNow rq v)], bitsOf v.toNat 31 1 = 1 → bitsOf v.toNat 30 1 = 0 →
       bitsOf v.toNat 0 2 = x.1 → ¬idle → ∃ r, exec x.2 s = .next r ∧ rd r CNS_STATUS_WRIGN 0 0 = 1 ∧ r.bt = s.bt) ∧
     (bitsOf v.toNat 31 1 = 1 → bitsOf v.toNat 30 1 = 0 → bitsOf v.toNat 0 2 = 2 → idle →
       ∃ r, exec (.censusNow rq v) s = .next r ∧ rd r CNS_STATUS_CAPTURING 0 0 = 1 ∧ r.bt.armed = none ∧
         mapGet false r.bt.shadowOk b = true ∧ rd64 r CNS_COURSE_LO_COURSE CNS_COURSE_HI_COURSE 0 b = 0 ∧
         (∀ f u n, (frameIds .cns).contains (f.id % 1024) = false → shadowRd r b f u n = rd s f u n) ∧
         (∀ f u n, (frameIds .cns).contains (f.id % 1024) = false →
           rd r f u n = (if zero = true ∧ (classS.any (fun c => c.1.id == f.id % 1024) || classS.any (fun c => c.2.id == f.id % 1024)) = true
             then initOf f u else rd s f u n)) ∧ r.mem = s.mem) ∧
     (bitsOf v.toNat 31 1 = 0 → bitsOf v.toNat 30 1 = 1 → ∃ r, exec (.censusCancel rq v) s = .next r ∧ r.bt.armed = none ∧
       rd r CNS_STATUS_ARMED 0 0 = 0 ∧ fieldsBut [CNS_CTRL_MODE, CNS_CTRL_PART, CNS_CTRL_ZERO, CNS_STATUS_ARMED] s r ∧
       r = { s with regs := r.regs, bt.armed := none })) ∧
   (∀ s : State, rdB s CNS_STATUS_CAPTURING 0 0 = true → ∃ r, exec .censusDone s = .next r ∧
     rd r CNS_SEQ_SEQ 0 0 = (rd s CNS_SEQ_SEQ 0 0 + 1) % 2 ^ 32 ∧ rd r CNS_STATUS_CAPTURING 0 0 = 0 ∧ rd r CNS_STATUS_DONE 0 0 = 1 ∧
     regsBut [fkey CNS_SEQ_SEQ 0 0, fkey CNS_STATUS_CAPTURING 0 0, fkey CNS_STATUS_DONE 0 0] s r ∧ r = { s with regs := r.regs }) ∧
   (∀ (rq : Requester) (s : State), reaches s rq .cns 0 0x24 false = true →
     (censusStalls s = true → exec (.cnsSdataRead rq) s = .next s) ∧
     (censusStalls s = false → ∃ r, exec (.cnsSdataRead rq) s = .next r ∧ r.rdata = BitVec.ofNat 32 (censusData s rq) ∧
       (rdB s CNS_SADDR_AINC 0 0 = true → rd r CNS_SADDR_OFS 0 0 = (rd s CNS_SADDR_OFS 0 0 + 1) % 2 ^ 28) ∧
       (rdB s CNS_SADDR_AINC 0 0 = false → r.regs = s.regs) ∧
       regsBut [fkey CNS_SADDR_OFS 0 0] s r ∧ r = { s with regs := r.regs, rdata := r.rdata })))

/-- Accesses to registers: a read answers the word of the register's fields, with the side effects of their codes, zero in the set, clear and
toggle views, and waits on a shadow bank that is being captured; a low half captures its high half for the requester, and an access to no register is REG_UNMAPPED. A write takes
effect field by field under the access codes and the view, and a partial one is ignored (R10 to R12, R23, R393 to R395, R419).
Where the spec leaves it open, the model's choice stands: log entries 29, 30, 80. -/
def Obligations.RegisterAccesses : Prop :=
  (∀ (rq : Requester) (ofs off u : Nat) (fr : Frame) (s : State), locateFor s rq ofs = some (fr, u, off) →
    reaches s rq fr u off false = true → stalled s fr = false → ofs ≠ regOf CNS_SDATA_DATA 0 0 →
    (shadowOfs ofs = true → censusStalls s = false) →
    let hs := hitsAt fr (viewOf fr off).2
    ((viewOf fr off).1 = 0 → ∃ r, exec (.rcRead rq ofs) s = .next r ∧
      r.rdata = BitVec.ofNat 32 (hs.foldl (fun a h => a + readNow (readDone rq ofs s) rq u h * 2 ^ h.lo) 0) ∧
      (∀ h ∈ hs, h.f.code = .RC → rd r h.f (homeUnit h.f u) (bankIdx s rq h.f u h.n) = 0) ∧
      (∀ f, (∀ h ∈ hs, h.f.code = .RC → h.f.id % 1024 ≠ f.id % 1024) → ∀ u n, rd r f u n = rd s f u n) ∧
      r = { readDone rq ofs s with regs := r.regs, rdata := r.rdata, holding := r.holding }) ∧
    ((viewOf fr off).1 ≠ 0 → ∃ r, exec (.rcRead rq ofs) s = .next r ∧ r.rdata = 0 ∧ r = { readDone rq ofs s with rdata := 0 })) ∧
  (∀ (rq : Requester) (ofs : Nat) (s : State), inFrogBar s rq ofs = none → shadowOfs ofs = true → censusStalls s = true →
    reaches s rq .cns 0 0x24 false = true → exec (.rcRead rq ofs) s = .next s) ∧
  (∀ (rq : Requester) (lo hi : Field) (u n : Nat) (s : State), (lo, hi) ∈ hiPairs → n < lo.cnt →
    locateFor s rq (regOf lo u n) = some (lo.frame, u, lo.off + n * lo.step) →
    reaches s rq lo.frame u (lo.off + n * lo.step) false = true → stalled s lo.frame = false →
    ∃ r, exec (.counterLowRead rq (regOf lo u n)) s = .next r ∧ r.rdata = BitVec.ofNat 32 (rd s lo u n) ∧
      mapGet 0 r.holding (holdKey hi u rq) = rd s hi u n ∧ r.regs = s.regs ∧ r.mem = s.mem) ∧
  (∀ (rq : Requester) (ofs : Nat) (v : W32) (be : Nat) (s : State), locateFor s rq ofs = none → inFrogBar s rq ofs = none →
    let u : UnitId := match rq with | .hub _ => .hubfw | .func _ => .endpoint
    (shadowOfs ofs = false → ∃ r, exec (.rcRead rq ofs) s = .next r ∧ r.rdata = 0 ∧
      raised u (plainRec 0x0102 false ofs (reqNode rq)) s r ∧ r.mem = s.mem) ∧
    (∃ r, exec (.registerWrite rq ofs v be) s = .next r ∧ raised u (plainRec 0x0102 false ofs (reqNode rq)) s r ∧ r.mem = s.mem)) ∧
  (∀ (rq : Requester) (ofs off u : Nat) (fr : Frame) (v : W32) (s : State), locateFor s rq ofs = some (fr, u, off) →
    reaches s rq fr u off true = true → stalled s fr = false →
    let view := (viewOf fr off).1
    let hs := hitsAt fr (viewOf fr off).2
    let w := wordAfter rq view u v hs s
    hs ≠ [] →
    (∀ be st o u' x, be ≠ 0xF → wrignOf fr u (off % 0x1000) = some (st, o, u', x) →
      ∃ r, exec (.registerWrite rq ofs v be) s = .next r ∧ rd r st u' 0 = 1 ∧ rd r o u' 0 = (off + x) % 2 ^ o.width ∧
        regsBut [fkey st u' 0, fkey o u' 0] s r ∧ r = { s with regs := r.regs }) ∧
    ((rowFor view u w hs).isNone = true → ∃ r, exec (.registerWrite rq ofs v 0xF) s = .next r ∧ r.mem = s.mem ∧
      ∀ h ∈ hs, homeUnit h.f u = u → h.f.bank = .none → h.f.id ≠ SKN_EDATA_DATA.id →
        let x := viewVal view (rd s h.f u h.n) (bitsOf v.toNat h.lo h.f.width)
        (h.f.code = .RW → valueRefused s h.f u h.n x w.toNat = false → rd r h.f u h.n = x % 2 ^ h.f.width) ∧
        (h.f.code = .RWD → valueRefused s h.f u h.n x w.toNat = false → fieldEnabled s h.f u h.n = false →
          rd r h.f u h.n = (if x = rd s h.f u h.n then rd s h.f u h.n else x % 2 ^ h.f.width)) ∧
        (h.f.code = .RWD → fieldEnabled s h.f u h.n = true → rd r h.f u h.n = rd s h.f u h.n) ∧
        (h.f.code = .RWS → rd r h.f u h.n = rd s h.f u h.n ∧
          rdNext r h.f u h.n = viewVal view (rdNext s h.f u h.n) (bitsOf v.toNat h.lo h.f.width) % 2 ^ h.f.width)))

/-- R39: s0 and p0 of every needle read as a constant and discard writes, and every other register is general: it reads what was
last written to it, and a write to it leaves every other register alone. -/
def Obligations.ConstantRegisters : Prop :=
  ∀ (s : State) (t nc : Nat), nc < 4 →
    getS s t nc 0 = 0 ∧ (∀ v t' nc' x, getS (setS t nc 0 v s) t' nc' x = getS s t' nc' x) ∧
    getP s t nc 0 = 2 ^ 64 - 1 ∧ (∀ v t' nc' x, getP (setP t nc 0 v s) t' nc' x = getP s t' nc' x) ∧
    (∀ v x, 0 < x → x < 32 → getS (setS t nc x v s) t nc x = v ∧ sregsBut t nc x s (setS t nc x v s)) ∧
    (∀ v x, 0 < x → x < 8 → v < 2 ^ 64 → getP (setP t nc x v s) t nc x = v ∧ pregsBut t nc x s (setP t nc x v s)) ∧
    (∀ v x, x < 16 → v < 2 ^ 48 → getA (setA t nc x v s) t nc x = v ∧ aregsBut t nc x s (setA t nc x v s)) ∧
    (∀ v x i, x < 32 → i < 64 → getLane (setLane t nc x i v s) t nc x i = v ∧ vregsBut t nc x s (setLane t nc x i v s))

/-- R21: with the module's channels counted by MEM_TOTAL, each channel mapped out moves the top of stack memory down by 2 GiB, and
every address from there to 0x00BF_FFFF_FFFF is unmapped; below it each is stack memory. -/
def Obligations.StackCapacity : Prop :=
  ∀ (s : State) (out : Nat), out ≤ 384 → rd s MEM_TOTAL_NCH 0 0 = 384 - out →
    capacity s + out * 2 ^ 31 = 0xC000000000 ∧
    ∀ a, a ≤ 0xBFFFFFFFFF → (capacity s ≤ a → target s a = .unmapped) ∧ (a < capacity s → target s a = .stack a)

/-- Right after reset no command waits and no partition exists, every register field reads its reset value, those of the tables among
them, every needle is in RESET, and both memories are in canonical form with every byte zero. The queue and the bytes of memory
that nothing has written are the model's own (log entries 1 and 5).
Where the spec leaves it open, the model's choice stands: log entries 3, 8, 9. -/
def Obligations.ResetState : Prop :=
  memOk State.reset ∧ State.reset.pending = [] ∧ (∀ p, mapGet false State.reset.parts p = false) ∧
  (∀ f u n, rd State.reset f u n = initOf f u) ∧ (∀ t nc, rd State.reset NDL_STATE t nc = nsReset) ∧
  (∀ a, rdByte State.reset a = 0) ∧
  (∀ x ∈ [(PLY_CTRL_RETRY, (3 : Nat)), (PLY_CTREE_UP, 0x1F), (PLY_TWIN_CTL_LINKA, 0x16), (PLY_TWIN_CTL_LINKB, 0x17),
      (PLY_TWIN_CTL_TMO, 0x0A), (PLY_CKPT_CNT_RATE, 0x0A), (PCI_DMA_CTL_OWNER, 0x1F), (PCI_DMA_CTL_VECTOR, 3), (PCI_RO_CFG_MODCNT, 1),
      (PWR_DROOP_VTH, 0x0FA0), (PWR_GRACE_US, 0xC8), (PWR_ALIGN_HOLD, 0x64), (PWR_TPOL_STALL, 1), (PWR_TPERIOD_PERIOD, 1),
      (THM_LIM_THOT, 0x5F), (THM_LIM_TCRIT, 0x69), (RST_WDOG_TMO, 0x14), (BOOT_STATUS_IMAGE, 3), (ERR_CTRL_ALERTEN, 1),
      (ERR_CTRL_HUBIRQ, 1), (ERR_RCFG_LOG2, 4), (ERR_RCFG_MODCNT, 1), (FUSE_DEVID_DEVICE, 0x2304)],
    ∀ u n, rd State.reset x.1 u n = x.2)

end
end

