-- ==== Sys2Proof/Laws/Map.lean ====
section
/-! SUPPORT. The laws of sparse maps: a read after a write, and the canonical form kept by every map operation. -/

namespace Sys2Proof.Laws
open Sys2Proof.Machine

variable {α : Type}

@[simp] theorem mapFind_nil (k : Nat) : mapFind ([] : SMap α) k = none := rfl

@[simp] theorem mapGet_nil (d : α) (k : Nat) : mapGet d ([] : SMap α) k = d := rfl

theorem mapFind_mapDel (m : SMap α) (k k' : Nat) :
    mapFind (mapDel m k) k' = if k' = k then none else mapFind m k' := by
  induction m with
  | nil => simp [mapDel]
  | cons p m ih =>
    obtain ⟨a, v⟩ := p
    by_cases ha : a = k
    · subst ha
      simp only [mapDel, List.filter, ne_eq, not_true, decide_false, mapFind] at ih ⊢
      rw [ih]
      by_cases h : k' = a
      · simp [h]
      · simp [h, Ne.symm h]
    · simp only [mapDel, List.filter, ne_eq, ha, not_false_eq_true, decide_true, mapFind] at ih ⊢
      by_cases h : a = k'
      · subst h; simp [ha]
      · rw [if_neg h, if_neg h]; exact ih

theorem mapFind_mapIns (m : SMap α) (k : Nat) (v : α) (k' : Nat) :
    mapFind (mapIns m k v) k' = if k' = k then some v else mapFind m k' := by
  induction m with
  | nil => simp [mapIns, mapFind, eq_comm]
  | cons p m ih =>
    obtain ⟨a, x⟩ := p
    simp only [mapIns]
    split
    · simp only [mapFind, eq_comm]
    · split
      · rename_i h; subst h
        simp only [mapFind]
        by_cases hk : k = k' <;> simp [hk, eq_comm]
      · rename_i h1 h2
        simp only [mapFind, ih]
        by_cases ha : a = k'
        · subst ha; simp [Ne.symm h2]
        · simp [ha]

/-- A read of a sparse map after a write. -/
theorem mapGet_mapSet [DecidableEq α] (d : α) (m : SMap α) (k : Nat) (v : α) (k' : Nat) :
    mapGet d (mapSet d m k v) k' = if k' = k then v else mapGet d m k' := by
  unfold mapSet mapGet
  split
  · rename_i h; rw [mapFind_mapDel]; split <;> simp [h]
  · rw [mapFind_mapIns]; split <;> simp

@[simp] theorem mapGet_mapSet_self [DecidableEq α] (d : α) (m : SMap α) (k : Nat) (v : α) :
    mapGet d (mapSet d m k v) k = v := by simp [mapGet_mapSet]

theorem mapGet_mapSet_ne [DecidableEq α] (d : α) (m : SMap α) {k k' : Nat} (v : α) (h : k' ≠ k) :
    mapGet d (mapSet d m k v) k' = mapGet d m k' := by simp [mapGet_mapSet, h]

theorem mapFind_mapClear (m : SMap α) (lo n k : Nat) :
    mapFind (mapClear m lo n) k = if lo ≤ k ∧ k < lo + n then none else mapFind m k := by
  induction m with
  | nil => simp [mapClear]
  | cons p m ih =>
    obtain ⟨a, v⟩ := p
    by_cases ha : a < lo ∨ lo + n ≤ a
    · simp only [mapClear, List.filter, ha, decide_true, mapFind] at ih ⊢
      by_cases h : a = k
      · subst h
        have : ¬ (lo ≤ a ∧ a < lo + n) := by omega
        simp [this]
      · rw [if_neg h, if_neg h]; exact ih
    · simp only [mapClear, List.filter, ha, decide_false, mapFind] at ih ⊢
      rw [ih]
      by_cases h : a = k
      · subst h
        have : lo ≤ a ∧ a < lo + n := by omega
        simp [this]
      · simp [h]

/-- A read of a sparse map after a range of keys was forgotten. -/
theorem mapGet_mapClear (d : α) (m : SMap α) (lo n k : Nat) :
    mapGet d (mapClear m lo n) k = if lo ≤ k ∧ k < lo + n then d else mapGet d m k := by
  unfold mapGet; rw [mapFind_mapClear]; split <;> simp

/-! ### The canonical form -/

theorem mapSorted_mono {lo lo' : Nat} {m : SMap α} (h : lo' ≤ lo) (hm : mapSorted lo m = true) : mapSorted lo' m = true := by
  cases m with
  | nil => rfl
  | cons p m =>
    obtain ⟨a, v⟩ := p
    simp only [mapSorted, Bool.and_eq_true, decide_eq_true_eq] at hm ⊢
    exact ⟨by omega, hm.2⟩

theorem mapSorted_filter (f : Nat × α → Bool) : ∀ (m : SMap α) (lo : Nat), mapSorted lo m = true → mapSorted lo (m.filter f) = true
  | [], _, _ => rfl
  | (a, v) :: m, lo, h => by
    simp only [mapSorted, Bool.and_eq_true, decide_eq_true_eq] at h
    have ih := mapSorted_filter f m (a + 1) h.2
    simp only [List.filter]
    split
    · simp only [mapSorted, Bool.and_eq_true, decide_eq_true_eq]; exact ⟨h.1, ih⟩
    · exact mapSorted_mono (by omega) ih

theorem mapSorted_mapIns : ∀ (m : SMap α) (lo k : Nat) (v : α), lo ≤ k → mapSorted lo m = true →
    mapSorted lo (mapIns m k v) = true
  | [], lo, k, v, hk, _ => by simp [mapIns, mapSorted, hk]
  | (a, x) :: m, lo, k, v, hk, h => by
    simp only [mapSorted, Bool.and_eq_true, decide_eq_true_eq] at h
    simp only [mapIns]
    split
    · simp only [mapSorted, Bool.and_eq_true, decide_eq_true_eq]; exact ⟨hk, by omega, h.2⟩
    · split
      · rename_i h2; subst h2
        simp only [mapSorted, Bool.and_eq_true, decide_eq_true_eq]; exact ⟨hk, h.2⟩
      · simp only [mapSorted, Bool.and_eq_true, decide_eq_true_eq]
        exact ⟨h.1, mapSorted_mapIns m (a + 1) k v (by omega) h.2⟩

theorem mem_mapIns {m : SMap α} {k : Nat} {v : α} {p : Nat × α} (h : p ∈ mapIns m k v) : p = (k, v) ∨ p ∈ m := by
  induction m with
  | nil => simpa [mapIns] using h
  | cons q m ih =>
    obtain ⟨a, x⟩ := q
    simp only [mapIns] at h
    split at h
    · simpa using h
    · split at h
      · simp only [List.mem_cons] at h ⊢; exact h.imp_right .inr
      · simp only [List.mem_cons] at h ⊢
        rcases h with h | h
        · exact .inr (.inl h)
        · exact (ih h).imp_right .inr

theorem mapWf_filter [DecidableEq α] (d : α) (f : Nat × α → Bool) (m : SMap α) (h : mapWf d m = true) :
    mapWf d (m.filter f) = true := by
  simp only [mapWf, Bool.and_eq_true, List.all_eq_true] at h ⊢
  exact ⟨mapSorted_filter f m 0 h.1, fun p hp => h.2 p (List.mem_filter.1 hp).1⟩

/-- Forgetting a key keeps the canonical form. -/
theorem mapWf_mapDel [DecidableEq α] (d : α) (m : SMap α) (k : Nat) (h : mapWf d m = true) : mapWf d (mapDel m k) = true :=
  mapWf_filter d _ m h

/-- Forgetting a range of keys keeps the canonical form. -/
theorem mapWf_mapClear [DecidableEq α] (d : α) (m : SMap α) (lo n : Nat) (h : mapWf d m = true) :
    mapWf d (mapClear m lo n) = true := mapWf_filter d _ m h

/-- A write keeps the canonical form. -/
theorem mapWf_mapSet [DecidableEq α] (d : α) (m : SMap α) (k : Nat) (v : α) (h : mapWf d m = true) :
    mapWf d (mapSet d m k v) = true := by
  unfold mapSet
  split
  · exact mapWf_mapDel d m k h
  · rename_i hv
    simp only [mapWf, Bool.and_eq_true, List.all_eq_true] at h ⊢
    refine ⟨mapSorted_mapIns m 0 k v (Nat.zero_le _) h.1, fun p hp => ?_⟩
    rcases mem_mapIns hp with rfl | hp
    · simpa using hv
    · exact h.2 p hp

end Sys2Proof.Laws
end

