-- ==== Sys2Proof/Laws/State.lean ====
section
/-! SUPPORT. Each component of the state under each update of one component: what an update leaves alone. -/

namespace Sys2Proof.Laws
open Sys2Proof.Machine

/-! ### wr changes regs -/

section Upd_wr
variable (s : State) (f : Field) (u n v : Nat)
@[simp] theorem wr_pending : (wr s f u n v).pending = s.pending := rfl
@[simp] theorem wr_rws : (wr s f u n v).rws = s.rws := rfl
@[simp] theorem wr_holding : (wr s f u n v).holding = s.holding := rfl
@[simp] theorem wr_rdata : (wr s f u n v).rdata = s.rdata := rfl
@[simp] theorem wr_mem : (wr s f u n v).mem = s.mem := rfl
@[simp] theorem wr_hostMem : (wr s f u n v).hostMem = s.hostMem := rfl
@[simp] theorem wr_held : (wr s f u n v).held = s.held := rfl
@[simp] theorem wr_lossy : (wr s f u n v).lossy = s.lossy := rfl
@[simp] theorem wr_errQueue : (wr s f u n v).errQueue = s.errQueue := rfl
@[simp] theorem wr_freeIdx : (wr s f u n v).freeIdx = s.freeIdx := rfl
@[simp] theorem wr_sreg : (wr s f u n v).sreg = s.sreg := rfl
@[simp] theorem wr_areg : (wr s f u n v).areg = s.areg := rfl
@[simp] theorem wr_vreg : (wr s f u n v).vreg = s.vreg := rfl
@[simp] theorem wr_preg : (wr s f u n v).preg = s.preg := rfl
@[simp] theorem wr_pcs : (wr s f u n v).pcs = s.pcs := rfl
@[simp] theorem wr_ibuf : (wr s f u n v).ibuf = s.ibuf := rfl
@[simp] theorem wr_ipage : (wr s f u n v).ipage = s.ipage := rfl
@[simp] theorem wr_fills : (wr s f u n v).fills = s.fills := rfl
@[simp] theorem wr_arb : (wr s f u n v).arb = s.arb := rfl
@[simp] theorem wr_gather : (wr s f u n v).gather = s.gather := rfl
@[simp] theorem wr_prl : (wr s f u n v).prl = s.prl := rfl
@[simp] theorem wr_prlLoads : (wr s f u n v).prlLoads = s.prlLoads := rfl
@[simp] theorem wr_acc : (wr s f u n v).acc = s.acc := rfl
@[simp] theorem wr_accR : (wr s f u n v).accR = s.accR := rfl
@[simp] theorem wr_latch : (wr s f u n v).latch = s.latch := rfl
@[simp] theorem wr_wbuf : (wr s f u n v).wbuf = s.wbuf := rfl
@[simp] theorem wr_wform : (wr s f u n v).wform = s.wform := rfl
@[simp] theorem wr_wloads : (wr s f u n v).wloads = s.wloads := rfl
@[simp] theorem wr_young : (wr s f u n v).young = s.young := rfl
@[simp] theorem wr_flights : (wr s f u n v).flights = s.flights := rfl
@[simp] theorem wr_genKey : (wr s f u n v).genKey = s.genKey := rfl
@[simp] theorem wr_tcourse : (wr s f u n v).tcourse = s.tcourse := rfl
@[simp] theorem wr_tags : (wr s f u n v).tags = s.tags := rfl
@[simp] theorem wr_outb : (wr s f u n v).outb = s.outb := rfl
@[simp] theorem wr_castDone : (wr s f u n v).castDone = s.castDone := rfl
@[simp] theorem wr_net : (wr s f u n v).net = s.net := rfl
@[simp] theorem wr_nextPid : (wr s f u n v).nextPid = s.nextPid := rfl
@[simp] theorem wr_credUsed : (wr s f u n v).credUsed = s.credUsed := rfl
@[simp] theorem wr_rrPtr : (wr s f u n v).rrPtr = s.rrPtr := rfl
@[simp] theorem wr_respRun : (wr s f u n v).respRun = s.respRun := rfl
@[simp] theorem wr_merge : (wr s f u n v).merge = s.merge := rfl
@[simp] theorem wr_parts : (wr s f u n v).parts = s.parts := rfl
@[simp] theorem wr_clPart : (wr s f u n v).clPart = s.clPart := rfl
@[simp] theorem wr_profile : (wr s f u n v).profile = s.profile := rfl
@[simp] theorem wr_windows : (wr s f u n v).windows = s.windows := rfl
@[simp] theorem wr_releases : (wr s f u n v).releases = s.releases := rfl
@[simp] theorem wr_newKey : (wr s f u n v).newKey = s.newKey := rfl
@[simp] theorem wr_grpRel : (wr s f u n v).grpRel = s.grpRel := rfl
@[simp] theorem wr_btRun : (wr s f u n v).btRun = s.btRun := rfl
@[simp] theorem wr_stops : (wr s f u n v).stops = s.stops := rfl
@[simp] theorem wr_waiters : (wr s f u n v).waiters = s.waiters := rfl
@[simp] theorem wr_released : (wr s f u n v).released = s.released := rfl
@[simp] theorem wr_tx : (wr s f u n v).tx = s.tx := rfl
@[simp] theorem wr_rx : (wr s f u n v).rx = s.rx := rfl
@[simp] theorem wr_freshen : (wr s f u n v).freshen = s.freshen := rfl
@[simp] theorem wr_stalls : (wr s f u n v).stalls = s.stalls := rfl
@[simp] theorem wr_joinCred : (wr s f u n v).joinCred = s.joinCred := rfl
@[simp] theorem wr_fresh : (wr s f u n v).fresh = s.fresh := rfl
@[simp] theorem wr_vecMask : (wr s f u n v).vecMask = s.vecMask := rfl
@[simp] theorem wr_vecPend : (wr s f u n v).vecPend = s.vecPend := rfl
@[simp] theorem wr_vecSent : (wr s f u n v).vecSent = s.vecSent := rfl
@[simp] theorem wr_vecCnt : (wr s f u n v).vecCnt = s.vecCnt := rfl
@[simp] theorem wr_hubIrq : (wr s f u n v).hubIrq = s.hubIrq := rfl
@[simp] theorem wr_descs : (wr s f u n v).descs = s.descs := rfl
@[simp] theorem wr_pins : (wr s f u n v).pins = s.pins := rfl
@[simp] theorem wr_inForce : (wr s f u n v).inForce = s.inForce := rfl
@[simp] theorem wr_gathers : (wr s f u n v).gathers = s.gathers := rfl
@[simp] theorem wr_upds : (wr s f u n v).upds = s.upds := rfl
@[simp] theorem wr_blkRng : (wr s f u n v).blkRng = s.blkRng := rfl
@[simp] theorem wr_trapLater : (wr s f u n v).trapLater = s.trapLater := rfl
@[simp] theorem wr_memq : (wr s f u n v).memq = s.memq := rfl
@[simp] theorem wr_openRow : (wr s f u n v).openRow = s.openRow := rfl
@[simp] theorem wr_scrubPtr : (wr s f u n v).scrubPtr = s.scrubPtr := rfl
@[simp] theorem wr_eyes : (wr s f u n v).eyes = s.eyes := rfl
@[simp] theorem wr_turn : (wr s f u n v).turn = s.turn := rfl
@[simp] theorem wr_ashps : (wr s f u n v).ashps = s.ashps := rfl
@[simp] theorem wr_outWait : (wr s f u n v).outWait = s.outWait := rfl
@[simp] theorem wr_training : (wr s f u n v).training = s.training := rfl
@[simp] theorem wr_bootRecs : (wr s f u n v).bootRecs = s.bootRecs := rfl
@[simp] theorem wr_skeins : (wr s f u n v).skeins = s.skeins := rfl
@[simp] theorem wr_groups : (wr s f u n v).groups = s.groups := rfl
@[simp] theorem wr_built : (wr s f u n v).built = s.built := rfl
@[simp] theorem wr_batched : (wr s f u n v).batched = s.batched := rfl
@[simp] theorem wr_batchGen : (wr s f u n v).batchGen = s.batchGen := rfl
@[simp] theorem wr_leftOut : (wr s f u n v).leftOut = s.leftOut := rfl
@[simp] theorem wr_rets : (wr s f u n v).rets = s.rets := rfl
@[simp] theorem wr_evicting : (wr s f u n v).evicting = s.evicting := rfl
@[simp] theorem wr_moves : (wr s f u n v).moves = s.moves := rfl
@[simp] theorem wr_roPend : (wr s f u n v).roPend = s.roPend := rfl
@[simp] theorem wr_spilling : (wr s f u n v).spilling = s.spilling := rfl
@[simp] theorem wr_mirroring : (wr s f u n v).mirroring = s.mirroring := rfl
@[simp] theorem wr_mirrorQ : (wr s f u n v).mirrorQ = s.mirrorQ := rfl
@[simp] theorem wr_firings : (wr s f u n v).firings = s.firings := rfl
@[simp] theorem wr_stqPtr : (wr s f u n v).stqPtr = s.stqPtr := rfl
@[simp] theorem wr_hreads : (wr s f u n v).hreads = s.hreads := rfl
@[simp] theorem wr_ply : (wr s f u n v).ply = s.ply := rfl
@[simp] theorem wr_hst : (wr s f u n v).hst = s.hst := rfl
@[simp] theorem wr_pw : (wr s f u n v).pw = s.pw := rfl
@[simp] theorem wr_bt : (wr s f u n v).bt = s.bt := rfl
end Upd_wr

/-! ### wrReset changes regs -/

section Upd_wrReset
variable (s : State) (f : Field) (u n : Nat)
@[simp] theorem wrReset_pending : (wrReset s f u n).pending = s.pending := rfl
@[simp] theorem wrReset_rws : (wrReset s f u n).rws = s.rws := rfl
@[simp] theorem wrReset_holding : (wrReset s f u n).holding = s.holding := rfl
@[simp] theorem wrReset_rdata : (wrReset s f u n).rdata = s.rdata := rfl
@[simp] theorem wrReset_mem : (wrReset s f u n).mem = s.mem := rfl
@[simp] theorem wrReset_hostMem : (wrReset s f u n).hostMem = s.hostMem := rfl
@[simp] theorem wrReset_held : (wrReset s f u n).held = s.held := rfl
@[simp] theorem wrReset_lossy : (wrReset s f u n).lossy = s.lossy := rfl
@[simp] theorem wrReset_errQueue : (wrReset s f u n).errQueue = s.errQueue := rfl
@[simp] theorem wrReset_freeIdx : (wrReset s f u n).freeIdx = s.freeIdx := rfl
@[simp] theorem wrReset_sreg : (wrReset s f u n).sreg = s.sreg := rfl
@[simp] theorem wrReset_areg : (wrReset s f u n).areg = s.areg := rfl
@[simp] theorem wrReset_vreg : (wrReset s f u n).vreg = s.vreg := rfl
@[simp] theorem wrReset_preg : (wrReset s f u n).preg = s.preg := rfl
@[simp] theorem wrReset_pcs : (wrReset s f u n).pcs = s.pcs := rfl
@[simp] theorem wrReset_ibuf : (wrReset s f u n).ibuf = s.ibuf := rfl
@[simp] theorem wrReset_ipage : (wrReset s f u n).ipage = s.ipage := rfl
@[simp] theorem wrReset_fills : (wrReset s f u n).fills = s.fills := rfl
@[simp] theorem wrReset_arb : (wrReset s f u n).arb = s.arb := rfl
@[simp] theorem wrReset_gather : (wrReset s f u n).gather = s.gather := rfl
@[simp] theorem wrReset_prl : (wrReset s f u n).prl = s.prl := rfl
@[simp] theorem wrReset_prlLoads : (wrReset s f u n).prlLoads = s.prlLoads := rfl
@[simp] theorem wrReset_acc : (wrReset s f u n).acc = s.acc := rfl
@[simp] theorem wrReset_accR : (wrReset s f u n).accR = s.accR := rfl
@[simp] theorem wrReset_latch : (wrReset s f u n).latch = s.latch := rfl
@[simp] theorem wrReset_wbuf : (wrReset s f u n).wbuf = s.wbuf := rfl
@[simp] theorem wrReset_wform : (wrReset s f u n).wform = s.wform := rfl
@[simp] theorem wrReset_wloads : (wrReset s f u n).wloads = s.wloads := rfl
@[simp] theorem wrReset_young : (wrReset s f u n).young = s.young := rfl
@[simp] theorem wrReset_flights : (wrReset s f u n).flights = s.flights := rfl
@[simp] theorem wrReset_genKey : (wrReset s f u n).genKey = s.genKey := rfl
@[simp] theorem wrReset_tcourse : (wrReset s f u n).tcourse = s.tcourse := rfl
@[simp] theorem wrReset_tags : (wrReset s f u n).tags = s.tags := rfl
@[simp] theorem wrReset_outb : (wrReset s f u n).outb = s.outb := rfl
@[simp] theorem wrReset_castDone : (wrReset s f u n).castDone = s.castDone := rfl
@[simp] theorem wrReset_net : (wrReset s f u n).net = s.net := rfl
@[simp] theorem wrReset_nextPid : (wrReset s f u n).nextPid = s.nextPid := rfl
@[simp] theorem wrReset_credUsed : (wrReset s f u n).credUsed = s.credUsed := rfl
@[simp] theorem wrReset_rrPtr : (wrReset s f u n).rrPtr = s.rrPtr := rfl
@[simp] theorem wrReset_respRun : (wrReset s f u n).respRun = s.respRun := rfl
@[simp] theorem wrReset_merge : (wrReset s f u n).merge = s.merge := rfl
@[simp] theorem wrReset_parts : (wrReset s f u n).parts = s.parts := rfl
@[simp] theorem wrReset_clPart : (wrReset s f u n).clPart = s.clPart := rfl
@[simp] theorem wrReset_profile : (wrReset s f u n).profile = s.profile := rfl
@[simp] theorem wrReset_windows : (wrReset s f u n).windows = s.windows := rfl
@[simp] theorem wrReset_releases : (wrReset s f u n).releases = s.releases := rfl
@[simp] theorem wrReset_newKey : (wrReset s f u n).newKey = s.newKey := rfl
@[simp] theorem wrReset_grpRel : (wrReset s f u n).grpRel = s.grpRel := rfl
@[simp] theorem wrReset_btRun : (wrReset s f u n).btRun = s.btRun := rfl
@[simp] theorem wrReset_stops : (wrReset s f u n).stops = s.stops := rfl
@[simp] theorem wrReset_waiters : (wrReset s f u n).waiters = s.waiters := rfl
@[simp] theorem wrReset_released : (wrReset s f u n).released = s.released := rfl
@[simp] theorem wrReset_tx : (wrReset s f u n).tx = s.tx := rfl
@[simp] theorem wrReset_rx : (wrReset s f u n).rx = s.rx := rfl
@[simp] theorem wrReset_freshen : (wrReset s f u n).freshen = s.freshen := rfl
@[simp] theorem wrReset_stalls : (wrReset s f u n).stalls = s.stalls := rfl
@[simp] theorem wrReset_joinCred : (wrReset s f u n).joinCred = s.joinCred := rfl
@[simp] theorem wrReset_fresh : (wrReset s f u n).fresh = s.fresh := rfl
@[simp] theorem wrReset_vecMask : (wrReset s f u n).vecMask = s.vecMask := rfl
@[simp] theorem wrReset_vecPend : (wrReset s f u n).vecPend = s.vecPend := rfl
@[simp] theorem wrReset_vecSent : (wrReset s f u n).vecSent = s.vecSent := rfl
@[simp] theorem wrReset_vecCnt : (wrReset s f u n).vecCnt = s.vecCnt := rfl
@[simp] theorem wrReset_hubIrq : (wrReset s f u n).hubIrq = s.hubIrq := rfl
@[simp] theorem wrReset_descs : (wrReset s f u n).descs = s.descs := rfl
@[simp] theorem wrReset_pins : (wrReset s f u n).pins = s.pins := rfl
@[simp] theorem wrReset_inForce : (wrReset s f u n).inForce = s.inForce := rfl
@[simp] theorem wrReset_gathers : (wrReset s f u n).gathers = s.gathers := rfl
@[simp] theorem wrReset_upds : (wrReset s f u n).upds = s.upds := rfl
@[simp] theorem wrReset_blkRng : (wrReset s f u n).blkRng = s.blkRng := rfl
@[simp] theorem wrReset_trapLater : (wrReset s f u n).trapLater = s.trapLater := rfl
@[simp] theorem wrReset_memq : (wrReset s f u n).memq = s.memq := rfl
@[simp] theorem wrReset_openRow : (wrReset s f u n).openRow = s.openRow := rfl
@[simp] theorem wrReset_scrubPtr : (wrReset s f u n).scrubPtr = s.scrubPtr := rfl
@[simp] theorem wrReset_eyes : (wrReset s f u n).eyes = s.eyes := rfl
@[simp] theorem wrReset_turn : (wrReset s f u n).turn = s.turn := rfl
@[simp] theorem wrReset_ashps : (wrReset s f u n).ashps = s.ashps := rfl
@[simp] theorem wrReset_outWait : (wrReset s f u n).outWait = s.outWait := rfl
@[simp] theorem wrReset_training : (wrReset s f u n).training = s.training := rfl
@[simp] theorem wrReset_bootRecs : (wrReset s f u n).bootRecs = s.bootRecs := rfl
@[simp] theorem wrReset_skeins : (wrReset s f u n).skeins = s.skeins := rfl
@[simp] theorem wrReset_groups : (wrReset s f u n).groups = s.groups := rfl
@[simp] theorem wrReset_built : (wrReset s f u n).built = s.built := rfl
@[simp] theorem wrReset_batched : (wrReset s f u n).batched = s.batched := rfl
@[simp] theorem wrReset_batchGen : (wrReset s f u n).batchGen = s.batchGen := rfl
@[simp] theorem wrReset_leftOut : (wrReset s f u n).leftOut = s.leftOut := rfl
@[simp] theorem wrReset_rets : (wrReset s f u n).rets = s.rets := rfl
@[simp] theorem wrReset_evicting : (wrReset s f u n).evicting = s.evicting := rfl
@[simp] theorem wrReset_moves : (wrReset s f u n).moves = s.moves := rfl
@[simp] theorem wrReset_roPend : (wrReset s f u n).roPend = s.roPend := rfl
@[simp] theorem wrReset_spilling : (wrReset s f u n).spilling = s.spilling := rfl
@[simp] theorem wrReset_mirroring : (wrReset s f u n).mirroring = s.mirroring := rfl
@[simp] theorem wrReset_mirrorQ : (wrReset s f u n).mirrorQ = s.mirrorQ := rfl
@[simp] theorem wrReset_firings : (wrReset s f u n).firings = s.firings := rfl
@[simp] theorem wrReset_stqPtr : (wrReset s f u n).stqPtr = s.stqPtr := rfl
@[simp] theorem wrReset_hreads : (wrReset s f u n).hreads = s.hreads := rfl
@[simp] theorem wrReset_ply : (wrReset s f u n).ply = s.ply := rfl
@[simp] theorem wrReset_hst : (wrReset s f u n).hst = s.hst := rfl
@[simp] theorem wrReset_pw : (wrReset s f u n).pw = s.pw := rfl
@[simp] theorem wrReset_bt : (wrReset s f u n).bt = s.bt := rfl
end Upd_wrReset

/-! ### wrNext changes rws -/

section Upd_wrNext
variable (s : State) (f : Field) (u n v : Nat)
@[simp] theorem wrNext_pending : (wrNext s f u n v).pending = s.pending := rfl
@[simp] theorem wrNext_regs : (wrNext s f u n v).regs = s.regs := rfl
@[simp] theorem wrNext_holding : (wrNext s f u n v).holding = s.holding := rfl
@[simp] theorem wrNext_rdata : (wrNext s f u n v).rdata = s.rdata := rfl
@[simp] theorem wrNext_mem : (wrNext s f u n v).mem = s.mem := rfl
@[simp] theorem wrNext_hostMem : (wrNext s f u n v).hostMem = s.hostMem := rfl
@[simp] theorem wrNext_held : (wrNext s f u n v).held = s.held := rfl
@[simp] theorem wrNext_lossy : (wrNext s f u n v).lossy = s.lossy := rfl
@[simp] theorem wrNext_errQueue : (wrNext s f u n v).errQueue = s.errQueue := rfl
@[simp] theorem wrNext_freeIdx : (wrNext s f u n v).freeIdx = s.freeIdx := rfl
@[simp] theorem wrNext_sreg : (wrNext s f u n v).sreg = s.sreg := rfl
@[simp] theorem wrNext_areg : (wrNext s f u n v).areg = s.areg := rfl
@[simp] theorem wrNext_vreg : (wrNext s f u n v).vreg = s.vreg := rfl
@[simp] theorem wrNext_preg : (wrNext s f u n v).preg = s.preg := rfl
@[simp] theorem wrNext_pcs : (wrNext s f u n v).pcs = s.pcs := rfl
@[simp] theorem wrNext_ibuf : (wrNext s f u n v).ibuf = s.ibuf := rfl
@[simp] theorem wrNext_ipage : (wrNext s f u n v).ipage = s.ipage := rfl
@[simp] theorem wrNext_fills : (wrNext s f u n v).fills = s.fills := rfl
@[simp] theorem wrNext_arb : (wrNext s f u n v).arb = s.arb := rfl
@[simp] theorem wrNext_gather : (wrNext s f u n v).gather = s.gather := rfl
@[simp] theorem wrNext_prl : (wrNext s f u n v).prl = s.prl := rfl
@[simp] theorem wrNext_prlLoads : (wrNext s f u n v).prlLoads = s.prlLoads := rfl
@[simp] theorem wrNext_acc : (wrNext s f u n v).acc = s.acc := rfl
@[simp] theorem wrNext_accR : (wrNext s f u n v).accR = s.accR := rfl
@[simp] theorem wrNext_latch : (wrNext s f u n v).latch = s.latch := rfl
@[simp] theorem wrNext_wbuf : (wrNext s f u n v).wbuf = s.wbuf := rfl
@[simp] theorem wrNext_wform : (wrNext s f u n v).wform = s.wform := rfl
@[simp] theorem wrNext_wloads : (wrNext s f u n v).wloads = s.wloads := rfl
@[simp] theorem wrNext_young : (wrNext s f u n v).young = s.young := rfl
@[simp] theorem wrNext_flights : (wrNext s f u n v).flights = s.flights := rfl
@[simp] theorem wrNext_genKey : (wrNext s f u n v).genKey = s.genKey := rfl
@[simp] theorem wrNext_tcourse : (wrNext s f u n v).tcourse = s.tcourse := rfl
@[simp] theorem wrNext_tags : (wrNext s f u n v).tags = s.tags := rfl
@[simp] theorem wrNext_outb : (wrNext s f u n v).outb = s.outb := rfl
@[simp] theorem wrNext_castDone : (wrNext s f u n v).castDone = s.castDone := rfl
@[simp] theorem wrNext_net : (wrNext s f u n v).net = s.net := rfl
@[simp] theorem wrNext_nextPid : (wrNext s f u n v).nextPid = s.nextPid := rfl
@[simp] theorem wrNext_credUsed : (wrNext s f u n v).credUsed = s.credUsed := rfl
@[simp] theorem wrNext_rrPtr : (wrNext s f u n v).rrPtr = s.rrPtr := rfl
@[simp] theorem wrNext_respRun : (wrNext s f u n v).respRun = s.respRun := rfl
@[simp] theorem wrNext_merge : (wrNext s f u n v).merge = s.merge := rfl
@[simp] theorem wrNext_parts : (wrNext s f u n v).parts = s.parts := rfl
@[simp] theorem wrNext_clPart : (wrNext s f u n v).clPart = s.clPart := rfl
@[simp] theorem wrNext_profile : (wrNext s f u n v).profile = s.profile := rfl
@[simp] theorem wrNext_windows : (wrNext s f u n v).windows = s.windows := rfl
@[simp] theorem wrNext_releases : (wrNext s f u n v).releases = s.releases := rfl
@[simp] theorem wrNext_newKey : (wrNext s f u n v).newKey = s.newKey := rfl
@[simp] theorem wrNext_grpRel : (wrNext s f u n v).grpRel = s.grpRel := rfl
@[simp] theorem wrNext_btRun : (wrNext s f u n v).btRun = s.btRun := rfl
@[simp] theorem wrNext_stops : (wrNext s f u n v).stops = s.stops := rfl
@[simp] theorem wrNext_waiters : (wrNext s f u n v).waiters = s.waiters := rfl
@[simp] theorem wrNext_released : (wrNext s f u n v).released = s.released := rfl
@[simp] theorem wrNext_tx : (wrNext s f u n v).tx = s.tx := rfl
@[simp] theorem wrNext_rx : (wrNext s f u n v).rx = s.rx := rfl
@[simp] theorem wrNext_freshen : (wrNext s f u n v).freshen = s.freshen := rfl
@[simp] theorem wrNext_stalls : (wrNext s f u n v).stalls = s.stalls := rfl
@[simp] theorem wrNext_joinCred : (wrNext s f u n v).joinCred = s.joinCred := rfl
@[simp] theorem wrNext_fresh : (wrNext s f u n v).fresh = s.fresh := rfl
@[simp] theorem wrNext_vecMask : (wrNext s f u n v).vecMask = s.vecMask := rfl
@[simp] theorem wrNext_vecPend : (wrNext s f u n v).vecPend = s.vecPend := rfl
@[simp] theorem wrNext_vecSent : (wrNext s f u n v).vecSent = s.vecSent := rfl
@[simp] theorem wrNext_vecCnt : (wrNext s f u n v).vecCnt = s.vecCnt := rfl
@[simp] theorem wrNext_hubIrq : (wrNext s f u n v).hubIrq = s.hubIrq := rfl
@[simp] theorem wrNext_descs : (wrNext s f u n v).descs = s.descs := rfl
@[simp] theorem wrNext_pins : (wrNext s f u n v).pins = s.pins := rfl
@[simp] theorem wrNext_inForce : (wrNext s f u n v).inForce = s.inForce := rfl
@[simp] theorem wrNext_gathers : (wrNext s f u n v).gathers = s.gathers := rfl
@[simp] theorem wrNext_upds : (wrNext s f u n v).upds = s.upds := rfl
@[simp] theorem wrNext_blkRng : (wrNext s f u n v).blkRng = s.blkRng := rfl
@[simp] theorem wrNext_trapLater : (wrNext s f u n v).trapLater = s.trapLater := rfl
@[simp] theorem wrNext_memq : (wrNext s f u n v).memq = s.memq := rfl
@[simp] theorem wrNext_openRow : (wrNext s f u n v).openRow = s.openRow := rfl
@[simp] theorem wrNext_scrubPtr : (wrNext s f u n v).scrubPtr = s.scrubPtr := rfl
@[simp] theorem wrNext_eyes : (wrNext s f u n v).eyes = s.eyes := rfl
@[simp] theorem wrNext_turn : (wrNext s f u n v).turn = s.turn := rfl
@[simp] theorem wrNext_ashps : (wrNext s f u n v).ashps = s.ashps := rfl
@[simp] theorem wrNext_outWait : (wrNext s f u n v).outWait = s.outWait := rfl
@[simp] theorem wrNext_training : (wrNext s f u n v).training = s.training := rfl
@[simp] theorem wrNext_bootRecs : (wrNext s f u n v).bootRecs = s.bootRecs := rfl
@[simp] theorem wrNext_skeins : (wrNext s f u n v).skeins = s.skeins := rfl
@[simp] theorem wrNext_groups : (wrNext s f u n v).groups = s.groups := rfl
@[simp] theorem wrNext_built : (wrNext s f u n v).built = s.built := rfl
@[simp] theorem wrNext_batched : (wrNext s f u n v).batched = s.batched := rfl
@[simp] theorem wrNext_batchGen : (wrNext s f u n v).batchGen = s.batchGen := rfl
@[simp] theorem wrNext_leftOut : (wrNext s f u n v).leftOut = s.leftOut := rfl
@[simp] theorem wrNext_rets : (wrNext s f u n v).rets = s.rets := rfl
@[simp] theorem wrNext_evicting : (wrNext s f u n v).evicting = s.evicting := rfl
@[simp] theorem wrNext_moves : (wrNext s f u n v).moves = s.moves := rfl
@[simp] theorem wrNext_roPend : (wrNext s f u n v).roPend = s.roPend := rfl
@[simp] theorem wrNext_spilling : (wrNext s f u n v).spilling = s.spilling := rfl
@[simp] theorem wrNext_mirroring : (wrNext s f u n v).mirroring = s.mirroring := rfl
@[simp] theorem wrNext_mirrorQ : (wrNext s f u n v).mirrorQ = s.mirrorQ := rfl
@[simp] theorem wrNext_firings : (wrNext s f u n v).firings = s.firings := rfl
@[simp] theorem wrNext_stqPtr : (wrNext s f u n v).stqPtr = s.stqPtr := rfl
@[simp] theorem wrNext_hreads : (wrNext s f u n v).hreads = s.hreads := rfl
@[simp] theorem wrNext_ply : (wrNext s f u n v).ply = s.ply := rfl
@[simp] theorem wrNext_hst : (wrNext s f u n v).hst = s.hst := rfl
@[simp] theorem wrNext_pw : (wrNext s f u n v).pw = s.pw := rfl
@[simp] theorem wrNext_bt : (wrNext s f u n v).bt = s.bt := rfl
end Upd_wrNext

/-! ### wrByte changes mem -/

section Upd_wrByte
variable (s : State) (a : Nat) (b : Byte)
@[simp] theorem wrByte_pending : (wrByte s a b).pending = s.pending := rfl
@[simp] theorem wrByte_regs : (wrByte s a b).regs = s.regs := rfl
@[simp] theorem wrByte_rws : (wrByte s a b).rws = s.rws := rfl
@[simp] theorem wrByte_holding : (wrByte s a b).holding = s.holding := rfl
@[simp] theorem wrByte_rdata : (wrByte s a b).rdata = s.rdata := rfl
@[simp] theorem wrByte_hostMem : (wrByte s a b).hostMem = s.hostMem := rfl
@[simp] theorem wrByte_held : (wrByte s a b).held = s.held := rfl
@[simp] theorem wrByte_lossy : (wrByte s a b).lossy = s.lossy := rfl
@[simp] theorem wrByte_errQueue : (wrByte s a b).errQueue = s.errQueue := rfl
@[simp] theorem wrByte_freeIdx : (wrByte s a b).freeIdx = s.freeIdx := rfl
@[simp] theorem wrByte_sreg : (wrByte s a b).sreg = s.sreg := rfl
@[simp] theorem wrByte_areg : (wrByte s a b).areg = s.areg := rfl
@[simp] theorem wrByte_vreg : (wrByte s a b).vreg = s.vreg := rfl
@[simp] theorem wrByte_preg : (wrByte s a b).preg = s.preg := rfl
@[simp] theorem wrByte_pcs : (wrByte s a b).pcs = s.pcs := rfl
@[simp] theorem wrByte_ibuf : (wrByte s a b).ibuf = s.ibuf := rfl
@[simp] theorem wrByte_ipage : (wrByte s a b).ipage = s.ipage := rfl
@[simp] theorem wrByte_fills : (wrByte s a b).fills = s.fills := rfl
@[simp] theorem wrByte_arb : (wrByte s a b).arb = s.arb := rfl
@[simp] theorem wrByte_gather : (wrByte s a b).gather = s.gather := rfl
@[simp] theorem wrByte_prl : (wrByte s a b).prl = s.prl := rfl
@[simp] theorem wrByte_prlLoads : (wrByte s a b).prlLoads = s.prlLoads := rfl
@[simp] theorem wrByte_acc : (wrByte s a b).acc = s.acc := rfl
@[simp] theorem wrByte_accR : (wrByte s a b).accR = s.accR := rfl
@[simp] theorem wrByte_latch : (wrByte s a b).latch = s.latch := rfl
@[simp] theorem wrByte_wbuf : (wrByte s a b).wbuf = s.wbuf := rfl
@[simp] theorem wrByte_wform : (wrByte s a b).wform = s.wform := rfl
@[simp] theorem wrByte_wloads : (wrByte s a b).wloads = s.wloads := rfl
@[simp] theorem wrByte_young : (wrByte s a b).young = s.young := rfl
@[simp] theorem wrByte_flights : (wrByte s a b).flights = s.flights := rfl
@[simp] theorem wrByte_genKey : (wrByte s a b).genKey = s.genKey := rfl
@[simp] theorem wrByte_tcourse : (wrByte s a b).tcourse = s.tcourse := rfl
@[simp] theorem wrByte_tags : (wrByte s a b).tags = s.tags := rfl
@[simp] theorem wrByte_outb : (wrByte s a b).outb = s.outb := rfl
@[simp] theorem wrByte_castDone : (wrByte s a b).castDone = s.castDone := rfl
@[simp] theorem wrByte_net : (wrByte s a b).net = s.net := rfl
@[simp] theorem wrByte_nextPid : (wrByte s a b).nextPid = s.nextPid := rfl
@[simp] theorem wrByte_credUsed : (wrByte s a b).credUsed = s.credUsed := rfl
@[simp] theorem wrByte_rrPtr : (wrByte s a b).rrPtr = s.rrPtr := rfl
@[simp] theorem wrByte_respRun : (wrByte s a b).respRun = s.respRun := rfl
@[simp] theorem wrByte_merge : (wrByte s a b).merge = s.merge := rfl
@[simp] theorem wrByte_parts : (wrByte s a b).parts = s.parts := rfl
@[simp] theorem wrByte_clPart : (wrByte s a b).clPart = s.clPart := rfl
@[simp] theorem wrByte_profile : (wrByte s a b).profile = s.profile := rfl
@[simp] theorem wrByte_windows : (wrByte s a b).windows = s.windows := rfl
@[simp] theorem wrByte_releases : (wrByte s a b).releases = s.releases := rfl
@[simp] theorem wrByte_newKey : (wrByte s a b).newKey = s.newKey := rfl
@[simp] theorem wrByte_grpRel : (wrByte s a b).grpRel = s.grpRel := rfl
@[simp] theorem wrByte_btRun : (wrByte s a b).btRun = s.btRun := rfl
@[simp] theorem wrByte_stops : (wrByte s a b).stops = s.stops := rfl
@[simp] theorem wrByte_waiters : (wrByte s a b).waiters = s.waiters := rfl
@[simp] theorem wrByte_released : (wrByte s a b).released = s.released := rfl
@[simp] theorem wrByte_tx : (wrByte s a b).tx = s.tx := rfl
@[simp] theorem wrByte_rx : (wrByte s a b).rx = s.rx := rfl
@[simp] theorem wrByte_freshen : (wrByte s a b).freshen = s.freshen := rfl
@[simp] theorem wrByte_stalls : (wrByte s a b).stalls = s.stalls := rfl
@[simp] theorem wrByte_joinCred : (wrByte s a b).joinCred = s.joinCred := rfl
@[simp] theorem wrByte_fresh : (wrByte s a b).fresh = s.fresh := rfl
@[simp] theorem wrByte_vecMask : (wrByte s a b).vecMask = s.vecMask := rfl
@[simp] theorem wrByte_vecPend : (wrByte s a b).vecPend = s.vecPend := rfl
@[simp] theorem wrByte_vecSent : (wrByte s a b).vecSent = s.vecSent := rfl
@[simp] theorem wrByte_vecCnt : (wrByte s a b).vecCnt = s.vecCnt := rfl
@[simp] theorem wrByte_hubIrq : (wrByte s a b).hubIrq = s.hubIrq := rfl
@[simp] theorem wrByte_descs : (wrByte s a b).descs = s.descs := rfl
@[simp] theorem wrByte_pins : (wrByte s a b).pins = s.pins := rfl
@[simp] theorem wrByte_inForce : (wrByte s a b).inForce = s.inForce := rfl
@[simp] theorem wrByte_gathers : (wrByte s a b).gathers = s.gathers := rfl
@[simp] theorem wrByte_upds : (wrByte s a b).upds = s.upds := rfl
@[simp] theorem wrByte_blkRng : (wrByte s a b).blkRng = s.blkRng := rfl
@[simp] theorem wrByte_trapLater : (wrByte s a b).trapLater = s.trapLater := rfl
@[simp] theorem wrByte_memq : (wrByte s a b).memq = s.memq := rfl
@[simp] theorem wrByte_openRow : (wrByte s a b).openRow = s.openRow := rfl
@[simp] theorem wrByte_scrubPtr : (wrByte s a b).scrubPtr = s.scrubPtr := rfl
@[simp] theorem wrByte_eyes : (wrByte s a b).eyes = s.eyes := rfl
@[simp] theorem wrByte_turn : (wrByte s a b).turn = s.turn := rfl
@[simp] theorem wrByte_ashps : (wrByte s a b).ashps = s.ashps := rfl
@[simp] theorem wrByte_outWait : (wrByte s a b).outWait = s.outWait := rfl
@[simp] theorem wrByte_training : (wrByte s a b).training = s.training := rfl
@[simp] theorem wrByte_bootRecs : (wrByte s a b).bootRecs = s.bootRecs := rfl
@[simp] theorem wrByte_skeins : (wrByte s a b).skeins = s.skeins := rfl
@[simp] theorem wrByte_groups : (wrByte s a b).groups = s.groups := rfl
@[simp] theorem wrByte_built : (wrByte s a b).built = s.built := rfl
@[simp] theorem wrByte_batched : (wrByte s a b).batched = s.batched := rfl
@[simp] theorem wrByte_batchGen : (wrByte s a b).batchGen = s.batchGen := rfl
@[simp] theorem wrByte_leftOut : (wrByte s a b).leftOut = s.leftOut := rfl
@[simp] theorem wrByte_rets : (wrByte s a b).rets = s.rets := rfl
@[simp] theorem wrByte_evicting : (wrByte s a b).evicting = s.evicting := rfl
@[simp] theorem wrByte_moves : (wrByte s a b).moves = s.moves := rfl
@[simp] theorem wrByte_roPend : (wrByte s a b).roPend = s.roPend := rfl
@[simp] theorem wrByte_spilling : (wrByte s a b).spilling = s.spilling := rfl
@[simp] theorem wrByte_mirroring : (wrByte s a b).mirroring = s.mirroring := rfl
@[simp] theorem wrByte_mirrorQ : (wrByte s a b).mirrorQ = s.mirrorQ := rfl
@[simp] theorem wrByte_firings : (wrByte s a b).firings = s.firings := rfl
@[simp] theorem wrByte_stqPtr : (wrByte s a b).stqPtr = s.stqPtr := rfl
@[simp] theorem wrByte_hreads : (wrByte s a b).hreads = s.hreads := rfl
@[simp] theorem wrByte_ply : (wrByte s a b).ply = s.ply := rfl
@[simp] theorem wrByte_hst : (wrByte s a b).hst = s.hst := rfl
@[simp] theorem wrByte_pw : (wrByte s a b).pw = s.pw := rfl
@[simp] theorem wrByte_bt : (wrByte s a b).bt = s.bt := rfl
end Upd_wrByte

/-! ### setPC changes pcs -/

section Upd_setPC
variable (t nc v : Nat) (s : State)
@[simp] theorem setPC_pending : (setPC t nc v s).pending = s.pending := rfl
@[simp] theorem setPC_regs : (setPC t nc v s).regs = s.regs := rfl
@[simp] theorem setPC_rws : (setPC t nc v s).rws = s.rws := rfl
@[simp] theorem setPC_holding : (setPC t nc v s).holding = s.holding := rfl
@[simp] theorem setPC_rdata : (setPC t nc v s).rdata = s.rdata := rfl
@[simp] theorem setPC_mem : (setPC t nc v s).mem = s.mem := rfl
@[simp] theorem setPC_hostMem : (setPC t nc v s).hostMem = s.hostMem := rfl
@[simp] theorem setPC_held : (setPC t nc v s).held = s.held := rfl
@[simp] theorem setPC_lossy : (setPC t nc v s).lossy = s.lossy := rfl
@[simp] theorem setPC_errQueue : (setPC t nc v s).errQueue = s.errQueue := rfl
@[simp] theorem setPC_freeIdx : (setPC t nc v s).freeIdx = s.freeIdx := rfl
@[simp] theorem setPC_sreg : (setPC t nc v s).sreg = s.sreg := rfl
@[simp] theorem setPC_areg : (setPC t nc v s).areg = s.areg := rfl
@[simp] theorem setPC_vreg : (setPC t nc v s).vreg = s.vreg := rfl
@[simp] theorem setPC_preg : (setPC t nc v s).preg = s.preg := rfl
@[simp] theorem setPC_ibuf : (setPC t nc v s).ibuf = s.ibuf := rfl
@[simp] theorem setPC_ipage : (setPC t nc v s).ipage = s.ipage := rfl
@[simp] theorem setPC_fills : (setPC t nc v s).fills = s.fills := rfl
@[simp] theorem setPC_arb : (setPC t nc v s).arb = s.arb := rfl
@[simp] theorem setPC_gather : (setPC t nc v s).gather = s.gather := rfl
@[simp] theorem setPC_prl : (setPC t nc v s).prl = s.prl := rfl
@[simp] theorem setPC_prlLoads : (setPC t nc v s).prlLoads = s.prlLoads := rfl
@[simp] theorem setPC_acc : (setPC t nc v s).acc = s.acc := rfl
@[simp] theorem setPC_accR : (setPC t nc v s).accR = s.accR := rfl
@[simp] theorem setPC_latch : (setPC t nc v s).latch = s.latch := rfl
@[simp] theorem setPC_wbuf : (setPC t nc v s).wbuf = s.wbuf := rfl
@[simp] theorem setPC_wform : (setPC t nc v s).wform = s.wform := rfl
@[simp] theorem setPC_wloads : (setPC t nc v s).wloads = s.wloads := rfl
@[simp] theorem setPC_young : (setPC t nc v s).young = s.young := rfl
@[simp] theorem setPC_flights : (setPC t nc v s).flights = s.flights := rfl
@[simp] theorem setPC_genKey : (setPC t nc v s).genKey = s.genKey := rfl
@[simp] theorem setPC_tcourse : (setPC t nc v s).tcourse = s.tcourse := rfl
@[simp] theorem setPC_tags : (setPC t nc v s).tags = s.tags := rfl
@[simp] theorem setPC_outb : (setPC t nc v s).outb = s.outb := rfl
@[simp] theorem setPC_castDone : (setPC t nc v s).castDone = s.castDone := rfl
@[simp] theorem setPC_net : (setPC t nc v s).net = s.net := rfl
@[simp] theorem setPC_nextPid : (setPC t nc v s).nextPid = s.nextPid := rfl
@[simp] theorem setPC_credUsed : (setPC t nc v s).credUsed = s.credUsed := rfl
@[simp] theorem setPC_rrPtr : (setPC t nc v s).rrPtr = s.rrPtr := rfl
@[simp] theorem setPC_respRun : (setPC t nc v s).respRun = s.respRun := rfl
@[simp] theorem setPC_merge : (setPC t nc v s).merge = s.merge := rfl
@[simp] theorem setPC_parts : (setPC t nc v s).parts = s.parts := rfl
@[simp] theorem setPC_clPart : (setPC t nc v s).clPart = s.clPart := rfl
@[simp] theorem setPC_profile : (setPC t nc v s).profile = s.profile := rfl
@[simp] theorem setPC_windows : (setPC t nc v s).windows = s.windows := rfl
@[simp] theorem setPC_releases : (setPC t nc v s).releases = s.releases := rfl
@[simp] theorem setPC_newKey : (setPC t nc v s).newKey = s.newKey := rfl
@[simp] theorem setPC_grpRel : (setPC t nc v s).grpRel = s.grpRel := rfl
@[simp] theorem setPC_btRun : (setPC t nc v s).btRun = s.btRun := rfl
@[simp] theorem setPC_stops : (setPC t nc v s).stops = s.stops := rfl
@[simp] theorem setPC_waiters : (setPC t nc v s).waiters = s.waiters := rfl
@[simp] theorem setPC_released : (setPC t nc v s).released = s.released := rfl
@[simp] theorem setPC_tx : (setPC t nc v s).tx = s.tx := rfl
@[simp] theorem setPC_rx : (setPC t nc v s).rx = s.rx := rfl
@[simp] theorem setPC_freshen : (setPC t nc v s).freshen = s.freshen := rfl
@[simp] theorem setPC_stalls : (setPC t nc v s).stalls = s.stalls := rfl
@[simp] theorem setPC_joinCred : (setPC t nc v s).joinCred = s.joinCred := rfl
@[simp] theorem setPC_fresh : (setPC t nc v s).fresh = s.fresh := rfl
@[simp] theorem setPC_vecMask : (setPC t nc v s).vecMask = s.vecMask := rfl
@[simp] theorem setPC_vecPend : (setPC t nc v s).vecPend = s.vecPend := rfl
@[simp] theorem setPC_vecSent : (setPC t nc v s).vecSent = s.vecSent := rfl
@[simp] theorem setPC_vecCnt : (setPC t nc v s).vecCnt = s.vecCnt := rfl
@[simp] theorem setPC_hubIrq : (setPC t nc v s).hubIrq = s.hubIrq := rfl
@[simp] theorem setPC_descs : (setPC t nc v s).descs = s.descs := rfl
@[simp] theorem setPC_pins : (setPC t nc v s).pins = s.pins := rfl
@[simp] theorem setPC_inForce : (setPC t nc v s).inForce = s.inForce := rfl
@[simp] theorem setPC_gathers : (setPC t nc v s).gathers = s.gathers := rfl
@[simp] theorem setPC_upds : (setPC t nc v s).upds = s.upds := rfl
@[simp] theorem setPC_blkRng : (setPC t nc v s).blkRng = s.blkRng := rfl
@[simp] theorem setPC_trapLater : (setPC t nc v s).trapLater = s.trapLater := rfl
@[simp] theorem setPC_memq : (setPC t nc v s).memq = s.memq := rfl
@[simp] theorem setPC_openRow : (setPC t nc v s).openRow = s.openRow := rfl
@[simp] theorem setPC_scrubPtr : (setPC t nc v s).scrubPtr = s.scrubPtr := rfl
@[simp] theorem setPC_eyes : (setPC t nc v s).eyes = s.eyes := rfl
@[simp] theorem setPC_turn : (setPC t nc v s).turn = s.turn := rfl
@[simp] theorem setPC_ashps : (setPC t nc v s).ashps = s.ashps := rfl
@[simp] theorem setPC_outWait : (setPC t nc v s).outWait = s.outWait := rfl
@[simp] theorem setPC_training : (setPC t nc v s).training = s.training := rfl
@[simp] theorem setPC_bootRecs : (setPC t nc v s).bootRecs = s.bootRecs := rfl
@[simp] theorem setPC_skeins : (setPC t nc v s).skeins = s.skeins := rfl
@[simp] theorem setPC_groups : (setPC t nc v s).groups = s.groups := rfl
@[simp] theorem setPC_built : (setPC t nc v s).built = s.built := rfl
@[simp] theorem setPC_batched : (setPC t nc v s).batched = s.batched := rfl
@[simp] theorem setPC_batchGen : (setPC t nc v s).batchGen = s.batchGen := rfl
@[simp] theorem setPC_leftOut : (setPC t nc v s).leftOut = s.leftOut := rfl
@[simp] theorem setPC_rets : (setPC t nc v s).rets = s.rets := rfl
@[simp] theorem setPC_evicting : (setPC t nc v s).evicting = s.evicting := rfl
@[simp] theorem setPC_moves : (setPC t nc v s).moves = s.moves := rfl
@[simp] theorem setPC_roPend : (setPC t nc v s).roPend = s.roPend := rfl
@[simp] theorem setPC_spilling : (setPC t nc v s).spilling = s.spilling := rfl
@[simp] theorem setPC_mirroring : (setPC t nc v s).mirroring = s.mirroring := rfl
@[simp] theorem setPC_mirrorQ : (setPC t nc v s).mirrorQ = s.mirrorQ := rfl
@[simp] theorem setPC_firings : (setPC t nc v s).firings = s.firings := rfl
@[simp] theorem setPC_stqPtr : (setPC t nc v s).stqPtr = s.stqPtr := rfl
@[simp] theorem setPC_hreads : (setPC t nc v s).hreads = s.hreads := rfl
@[simp] theorem setPC_ply : (setPC t nc v s).ply = s.ply := rfl
@[simp] theorem setPC_hst : (setPC t nc v s).hst = s.hst := rfl
@[simp] theorem setPC_pw : (setPC t nc v s).pw = s.pw := rfl
@[simp] theorem setPC_bt : (setPC t nc v s).bt = s.bt := rfl
end Upd_setPC

/-! ### advance changes pcs -/

section Upd_advance
variable (t nc : Nat) (s : State)
@[simp] theorem advance_pending : (advance t nc s).pending = s.pending := rfl
@[simp] theorem advance_regs : (advance t nc s).regs = s.regs := rfl
@[simp] theorem advance_rws : (advance t nc s).rws = s.rws := rfl
@[simp] theorem advance_holding : (advance t nc s).holding = s.holding := rfl
@[simp] theorem advance_rdata : (advance t nc s).rdata = s.rdata := rfl
@[simp] theorem advance_mem : (advance t nc s).mem = s.mem := rfl
@[simp] theorem advance_hostMem : (advance t nc s).hostMem = s.hostMem := rfl
@[simp] theorem advance_held : (advance t nc s).held = s.held := rfl
@[simp] theorem advance_lossy : (advance t nc s).lossy = s.lossy := rfl
@[simp] theorem advance_errQueue : (advance t nc s).errQueue = s.errQueue := rfl
@[simp] theorem advance_freeIdx : (advance t nc s).freeIdx = s.freeIdx := rfl
@[simp] theorem advance_sreg : (advance t nc s).sreg = s.sreg := rfl
@[simp] theorem advance_areg : (advance t nc s).areg = s.areg := rfl
@[simp] theorem advance_vreg : (advance t nc s).vreg = s.vreg := rfl
@[simp] theorem advance_preg : (advance t nc s).preg = s.preg := rfl
@[simp] theorem advance_ibuf : (advance t nc s).ibuf = s.ibuf := rfl
@[simp] theorem advance_ipage : (advance t nc s).ipage = s.ipage := rfl
@[simp] theorem advance_fills : (advance t nc s).fills = s.fills := rfl
@[simp] theorem advance_arb : (advance t nc s).arb = s.arb := rfl
@[simp] theorem advance_gather : (advance t nc s).gather = s.gather := rfl
@[simp] theorem advance_prl : (advance t nc s).prl = s.prl := rfl
@[simp] theorem advance_prlLoads : (advance t nc s).prlLoads = s.prlLoads := rfl
@[simp] theorem advance_acc : (advance t nc s).acc = s.acc := rfl
@[simp] theorem advance_accR : (advance t nc s).accR = s.accR := rfl
@[simp] theorem advance_latch : (advance t nc s).latch = s.latch := rfl
@[simp] theorem advance_wbuf : (advance t nc s).wbuf = s.wbuf := rfl
@[simp] theorem advance_wform : (advance t nc s).wform = s.wform := rfl
@[simp] theorem advance_wloads : (advance t nc s).wloads = s.wloads := rfl
@[simp] theorem advance_young : (advance t nc s).young = s.young := rfl
@[simp] theorem advance_flights : (advance t nc s).flights = s.flights := rfl
@[simp] theorem advance_genKey : (advance t nc s).genKey = s.genKey := rfl
@[simp] theorem advance_tcourse : (advance t nc s).tcourse = s.tcourse := rfl
@[simp] theorem advance_tags : (advance t nc s).tags = s.tags := rfl
@[simp] theorem advance_outb : (advance t nc s).outb = s.outb := rfl
@[simp] theorem advance_castDone : (advance t nc s).castDone = s.castDone := rfl
@[simp] theorem advance_net : (advance t nc s).net = s.net := rfl
@[simp] theorem advance_nextPid : (advance t nc s).nextPid = s.nextPid := rfl
@[simp] theorem advance_credUsed : (advance t nc s).credUsed = s.credUsed := rfl
@[simp] theorem advance_rrPtr : (advance t nc s).rrPtr = s.rrPtr := rfl
@[simp] theorem advance_respRun : (advance t nc s).respRun = s.respRun := rfl
@[simp] theorem advance_merge : (advance t nc s).merge = s.merge := rfl
@[simp] theorem advance_parts : (advance t nc s).parts = s.parts := rfl
@[simp] theorem advance_clPart : (advance t nc s).clPart = s.clPart := rfl
@[simp] theorem advance_profile : (advance t nc s).profile = s.profile := rfl
@[simp] theorem advance_windows : (advance t nc s).windows = s.windows := rfl
@[simp] theorem advance_releases : (advance t nc s).releases = s.releases := rfl
@[simp] theorem advance_newKey : (advance t nc s).newKey = s.newKey := rfl
@[simp] theorem advance_grpRel : (advance t nc s).grpRel = s.grpRel := rfl
@[simp] theorem advance_btRun : (advance t nc s).btRun = s.btRun := rfl
@[simp] theorem advance_stops : (advance t nc s).stops = s.stops := rfl
@[simp] theorem advance_waiters : (advance t nc s).waiters = s.waiters := rfl
@[simp] theorem advance_released : (advance t nc s).released = s.released := rfl
@[simp] theorem advance_tx : (advance t nc s).tx = s.tx := rfl
@[simp] theorem advance_rx : (advance t nc s).rx = s.rx := rfl
@[simp] theorem advance_freshen : (advance t nc s).freshen = s.freshen := rfl
@[simp] theorem advance_stalls : (advance t nc s).stalls = s.stalls := rfl
@[simp] theorem advance_joinCred : (advance t nc s).joinCred = s.joinCred := rfl
@[simp] theorem advance_fresh : (advance t nc s).fresh = s.fresh := rfl
@[simp] theorem advance_vecMask : (advance t nc s).vecMask = s.vecMask := rfl
@[simp] theorem advance_vecPend : (advance t nc s).vecPend = s.vecPend := rfl
@[simp] theorem advance_vecSent : (advance t nc s).vecSent = s.vecSent := rfl
@[simp] theorem advance_vecCnt : (advance t nc s).vecCnt = s.vecCnt := rfl
@[simp] theorem advance_hubIrq : (advance t nc s).hubIrq = s.hubIrq := rfl
@[simp] theorem advance_descs : (advance t nc s).descs = s.descs := rfl
@[simp] theorem advance_pins : (advance t nc s).pins = s.pins := rfl
@[simp] theorem advance_inForce : (advance t nc s).inForce = s.inForce := rfl
@[simp] theorem advance_gathers : (advance t nc s).gathers = s.gathers := rfl
@[simp] theorem advance_upds : (advance t nc s).upds = s.upds := rfl
@[simp] theorem advance_blkRng : (advance t nc s).blkRng = s.blkRng := rfl
@[simp] theorem advance_trapLater : (advance t nc s).trapLater = s.trapLater := rfl
@[simp] theorem advance_memq : (advance t nc s).memq = s.memq := rfl
@[simp] theorem advance_openRow : (advance t nc s).openRow = s.openRow := rfl
@[simp] theorem advance_scrubPtr : (advance t nc s).scrubPtr = s.scrubPtr := rfl
@[simp] theorem advance_eyes : (advance t nc s).eyes = s.eyes := rfl
@[simp] theorem advance_turn : (advance t nc s).turn = s.turn := rfl
@[simp] theorem advance_ashps : (advance t nc s).ashps = s.ashps := rfl
@[simp] theorem advance_outWait : (advance t nc s).outWait = s.outWait := rfl
@[simp] theorem advance_training : (advance t nc s).training = s.training := rfl
@[simp] theorem advance_bootRecs : (advance t nc s).bootRecs = s.bootRecs := rfl
@[simp] theorem advance_skeins : (advance t nc s).skeins = s.skeins := rfl
@[simp] theorem advance_groups : (advance t nc s).groups = s.groups := rfl
@[simp] theorem advance_built : (advance t nc s).built = s.built := rfl
@[simp] theorem advance_batched : (advance t nc s).batched = s.batched := rfl
@[simp] theorem advance_batchGen : (advance t nc s).batchGen = s.batchGen := rfl
@[simp] theorem advance_leftOut : (advance t nc s).leftOut = s.leftOut := rfl
@[simp] theorem advance_rets : (advance t nc s).rets = s.rets := rfl
@[simp] theorem advance_evicting : (advance t nc s).evicting = s.evicting := rfl
@[simp] theorem advance_moves : (advance t nc s).moves = s.moves := rfl
@[simp] theorem advance_roPend : (advance t nc s).roPend = s.roPend := rfl
@[simp] theorem advance_spilling : (advance t nc s).spilling = s.spilling := rfl
@[simp] theorem advance_mirroring : (advance t nc s).mirroring = s.mirroring := rfl
@[simp] theorem advance_mirrorQ : (advance t nc s).mirrorQ = s.mirrorQ := rfl
@[simp] theorem advance_firings : (advance t nc s).firings = s.firings := rfl
@[simp] theorem advance_stqPtr : (advance t nc s).stqPtr = s.stqPtr := rfl
@[simp] theorem advance_hreads : (advance t nc s).hreads = s.hreads := rfl
@[simp] theorem advance_ply : (advance t nc s).ply = s.ply := rfl
@[simp] theorem advance_hst : (advance t nc s).hst = s.hst := rfl
@[simp] theorem advance_pw : (advance t nc s).pw = s.pw := rfl
@[simp] theorem advance_bt : (advance t nc s).bt = s.bt := rfl
end Upd_advance

/-! ### setS changes sreg -/

section Upd_setS
variable (t nc r : Nat) (v : W32) (s : State)
@[simp] theorem setS_pending : (setS t nc r v s).pending = s.pending := by unfold setS; split <;> rfl
@[simp] theorem setS_regs : (setS t nc r v s).regs = s.regs := by unfold setS; split <;> rfl
@[simp] theorem setS_rws : (setS t nc r v s).rws = s.rws := by unfold setS; split <;> rfl
@[simp] theorem setS_holding : (setS t nc r v s).holding = s.holding := by unfold setS; split <;> rfl
@[simp] theorem setS_rdata : (setS t nc r v s).rdata = s.rdata := by unfold setS; split <;> rfl
@[simp] theorem setS_mem : (setS t nc r v s).mem = s.mem := by unfold setS; split <;> rfl
@[simp] theorem setS_hostMem : (setS t nc r v s).hostMem = s.hostMem := by unfold setS; split <;> rfl
@[simp] theorem setS_held : (setS t nc r v s).held = s.held := by unfold setS; split <;> rfl
@[simp] theorem setS_lossy : (setS t nc r v s).lossy = s.lossy := by unfold setS; split <;> rfl
@[simp] theorem setS_errQueue : (setS t nc r v s).errQueue = s.errQueue := by unfold setS; split <;> rfl
@[simp] theorem setS_freeIdx : (setS t nc r v s).freeIdx = s.freeIdx := by unfold setS; split <;> rfl
@[simp] theorem setS_areg : (setS t nc r v s).areg = s.areg := by unfold setS; split <;> rfl
@[simp] theorem setS_vreg : (setS t nc r v s).vreg = s.vreg := by unfold setS; split <;> rfl
@[simp] theorem setS_preg : (setS t nc r v s).preg = s.preg := by unfold setS; split <;> rfl
@[simp] theorem setS_pcs : (setS t nc r v s).pcs = s.pcs := by unfold setS; split <;> rfl
@[simp] theorem setS_ibuf : (setS t nc r v s).ibuf = s.ibuf := by unfold setS; split <;> rfl
@[simp] theorem setS_ipage : (setS t nc r v s).ipage = s.ipage := by unfold setS; split <;> rfl
@[simp] theorem setS_fills : (setS t nc r v s).fills = s.fills := by unfold setS; split <;> rfl
@[simp] theorem setS_arb : (setS t nc r v s).arb = s.arb := by unfold setS; split <;> rfl
@[simp] theorem setS_gather : (setS t nc r v s).gather = s.gather := by unfold setS; split <;> rfl
@[simp] theorem setS_prl : (setS t nc r v s).prl = s.prl := by unfold setS; split <;> rfl
@[simp] theorem setS_prlLoads : (setS t nc r v s).prlLoads = s.prlLoads := by unfold setS; split <;> rfl
@[simp] theorem setS_acc : (setS t nc r v s).acc = s.acc := by unfold setS; split <;> rfl
@[simp] theorem setS_accR : (setS t nc r v s).accR = s.accR := by unfold setS; split <;> rfl
@[simp] theorem setS_latch : (setS t nc r v s).latch = s.latch := by unfold setS; split <;> rfl
@[simp] theorem setS_wbuf : (setS t nc r v s).wbuf = s.wbuf := by unfold setS; split <;> rfl
@[simp] theorem setS_wform : (setS t nc r v s).wform = s.wform := by unfold setS; split <;> rfl
@[simp] theorem setS_wloads : (setS t nc r v s).wloads = s.wloads := by unfold setS; split <;> rfl
@[simp] theorem setS_young : (setS t nc r v s).young = s.young := by unfold setS; split <;> rfl
@[simp] theorem setS_flights : (setS t nc r v s).flights = s.flights := by unfold setS; split <;> rfl
@[simp] theorem setS_genKey : (setS t nc r v s).genKey = s.genKey := by unfold setS; split <;> rfl
@[simp] theorem setS_tcourse : (setS t nc r v s).tcourse = s.tcourse := by unfold setS; split <;> rfl
@[simp] theorem setS_tags : (setS t nc r v s).tags = s.tags := by unfold setS; split <;> rfl
@[simp] theorem setS_outb : (setS t nc r v s).outb = s.outb := by unfold setS; split <;> rfl
@[simp] theorem setS_castDone : (setS t nc r v s).castDone = s.castDone := by unfold setS; split <;> rfl
@[simp] theorem setS_net : (setS t nc r v s).net = s.net := by unfold setS; split <;> rfl
@[simp] theorem setS_nextPid : (setS t nc r v s).nextPid = s.nextPid := by unfold setS; split <;> rfl
@[simp] theorem setS_credUsed : (setS t nc r v s).credUsed = s.credUsed := by unfold setS; split <;> rfl
@[simp] theorem setS_rrPtr : (setS t nc r v s).rrPtr = s.rrPtr := by unfold setS; split <;> rfl
@[simp] theorem setS_respRun : (setS t nc r v s).respRun = s.respRun := by unfold setS; split <;> rfl
@[simp] theorem setS_merge : (setS t nc r v s).merge = s.merge := by unfold setS; split <;> rfl
@[simp] theorem setS_parts : (setS t nc r v s).parts = s.parts := by unfold setS; split <;> rfl
@[simp] theorem setS_clPart : (setS t nc r v s).clPart = s.clPart := by unfold setS; split <;> rfl
@[simp] theorem setS_profile : (setS t nc r v s).profile = s.profile := by unfold setS; split <;> rfl
@[simp] theorem setS_windows : (setS t nc r v s).windows = s.windows := by unfold setS; split <;> rfl
@[simp] theorem setS_releases : (setS t nc r v s).releases = s.releases := by unfold setS; split <;> rfl
@[simp] theorem setS_newKey : (setS t nc r v s).newKey = s.newKey := by unfold setS; split <;> rfl
@[simp] theorem setS_grpRel : (setS t nc r v s).grpRel = s.grpRel := by unfold setS; split <;> rfl
@[simp] theorem setS_btRun : (setS t nc r v s).btRun = s.btRun := by unfold setS; split <;> rfl
@[simp] theorem setS_stops : (setS t nc r v s).stops = s.stops := by unfold setS; split <;> rfl
@[simp] theorem setS_waiters : (setS t nc r v s).waiters = s.waiters := by unfold setS; split <;> rfl
@[simp] theorem setS_released : (setS t nc r v s).released = s.released := by unfold setS; split <;> rfl
@[simp] theorem setS_tx : (setS t nc r v s).tx = s.tx := by unfold setS; split <;> rfl
@[simp] theorem setS_rx : (setS t nc r v s).rx = s.rx := by unfold setS; split <;> rfl
@[simp] theorem setS_freshen : (setS t nc r v s).freshen = s.freshen := by unfold setS; split <;> rfl
@[simp] theorem setS_stalls : (setS t nc r v s).stalls = s.stalls := by unfold setS; split <;> rfl
@[simp] theorem setS_joinCred : (setS t nc r v s).joinCred = s.joinCred := by unfold setS; split <;> rfl
@[simp] theorem setS_fresh : (setS t nc r v s).fresh = s.fresh := by unfold setS; split <;> rfl
@[simp] theorem setS_vecMask : (setS t nc r v s).vecMask = s.vecMask := by unfold setS; split <;> rfl
@[simp] theorem setS_vecPend : (setS t nc r v s).vecPend = s.vecPend := by unfold setS; split <;> rfl
@[simp] theorem setS_vecSent : (setS t nc r v s).vecSent = s.vecSent := by unfold setS; split <;> rfl
@[simp] theorem setS_vecCnt : (setS t nc r v s).vecCnt = s.vecCnt := by unfold setS; split <;> rfl
@[simp] theorem setS_hubIrq : (setS t nc r v s).hubIrq = s.hubIrq := by unfold setS; split <;> rfl
@[simp] theorem setS_descs : (setS t nc r v s).descs = s.descs := by unfold setS; split <;> rfl
@[simp] theorem setS_pins : (setS t nc r v s).pins = s.pins := by unfold setS; split <;> rfl
@[simp] theorem setS_inForce : (setS t nc r v s).inForce = s.inForce := by unfold setS; split <;> rfl
@[simp] theorem setS_gathers : (setS t nc r v s).gathers = s.gathers := by unfold setS; split <;> rfl
@[simp] theorem setS_upds : (setS t nc r v s).upds = s.upds := by unfold setS; split <;> rfl
@[simp] theorem setS_blkRng : (setS t nc r v s).blkRng = s.blkRng := by unfold setS; split <;> rfl
@[simp] theorem setS_trapLater : (setS t nc r v s).trapLater = s.trapLater := by unfold setS; split <;> rfl
@[simp] theorem setS_memq : (setS t nc r v s).memq = s.memq := by unfold setS; split <;> rfl
@[simp] theorem setS_openRow : (setS t nc r v s).openRow = s.openRow := by unfold setS; split <;> rfl
@[simp] theorem setS_scrubPtr : (setS t nc r v s).scrubPtr = s.scrubPtr := by unfold setS; split <;> rfl
@[simp] theorem setS_eyes : (setS t nc r v s).eyes = s.eyes := by unfold setS; split <;> rfl
@[simp] theorem setS_turn : (setS t nc r v s).turn = s.turn := by unfold setS; split <;> rfl
@[simp] theorem setS_ashps : (setS t nc r v s).ashps = s.ashps := by unfold setS; split <;> rfl
@[simp] theorem setS_outWait : (setS t nc r v s).outWait = s.outWait := by unfold setS; split <;> rfl
@[simp] theorem setS_training : (setS t nc r v s).training = s.training := by unfold setS; split <;> rfl
@[simp] theorem setS_bootRecs : (setS t nc r v s).bootRecs = s.bootRecs := by unfold setS; split <;> rfl
@[simp] theorem setS_skeins : (setS t nc r v s).skeins = s.skeins := by unfold setS; split <;> rfl
@[simp] theorem setS_groups : (setS t nc r v s).groups = s.groups := by unfold setS; split <;> rfl
@[simp] theorem setS_built : (setS t nc r v s).built = s.built := by unfold setS; split <;> rfl
@[simp] theorem setS_batched : (setS t nc r v s).batched = s.batched := by unfold setS; split <;> rfl
@[simp] theorem setS_batchGen : (setS t nc r v s).batchGen = s.batchGen := by unfold setS; split <;> rfl
@[simp] theorem setS_leftOut : (setS t nc r v s).leftOut = s.leftOut := by unfold setS; split <;> rfl
@[simp] theorem setS_rets : (setS t nc r v s).rets = s.rets := by unfold setS; split <;> rfl
@[simp] theorem setS_evicting : (setS t nc r v s).evicting = s.evicting := by unfold setS; split <;> rfl
@[simp] theorem setS_moves : (setS t nc r v s).moves = s.moves := by unfold setS; split <;> rfl
@[simp] theorem setS_roPend : (setS t nc r v s).roPend = s.roPend := by unfold setS; split <;> rfl
@[simp] theorem setS_spilling : (setS t nc r v s).spilling = s.spilling := by unfold setS; split <;> rfl
@[simp] theorem setS_mirroring : (setS t nc r v s).mirroring = s.mirroring := by unfold setS; split <;> rfl
@[simp] theorem setS_mirrorQ : (setS t nc r v s).mirrorQ = s.mirrorQ := by unfold setS; split <;> rfl
@[simp] theorem setS_firings : (setS t nc r v s).firings = s.firings := by unfold setS; split <;> rfl
@[simp] theorem setS_stqPtr : (setS t nc r v s).stqPtr = s.stqPtr := by unfold setS; split <;> rfl
@[simp] theorem setS_hreads : (setS t nc r v s).hreads = s.hreads := by unfold setS; split <;> rfl
@[simp] theorem setS_ply : (setS t nc r v s).ply = s.ply := by unfold setS; split <;> rfl
@[simp] theorem setS_hst : (setS t nc r v s).hst = s.hst := by unfold setS; split <;> rfl
@[simp] theorem setS_pw : (setS t nc r v s).pw = s.pw := by unfold setS; split <;> rfl
@[simp] theorem setS_bt : (setS t nc r v s).bt = s.bt := by unfold setS; split <;> rfl
end Upd_setS

/-! ### setA changes areg -/

section Upd_setA
variable (t nc r v : Nat) (s : State)
@[simp] theorem setA_pending : (setA t nc r v s).pending = s.pending := rfl
@[simp] theorem setA_regs : (setA t nc r v s).regs = s.regs := rfl
@[simp] theorem setA_rws : (setA t nc r v s).rws = s.rws := rfl
@[simp] theorem setA_holding : (setA t nc r v s).holding = s.holding := rfl
@[simp] theorem setA_rdata : (setA t nc r v s).rdata = s.rdata := rfl
@[simp] theorem setA_mem : (setA t nc r v s).mem = s.mem := rfl
@[simp] theorem setA_hostMem : (setA t nc r v s).hostMem = s.hostMem := rfl
@[simp] theorem setA_held : (setA t nc r v s).held = s.held := rfl
@[simp] theorem setA_lossy : (setA t nc r v s).lossy = s.lossy := rfl
@[simp] theorem setA_errQueue : (setA t nc r v s).errQueue = s.errQueue := rfl
@[simp] theorem setA_freeIdx : (setA t nc r v s).freeIdx = s.freeIdx := rfl
@[simp] theorem setA_sreg : (setA t nc r v s).sreg = s.sreg := rfl
@[simp] theorem setA_vreg : (setA t nc r v s).vreg = s.vreg := rfl
@[simp] theorem setA_preg : (setA t nc r v s).preg = s.preg := rfl
@[simp] theorem setA_pcs : (setA t nc r v s).pcs = s.pcs := rfl
@[simp] theorem setA_ibuf : (setA t nc r v s).ibuf = s.ibuf := rfl
@[simp] theorem setA_ipage : (setA t nc r v s).ipage = s.ipage := rfl
@[simp] theorem setA_fills : (setA t nc r v s).fills = s.fills := rfl
@[simp] theorem setA_arb : (setA t nc r v s).arb = s.arb := rfl
@[simp] theorem setA_gather : (setA t nc r v s).gather = s.gather := rfl
@[simp] theorem setA_prl : (setA t nc r v s).prl = s.prl := rfl
@[simp] theorem setA_prlLoads : (setA t nc r v s).prlLoads = s.prlLoads := rfl
@[simp] theorem setA_acc : (setA t nc r v s).acc = s.acc := rfl
@[simp] theorem setA_accR : (setA t nc r v s).accR = s.accR := rfl
@[simp] theorem setA_latch : (setA t nc r v s).latch = s.latch := rfl
@[simp] theorem setA_wbuf : (setA t nc r v s).wbuf = s.wbuf := rfl
@[simp] theorem setA_wform : (setA t nc r v s).wform = s.wform := rfl
@[simp] theorem setA_wloads : (setA t nc r v s).wloads = s.wloads := rfl
@[simp] theorem setA_young : (setA t nc r v s).young = s.young := rfl
@[simp] theorem setA_flights : (setA t nc r v s).flights = s.flights := rfl
@[simp] theorem setA_genKey : (setA t nc r v s).genKey = s.genKey := rfl
@[simp] theorem setA_tcourse : (setA t nc r v s).tcourse = s.tcourse := rfl
@[simp] theorem setA_tags : (setA t nc r v s).tags = s.tags := rfl
@[simp] theorem setA_outb : (setA t nc r v s).outb = s.outb := rfl
@[simp] theorem setA_castDone : (setA t nc r v s).castDone = s.castDone := rfl
@[simp] theorem setA_net : (setA t nc r v s).net = s.net := rfl
@[simp] theorem setA_nextPid : (setA t nc r v s).nextPid = s.nextPid := rfl
@[simp] theorem setA_credUsed : (setA t nc r v s).credUsed = s.credUsed := rfl
@[simp] theorem setA_rrPtr : (setA t nc r v s).rrPtr = s.rrPtr := rfl
@[simp] theorem setA_respRun : (setA t nc r v s).respRun = s.respRun := rfl
@[simp] theorem setA_merge : (setA t nc r v s).merge = s.merge := rfl
@[simp] theorem setA_parts : (setA t nc r v s).parts = s.parts := rfl
@[simp] theorem setA_clPart : (setA t nc r v s).clPart = s.clPart := rfl
@[simp] theorem setA_profile : (setA t nc r v s).profile = s.profile := rfl
@[simp] theorem setA_windows : (setA t nc r v s).windows = s.windows := rfl
@[simp] theorem setA_releases : (setA t nc r v s).releases = s.releases := rfl
@[simp] theorem setA_newKey : (setA t nc r v s).newKey = s.newKey := rfl
@[simp] theorem setA_grpRel : (setA t nc r v s).grpRel = s.grpRel := rfl
@[simp] theorem setA_btRun : (setA t nc r v s).btRun = s.btRun := rfl
@[simp] theorem setA_stops : (setA t nc r v s).stops = s.stops := rfl
@[simp] theorem setA_waiters : (setA t nc r v s).waiters = s.waiters := rfl
@[simp] theorem setA_released : (setA t nc r v s).released = s.released := rfl
@[simp] theorem setA_tx : (setA t nc r v s).tx = s.tx := rfl
@[simp] theorem setA_rx : (setA t nc r v s).rx = s.rx := rfl
@[simp] theorem setA_freshen : (setA t nc r v s).freshen = s.freshen := rfl
@[simp] theorem setA_stalls : (setA t nc r v s).stalls = s.stalls := rfl
@[simp] theorem setA_joinCred : (setA t nc r v s).joinCred = s.joinCred := rfl
@[simp] theorem setA_fresh : (setA t nc r v s).fresh = s.fresh := rfl
@[simp] theorem setA_vecMask : (setA t nc r v s).vecMask = s.vecMask := rfl
@[simp] theorem setA_vecPend : (setA t nc r v s).vecPend = s.vecPend := rfl
@[simp] theorem setA_vecSent : (setA t nc r v s).vecSent = s.vecSent := rfl
@[simp] theorem setA_vecCnt : (setA t nc r v s).vecCnt = s.vecCnt := rfl
@[simp] theorem setA_hubIrq : (setA t nc r v s).hubIrq = s.hubIrq := rfl
@[simp] theorem setA_descs : (setA t nc r v s).descs = s.descs := rfl
@[simp] theorem setA_pins : (setA t nc r v s).pins = s.pins := rfl
@[simp] theorem setA_inForce : (setA t nc r v s).inForce = s.inForce := rfl
@[simp] theorem setA_gathers : (setA t nc r v s).gathers = s.gathers := rfl
@[simp] theorem setA_upds : (setA t nc r v s).upds = s.upds := rfl
@[simp] theorem setA_blkRng : (setA t nc r v s).blkRng = s.blkRng := rfl
@[simp] theorem setA_trapLater : (setA t nc r v s).trapLater = s.trapLater := rfl
@[simp] theorem setA_memq : (setA t nc r v s).memq = s.memq := rfl
@[simp] theorem setA_openRow : (setA t nc r v s).openRow = s.openRow := rfl
@[simp] theorem setA_scrubPtr : (setA t nc r v s).scrubPtr = s.scrubPtr := rfl
@[simp] theorem setA_eyes : (setA t nc r v s).eyes = s.eyes := rfl
@[simp] theorem setA_turn : (setA t nc r v s).turn = s.turn := rfl
@[simp] theorem setA_ashps : (setA t nc r v s).ashps = s.ashps := rfl
@[simp] theorem setA_outWait : (setA t nc r v s).outWait = s.outWait := rfl
@[simp] theorem setA_training : (setA t nc r v s).training = s.training := rfl
@[simp] theorem setA_bootRecs : (setA t nc r v s).bootRecs = s.bootRecs := rfl
@[simp] theorem setA_skeins : (setA t nc r v s).skeins = s.skeins := rfl
@[simp] theorem setA_groups : (setA t nc r v s).groups = s.groups := rfl
@[simp] theorem setA_built : (setA t nc r v s).built = s.built := rfl
@[simp] theorem setA_batched : (setA t nc r v s).batched = s.batched := rfl
@[simp] theorem setA_batchGen : (setA t nc r v s).batchGen = s.batchGen := rfl
@[simp] theorem setA_leftOut : (setA t nc r v s).leftOut = s.leftOut := rfl
@[simp] theorem setA_rets : (setA t nc r v s).rets = s.rets := rfl
@[simp] theorem setA_evicting : (setA t nc r v s).evicting = s.evicting := rfl
@[simp] theorem setA_moves : (setA t nc r v s).moves = s.moves := rfl
@[simp] theorem setA_roPend : (setA t nc r v s).roPend = s.roPend := rfl
@[simp] theorem setA_spilling : (setA t nc r v s).spilling = s.spilling := rfl
@[simp] theorem setA_mirroring : (setA t nc r v s).mirroring = s.mirroring := rfl
@[simp] theorem setA_mirrorQ : (setA t nc r v s).mirrorQ = s.mirrorQ := rfl
@[simp] theorem setA_firings : (setA t nc r v s).firings = s.firings := rfl
@[simp] theorem setA_stqPtr : (setA t nc r v s).stqPtr = s.stqPtr := rfl
@[simp] theorem setA_hreads : (setA t nc r v s).hreads = s.hreads := rfl
@[simp] theorem setA_ply : (setA t nc r v s).ply = s.ply := rfl
@[simp] theorem setA_hst : (setA t nc r v s).hst = s.hst := rfl
@[simp] theorem setA_pw : (setA t nc r v s).pw = s.pw := rfl
@[simp] theorem setA_bt : (setA t nc r v s).bt = s.bt := rfl
end Upd_setA

/-! ### setLane changes vreg -/

section Upd_setLane
variable (t nc r i : Nat) (v : W32) (s : State)
@[simp] theorem setLane_pending : (setLane t nc r i v s).pending = s.pending := rfl
@[simp] theorem setLane_regs : (setLane t nc r i v s).regs = s.regs := rfl
@[simp] theorem setLane_rws : (setLane t nc r i v s).rws = s.rws := rfl
@[simp] theorem setLane_holding : (setLane t nc r i v s).holding = s.holding := rfl
@[simp] theorem setLane_rdata : (setLane t nc r i v s).rdata = s.rdata := rfl
@[simp] theorem setLane_mem : (setLane t nc r i v s).mem = s.mem := rfl
@[simp] theorem setLane_hostMem : (setLane t nc r i v s).hostMem = s.hostMem := rfl
@[simp] theorem setLane_held : (setLane t nc r i v s).held = s.held := rfl
@[simp] theorem setLane_lossy : (setLane t nc r i v s).lossy = s.lossy := rfl
@[simp] theorem setLane_errQueue : (setLane t nc r i v s).errQueue = s.errQueue := rfl
@[simp] theorem setLane_freeIdx : (setLane t nc r i v s).freeIdx = s.freeIdx := rfl
@[simp] theorem setLane_sreg : (setLane t nc r i v s).sreg = s.sreg := rfl
@[simp] theorem setLane_areg : (setLane t nc r i v s).areg = s.areg := rfl
@[simp] theorem setLane_preg : (setLane t nc r i v s).preg = s.preg := rfl
@[simp] theorem setLane_pcs : (setLane t nc r i v s).pcs = s.pcs := rfl
@[simp] theorem setLane_ibuf : (setLane t nc r i v s).ibuf = s.ibuf := rfl
@[simp] theorem setLane_ipage : (setLane t nc r i v s).ipage = s.ipage := rfl
@[simp] theorem setLane_fills : (setLane t nc r i v s).fills = s.fills := rfl
@[simp] theorem setLane_arb : (setLane t nc r i v s).arb = s.arb := rfl
@[simp] theorem setLane_gather : (setLane t nc r i v s).gather = s.gather := rfl
@[simp] theorem setLane_prl : (setLane t nc r i v s).prl = s.prl := rfl
@[simp] theorem setLane_prlLoads : (setLane t nc r i v s).prlLoads = s.prlLoads := rfl
@[simp] theorem setLane_acc : (setLane t nc r i v s).acc = s.acc := rfl
@[simp] theorem setLane_accR : (setLane t nc r i v s).accR = s.accR := rfl
@[simp] theorem setLane_latch : (setLane t nc r i v s).latch = s.latch := rfl
@[simp] theorem setLane_wbuf : (setLane t nc r i v s).wbuf = s.wbuf := rfl
@[simp] theorem setLane_wform : (setLane t nc r i v s).wform = s.wform := rfl
@[simp] theorem setLane_wloads : (setLane t nc r i v s).wloads = s.wloads := rfl
@[simp] theorem setLane_young : (setLane t nc r i v s).young = s.young := rfl
@[simp] theorem setLane_flights : (setLane t nc r i v s).flights = s.flights := rfl
@[simp] theorem setLane_genKey : (setLane t nc r i v s).genKey = s.genKey := rfl
@[simp] theorem setLane_tcourse : (setLane t nc r i v s).tcourse = s.tcourse := rfl
@[simp] theorem setLane_tags : (setLane t nc r i v s).tags = s.tags := rfl
@[simp] theorem setLane_outb : (setLane t nc r i v s).outb = s.outb := rfl
@[simp] theorem setLane_castDone : (setLane t nc r i v s).castDone = s.castDone := rfl
@[simp] theorem setLane_net : (setLane t nc r i v s).net = s.net := rfl
@[simp] theorem setLane_nextPid : (setLane t nc r i v s).nextPid = s.nextPid := rfl
@[simp] theorem setLane_credUsed : (setLane t nc r i v s).credUsed = s.credUsed := rfl
@[simp] theorem setLane_rrPtr : (setLane t nc r i v s).rrPtr = s.rrPtr := rfl
@[simp] theorem setLane_respRun : (setLane t nc r i v s).respRun = s.respRun := rfl
@[simp] theorem setLane_merge : (setLane t nc r i v s).merge = s.merge := rfl
@[simp] theorem setLane_parts : (setLane t nc r i v s).parts = s.parts := rfl
@[simp] theorem setLane_clPart : (setLane t nc r i v s).clPart = s.clPart := rfl
@[simp] theorem setLane_profile : (setLane t nc r i v s).profile = s.profile := rfl
@[simp] theorem setLane_windows : (setLane t nc r i v s).windows = s.windows := rfl
@[simp] theorem setLane_releases : (setLane t nc r i v s).releases = s.releases := rfl
@[simp] theorem setLane_newKey : (setLane t nc r i v s).newKey = s.newKey := rfl
@[simp] theorem setLane_grpRel : (setLane t nc r i v s).grpRel = s.grpRel := rfl
@[simp] theorem setLane_btRun : (setLane t nc r i v s).btRun = s.btRun := rfl
@[simp] theorem setLane_stops : (setLane t nc r i v s).stops = s.stops := rfl
@[simp] theorem setLane_waiters : (setLane t nc r i v s).waiters = s.waiters := rfl
@[simp] theorem setLane_released : (setLane t nc r i v s).released = s.released := rfl
@[simp] theorem setLane_tx : (setLane t nc r i v s).tx = s.tx := rfl
@[simp] theorem setLane_rx : (setLane t nc r i v s).rx = s.rx := rfl
@[simp] theorem setLane_freshen : (setLane t nc r i v s).freshen = s.freshen := rfl
@[simp] theorem setLane_stalls : (setLane t nc r i v s).stalls = s.stalls := rfl
@[simp] theorem setLane_joinCred : (setLane t nc r i v s).joinCred = s.joinCred := rfl
@[simp] theorem setLane_fresh : (setLane t nc r i v s).fresh = s.fresh := rfl
@[simp] theorem setLane_vecMask : (setLane t nc r i v s).vecMask = s.vecMask := rfl
@[simp] theorem setLane_vecPend : (setLane t nc r i v s).vecPend = s.vecPend := rfl
@[simp] theorem setLane_vecSent : (setLane t nc r i v s).vecSent = s.vecSent := rfl
@[simp] theorem setLane_vecCnt : (setLane t nc r i v s).vecCnt = s.vecCnt := rfl
@[simp] theorem setLane_hubIrq : (setLane t nc r i v s).hubIrq = s.hubIrq := rfl
@[simp] theorem setLane_descs : (setLane t nc r i v s).descs = s.descs := rfl
@[simp] theorem setLane_pins : (setLane t nc r i v s).pins = s.pins := rfl
@[simp] theorem setLane_inForce : (setLane t nc r i v s).inForce = s.inForce := rfl
@[simp] theorem setLane_gathers : (setLane t nc r i v s).gathers = s.gathers := rfl
@[simp] theorem setLane_upds : (setLane t nc r i v s).upds = s.upds := rfl
@[simp] theorem setLane_blkRng : (setLane t nc r i v s).blkRng = s.blkRng := rfl
@[simp] theorem setLane_trapLater : (setLane t nc r i v s).trapLater = s.trapLater := rfl
@[simp] theorem setLane_memq : (setLane t nc r i v s).memq = s.memq := rfl
@[simp] theorem setLane_openRow : (setLane t nc r i v s).openRow = s.openRow := rfl
@[simp] theorem setLane_scrubPtr : (setLane t nc r i v s).scrubPtr = s.scrubPtr := rfl
@[simp] theorem setLane_eyes : (setLane t nc r i v s).eyes = s.eyes := rfl
@[simp] theorem setLane_turn : (setLane t nc r i v s).turn = s.turn := rfl
@[simp] theorem setLane_ashps : (setLane t nc r i v s).ashps = s.ashps := rfl
@[simp] theorem setLane_outWait : (setLane t nc r i v s).outWait = s.outWait := rfl
@[simp] theorem setLane_training : (setLane t nc r i v s).training = s.training := rfl
@[simp] theorem setLane_bootRecs : (setLane t nc r i v s).bootRecs = s.bootRecs := rfl
@[simp] theorem setLane_skeins : (setLane t nc r i v s).skeins = s.skeins := rfl
@[simp] theorem setLane_groups : (setLane t nc r i v s).groups = s.groups := rfl
@[simp] theorem setLane_built : (setLane t nc r i v s).built = s.built := rfl
@[simp] theorem setLane_batched : (setLane t nc r i v s).batched = s.batched := rfl
@[simp] theorem setLane_batchGen : (setLane t nc r i v s).batchGen = s.batchGen := rfl
@[simp] theorem setLane_leftOut : (setLane t nc r i v s).leftOut = s.leftOut := rfl
@[simp] theorem setLane_rets : (setLane t nc r i v s).rets = s.rets := rfl
@[simp] theorem setLane_evicting : (setLane t nc r i v s).evicting = s.evicting := rfl
@[simp] theorem setLane_moves : (setLane t nc r i v s).moves = s.moves := rfl
@[simp] theorem setLane_roPend : (setLane t nc r i v s).roPend = s.roPend := rfl
@[simp] theorem setLane_spilling : (setLane t nc r i v s).spilling = s.spilling := rfl
@[simp] theorem setLane_mirroring : (setLane t nc r i v s).mirroring = s.mirroring := rfl
@[simp] theorem setLane_mirrorQ : (setLane t nc r i v s).mirrorQ = s.mirrorQ := rfl
@[simp] theorem setLane_firings : (setLane t nc r i v s).firings = s.firings := rfl
@[simp] theorem setLane_stqPtr : (setLane t nc r i v s).stqPtr = s.stqPtr := rfl
@[simp] theorem setLane_hreads : (setLane t nc r i v s).hreads = s.hreads := rfl
@[simp] theorem setLane_ply : (setLane t nc r i v s).ply = s.ply := rfl
@[simp] theorem setLane_hst : (setLane t nc r i v s).hst = s.hst := rfl
@[simp] theorem setLane_pw : (setLane t nc r i v s).pw = s.pw := rfl
@[simp] theorem setLane_bt : (setLane t nc r i v s).bt = s.bt := rfl
end Upd_setLane

/-! ### setP changes preg -/

section Upd_setP
variable (t nc r v : Nat) (s : State)
@[simp] theorem setP_pending : (setP t nc r v s).pending = s.pending := by unfold setP; split <;> rfl
@[simp] theorem setP_regs : (setP t nc r v s).regs = s.regs := by unfold setP; split <;> rfl
@[simp] theorem setP_rws : (setP t nc r v s).rws = s.rws := by unfold setP; split <;> rfl
@[simp] theorem setP_holding : (setP t nc r v s).holding = s.holding := by unfold setP; split <;> rfl
@[simp] theorem setP_rdata : (setP t nc r v s).rdata = s.rdata := by unfold setP; split <;> rfl
@[simp] theorem setP_mem : (setP t nc r v s).mem = s.mem := by unfold setP; split <;> rfl
@[simp] theorem setP_hostMem : (setP t nc r v s).hostMem = s.hostMem := by unfold setP; split <;> rfl
@[simp] theorem setP_held : (setP t nc r v s).held = s.held := by unfold setP; split <;> rfl
@[simp] theorem setP_lossy : (setP t nc r v s).lossy = s.lossy := by unfold setP; split <;> rfl
@[simp] theorem setP_errQueue : (setP t nc r v s).errQueue = s.errQueue := by unfold setP; split <;> rfl
@[simp] theorem setP_freeIdx : (setP t nc r v s).freeIdx = s.freeIdx := by unfold setP; split <;> rfl
@[simp] theorem setP_sreg : (setP t nc r v s).sreg = s.sreg := by unfold setP; split <;> rfl
@[simp] theorem setP_areg : (setP t nc r v s).areg = s.areg := by unfold setP; split <;> rfl
@[simp] theorem setP_vreg : (setP t nc r v s).vreg = s.vreg := by unfold setP; split <;> rfl
@[simp] theorem setP_pcs : (setP t nc r v s).pcs = s.pcs := by unfold setP; split <;> rfl
@[simp] theorem setP_ibuf : (setP t nc r v s).ibuf = s.ibuf := by unfold setP; split <;> rfl
@[simp] theorem setP_ipage : (setP t nc r v s).ipage = s.ipage := by unfold setP; split <;> rfl
@[simp] theorem setP_fills : (setP t nc r v s).fills = s.fills := by unfold setP; split <;> rfl
@[simp] theorem setP_arb : (setP t nc r v s).arb = s.arb := by unfold setP; split <;> rfl
@[simp] theorem setP_gather : (setP t nc r v s).gather = s.gather := by unfold setP; split <;> rfl
@[simp] theorem setP_prl : (setP t nc r v s).prl = s.prl := by unfold setP; split <;> rfl
@[simp] theorem setP_prlLoads : (setP t nc r v s).prlLoads = s.prlLoads := by unfold setP; split <;> rfl
@[simp] theorem setP_acc : (setP t nc r v s).acc = s.acc := by unfold setP; split <;> rfl
@[simp] theorem setP_accR : (setP t nc r v s).accR = s.accR := by unfold setP; split <;> rfl
@[simp] theorem setP_latch : (setP t nc r v s).latch = s.latch := by unfold setP; split <;> rfl
@[simp] theorem setP_wbuf : (setP t nc r v s).wbuf = s.wbuf := by unfold setP; split <;> rfl
@[simp] theorem setP_wform : (setP t nc r v s).wform = s.wform := by unfold setP; split <;> rfl
@[simp] theorem setP_wloads : (setP t nc r v s).wloads = s.wloads := by unfold setP; split <;> rfl
@[simp] theorem setP_young : (setP t nc r v s).young = s.young := by unfold setP; split <;> rfl
@[simp] theorem setP_flights : (setP t nc r v s).flights = s.flights := by unfold setP; split <;> rfl
@[simp] theorem setP_genKey : (setP t nc r v s).genKey = s.genKey := by unfold setP; split <;> rfl
@[simp] theorem setP_tcourse : (setP t nc r v s).tcourse = s.tcourse := by unfold setP; split <;> rfl
@[simp] theorem setP_tags : (setP t nc r v s).tags = s.tags := by unfold setP; split <;> rfl
@[simp] theorem setP_outb : (setP t nc r v s).outb = s.outb := by unfold setP; split <;> rfl
@[simp] theorem setP_castDone : (setP t nc r v s).castDone = s.castDone := by unfold setP; split <;> rfl
@[simp] theorem setP_net : (setP t nc r v s).net = s.net := by unfold setP; split <;> rfl
@[simp] theorem setP_nextPid : (setP t nc r v s).nextPid = s.nextPid := by unfold setP; split <;> rfl
@[simp] theorem setP_credUsed : (setP t nc r v s).credUsed = s.credUsed := by unfold setP; split <;> rfl
@[simp] theorem setP_rrPtr : (setP t nc r v s).rrPtr = s.rrPtr := by unfold setP; split <;> rfl
@[simp] theorem setP_respRun : (setP t nc r v s).respRun = s.respRun := by unfold setP; split <;> rfl
@[simp] theorem setP_merge : (setP t nc r v s).merge = s.merge := by unfold setP; split <;> rfl
@[simp] theorem setP_parts : (setP t nc r v s).parts = s.parts := by unfold setP; split <;> rfl
@[simp] theorem setP_clPart : (setP t nc r v s).clPart = s.clPart := by unfold setP; split <;> rfl
@[simp] theorem setP_profile : (setP t nc r v s).profile = s.profile := by unfold setP; split <;> rfl
@[simp] theorem setP_windows : (setP t nc r v s).windows = s.windows := by unfold setP; split <;> rfl
@[simp] theorem setP_releases : (setP t nc r v s).releases = s.releases := by unfold setP; split <;> rfl
@[simp] theorem setP_newKey : (setP t nc r v s).newKey = s.newKey := by unfold setP; split <;> rfl
@[simp] theorem setP_grpRel : (setP t nc r v s).grpRel = s.grpRel := by unfold setP; split <;> rfl
@[simp] theorem setP_btRun : (setP t nc r v s).btRun = s.btRun := by unfold setP; split <;> rfl
@[simp] theorem setP_stops : (setP t nc r v s).stops = s.stops := by unfold setP; split <;> rfl
@[simp] theorem setP_waiters : (setP t nc r v s).waiters = s.waiters := by unfold setP; split <;> rfl
@[simp] theorem setP_released : (setP t nc r v s).released = s.released := by unfold setP; split <;> rfl
@[simp] theorem setP_tx : (setP t nc r v s).tx = s.tx := by unfold setP; split <;> rfl
@[simp] theorem setP_rx : (setP t nc r v s).rx = s.rx := by unfold setP; split <;> rfl
@[simp] theorem setP_freshen : (setP t nc r v s).freshen = s.freshen := by unfold setP; split <;> rfl
@[simp] theorem setP_stalls : (setP t nc r v s).stalls = s.stalls := by unfold setP; split <;> rfl
@[simp] theorem setP_joinCred : (setP t nc r v s).joinCred = s.joinCred := by unfold setP; split <;> rfl
@[simp] theorem setP_fresh : (setP t nc r v s).fresh = s.fresh := by unfold setP; split <;> rfl
@[simp] theorem setP_vecMask : (setP t nc r v s).vecMask = s.vecMask := by unfold setP; split <;> rfl
@[simp] theorem setP_vecPend : (setP t nc r v s).vecPend = s.vecPend := by unfold setP; split <;> rfl
@[simp] theorem setP_vecSent : (setP t nc r v s).vecSent = s.vecSent := by unfold setP; split <;> rfl
@[simp] theorem setP_vecCnt : (setP t nc r v s).vecCnt = s.vecCnt := by unfold setP; split <;> rfl
@[simp] theorem setP_hubIrq : (setP t nc r v s).hubIrq = s.hubIrq := by unfold setP; split <;> rfl
@[simp] theorem setP_descs : (setP t nc r v s).descs = s.descs := by unfold setP; split <;> rfl
@[simp] theorem setP_pins : (setP t nc r v s).pins = s.pins := by unfold setP; split <;> rfl
@[simp] theorem setP_inForce : (setP t nc r v s).inForce = s.inForce := by unfold setP; split <;> rfl
@[simp] theorem setP_gathers : (setP t nc r v s).gathers = s.gathers := by unfold setP; split <;> rfl
@[simp] theorem setP_upds : (setP t nc r v s).upds = s.upds := by unfold setP; split <;> rfl
@[simp] theorem setP_blkRng : (setP t nc r v s).blkRng = s.blkRng := by unfold setP; split <;> rfl
@[simp] theorem setP_trapLater : (setP t nc r v s).trapLater = s.trapLater := by unfold setP; split <;> rfl
@[simp] theorem setP_memq : (setP t nc r v s).memq = s.memq := by unfold setP; split <;> rfl
@[simp] theorem setP_openRow : (setP t nc r v s).openRow = s.openRow := by unfold setP; split <;> rfl
@[simp] theorem setP_scrubPtr : (setP t nc r v s).scrubPtr = s.scrubPtr := by unfold setP; split <;> rfl
@[simp] theorem setP_eyes : (setP t nc r v s).eyes = s.eyes := by unfold setP; split <;> rfl
@[simp] theorem setP_turn : (setP t nc r v s).turn = s.turn := by unfold setP; split <;> rfl
@[simp] theorem setP_ashps : (setP t nc r v s).ashps = s.ashps := by unfold setP; split <;> rfl
@[simp] theorem setP_outWait : (setP t nc r v s).outWait = s.outWait := by unfold setP; split <;> rfl
@[simp] theorem setP_training : (setP t nc r v s).training = s.training := by unfold setP; split <;> rfl
@[simp] theorem setP_bootRecs : (setP t nc r v s).bootRecs = s.bootRecs := by unfold setP; split <;> rfl
@[simp] theorem setP_skeins : (setP t nc r v s).skeins = s.skeins := by unfold setP; split <;> rfl
@[simp] theorem setP_groups : (setP t nc r v s).groups = s.groups := by unfold setP; split <;> rfl
@[simp] theorem setP_built : (setP t nc r v s).built = s.built := by unfold setP; split <;> rfl
@[simp] theorem setP_batched : (setP t nc r v s).batched = s.batched := by unfold setP; split <;> rfl
@[simp] theorem setP_batchGen : (setP t nc r v s).batchGen = s.batchGen := by unfold setP; split <;> rfl
@[simp] theorem setP_leftOut : (setP t nc r v s).leftOut = s.leftOut := by unfold setP; split <;> rfl
@[simp] theorem setP_rets : (setP t nc r v s).rets = s.rets := by unfold setP; split <;> rfl
@[simp] theorem setP_evicting : (setP t nc r v s).evicting = s.evicting := by unfold setP; split <;> rfl
@[simp] theorem setP_moves : (setP t nc r v s).moves = s.moves := by unfold setP; split <;> rfl
@[simp] theorem setP_roPend : (setP t nc r v s).roPend = s.roPend := by unfold setP; split <;> rfl
@[simp] theorem setP_spilling : (setP t nc r v s).spilling = s.spilling := by unfold setP; split <;> rfl
@[simp] theorem setP_mirroring : (setP t nc r v s).mirroring = s.mirroring := by unfold setP; split <;> rfl
@[simp] theorem setP_mirrorQ : (setP t nc r v s).mirrorQ = s.mirrorQ := by unfold setP; split <;> rfl
@[simp] theorem setP_firings : (setP t nc r v s).firings = s.firings := by unfold setP; split <;> rfl
@[simp] theorem setP_stqPtr : (setP t nc r v s).stqPtr = s.stqPtr := by unfold setP; split <;> rfl
@[simp] theorem setP_hreads : (setP t nc r v s).hreads = s.hreads := by unfold setP; split <;> rfl
@[simp] theorem setP_ply : (setP t nc r v s).ply = s.ply := by unfold setP; split <;> rfl
@[simp] theorem setP_hst : (setP t nc r v s).hst = s.hst := by unfold setP; split <;> rfl
@[simp] theorem setP_pw : (setP t nc r v s).pw = s.pw := by unfold setP; split <;> rfl
@[simp] theorem setP_bt : (setP t nc r v s).bt = s.bt := by unfold setP; split <;> rfl
end Upd_setP

end Sys2Proof.Laws
end

