-- ==== Sys2Proof/Laws/Regs.lean ====
section
/-! SUPPORT. Register fields: a read after a write, and what a read of a field depends on. -/

namespace Sys2Proof.Laws
open Sys2Proof.Machine

theorem mapFind_mapSet_ne {α : Type} [DecidableEq α] (d : α) (m : SMap α) {k k' : Nat} (v : α) (h : k' ≠ k) :
    mapFind (mapSet d m k v) k' = mapFind m k' := by
  unfold mapSet
  split
  · rw [mapFind_mapDel, if_neg h]
  · rw [mapFind_mapIns, if_neg h]

/-- A read of a field depends on the register map alone. -/
theorem rd_of_regs {s r : State} (h : r.regs = s.regs) (f : Field) (u n : Nat) : rd r f u n = rd s f u n := by
  unfold rd; rw [h]

/-- A field reads what was written, cut to its width. -/
@[simp] theorem rd_wr_self (s : State) (f : Field) (u n v : Nat) : rd (wr s f u n v) f u n = v % 2 ^ f.width := by
  unfold rd wr; exact mapGet_mapSet_self _ _ _ _

/-- A write of one field leaves every field of another key alone. -/
theorem rd_wr_ne (s : State) {f g : Field} {u n u' n' : Nat} (v : Nat) (h : fkey g u' n' ≠ fkey f u n) :
    rd (wr s f u n v) g u' n' = rd s g u' n' := by
  unfold rd wr mapGet; rw [mapFind_mapSet_ne _ _ _ h]

theorem fkey_mod (f : Field) (u n : Nat) : fkey f u n % 1024 = f.id % 1024 := by
  unfold fkey; omega

/-- Fields of different numbers have different keys. -/
theorem fkey_ne_of_id {f g : Field} (h : g.id % 1024 ≠ f.id % 1024) (u n u' n' : Nat) : fkey g u' n' ≠ fkey f u n := by
  intro e; apply h; rw [← fkey_mod g u' n', ← fkey_mod f u n, e]

/-- A write of one field leaves every other field alone. -/
theorem rd_wr_id (s : State) {f g : Field} {u n u' n' : Nat} (v : Nat) (h : g.id % 1024 ≠ f.id % 1024) :
    rd (wr s f u n v) g u' n' = rd s g u' n' := rd_wr_ne s v (fkey_ne_of_id h _ _ _ _)

/-- A write of a field at one index leaves its other indexes alone. -/
theorem rd_wr_idx (s : State) {f : Field} {u n n' : Nat} (v : Nat) (h : n' ≠ n) : rd (wr s f u n v) f u n' = rd s f u n' :=
  rd_wr_ne s v (by unfold fkey; omega)

/-- A write of a field of one unit leaves its other units alone. -/
theorem rd_wr_unit (s : State) {f : Field} {u u' n n' : Nat} (v : Nat) (hu : u < 4096) (hu' : u' < 4096) (h : u' ≠ u) :
    rd (wr s f u n v) f u' n' = rd s f u' n' := rd_wr_ne s v (by unfold fkey; omega)

@[simp] theorem rd_wrNext (s : State) (f : Field) (u n v : Nat) (g : Field) (u' n' : Nat) :
    rd (wrNext s f u n v) g u' n' = rd s g u' n' := rfl
@[simp] theorem rd_wrByte (s : State) (a : Nat) (b : Byte) (g : Field) (u n : Nat) : rd (wrByte s a b) g u n = rd s g u n := rfl
@[simp] theorem rd_setPC (t nc v : Nat) (s : State) (g : Field) (u n : Nat) : rd (setPC t nc v s) g u n = rd s g u n := rfl
@[simp] theorem rd_advance (t nc : Nat) (s : State) (g : Field) (u n : Nat) : rd (advance t nc s) g u n = rd s g u n := rfl
@[simp] theorem rd_setS (t nc r : Nat) (v : W32) (s : State) (g : Field) (u n : Nat) : rd (setS t nc r v s) g u n = rd s g u n :=
  rd_of_regs (by simp) g u n
@[simp] theorem rd_setA (t nc r v : Nat) (s : State) (g : Field) (u n : Nat) : rd (setA t nc r v s) g u n = rd s g u n := rfl
@[simp] theorem rd_setLane (t nc r i : Nat) (v : W32) (s : State) (g : Field) (u n : Nat) :
    rd (setLane t nc r i v s) g u n = rd s g u n := rfl
@[simp] theorem rd_setP (t nc r v : Nat) (s : State) (g : Field) (u n : Nat) : rd (setP t nc r v s) g u n = rd s g u n :=
  rd_of_regs (by simp) g u n

/-- A pending write is what the next boundary takes into effect. -/
@[simp] theorem rdNext_wrNext_self (s : State) (f : Field) (u n v : Nat) :
    rdNext (wrNext s f u n v) f u n = v % 2 ^ f.width := by
  unfold rdNext wrNext; simp only [mapFind_mapIns, if_true, Option.getD_some]

/-! ### Needle registers -/

@[simp] theorem getPC_setPC_self (t nc v : Nat) (s : State) : getPC (setPC t nc v s) t nc = v % 4096 := by
  unfold getPC setPC; exact mapGet_mapSet_self _ _ _ _

@[simp] theorem getPC_advance_self (t nc : Nat) (s : State) : getPC (advance t nc s) t nc = (getPC s t nc + 1) % 4096 := by
  unfold advance; simp

theorem getPC_setPC_ne {t nc t' nc' : Nat} (v : Nat) (s : State) (h : nkey t' nc' ≠ nkey t nc) :
    getPC (setPC t nc v s) t' nc' = getPC s t' nc' := by
  unfold getPC setPC; exact mapGet_mapSet_ne _ _ _ h

/-- A scalar register reads what was written; s0 reads as zero (R39). -/
theorem getS_setS_self (t nc r : Nat) (v : W32) (s : State) : getS (setS t nc r v s) t nc r = if r = 0 then 0 else v := by
  unfold getS setS
  by_cases h : r = 0
  · simp [h]
  · simp only [h, if_false]; exact mapGet_mapSet_self _ _ _ _

theorem getS_setS_ne {t nc r t' nc' r' : Nat} (v : W32) (s : State) (h : nkey t' nc' * 32 + r' ≠ nkey t nc * 32 + r) :
    getS (setS t nc r v s) t' nc' r' = getS s t' nc' r' := by
  unfold getS setS
  by_cases h0 : r = 0
  · simp [h0]
  · simp only [h0, if_false]; rw [mapGet_mapSet_ne _ _ _ h]

/-- An address register reads what was written, modulo 2^48 (R39). -/
theorem getA_setA_self (t nc r v : Nat) (s : State) : getA (setA t nc r v s) t nc r = v % 2 ^ 48 := by
  unfold getA setA
  simp only [mapGet_mapSet_self, BitVec.toNat_ofNat]
  omega

theorem getA_setA_ne {t nc r t' nc' r' : Nat} (v : Nat) (s : State) (h : nkey t' nc' * 16 + r' ≠ nkey t nc * 16 + r) :
    getA (setA t nc r v s) t' nc' r' = getA s t' nc' r' := by
  unfold getA setA; simp only [mapGet_mapSet_ne _ _ _ h]

/-- A predicate register reads what was written; p0 reads as all ones (R39). -/
theorem getP_setP_self (t nc r v : Nat) (s : State) :
    getP (setP t nc r v s) t nc r = if r = 0 then 2 ^ 64 - 1 else v % 2 ^ 64 := by
  unfold getP setP
  by_cases h : r = 0
  · simp [h]
  · simp only [h, if_false, mapGet_mapSet_self, BitVec.toNat_ofNat]

theorem getP_setP_ne {t nc r t' nc' r' : Nat} (v : Nat) (s : State) (h : nkey t' nc' * 8 + r' ≠ nkey t nc * 8 + r) :
    getP (setP t nc r v s) t' nc' r' = getP s t' nc' r' := by
  unfold getP setP
  by_cases h0 : r = 0
  · simp [h0]
  · simp only [h0, if_false]; rw [mapGet_mapSet_ne _ _ _ h]

theorem getLane_setLane (t nc r i : Nat) (v : W32) (s : State) (t' nc' r' i' : Nat) :
    getLane (setLane t nc r i v s) t' nc' r' i' =
      if (nkey t' nc' * 32 + r') * 64 + i' = (nkey t nc * 32 + r) * 64 + i then v else getLane s t' nc' r' i' := by
  unfold getLane setLane; exact mapGet_mapSet _ _ _ _ _

/-- Lanes of a mask written: nothing but the vector registers changes. -/
theorem setLanes_frame (t nc r mask : Nat) (f : Nat → Nat) (s : State) :
    ∃ x, setLanes t nc r mask f s = { s with vreg := x } := by
  unfold setLanes
  generalize List.range 64 = l
  suffices h : ∀ y, ∃ x, l.foldl (fun s i => if mask / 2 ^ i % 2 = 1 then setLane t nc r i (BitVec.ofNat 32 (f i)) s else s)
      { s with vreg := y } = { s with vreg := x } from h s.vreg
  induction l with
  | nil => exact fun y => ⟨y, rfl⟩
  | cons x l ih =>
    intro y
    rw [List.foldl_cons]
    by_cases hm : mask / 2 ^ x % 2 = 1
    · rw [if_pos hm]; exact ih _
    · rw [if_neg hm]; exact ih _

/-- A lane after lanes of a mask were written (R64): the new value in the lanes of the mask, the old elsewhere. -/
theorem getLane_setLanes (t nc r mask : Nat) (f : Nat → Nat) (s : State) {i : Nat} (hi : i < 64) :
    getLane (setLanes t nc r mask f s) t nc r i =
      if mask / 2 ^ i % 2 = 1 then BitVec.ofNat 32 (f i) else getLane s t nc r i := by
  unfold setLanes
  have key : ∀ (l : List Nat) (s0 : State), l.Nodup → (∀ x ∈ l, x < 64) →
      getLane (l.foldl (fun s i => if mask / 2 ^ i % 2 = 1 then setLane t nc r i (BitVec.ofNat 32 (f i)) s else s) s0) t nc r i =
      if i ∈ l ∧ mask / 2 ^ i % 2 = 1 then BitVec.ofNat 32 (f i) else getLane s0 t nc r i := by
    intro l
    induction l with
    | nil => intro s0 _ _; simp
    | cons x l ih =>
      intro s0 hn hx
      rw [List.foldl_cons, ih _ (List.nodup_cons.1 hn).2 (fun y hy => hx y (List.mem_cons_of_mem _ hy))]
      have hxl := (List.nodup_cons.1 hn).1
      by_cases hil : i ∈ l
      · have hne : i ≠ x := fun e => hxl (e ▸ hil)
        by_cases hm : mask / 2 ^ i % 2 = 1
        · simp [hil, hm]
        · simp only [hil, hm, and_false, if_false, List.mem_cons]
          split
          · rw [getLane_setLane, if_neg (by omega)]
          · rfl
      · simp only [hil, false_and, if_false, List.mem_cons, or_false]
        by_cases hx' : i = x
        · subst hx'
          by_cases hm : mask / 2 ^ i % 2 = 1
          · simp [hm, getLane_setLane]
          · simp [hm]
        · simp only [hx', false_and, if_false]
          split
          · rw [getLane_setLane, if_neg (by omega)]
          · rfl
  rw [key _ s List.nodup_range (by simp)]
  simp [hi]

end Sys2Proof.Laws
end

