-- ==== Sys2Proof/Laws/Issue.lean ====
section
/-! SUPPORT. How a word issues: what `issue`, `granted`, `writeReady` and `settle` do for a needle that may issue it. -/

namespace Sys2Proof.Laws
open Sys2Proof.Machine

/-- No older value is in reach of the needle, or each is one that its last instruction did not read. -/
def youngOk (t nc : Nat) (s : State) : Prop := ∀ z ∈ s.young, ofNeedle t nc z = true → z.held = none

theorem youngOk_of_any {t nc : Nat} {s : State} (h : s.young.any (ofNeedle t nc) = false) : youngOk t nc s := by
  intro z hz ho
  rw [List.any_eq_false] at h
  exact absurd ho (h z hz)

theorem seen_none {t nc : Nat} {s : State} (h : s.young.any (ofNeedle t nc) = false) : seen t nc s = s := by
  unfold seen; rw [if_pos (by simp [h])]

/-- What `writeReady` writes where no older result is under way: the write itself, and the model's own note of the older
value. -/
theorem writeReady_none {t nc : Nat} (kind r lat : Nat) {write : State → State} {s : State}
    (h : s.young.any (ofNeedle t nc) = false) (hw : (write s).young = s.young) :
    ∃ y, writeReady t nc kind r lat write s = { write s with young := y } ∧
      ∀ z ∈ y, ofNeedle t nc z = true → z.held = none := by
  have hf : s.young.find? (ofReg t nc kind r) = none := by
    rw [List.find?_eq_none]
    intro x hx hr
    rw [List.any_eq_false] at h
    unfold ofReg at hr
    simp only [Bool.and_eq_true] at hr
    exact h x hx hr.1.1
  unfold writeReady
  rw [hf]
  by_cases hi : rdB s TILE_STATUS_INTERLOCK t 0 = true
  · rw [if_pos hi]
    exact ⟨(write s).young, rfl, by rw [hw]; exact youngOk_of_any h⟩
  · rw [if_neg hi]
    dsimp only
    by_cases hl : lat ≤ 1
    · rw [if_pos hl]
      exact ⟨(write s).young, rfl, by rw [hw]; exact youngOk_of_any h⟩
    · rw [if_neg hl]
      refine ⟨_, rfl, ?_⟩
      intro z hz ho
      rw [List.mem_append, List.mem_singleton] at hz
      rcases hz with hz | hz
      · rw [hw] at hz; exact youngOk_of_any h z hz ho
      · rw [hz]

theorem restoreReg_none {y : Young} (h : y.held = none) (s : State) : restoreReg y s = s := by
  unfold restoreReg; rw [h]

/-- After an instruction only the model's own note of older values changes. -/
theorem settle_ok {t nc : Nat} (m : Bool) {s : State} (h : youngOk t nc s) : ∃ y, settle t nc m s = { s with young := y } := by
  unfold settle
  split
  · exact ⟨s.young, rfl⟩
  · have hf : (s.young.filter (ofNeedle t nc)).foldl (fun s y => restoreReg y s) s = s := by
      have key : ∀ l : List Young, (∀ z ∈ l, z.held = none) → l.foldl (fun s y => restoreReg y s) s = s := by
        intro l
        induction l with
        | nil => intro _; rfl
        | cons x l ih =>
          intro hl
          rw [List.foldl_cons, restoreReg_none (hl x List.mem_cons_self)]
          exact ih (fun z hz => hl z (List.mem_cons_of_mem _ hz))
      apply key
      intro z hz
      rw [List.mem_filter] at hz
      exact h z hz.1 hz.2
    rw [hf]
    exact ⟨_, rfl⟩

/-- A word that may issue, and is its row's, has its effect; else only the model's own note of older values changes. -/
theorem issue_runs {s : State} {t : Nat} {n : Needle} {w : W64} {row ok : Bool} {act : State → State}
    (h : issuable s t n w) (hr : row = true) (hok : ok = lawful w) (ha : youngOk t (needleCode n) (act s)) :
    ∃ y, issue t n w row ok act s = { act s with young := y } := by
  obtain ⟨h1, h2, h3, h4, h5, h6⟩ := h
  subst hr hok
  unfold issue
  simp only [h1, h2, h3, h4, seen_none h6, h5, Bool.not_true, Bool.false_eq_true, if_false, bne_self_eq_false, Bool.or_self]
  exact settle_ok _ ha

theorem arbFold_frame (wt : Nat → Int) (t unit : Nat) (l : List Nat) (s : State) :
    ∃ a, l.foldl (fun s' n => { s' with arb := mapSet 0 s'.arb (accKey t unit n) (accOf s' t unit n + wt n) }) s =
      { s with arb := a } := by
  induction l generalizing s with
  | nil => exact ⟨s.arb, rfl⟩
  | cons x l ih => obtain ⟨a, ha⟩ := ih _; exact ⟨a, ha⟩

/-- An arbiter changes its accumulators alone. -/
theorem arbitrate_frame {s : State} {t unit : Nat} {l : List Nat} {x : Nat} {s1 : State}
    (h : arbitrate s t unit l = some (x, s1)) : ∃ a, s1 = { s with arb := a } := by
  unfold arbitrate at h
  dsimp only at h
  split at h
  · cases hl : l.head? with
    | none => rw [hl] at h; cases h
    | some v => rw [hl] at h; cases h; exact ⟨s.arb, rfl⟩
  · obtain ⟨a, ha⟩ := arbFold_frame (fun n => weightOf s t unit n) t unit (l.filter (fun n => decide (0 < weightOf s t unit n))) s
    rw [ha] at h
    simp only [Option.some.injEq, Prod.mk.injEq] at h
    exact ⟨_, h.2.symm⟩

/-- What a needle that wins its unit's grant point does: its effect, the arbiter's accumulators changed, and for the slip
path and the purl fabric the tile's use of the unit noted. -/
theorem granted_wins {s : State} {t : Nat} {n : Needle} {unit rq : Nat} (h : wins s t n unit rq) (act : State → State) :
    ∃ a, granted t n unit rq act s =
      (if unit = 1 then noteUse t 0 1 0 (act { s with arb := a })
       else if unit = 2 then noteUse t 1 0 0 (act { s with arb := a }) else act { s with arb := a }) := by
  unfold wins at h
  unfold granted
  cases ha : arbitrate s t unit (reqList rq) with
  | none => rw [ha] at h; cases h
  | some x =>
    obtain ⟨win, s1⟩ := x
    rw [ha] at h
    have hw : win = needleCode n := by simpa using h
    obtain ⟨a, rfl⟩ := arbitrate_frame ha
    exact ⟨a, by simp [hw]⟩

end Sys2Proof.Laws
end

