-- ==== Sys2Proof/Laws/Memory.lean ====
section
/-! SUPPORT. Memory: what a byte's read depends on, and a read after a write. -/

namespace Sys2Proof.Laws
open Sys2Proof.Machine

/-- The register fields on which the map from stack addresses to channels depends (R284 to R289). -/
def mapFields : List Field := [MEM_TOTAL_NCH, MEM_IMAP_MODE, MEM_IMAP_GRAN, MEM_IMAP_ROT, MEM_CHMAP_ACTIVE]

/-- Two states in which those fields read alike. -/
def sameMap (s r : State) : Prop := ∀ f ∈ mapFields, ∀ u n, rd r f u n = rd s f u n

theorem chActive_congr {s r : State} (h : sameMap s r) : chActive r = chActive s := by
  funext k c; unfold chActive; rw [h MEM_CHMAP_ACTIVE (by simp [mapFields])]

theorem chanTable_congr {s r : State} (h : sameMap s r) : chanTable r = chanTable s := by
  funext l; unfold chanTable; rw [chActive_congr h]

theorem regionSize_congr {s r : State} (h : sameMap s r) : regionSize r = regionSize s := by
  funext l; unfold regionSize; rw [chanTable_congr h, chActive_congr h]

theorem inRegion_congr {s r : State} (h : sameMap s r) : inRegion r = inRegion s := by
  funext l x; unfold inRegion
  rw [chanTable_congr h, chActive_congr h, h MEM_IMAP_GRAN (by simp [mapFields]), h MEM_IMAP_ROT (by simp [mapFields])]

theorem findRegion_congr {s r : State} (h : sameMap s r) (l : List (List Nat)) (x : Nat) : findRegion r l x = findRegion s l x := by
  induction l generalizing x with
  | nil => rfl
  | cons a l ih => unfold findRegion; rw [regionSize_congr h, inRegion_congr h, ih]

theorem capacity_congr {s r : State} (h : sameMap s r) : capacity r = capacity s := by
  unfold capacity; rw [h MEM_TOTAL_NCH (by simp [mapFields])]

theorem dramOf_congr {s r : State} (h : sameMap s r) (a : Nat) : dramOf r a = dramOf s a := by
  unfold dramOf imapSets
  rw [capacity_congr h, h MEM_IMAP_MODE (by simp [mapFields])]
  simp only [findRegion_congr h]

theorem memKey_congr {s r : State} (h : sameMap s r) (a : Nat) : memKey r a = memKey s a := by
  unfold memKey; rw [dramOf_congr h]

theorem target_congr {s r : State} (h : sameMap s r) (a : Nat) : target r a = target s a := by
  unfold target; rw [capacity_congr h]

theorem rdByte_congr {s r : State} (hm : r.mem = s.mem) (h : sameMap s r) (a : Nat) : rdByte r a = rdByte s a := by
  unfold rdByte; rw [hm, memKey_congr h]

theorem sameMap_of_regs {s r : State} (h : r.regs = s.regs) : sameMap s r := fun f _ u n => rd_of_regs h f u n

theorem bytesKept_of {s r : State} (hm : r.mem = s.mem) (h : sameMap s r) : bytesKept s r := rdByte_congr hm h

/-- A write of a field that is none of the map's leaves the map alone. -/
theorem sameMap_wr (s : State) (f : Field) (u n v : Nat) (h : ∀ g ∈ mapFields, g.id % 1024 ≠ f.id % 1024) :
    sameMap s (wr s f u n v) := fun g hg _ _ => rd_wr_id s v (h g hg)

theorem sameMap_trans {s r q : State} (h1 : sameMap s r) (h2 : sameMap r q) : sameMap s q :=
  fun f hf u n => (h2 f hf u n).trans (h1 f hf u n)

theorem sameMap_of_regsBut {ks : List Nat} {s r : State} (h : regsBut ks s r)
    (hk : ∀ g ∈ mapFields, ∀ k ∈ ks, k % 1024 ≠ g.id % 1024) : sameMap s r := by
  intro f hf u n
  exact h f u n (fun hm => hk f hf _ hm (fkey_mod f u n))

/-- Addresses above the stack memory are their own keys, and no other address has such a key (Table 1.4). -/
theorem memKey_high {s : State} {a : Nat} (h : 0xC000000000 ≤ a) : memKey s a = a := by
  unfold memKey; rw [if_neg (by omega)]

theorem memKey_eq_high {s : State} {a x : Nat} (h : 0xC000000000 ≤ a) (h2 : a < 2 ^ 52) (hx : memKey s x = a) : x = a := by
  unfold memKey at hx
  split at hx
  · split at hx
    · have : (2 : Nat) ^ 52 ≤ a := by omega
      omega
    · omega
  · exact hx

theorem rdByte_wrByte {s : State} {a : Nat} (h : 0xC000000000 ≤ a) (h2 : a < 2 ^ 52) (b : Byte) (x : Nat) :
    rdByte (wrByte s a b) x = if x = a then b else rdByte s x := by
  have hk : memKey (wrByte s a b) x = memKey s x :=
    memKey_congr (sameMap_of_regs (wrByte_regs s a b)) x
  unfold rdByte
  rw [hk]
  unfold wrByte
  dsimp only
  rw [mapGet_mapSet, memKey_high h]
  by_cases hx : x = a
  · subst hx; rw [if_pos (memKey_high h), if_pos rfl]
  · rw [if_neg hx, if_neg (fun e => hx (memKey_eq_high h h2 e))]

/-- A byte after n bytes were written from an address above the stack memory, those whose bit of `en` is set. -/
theorem rdByte_wrEn {n : Nat} : ∀ {s : State} {a v en : Nat}, 0xC000000000 ≤ a → a + n ≤ 2 ^ 52 → ∀ x,
    rdByte (wrEn a n v en s) x =
      if a ≤ x ∧ x < a + n ∧ en / 2 ^ (x - a) % 2 = 1 then BitVec.ofNat 8 (v / 256 ^ (x - a)) else rdByte s x := by
  induction n with
  | zero => intro s a v en _ _ x; rw [if_neg (by omega)]; rfl
  | succ n ih =>
    intro s a v en h h2 x
    unfold wrEn
    rw [ih (by omega) (by omega)]
    by_cases hx : x = a
    · subst hx
      rw [if_neg (by omega)]
      by_cases he : en % 2 = 1
      · rw [if_pos he, rdByte_wrByte h (by omega), if_pos rfl, if_pos (by simp [he])]; simp
      · rw [if_neg he, if_neg (by simp [he])]
    · have e0 : rdByte (if en % 2 = 1 then wrByte s a (BitVec.ofNat 8 v) else s) x = rdByte s x := by
        split
        · rw [rdByte_wrByte h (by omega), if_neg hx]
        · rfl
      rw [e0]
      by_cases hlt : a + 1 ≤ x ∧ x < a + 1 + n
      · have hp : x - a = (x - (a + 1)) + 1 := by omega
        rw [hp, Nat.pow_succ, Nat.pow_succ]
        have d1 : en / (2 ^ (x - (a + 1)) * 2) = en / 2 / 2 ^ (x - (a + 1)) := by
          rw [Nat.mul_comm, Nat.div_div_eq_div_mul]
        have d2 : v / (256 ^ (x - (a + 1)) * 256) = v / 256 / 256 ^ (x - (a + 1)) := by
          rw [Nat.mul_comm, Nat.div_div_eq_div_mul]
        rw [d1, d2]
        by_cases he : en / 2 / 2 ^ (x - (a + 1)) % 2 = 1
        · rw [if_pos ⟨hlt.1, hlt.2, he⟩, if_pos ⟨by omega, by omega, he⟩]
        · rw [if_neg (fun c => he c.2.2), if_neg (fun c => he c.2.2)]
      · rw [if_neg (fun c => hlt ⟨c.1, c.2.1⟩), if_neg (fun c => hlt ⟨by omega, by omega⟩)]

end Sys2Proof.Laws
end

