-- ==== Sys2Proof/Laws/Record.lean ====
section
/-! SUPPORT. The training record (R289, R302): what is written is read back as valid. -/

namespace Sys2Proof.Laws
open Sys2Proof.Machine

theorem crcBit_lt {c : Nat} (h : c < 2 ^ 32) (b : Nat) : crcBit c b < 2 ^ 32 := by
  unfold crcBit
  split
  · exact Nat.xor_lt_two_pow (by omega) (by decide)
  · omega

theorem crcBits_lt (n : Nat) : ∀ v c, c < 2 ^ 32 → crcBits v n c < 2 ^ 32 := by
  induction n with
  | zero => exact fun _ _ h => h
  | succ n ih => exact fun v c h => ih _ _ (crcBit_lt h _)

theorem crc32_lt (n v : Nat) : crc32 n v < 2 ^ 32 := Nat.xor_lt_two_pow (by decide) (crcBits_lt _ _ _ (by decide))

theorem packN_lt (n : Nat) (l : List Nat) : packN n l < 2 ^ (n * l.length) := by
  induction l with
  | nil => exact Nat.one_pos
  | cons d l ih =>
    have h1 : d % 2 ^ n < 2 ^ n := Nat.mod_lt _ (Nat.two_pow_pos _)
    have h2 : 2 ^ n * (packN n l + 1) ≤ 2 ^ n * 2 ^ (n * l.length) := Nat.mul_le_mul_left _ ih
    rw [Nat.mul_add, Nat.mul_one] at h2
    rw [List.length_cons, Nat.mul_add, Nat.mul_one, Nat.add_comm, Nat.pow_add, packN]
    omega

/-- Bytes that are those of a number read as its low bytes. -/
theorem recordLE_of {s : State} {k : Nat} (n : Nat) : ∀ a v,
    (∀ i, i < n → mapGet 0 s.mem (recordKey k (a + i)) = BitVec.ofNat 8 (byteOf v i)) → recordLE s k a n = v % 2 ^ (8 * n) := by
  induction n with
  | zero => intro a v _; simp [recordLE, Nat.mod_one]
  | succ n ih =>
    intro a v h
    have h0 := h 0 (by omega)
    have ht := ih (a + 1) (v / 2 ^ 8) (fun i hi => by
      have := h (i + 1) (by omega)
      rw [show a + 1 + i = a + (i + 1) by omega, this]
      simp only [byteOf, bitsOf]
      rw [Nat.div_div_eq_div_mul, ← Nat.pow_add, show 8 + 8 * i = 8 * (i + 1) by omega])
    rw [recordLE, ht, show a = a + 0 by omega, h0, show 8 * (n + 1) = 8 + 8 * n by omega, Nat.pow_add, Nat.mod_mul]
    simp [byteOf, bitsOf]

theorem mapGet_recordFold (k : Nat) (f : Nat → Byte) (m : SMap Byte) (n j : Nat) :
    mapGet 0 ((List.range n).foldl (fun m i => mapSet 0 m (recordKey k i) (f i)) m) (recordKey k j) =
      if j < n then f j else mapGet 0 m (recordKey k j) := by
  induction n with
  | zero => simp
  | succ n ih =>
    rw [List.range_succ, List.foldl_append, List.foldl_cons, List.foldl_nil, mapGet_mapSet, ih]
    by_cases h : j = n
    · subst h; simp
    · have : ¬ recordKey k j = recordKey k n := by simp only [recordKey]; omega
      rw [if_neg this]
      by_cases hj : j < n <;> simp [hj, show (j < n + 1) = (j < n) by simp; omega]

theorem recordBody_lt (k : Nat) (lanes : List LaneEyes) (s : State) : recordBody k lanes s < 2 ^ (8 * recordLen) := by
  have key : ∀ l : List Nat, 128 + 64 * l.length = 8 * recordLen → trainHeader s k + 2 ^ 128 * packN 64 l < 2 ^ (8 * recordLen) := by
    intro l hl
    have hh : trainHeader s k < 2 ^ 128 := packN_lt 32 _
    have := Nat.mul_le_mul_left (2 ^ 128) (Nat.succ_le_of_lt (packN_lt 64 l))
    rw [Nat.succ_eq_add_one, Nat.mul_add, Nat.mul_one, ← Nat.pow_add, hl] at this
    omega
  exact key _ (by simp [recordLen])

theorem recordBody_mod (k : Nat) (lanes : List LaneEyes) (s : State) : recordBody k lanes s % 2 ^ (8 * 16) = trainHeader s k := by
  unfold recordBody
  rw [show 8 * 16 = 128 from rfl, Nat.add_mul_mod_self_left]
  exact Nat.mod_eq_of_lt (packN_lt 32 _)

theorem mapGet_putRecord (k v j : Nat) (s : State) (h : j < recordLen + 4) :
    mapGet 0 (putRecord k v s).mem (recordKey k j) =
      BitVec.ofNat 8 (byteOf (v + 2 ^ (8 * recordLen) * crc32 recordLen v) j) := by
  unfold putRecord
  rw [mapGet_recordFold, if_pos h]

theorem recordLE_putRecord {k v : Nat} (n : Nat) (s : State) (h : n ≤ recordLen) :
    recordLE (putRecord k v s) k 0 n = v % 2 ^ (8 * n) := by
  rw [recordLE_of n 0 _ (fun i hi => by rw [Nat.zero_add]; exact mapGet_putRecord k v i s (by omega))]
  obtain ⟨d, hd⟩ : ∃ d, 8 * recordLen = 8 * n + d := ⟨8 * recordLen - 8 * n, by omega⟩
  rw [hd, Nat.pow_add, Nat.mul_assoc, Nat.add_mul_mod_self_left]

theorem recordCrc_putRecord {k v : Nat} (s : State) (h : v < 2 ^ (8 * recordLen)) :
    recordLE (putRecord k v s) k recordLen 4 = crc32 recordLen v := by
  rw [recordLE_of 4 recordLen ((v + 2 ^ (8 * recordLen) * crc32 recordLen v) / 2 ^ (8 * recordLen)) (fun i hi => by
    rw [mapGet_putRecord k v _ s (by omega)]
    simp only [byteOf, bitsOf]
    rw [Nat.div_div_eq_div_mul, ← Nat.pow_add, Nat.mul_add])]
  rw [Nat.add_mul_div_left _ _ (Nat.two_pow_pos _), Nat.div_eq_of_lt h, Nat.zero_add]
  exact Nat.mod_eq_of_lt (crc32_lt _ _)

theorem regs_ofMem (s : State) (m : SMap Byte) (i : Nat) : ({ s with mem := m, freeIdx := i } : State).regs = s.regs := rfl

@[simp] theorem putRecord_regs (k v : Nat) (s : State) : (putRecord k v s).regs = s.regs := regs_ofMem s _ _

theorem trainHeader_putRecord (k v j : Nat) (s : State) : trainHeader (putRecord k v s) j = trainHeader s j := by
  simp only [trainHeader, rd, putRecord_regs]

/-- A training's record is valid, whatever its eyes. -/
theorem recordValid_writeRecord (k : Nat) (lanes : List LaneEyes) (s : State) : recordValid (writeRecord k lanes s) k = true := by
  unfold writeRecord recordValid
  rw [recordCrc_putRecord s (recordBody_lt k lanes s), recordLE_putRecord _ s (Nat.le_refl _), recordLE_putRecord 16 s (by decide),
    recordBody_mod, trainHeader_putRecord, Nat.mod_eq_of_lt (recordBody_lt k lanes s), beq_self_eq_true, beq_self_eq_true]
  rfl

end Sys2Proof.Laws
end

