-- ==== Sys2Proof/Laws/Needle.lean ====
section
/-! SUPPORT. What the shared results of needle instructions do: one lemma for each kind of result. -/

namespace Sys2Proof.Laws
open Sys2Proof.Machine

theorem needleCode_lt (n : Needle) : needleCode n < 4 := by cases n <;> decide

theorem setFlags_frame (t nc fl : Nat) (s : State) : ∃ x, setFlags t nc fl s = { s with regs := x } := by
  unfold setFlags; split
  · exact ⟨s.regs, rfl⟩
  · exact ⟨_, rfl⟩

theorem rd_setFlags {t nc fl : Nat} {s : State} {f : Field} {u n : Nat} (h : fkey f u n ≠ fkey NDL_FLAGS t nc) :
    rd (setFlags t nc fl s) f u n = rd s f u n := by
  unfold setFlags wrOr; split
  · rfl
  · exact rd_wr_ne s _ h

theorem testBit_setFlags (t nc fl : Nat) (s : State) {i : Nat} (hi : i < NDL_FLAGS.width) :
    (rd (setFlags t nc fl s) NDL_FLAGS t nc).testBit i = ((rd s NDL_FLAGS t nc).testBit i || fl.testBit i) := by
  unfold setFlags wrOr; split
  · rename_i h; simp [h]
  · rw [rd_wr_self, Nat.testBit_mod_two_pow, Nat.testBit_or]; simp [hi]

theorem pcNext_advance {t nc : Nat} (hn : nc < 4) {s q : State} (h : q.pcs = s.pcs) : pcNext t nc s (advance t nc q) := by
  have hq : ∀ t' nc', getPC q t' nc' = getPC s t' nc' := by intro t' nc'; unfold getPC; rw [h]
  refine ⟨by rw [getPC_advance_self, hq], ?_⟩
  intro t' nc' hn' hne
  unfold advance
  rw [getPC_setPC_ne _ _ (by unfold nkey; omega), hq]

theorem sregsBut_setS {t nc x : Nat} (hn : nc < 4) (hx : x < 32) (v : W32) (s : State) : sregsBut t nc x s (setS t nc x v s) := by
  intro t' nc' x' hn' hx' hne
  exact getS_setS_ne v s (by unfold nkey; omega)

/-- A scalar result written with its flags. -/
theorem issue_scalar {s : State} {t : Nat} {n : Needle} {w : W64} {row : Bool} (h : issuable s t n w) (hr : row = true)
    {x : Nat} (hx : x < 32) (v : W32 × Nat) {act : State → State} (ha : act s = scalarResult t (needleCode n) x v s) :
    ∃ r, issue t n w row (lawful w) act s = r ∧
      getS r t (needleCode n) x = (if x = 0 then 0 else v.1) ∧ flagsGain t (needleCode n) v.2 s r ∧
      scalarFrame t (needleCode n) x s r := by
  have hn := needleCode_lt n
  obtain ⟨y, hy, hyo⟩ := writeReady_none (t := t) (nc := needleCode n) kindS x latLS (write := setS t (needleCode n) x v.1) h.2.2.2.2.2
    (setS_young _ _ _ _ _)
  obtain ⟨g, hg⟩ := setFlags_frame t (needleCode n) v.2 { setS t (needleCode n) x v.1 s with young := y }
  have hact : scalarResult t (needleCode n) x v s =
      advance t (needleCode n) { setS t (needleCode n) x v.1 s with young := y, regs := g } := by
    unfold scalarResult; rw [hy, hg]
  obtain ⟨y2, hi⟩ := issue_runs (act := act) h hr rfl
    (by rw [ha, hact]; exact hyo)
  rw [ha] at hi
  refine ⟨_, hi, ?_⟩
  have hfl : ∀ f u k, rd { scalarResult t (needleCode n) x v s with young := y2 } f u k =
      rd (setFlags t (needleCode n) v.2 { setS t (needleCode n) x v.1 s with young := y }) f u k := by
    intro f u k; unfold scalarResult; rw [hy]; rfl
  have hrs : ∀ f u k, rd { setS t (needleCode n) x v.1 s with young := y } f u k = rd s f u k :=
    fun f u k => rd_setS _ _ _ _ _ f u k
  refine ⟨?_, ?_, ?_, ?_, ?_, ?_, ?_⟩
  · rw [hact]; exact getS_setS_self t (needleCode n) x v.1 s
  · intro i hi'
    rw [hfl, testBit_setFlags _ _ _ _ hi', hrs]
  · intro t' nc' x' h1 h2 h3
    rw [hact]; exact sregsBut_setS hn hx v.1 s t' nc' x' h1 h2 h3
  · rw [hact]
    exact pcNext_advance (q := { setS t (needleCode n) x v.1 s with young := y, regs := g }) hn (setS_pcs _ _ _ _ _)
  · intro f u k hk
    rw [hfl, rd_setFlags (fun e => hk (by rw [e]; exact List.mem_singleton.2 rfl)), hrs]
  · refine bytesKept_of (by rw [hact]; exact setS_mem _ _ _ _ _) ?_
    refine sameMap_of_regsBut (ks := [fkey NDL_FLAGS t (needleCode n)]) ?_ ?_
    · intro f u k hk
      rw [hfl, rd_setFlags (fun e => hk (by rw [e]; exact List.mem_singleton.2 rfl)), hrs]
    · intro g hg k hk
      rw [List.mem_singleton.1 hk, fkey_mod]
      revert g hg; decide
  · rw [hact]
    unfold setS
    split <;> rfl

/-- An address result written. -/
theorem issue_address {s : State} {t : Nat} {n : Needle} {w : W64} {row : Bool} (h : issuable s t n w) (hr : row = true)
    {x : Nat} (hx : x < 16) (v : Nat) {act : State → State}
    (ha : act s = advance t (needleCode n) (setA t (needleCode n) x v s)) :
    ∃ r, issue t n w row (lawful w) act s = r ∧ getA r t (needleCode n) x = v % 2 ^ 48 ∧
      addressFrame t (needleCode n) x s r := by
  have hn := needleCode_lt n
  obtain ⟨y, hi⟩ := issue_runs (act := act) h hr rfl (by rw [ha]; exact youngOk_of_any h.2.2.2.2.2)
  refine ⟨_, hi, ?_, ?_, ?_, ?_, ?_⟩
  · rw [ha]; exact getA_setA_self t (needleCode n) x v s
  · intro t' nc' x' h1 h2 h3
    rw [ha]; exact getA_setA_ne v s (by unfold nkey; omega)
  · rw [ha]; exact pcNext_advance (q := setA t (needleCode n) x v s) hn rfl
  · rw [ha]; exact bytesKept_of rfl (sameMap_of_regs rfl)
  · rw [ha]; rfl

/-- What a purl word does that may issue and whose needle the fabric's arbiter grants. -/
theorem issue_purl {s : State} {t : Nat} {n : Needle} {w : W64} {rq : Nat} {row : Bool} (h : issuable s t n w)
    (hw : wins s t n unitPurl rq) (hr : row = true) {act : State → State}
    (ha : ∀ a, youngOk t (needleCode n) (act { s with arb := a })) :
    ∃ (a : SMap Int) (u : SMap Nat → SMap Nat) (y : List Young), issue t n w row (lawful w) (granted t n unitPurl rq act) s =
      { act { s with arb := a } with pw.usage := u (act { s with arb := a }).pw.usage, young := y } := by
  obtain ⟨a, hg⟩ := granted_wins hw act
  have e : granted t n unitPurl rq act s = noteUse t 1 0 0 (act { s with arb := a }) := by rw [hg]; rfl
  obtain ⟨y, hi⟩ := issue_runs (act := granted t n unitPurl rq act) h hr rfl (by rw [e]; exact ha a)
  rw [e] at hi
  exact ⟨a, fun m => mapSet 0 m t (max (mapGet 0 m t % 2) 1 + 2 * max (mapGet 0 m t / 2 % 2) 0 + 4 * max (mapGet 0 m t / 4) 0),
    y, hi⟩

theorem vregsBut_setLanes {t nc x : Nat} (hn : nc < 4) (hx : x < 32) (mask : Nat) (f : Nat → Nat) (s : State) :
    vregsBut t nc x s (setLanes t nc x mask f s) := by
  intro t' nc' x' i hn' hx' hi hne
  unfold setLanes
  have key : ∀ (l : List Nat), (∀ j ∈ l, j < 64) → ∀ s0 : State,
      getLane (l.foldl (fun s j => if mask / 2 ^ j % 2 = 1 then setLane t nc x j (BitVec.ofNat 32 (f j)) s else s) s0) t' nc' x' i =
      getLane s0 t' nc' x' i := by
    intro l
    induction l with
    | nil => intro _ s0; rfl
    | cons j l ih =>
      intro hl s0
      rw [List.foldl_cons, ih (fun k hk => hl k (List.mem_cons_of_mem _ hk))]
      have hj := hl j List.mem_cons_self
      split
      · rw [getLane_setLane, if_neg (by unfold nkey; omega)]
      · rfl
  exact key _ (by simp) s

/-- A lane-by-lane result of the purl fabric (R64, R76): the lanes of the guard's mask, and their flags. -/
theorem issue_lanes {s : State} {t : Nat} {n : Needle} {w : W64} {rq : Nat} {row : Bool} (h : issuable s t n w)
    (hw : wins s t n unitPurl rq) (hr : row = true) (hx : wRD w < 32) (g : State → Nat → Nat × Nat)
    (hg : ∀ a, g { s with arb := a } = g s) :
    ∃ r, issue t n w row (lawful w) (granted t n unitPurl rq (fun s => laneResult t (needleCode n) w (g s) s)) s = r ∧
      (∀ i, i < 64 → getLane r t (needleCode n) (wRD w) i =
        if guardMask s t (needleCode n) w / 2 ^ i % 2 = 1 then BitVec.ofNat 32 (g s i).1
        else getLane s t (needleCode n) (wRD w) i) ∧
      flagsGain t (needleCode n) (laneFlags (guardMask s t (needleCode n) w) (fun i => (g s i).2)) s r ∧
      vectorFrame t (needleCode n) (wRD w) s r := by
  have hn := needleCode_lt n
  have hm : ∀ a, guardMask { s with arb := a } t (needleCode n) w = guardMask s t (needleCode n) w := fun a => rfl
  have hact : ∀ a, ∃ y gg v, laneResult t (needleCode n) w (g { s with arb := a }) { s with arb := a } =
        advance t (needleCode n) { s with arb := a, vreg := v, young := y, regs := gg } ∧
      (∀ z ∈ y, ofNeedle t (needleCode n) z = true → z.held = none) ∧
      { s with arb := a, vreg := v } = setLanes t (needleCode n) (wRD w) (guardMask s t (needleCode n) w) (fun i => (g s i).1)
        { s with arb := a } ∧
      gg = (setFlags t (needleCode n) (laneFlags (guardMask s t (needleCode n) w) (fun i => (g s i).2)) s).regs := by
    intro a
    obtain ⟨v, hv⟩ := setLanes_frame t (needleCode n) (wRD w) (guardMask s t (needleCode n) w) (fun i => (g s i).1) { s with arb := a }
    obtain ⟨y, hy, hyo⟩ := writeReady_none (t := t) (nc := needleCode n) (s := { s with arb := a }) kindV (wRD w) latLF
      (write := setLanes t (needleCode n) (wRD w) (guardMask s t (needleCode n) w) (fun i => (g s i).1)) h.2.2.2.2.2
      (by rw [hv])
    refine ⟨y, _, v, ?_, hyo, hv.symm, rfl⟩
    unfold laneResult
    dsimp only
    rw [hg a, hm a, hy, hv]
    unfold setFlags
    split <;> rfl
  obtain ⟨a, u, y, hi⟩ := issue_purl (act := fun s => laneResult t (needleCode n) w (g s) s) h hw hr (by
    intro a
    obtain ⟨y, gg, v, e, hyo, -, -⟩ := hact a
    rw [e]; exact hyo)
  obtain ⟨y', gg, v, e, -, hv, hgg⟩ := hact a
  dsimp only at hi
  refine ⟨_, hi, ?_, ?_, ?_, ?_, ?_, ?_, ?_⟩
  · intro i hi'
    rw [e]
    have := getLane_setLanes t (needleCode n) (wRD w) (guardMask s t (needleCode n) w) (fun i => (g s i).1) { s with arb := a } hi'
    rw [← hv] at this
    exact this
  · intro i hi'
    rw [e, hgg]
    exact testBit_setFlags t (needleCode n) _ s hi'
  · intro t' nc' x' i h1 h2 h3 h4
    rw [e]
    have := vregsBut_setLanes hn hx (guardMask s t (needleCode n) w) (fun i => (g s i).1) { s with arb := a } t' nc' x' i h1 h2 h3 h4
    rw [← hv] at this
    exact this
  · rw [e]; exact pcNext_advance (q := { s with arb := a, vreg := v, young := y', regs := gg }) hn rfl
  · intro f u k hk
    rw [e, hgg]
    exact rd_setFlags (fun e => hk (by rw [e]; exact List.mem_singleton.2 rfl))
  · rw [e, hgg]
    refine bytesKept_of rfl ?_
    refine sameMap_of_regsBut (ks := [fkey NDL_FLAGS t (needleCode n)]) ?_ ?_
    · intro f u k hk
      exact rd_setFlags (fun e => hk (by rw [e]; exact List.mem_singleton.2 rfl))
    · intro g hg k hk
      rw [List.mem_singleton.1 hk, fkey_mod]
      revert g hg; decide
  · rw [e]; rfl

/-- A digit of a packed number. -/
theorem bit_packN {l : List Nat} {i : Nat} (hi : i < l.length) : packN 1 l / 2 ^ i % 2 = l[i] % 2 := by
  induction l generalizing i with
  | nil => simp at hi
  | cons d l ih =>
    unfold packN
    cases i with
    | zero => simp
    | succ i =>
      have h2 : (d % 2 ^ 1 + 2 ^ 1 * packN 1 l) / 2 ^ (i + 1) = packN 1 l / 2 ^ i := by
        rw [Nat.pow_succ 2 i, Nat.mul_comm (2 ^ i) 2, ← Nat.div_div_eq_div_mul]
        congr 1
        omega
      rw [h2]
      have := ih (i := i) (by simpa using hi)
      simpa using this

/-- A bit of a predicate after a compare: the new value in the lanes of the mask, the old elsewhere. -/
theorem bit_predBits (old mask : Nat) (f : Nat → Bool) {i : Nat} (hi : i < 64) :
    predBits old mask f / 2 ^ i % 2 = if mask / 2 ^ i % 2 = 1 then (if f i then 1 else 0) else old / 2 ^ i % 2 := by
  unfold predBits
  rw [bit_packN (by simpa using hi)]
  simp only [List.getElem_map, List.getElem_range]
  split
  · split <;> rfl
  · omega

theorem predBits_lt (old mask : Nat) (f : Nat → Bool) : predBits old mask f < 2 ^ 64 := by
  have h := packN_lt 1 ((List.range 64).map (fun i =>
    if mask / 2 ^ i % 2 = 1 then (if f i then 1 else 0) else old / 2 ^ i % 2))
  rw [List.length_map, List.length_range, Nat.one_mul] at h
  exact h

/-- A predicate register written: nothing but the predicate registers changes. -/
theorem setP_frame (t nc r v : Nat) (s : State) : setP t nc r v s = { s with preg := (setP t nc r v s).preg } := by
  unfold setP
  split <;> rfl

/-- A compare's result (R64, R76): the bits of the guard's mask in p[RD], and the flags of those lanes. -/
theorem issue_compare {s : State} {t : Nat} {n : Needle} {w : W64} {rq : Nat} {row : Bool} (h : issuable s t n w)
    (hw : wins s t n unitPurl rq) (hr : row = true) (hx : wRD w < 8) (op : FVal → FVal → Bool × Nat) :
    ∃ r, issue t n w row (lawful w) (granted t n unitPurl rq (vcmpEffect op t (needleCode n) w)) s = r ∧
      (∀ i, i < 64 → getP r t (needleCode n) (wRD w) / 2 ^ i % 2 =
        if wRD w ≠ 0 ∧ guardMask s t (needleCode n) w / 2 ^ i % 2 = 1 then
          (if (op (val32 (laneCode s t (needleCode n) (wRA w) i)) (val32 (laneCode s t (needleCode n) (wRB w) i))).1 then 1 else 0)
        else getP s t (needleCode n) (wRD w) / 2 ^ i % 2) ∧
      flagsGain t (needleCode n) (laneFlags (guardMask s t (needleCode n) w) (fun i =>
        (op (val32 (laneCode s t (needleCode n) (wRA w) i)) (val32 (laneCode s t (needleCode n) (wRB w) i))).2)) s r ∧
      predicateFrame t (needleCode n) (wRD w) s r := by
  have hn := needleCode_lt n
  let m := guardMask s t (needleCode n) w
  let f : Nat → Bool × Nat := fun i =>
    op (val32 (laneCode s t (needleCode n) (wRA w) i)) (val32 (laneCode s t (needleCode n) (wRB w) i))
  let write : State → State := fun s' => setP t (needleCode n) (wRD w) (predBits (getP s' t (needleCode n) (wRD w)) m (fun i => (f i).1)) s'
  have hact : ∀ a, ∃ y gg v, vcmpEffect op t (needleCode n) w { s with arb := a } =
        advance t (needleCode n) { s with arb := a, preg := v, young := y, regs := gg } ∧
      (∀ z ∈ y, ofNeedle t (needleCode n) z = true → z.held = none) ∧ { s with preg := v } = write s ∧
      gg = (setFlags t (needleCode n) (laneFlags m (fun i => (f i).2)) s).regs := by
    intro a
    obtain ⟨y, hy, hyo⟩ := writeReady_none (t := t) (nc := needleCode n) (s := { s with arb := a }) kindP (wRD w) latLF
      (write := write) h.2.2.2.2.2 (setP_young _ _ _ _ _)
    refine ⟨y, _, (write s).preg, ?_, hyo, ?_, rfl⟩
    · have e1 : vcmpEffect op t (needleCode n) w { s with arb := a } =
          advance t (needleCode n) (setFlags t (needleCode n) (laneFlags m (fun i => (f i).2))
            (writeReady t (needleCode n) kindP (wRD w) latLF write { s with arb := a })) := rfl
      rw [e1, hy]
      have e2 : write { s with arb := a } = { s with arb := a, preg := (write s).preg } := by
        show setP _ _ _ _ _ = _
        unfold setP
        by_cases h0 : wRD w = 0
        · rw [if_pos h0]
          have : (write s).preg = s.preg := by show (setP _ _ _ _ _).preg = _; unfold setP; rw [if_pos h0]
          rw [this]
        · rw [if_neg h0]
          have : (write s).preg = mapSet 0 s.preg (nkey t (needleCode n) * 8 + wRD w)
            (BitVec.ofNat 64 (predBits (getP s t (needleCode n) (wRD w)) m (fun i => (f i).1))) := by
              show (setP _ _ _ _ _).preg = _; unfold setP; rw [if_neg h0]
          rw [this]; rfl
      rw [e2]
      unfold setFlags
      split <;> rfl
    · exact (setP_frame t (needleCode n) (wRD w) _ s).symm
  obtain ⟨a, u, y, hi⟩ := issue_purl (act := vcmpEffect op t (needleCode n) w) h hw hr (by
    intro a
    obtain ⟨y, gg, v, e, hyo, -, -⟩ := hact a
    rw [e]; exact hyo)
  obtain ⟨y', gg, v, e, -, hv, hgg⟩ := hact a
  refine ⟨_, hi, ?_, ?_, ?_, ?_, ?_, ?_, ?_⟩
  · intro i hi'
    have hp := getP_setP_self t (needleCode n) (wRD w) (predBits (getP s t (needleCode n) (wRD w)) m (fun i => (f i).1)) s
    have hs : getP (write s) t (needleCode n) (wRD w) = _ := hp
    rw [← hv] at hs
    rw [e]
    show getP { s with preg := v } t (needleCode n) (wRD w) / 2 ^ i % 2 = _
    rw [hs]
    by_cases h0 : wRD w = 0
    · rw [if_pos h0, if_neg (fun c => c.1 h0)]; unfold getP; rw [if_pos h0]
    · rw [if_neg h0, Nat.mod_eq_of_lt (predBits_lt _ _ _), bit_predBits _ _ _ hi']
      by_cases hm : m / 2 ^ i % 2 = 1
      · rw [if_pos hm, if_pos (show wRD w ≠ 0 ∧ guardMask s t (needleCode n) w / 2 ^ i % 2 = 1 from ⟨h0, hm⟩)]
      · rw [if_neg hm, if_neg (show ¬(wRD w ≠ 0 ∧ guardMask s t (needleCode n) w / 2 ^ i % 2 = 1) from fun c => hm c.2)]
  · intro i hi'
    rw [e, hgg]
    exact testBit_setFlags t (needleCode n) _ s hi'
  · intro t' nc' x' h1 h2 h3
    rw [e]
    have := getP_setP_ne (t := t) (nc := needleCode n) (r := wRD w) (t' := t') (nc' := nc') (r' := x')
      (predBits (getP s t (needleCode n) (wRD w)) m (fun i => (f i).1)) s (by unfold nkey; omega)
    have h' : getP (write s) t' nc' x' = getP s t' nc' x' := this
    rw [← hv] at h'
    exact h'
  · rw [e]; exact pcNext_advance (q := { s with arb := a, preg := v, young := y', regs := gg }) hn rfl
  · intro f u k hk
    rw [e, hgg]
    exact rd_setFlags (fun e => hk (by rw [e]; exact List.mem_singleton.2 rfl))
  · rw [e, hgg]
    refine bytesKept_of rfl ?_
    refine sameMap_of_regsBut (ks := [fkey NDL_FLAGS t (needleCode n)]) ?_ ?_
    · intro f u k hk
      exact rd_setFlags (fun e => hk (by rw [e]; exact List.mem_singleton.2 rfl))
    · intro g hg k hk
      rw [List.mem_singleton.1 hk, fkey_mod]
      revert g hg; decide
  · rw [e]; rfl

end Sys2Proof.Laws
end

