-- ==== Sys2Proof/Laws/Errors.lean ====
section
/-! SUPPORT. Error records and needle traps: what `raise`, `trapNeedle` and the refusals of a tile do. -/

namespace Sys2Proof.Laws
open Sys2Proof.Machine

theorem signalVec_frame (f v : Nat) (s : State) : ∃ g i, signalVec f v s = { s with vecPend := g, vecSent := i } := by
  unfold signalVec
  dsimp only
  split
  · exact ⟨s.vecPend, s.vecSent, rfl⟩
  · split
    · exact ⟨s.vecPend, _, rfl⟩
    · exact ⟨_, s.vecSent, rfl⟩

theorem signalErr_frame (f : Nat) (s : State) :
    ∃ c g i, signalErr f s = { s with vecCnt := c, vecPend := g, vecSent := i } := by
  unfold signalErr
  obtain ⟨g, i, h⟩ := signalVec_frame f 1 { s with vecCnt := mapSet 0 s.vecCnt f 0 }
  exact ⟨_, g, i, h⟩

/-- The HALTED event changes ERR_PHALT, the interrupt line and the vectors alone (R409). -/
theorem signalHalted_frame (p : Nat) (s : State) :
    ∃ c g i, signalHalted p s = { wrOr s ERR_PHALT_HALT 0 0 (2 ^ p) with hubIrq := true, vecCnt := c, vecPend := g, vecSent := i } := by
  unfold signalHalted
  obtain ⟨c, g, i, h⟩ := signalErr_frame 0 { wrOr s ERR_PHALT_HALT 0 0 (2 ^ p) with hubIrq := true }
  rw [h]
  obtain ⟨c', g', i', h'⟩ := signalErr_frame (p + 1)
    { wrOr s ERR_PHALT_HALT 0 0 (2 ^ p) with hubIrq := true, vecCnt := c, vecPend := g, vecSent := i }
  exact ⟨c', g', i', h'⟩

theorem incS_frame (f st : Field) (u n k : Nat) (s : State) : ∃ a, incS s f st u n k = { s with regs := a } := by
  unfold incS
  dsimp only
  split
  · exact ⟨_, rfl⟩
  · exact ⟨_, rfl⟩

/-- A class S counter saturates at its width's end (R396). -/
theorem rd_incS_self {f st : Field} (hw : f.width = 32) (hne : f.id % 1024 ≠ st.id % 1024) (u n k : Nat) (s : State) :
    rd (incS s f st u n k) f u n = min (rd s f u n + k) (2 ^ 32 - 1) := by
  unfold incS
  dsimp only
  split
  · rw [rd_wr_self, hw]; omega
  · rw [rd_wr_id _ _ hne, rd_wr_self, hw]; omega

theorem rd_incS_other {f st g : Field} (h1 : g.id % 1024 ≠ f.id % 1024) (h2 : g.id % 1024 ≠ st.id % 1024) (u n k u' n' : Nat)
    (s : State) : rd (incS s f st u n k) g u' n' = rd s g u' n' := by
  unfold incS
  dsimp only
  split
  · exact rd_wr_id _ _ h1
  · rw [rd_wr_id _ _ h2, rd_wr_id _ _ h1]

/-- What raising a record leaves alone. -/
theorem raise_frame (u : UnitId) (e : ErrRec) (s : State) :
    ∃ a b c d f g i, raise u e s = { s with
      regs := a, held := b, lossy := c, hubIrq := d, vecCnt := f, vecPend := g, vecSent := i } := by
  unfold raise
  split
  · exact ⟨s.regs, _, _, s.hubIrq, s.vecCnt, s.vecPend, s.vecSent, rfl⟩
  · dsimp only
    obtain ⟨a, ha⟩ := incS_frame ERR_LOST_LOST ERR_STATUS_SLOST 0 0 1
      { s with lossy := s.lossy.filter (fun x => decide (x ≠ u)) ++ [u] }
    rw [ha]
    cases e.halt with
    | none => exact ⟨a, s.held, _, s.hubIrq, s.vecCnt, s.vecPend, s.vecSent, rfl⟩
    | some p =>
      obtain ⟨c, g, i, h⟩ := signalHalted_frame p
        { s with lossy := s.lossy.filter (fun x => decide (x ≠ u)) ++ [u], regs := a }
      dsimp only
      rw [h]
      exact ⟨_, s.held, _, true, c, g, i, rfl⟩

/-- The register fields that raising a record writes: the count of lost records, its sticky bit and ERR_PHALT. -/
theorem rd_raise {g : Field} (h1 : g.id % 1024 ≠ ERR_LOST_LOST.id % 1024) (h2 : g.id % 1024 ≠ ERR_STATUS_SLOST.id % 1024)
    (h3 : g.id % 1024 ≠ ERR_PHALT_HALT.id % 1024) (u : UnitId) (e : ErrRec) (s : State) (v n : Nat) :
    rd (raise u e s) g v n = rd s g v n := by
  unfold raise
  split
  · rfl
  · dsimp only
    cases e.halt with
    | none => exact rd_incS_other h1 h2 _ _ _ _ _ _
    | some p =>
      dsimp only
      obtain ⟨c, x, i, h⟩ := signalHalted_frame p (incS { s with lossy := s.lossy.filter (fun x => decide (x ≠ u)) ++ [u] }
        ERR_LOST_LOST ERR_STATUS_SLOST 0 0 1)
      rw [h]
      refine Eq.trans (rd_wr_id _ _ h3) ?_
      exact rd_incS_other h1 h2 _ _ _ _ _ _

/-- A record raised is held to be filed, or counted as lost (R405). -/
theorem raise_raised (u : UnitId) (e : ErrRec) (s : State) : raised u e s (raise u e s) := by
  unfold raised
  by_cases h : u ≠ .hubfw ∧ s.held.any (fun h => decide (h.unit = u)) = true
  · rw [if_pos h]
    unfold raise
    rw [if_neg (by simp [h.1, h.2])]
    dsimp only
    obtain ⟨a, ha⟩ := incS_frame ERR_LOST_LOST ERR_STATUS_SLOST 0 0 1
      { s with lossy := s.lossy.filter (fun x => decide (x ≠ u)) ++ [u] }
    have hl : u ∈ (incS { s with lossy := s.lossy.filter (fun x => decide (x ≠ u)) ++ [u] }
        ERR_LOST_LOST ERR_STATUS_SLOST 0 0 1).lossy := by rw [ha]; simp
    have hv := rd_incS_self (f := ERR_LOST_LOST) (st := ERR_STATUS_SLOST) rfl (by decide) 0 0 1
      { s with lossy := s.lossy.filter (fun x => decide (x ≠ u)) ++ [u] }
    cases e.halt with
    | none => exact ⟨hl, hv⟩
    | some p =>
      dsimp only
      obtain ⟨c, x, i, h⟩ := signalHalted_frame p (incS { s with lossy := s.lossy.filter (fun x => decide (x ≠ u)) ++ [u] }
        ERR_LOST_LOST ERR_STATUS_SLOST 0 0 1)
      rw [h]
      exact ⟨hl, Eq.trans (rd_wr_id _ _ (by decide)) hv⟩
  · rw [if_neg h]
    unfold raise
    rw [if_pos (by
      by_cases hu : u = .hubfw
      · simp [hu]
      · simp only [ne_eq, hu, not_false_eq_true, true_and, Bool.not_eq_true] at h
        simp [h])]
    exact List.mem_append_right _ (List.mem_singleton.2 rfl)

theorem raised_congr {u : UnitId} {e : ErrRec} {s q r : State} (h : raised u e s q) (hh : r.held = q.held)
    (hl : r.lossy = q.lossy) (hr : rd r ERR_LOST_LOST 0 0 = rd q ERR_LOST_LOST 0 0) : raised u e s r := by
  unfold raised at h ⊢
  split at h
  · rename_i hc; rw [if_pos hc, hl, hr]; exact h
  · rename_i hc; rw [if_neg hc, hh]; exact h

/-- A needle's trap: its record, its state and its status bit. -/
theorem trapNeedle_trapped (t nc code object source : Nat) (s : State) :
    trapped t nc code object source s (trapNeedle t nc code object source s) := by
  unfold trapNeedle enterTrap
  obtain ⟨a, b, c, d, f, g, i, h⟩ := raise_frame (.tile t) (tileRec s t code true object source) s
  have hr := raise_raised (.tile t) (tileRec s t code true object source) s
  generalize raise (.tile t) (tileRec s t code true object source) s = q at h hr
  refine ⟨raised_congr hr rfl rfl ?_, ?_, rd_wr_self _ _ _ _ _, ?_⟩
  · rw [rd_wr_id _ _ (by decide), rd_wr_id _ _ (by decide)]
  · rw [rd_wr_id _ _ (by decide), rd_wr_self]; rfl
  · subst h; exact ⟨rfl, rfl, rfl, rfl, rfl, rfl⟩

end Sys2Proof.Laws
end

