-- ==== Sys2Proof/Laws/Keep.lean ====
section
/-! SUPPORT. How a meaning keeps memory in canonical form: the tools of the lemmas `keeps_f`, one per operation f. -/

namespace Sys2Proof.Laws
open Sys2Proof.Machine

/-- The canonical form of both memories, as two maps. -/
def okParts (m h : SMap Byte) : Prop := Memory.wf m = true ∧ Memory.wf h = true

theorem ok_of {a : State} (h : memOk a) : okParts a.mem a.hostMem := h

/-- A state is as good as its two memories. -/
theorem keeps_mk {x0 x1 x2 x3 x4 x5 x6 x7 x8 x9 x10 x11 x12 x13 x14 x15 x16 x17 x18 x19 x20 x21 x22 x23 x24 x25 x26 x27 x28 x29 x30 x31
    x32 x33 x34 x35 x36 x37 x38 x39 x40 x41 x42 x43 x44 x45 x46 x47 x48 x49 x50 x51 x52 x53 x54 x55 x56 x57 x58 x59 x60
    x61 x62 x63 x64 x65 x66 x67 x68 x69 x70 x71 x72 x73 x74 x75 x76 x77 x78 x79 x80 x81 x82 x83 x84 x85 x86 x87 x88 x89
    x90 x91 x92 x93 x94 x95 x96 x97 x98 x99} (h : okParts x5 x6) :
    memOk (State.mk x0 x1 x2 x3 x4 x5 x6 x7 x8 x9 x10 x11 x12 x13 x14 x15 x16 x17 x18 x19 x20 x21 x22 x23 x24 x25 x26 x27
    x28 x29 x30 x31 x32 x33 x34 x35 x36 x37 x38 x39 x40 x41 x42 x43 x44 x45 x46 x47 x48 x49 x50 x51 x52 x53 x54 x55 x56
    x57 x58 x59 x60 x61 x62 x63 x64 x65 x66 x67 x68 x69 x70 x71 x72 x73 x74 x75 x76 x77 x78 x79 x80 x81 x82 x83 x84 x85
    x86 x87 x88 x89 x90 x91 x92 x93 x94 x95 x96 x97 x98 x99) := h

theorem ok_mem {m h : SMap Byte} {k : Nat} {b : Byte} (hs : okParts m h) : okParts (mapSet 0 m k b) h :=
  ⟨mapWf_mapSet 0 _ _ _ hs.1, hs.2⟩

theorem ok_host {m h : SMap Byte} {k : Nat} {b : Byte} (hs : okParts m h) : okParts m (mapSet 0 h k b) :=
  ⟨hs.1, mapWf_mapSet 0 _ _ _ hs.2⟩

theorem ok_filter {m h : SMap Byte} {f : Nat × Byte → Bool} (hs : okParts m h) : okParts (m.filter f) h :=
  ⟨mapWf_filter 0 _ _ hs.1, hs.2⟩

theorem ok_clear {m h : SMap Byte} {lo n : Nat} (hs : okParts m h) : okParts (mapClear m lo n) h :=
  ⟨mapWf_mapClear 0 _ _ _ hs.1, hs.2⟩

theorem ok_mem_fold {m h : SMap Byte} {k : Nat → Nat} {v : Nat → Byte} {l : List Nat} (hs : okParts m h) :
    okParts (l.foldl (fun m i => mapSet 0 m (k i) (v i)) m) h := by
  induction l generalizing m with
  | nil => exact hs
  | cons x l ih => exact ih (ok_mem hs)

theorem ok_nil {h : SMap Byte} (hs : Memory.wf h = true) : okParts [] h := ⟨rfl, hs⟩

theorem keeps_foldl {β : Type} {l : List β} {s : State} {f : State → β → State} (hs : memOk s)
    (hf : ∀ s x, memOk s → memOk (f s x)) : memOk (l.foldl f s) := by
  induction l generalizing s with
  | nil => exact hs
  | cons x l ih => exact ih (hf s x hs)

/-- A fold whose accumulator carries the state in its first part. -/
theorem keeps_foldl_fst {β γ : Type} {l : List β} {a : State × γ} {f : State × γ → β → State × γ} (hs : memOk a.1)
    (hf : ∀ a x, memOk a.1 → memOk (f a x).1) : memOk (l.foldl f a).1 := by
  induction l generalizing a with
  | nil => exact hs
  | cons x l ih => exact ih (hf a x hs)

/-- A fold whose accumulator carries the state in its second part. -/
theorem keeps_foldl_snd {β γ : Type} {l : List β} {a : γ × State} {f : γ × State → β → γ × State} (hs : memOk a.2)
    (hf : ∀ a x, memOk a.2 → memOk (f a x).2) : memOk (l.foldl f a).2 := by
  induction l generalizing a with
  | nil => exact hs
  | cons x l ih => exact ih (hf a x hs)

/-- The state in the first part of a known pair. -/
theorem of_fst {γ : Type} {p : State × γ} {a : State} {b : γ} (h : p = (a, b)) (hp : memOk p.1) : memOk a := by
  subst h; exact hp

/-- The state in the second part of a known pair. -/
theorem of_snd {γ : Type} {p : γ × State} {a : γ} {b : State} (h : p = (a, b)) (hp : memOk p.2) : memOk b := by
  subst h; exact hp

end Sys2Proof.Laws
end

