-- ==== Sys2Proof/Laws/KeepOps.lean ====
section
/-! SUPPORT. Machine/Ops.lean keeps memory in canonical form. -/

namespace Sys2Proof.Laws
open Sys2Proof.Machine

theorem keeps_wr (s : State) (f : Field) (u n v : Nat) (hok : memOk s) : memOk (wr s f u n v) := by
  unfold wr
  repeat' (first | with_reducible assumption | split | (intro _ _) | (intro _) | dsimp only | (with_reducible refine keeps_mk ?_) | (with_reducible refine ok_of ?_; first | with_reducible assumption))

theorem keeps_wrOr (s : State) (f : Field) (u n bits : Nat) (hok : memOk s) : memOk (wrOr s f u n bits) := by
  unfold wrOr
  repeat' (first | with_reducible assumption | with_reducible apply keeps_wr)

theorem keeps_wrReset (s : State) (f : Field) (u n : Nat) (hok : memOk s) : memOk (wrReset s f u n) := by
  unfold wrReset
  repeat' (first | with_reducible assumption | split | (intro _ _) | (intro _) | dsimp only | (with_reducible refine keeps_mk ?_) | (with_reducible refine ok_of ?_; first | with_reducible assumption))

theorem keeps_wrNext (s : State) (f : Field) (u n v : Nat) (hok : memOk s) : memOk (wrNext s f u n v) := by
  unfold wrNext
  repeat' (first | with_reducible assumption | split | (intro _ _) | (intro _) | dsimp only | (with_reducible refine keeps_mk ?_) | (with_reducible refine ok_of ?_; first | with_reducible assumption))

theorem keeps_commitField (f : Field) (u n : Nat) (s : State) (hok : memOk s) : memOk (commitField f u n s) := by
  unfold commitField
  repeat' (first | with_reducible assumption | with_reducible apply keeps_wr | split | (intro _ _) | (intro _) | dsimp only | (with_reducible refine keeps_mk ?_) | (with_reducible refine ok_of ?_; first | with_reducible assumption | with_reducible apply keeps_wr))

theorem keeps_commitFields (fs : List Field) (u : Nat) (s : State) (hok : memOk s) : memOk (commitFields fs u s) := by
  unfold commitFields
  repeat' (first | with_reducible assumption | with_reducible apply keeps_commitField | with_reducible apply keeps_foldl | split | (intro _ _) | (intro _))

theorem keeps_incS (s : State) (f st : Field) (u n k : Nat) (hok : memOk s) : memOk (incS s f st u n k) := by
  unfold incS
  repeat' (first | with_reducible assumption | with_reducible apply keeps_wr | split | (intro _ _) | (intro _) | dsimp only | (with_reducible refine keeps_mk ?_) | (with_reducible refine ok_of ?_; first | with_reducible assumption | with_reducible apply keeps_wr))

theorem keeps_incM (s : State) (lo hi : Field) (u n k : Nat) (hok : memOk s) : memOk (incM s lo hi u n k) := by
  unfold incM
  repeat' (first | with_reducible assumption | with_reducible apply keeps_wr)

theorem keeps_wr64 (s : State) (lo hi : Field) (u n v : Nat) (hok : memOk s) : memOk (wr64 s lo hi u n v) := by
  unfold wr64
  repeat' (first | with_reducible assumption | with_reducible apply keeps_wr)

theorem keeps_signalVec (f v : Nat) (s : State) (hok : memOk s) : memOk (signalVec f v s) := by
  unfold signalVec
  repeat' (first | with_reducible assumption | split | (intro _ _) | (intro _) | dsimp only | (with_reducible refine keeps_mk ?_) | (with_reducible refine ok_of ?_; first | with_reducible assumption))

theorem keeps_signalErr (f : Nat) (s : State) (hok : memOk s) : memOk (signalErr f s) := by
  unfold signalErr
  repeat' (first | with_reducible assumption | with_reducible apply keeps_signalVec | split | (intro _ _) | (intro _) | dsimp only | (with_reducible refine keeps_mk ?_) | (with_reducible refine ok_of ?_; first | with_reducible assumption | with_reducible apply keeps_signalVec))

theorem keeps_signalHalted (p : Nat) (s : State) (hok : memOk s) : memOk (signalHalted p s) := by
  unfold signalHalted
  repeat' (first | with_reducible assumption | with_reducible apply keeps_wrOr | with_reducible apply keeps_signalErr | split | (intro _ _) | (intro _) | dsimp only | (with_reducible refine keeps_mk ?_) | (with_reducible refine ok_of ?_; first | with_reducible assumption | with_reducible apply keeps_wrOr | with_reducible apply keeps_signalErr))

theorem keeps_raise (u : UnitId) (e : ErrRec) (s : State) (hok : memOk s) : memOk (raise u e s) := by
  unfold raise
  repeat' (first | with_reducible assumption | with_reducible apply keeps_incS | with_reducible apply keeps_signalHalted | split | (intro _ _) | (intro _) | dsimp only | (with_reducible refine keeps_mk ?_) | (with_reducible refine ok_of ?_; first | with_reducible assumption | with_reducible apply keeps_incS | with_reducible apply keeps_signalHalted))

theorem keeps_enterTrap (t nc : Nat) (s : State) (hok : memOk s) : memOk (enterTrap t nc s) := by
  unfold enterTrap
  repeat' (first | with_reducible assumption | with_reducible apply keeps_wr)

theorem keeps_trapNeedle (t nc code object source : Nat) (s : State) (hok : memOk s) : memOk (trapNeedle t nc code object source s) := by
  unfold trapNeedle
  repeat' (first | with_reducible assumption | with_reducible apply keeps_raise | with_reducible apply keeps_enterTrap)

theorem keeps_tileError (t code object source : Nat) (s : State) (hok : memOk s) : memOk (tileError t code object source s) := by
  unfold tileError
  repeat' (first | with_reducible assumption | with_reducible apply keeps_raise)

theorem keeps_haltWith (p : Nat) (u : UnitId) (e : ErrRec) (s : State) (hok : memOk s) : memOk (haltWith p u e s) := by
  unfold haltWith
  repeat' (first | with_reducible assumption | with_reducible apply keeps_wr | with_reducible apply keeps_raise | split | (intro _ _) | (intro _))

theorem keeps_castBranch (p : Option Nat) (u : UnitId) (e : ErrRec) (s : State) (hok : memOk s) : memOk (castBranch p u e s) := by
  unfold castBranch
  repeat' (first | with_reducible assumption | with_reducible apply keeps_raise | with_reducible apply keeps_haltWith | split | (intro _ _) | (intro _))

theorem keeps_tileFail (t nc code : Nat) (trap : Bool) (object source : Nat) (s : State) (hok : memOk s) : memOk (tileFail t nc code trap object source s) := by
  unfold tileFail
  repeat' (first | with_reducible assumption | with_reducible apply keeps_trapNeedle | with_reducible apply keeps_tileError | with_reducible apply keeps_castBranch | split | (intro _ _) | (intro _))

theorem keeps_wrByte (s : State) (a : Nat) (b : Byte) (hok : memOk s) : memOk (wrByte s a b) := by
  unfold wrByte
  repeat' (first | with_reducible assumption | (with_reducible refine of_fst (by with_reducible assumption) ?_) | (with_reducible refine of_snd (by with_reducible assumption) ?_) | split | (intro _ _) | (intro _) | dsimp only | (with_reducible refine keeps_mk ?_) | (with_reducible refine ok_of ?_; first | with_reducible assumption | split | dsimp only | (with_reducible apply of_fst; with_reducible assumption) | (with_reducible apply of_snd; with_reducible assumption)) | (with_reducible refine ok_mem ?_) | (with_reducible refine ok_host ?_) | (with_reducible refine ok_filter ?_) | (with_reducible refine ok_clear ?_) | (with_reducible refine ok_mem_fold ?_))

theorem keeps_wrEn : ∀ (a n v en : Nat) (s : State), memOk s → memOk (wrEn a n v en s)
  | _, 0, _, _, _, hok => hok
  | a, n + 1, v, en, s, hok => by
    unfold wrEn
    apply keeps_wrEn
    split
    · exact keeps_wrByte _ _ _ hok
    · exact hok

theorem keeps_wrLE (a n v : Nat) (s : State) (hok : memOk s) : memOk (wrLE a n v s) := by
  unfold wrLE
  repeat' (first | with_reducible assumption | with_reducible apply keeps_wrEn)

theorem keeps_putHost : ∀ (h n v : Nat) (s : State), memOk s → memOk (putHost h n v s)
  | _, 0, _, _, hok => hok
  | h, n + 1, v, s, hok => by
    unfold putHost
    exact keeps_putHost _ _ _ _ (keeps_mk (ok_host (ok_of hok)))

theorem keeps_askHost (f h n : Nat) (s : State) (hok : memOk s) : memOk (askHost f h n s) := by
  unfold askHost
  repeat' (first | with_reducible assumption | split | (intro _ _) | (intro _) | dsimp only | (with_reducible refine keeps_mk ?_) | (with_reducible refine ok_of ?_; first | with_reducible assumption))

theorem keeps_postHost (f ro h n v : Nat) (s : State) (hok : memOk s) : memOk (postHost f ro h n v s) := by
  unfold postHost
  split
  · exact hok
  · exact keeps_mk (ok_of (keeps_putHost _ _ _ _ hok))

theorem keeps_flushHalf (t half : Nat) (s : State) (hok : memOk s) : memOk (flushHalf t half s) := by
  unfold flushHalf
  repeat' (first | with_reducible assumption | with_reducible apply keeps_wrEn | with_reducible apply keeps_foldl | with_reducible apply keeps_foldl_fst | with_reducible apply keeps_foldl_snd | split | (intro _ _) | (intro _) | dsimp only | (with_reducible refine keeps_mk ?_) | (with_reducible refine ok_of ?_; first | with_reducible assumption | with_reducible apply keeps_wrEn | with_reducible apply keeps_foldl | with_reducible apply keeps_foldl_fst | with_reducible apply keeps_foldl_snd))

theorem keeps_flushRange (t off n : Nat) (s : State) (hok : memOk s) : memOk (flushRange t off n s) := by
  unfold flushRange
  repeat' (first | with_reducible assumption | with_reducible apply keeps_flushHalf | with_reducible apply keeps_foldl | split | (intro _ _) | (intro _))

theorem keeps_flushAll (t : Nat) (s : State) (hok : memOk s) : memOk (flushAll t s) := by
  unfold flushAll
  repeat' (first | with_reducible assumption | with_reducible apply keeps_flushHalf | with_reducible apply keeps_foldl | split | (intro _ _) | (intro _))

theorem keeps_flushRead (a n : Nat) (s : State) (hok : memOk s) : memOk (flushRead a n s) := by
  unfold flushRead
  repeat' (first | with_reducible assumption | with_reducible apply keeps_flushHalf | with_reducible apply keeps_foldl | split | (intro _ _) | (intro _))

theorem keeps_refuseTile (t nc a : Nat) (s : State) (hok : memOk s) : memOk (refuseTile t nc a s) := by
  unfold refuseTile
  repeat' (first | with_reducible assumption | with_reducible apply keeps_tileFail)

end Sys2Proof.Laws
end

