-- ==== Sys2Proof/Laws/KeepFlit.lean ====
section
/-! SUPPORT. Machine/Flit.lean keeps memory in canonical form. -/

namespace Sys2Proof.Laws
open Sys2Proof.Machine

theorem keeps_sendFlit (kind : Nat) (f : LFlit) (s : State) (hok : memOk s) : memOk (sendFlit kind f s) := by
  unfold sendFlit
  repeat' (first | with_reducible assumption | with_reducible apply keeps_foldl | with_reducible apply keeps_foldl_fst | with_reducible apply keeps_foldl_snd | split | (intro _ _) | (intro _) | dsimp only | (with_reducible refine keeps_mk ?_) | (with_reducible refine ok_of ?_; first | with_reducible assumption | with_reducible apply keeps_foldl | with_reducible apply keeps_foldl_fst | with_reducible apply keeps_foldl_snd))

theorem keeps_idleOut : ∀ (n k : Nat) (s : State), memOk s → memOk (idleOut n k s)
  | 0, _, _, hok => hok
  | n + 1, k, s, hok => by
    unfold idleOut
    split
    · exact hok
    · exact keeps_idleOut n k _ (keeps_sendFlit _ _ _ hok)

theorem keeps_sendOwed (k : Nat) (s : State) (hok : memOk s) : memOk (sendOwed k s) := by
  unfold sendOwed
  repeat' (first | with_reducible assumption | with_reducible apply keeps_idleOut | split | (intro _ _) | (intro _))

end Sys2Proof.Laws
end

