-- ==== Sys2Proof/Laws/KeepMesh.lean ====
section
/-! SUPPORT. Machine/Mesh.lean keeps memory in canonical form. -/

namespace Sys2Proof.Laws
open Sys2Proof.Machine

theorem keeps_bumpTally (f : Field) (p : Option Nat) (s : State) (hok : memOk s) : memOk (bumpTally f p s) := by
  unfold bumpTally
  repeat' (first | with_reducible assumption | with_reducible apply keeps_wr | split | (intro _ _) | (intro _))

theorem keeps_inject (p : Pkt) (s : State) (hok : memOk s) : memOk (inject p s) := by
  unfold inject
  repeat' (first | with_reducible assumption | with_reducible apply keeps_bumpTally | split | (intro _ _) | (intro _) | dsimp only | (with_reducible refine keeps_mk ?_) | (with_reducible refine ok_of ?_; first | with_reducible assumption | with_reducible apply keeps_bumpTally))

theorem keeps_countDelivery (p : Pkt) (s : State) (hok : memOk s) : memOk (countDelivery p s) := by
  unfold countDelivery
  repeat' (first | with_reducible assumption | with_reducible apply keeps_sendOwed | split | (intro _ _) | (intro _) | dsimp only | (with_reducible refine keeps_mk ?_) | (with_reducible refine ok_of ?_; first | with_reducible assumption | with_reducible apply keeps_sendOwed))

theorem keeps_landOne (p : Pkt) (s : State) (hok : memOk s) : memOk (landOne p s) := by
  unfold landOne
  repeat' (first | with_reducible assumption | with_reducible apply keeps_bumpTally | with_reducible apply keeps_countDelivery | split | (intro _ _) | (intro _) | dsimp only | (with_reducible refine keeps_mk ?_) | (with_reducible refine ok_of ?_; first | with_reducible assumption | with_reducible apply keeps_bumpTally | with_reducible apply keeps_countDelivery))

theorem keeps_landPkt (p : Pkt) (s : State) (hok : memOk s) : memOk (landPkt p s) := by
  unfold landPkt
  repeat' (first | with_reducible assumption | with_reducible apply keeps_landOne | split | (intro _ _) | (intro _) | dsimp only | (with_reducible refine keeps_mk ?_) | (with_reducible refine ok_of ?_; first | with_reducible assumption | with_reducible apply keeps_landOne))

theorem keeps_landWith (p : Pkt) (ops : List StOp) (s : State) (hok : memOk s) : memOk (landWith p ops s) := by
  unfold landWith
  repeat' (first | with_reducible assumption | with_reducible apply keeps_landPkt | split | (intro _ _) | (intro _) | dsimp only | (with_reducible refine keeps_mk ?_) | (with_reducible refine ok_of ?_; first | with_reducible assumption | with_reducible apply keeps_landPkt))

theorem keeps_storeServed (c : Nat) (p : Pkt) (s : State) (hok : memOk s) : memOk (storeServed c p s) := by
  unfold storeServed
  repeat' (first | with_reducible assumption | split | (intro _ _) | (intro _) | dsimp only | (with_reducible refine keeps_mk ?_) | (with_reducible refine ok_of ?_; first | with_reducible assumption))

theorem keeps_pushPieces (get : Nat → Nat → Nat) (s0 : State) (part : Option Nat) (src who : Nat) (sig : Bool) (stitch : Nat) :
    ∀ (l : List (Nat × Nat × Nat)) (s : State), memOk s → memOk (pushPieces get s0 part src who sig stitch l s)
  | [], _, hok => hok
  | (a, d, k) :: rest, s, hok => by
    unfold pushPieces
    exact keeps_pushPieces get s0 part src who sig stitch rest _ (keeps_inject _ _ (keeps_flushRead _ _ _ hok))

theorem keeps_postPkt (p : Pkt) (h : Nat) (s : State) (hok : memOk s) : memOk (postPkt p h s) := by
  unfold postPkt
  repeat' (first | with_reducible assumption | with_reducible apply keeps_postHost)

theorem keeps_setTag (t i : Nat) (used : Bool) (s : State) (hok : memOk s) : memOk (setTag t i used s) := by
  unfold setTag
  repeat' (first | with_reducible assumption | split | (intro _ _) | (intro _) | dsimp only | (with_reducible refine keeps_mk ?_) | (with_reducible refine ok_of ?_; first | with_reducible assumption))

theorem keeps_pullStep (o : Outbound) (s : State) (hok : memOk s) : ∀ r, pullStep o s = some r → memOk r.1 := by
  intro r h
  unfold pullStep at h
  split at h
  · cases h
  · injection h with h; subst h
    exact keeps_inject _ _ (keeps_setTag _ _ _ _ hok)

theorem keeps_joinStep (o : Outbound) (s : State) (hok : memOk s) : ∀ r, joinStep o s = some r → memOk r.1 := by
  intro r h
  unfold joinStep at h
  split at h
  · cases h
  · injection h with h; subst h
    exact keeps_inject _ _ (keeps_mk (ok_of (keeps_flushRead _ _ _ hok)))

theorem keeps_pumpOne : ∀ (n : Nat) (o : Outbound) (s : State), memOk s → memOk (pumpOne n o s).1
  | 0, _, _, hok => hok
  | n + 1, o, s, hok => by
    unfold pumpOne
    split
    · exact hok
    · split
      · exact hok
      · rename_i s' o' h
        refine keeps_pumpOne n o' s' ?_
        split at h
        · exact keeps_joinStep _ _ hok _ h
        · exact keeps_pullStep _ _ hok _ h

theorem keeps_pump (t : Nat) (s : State) (hok : memOk s) : memOk (pump t s) := by
  unfold pump
  refine keeps_mk (ok_of ?_)
  refine keeps_foldl_fst hok ?_
  intro a x ha
  split
  · have hp := keeps_pumpOne 4097 x a.1 ha
    split <;> rename_i h <;> rw [h] at hp <;> exact hp
  · exact ha

theorem keeps_sendStitch (p lid k tile who : Nat) (s : State) (hok : memOk s) : memOk (sendStitch p lid k tile who s) := by
  unfold sendStitch
  repeat' (first | with_reducible assumption | split | (intro _ _) | (intro _) | dsimp only | (with_reducible refine keeps_mk ?_) | (with_reducible refine ok_of ?_; first | with_reducible assumption))

end Sys2Proof.Laws
end

