-- ==== Sys2Proof/Laws/KeepTile.lean ====
section
/-! SUPPORT. Machine/Tile.lean keeps memory in canonical form. -/

namespace Sys2Proof.Laws
open Sys2Proof.Machine

theorem keeps_setS (t nc r : Nat) (v : W32) (s : State) (hok : memOk s) : memOk (setS t nc r v s) := by
  unfold setS
  repeat' (first | with_reducible assumption | split | (intro _ _) | (intro _) | dsimp only | (with_reducible refine keeps_mk ?_) | (with_reducible refine ok_of ?_; first | with_reducible assumption))

theorem keeps_setA (t nc r v : Nat) (s : State) (hok : memOk s) : memOk (setA t nc r v s) := by
  unfold setA
  repeat' (first | with_reducible assumption | split | (intro _ _) | (intro _) | dsimp only | (with_reducible refine keeps_mk ?_) | (with_reducible refine ok_of ?_; first | with_reducible assumption))

theorem keeps_setLane (t nc r i : Nat) (v : W32) (s : State) (hok : memOk s) : memOk (setLane t nc r i v s) := by
  unfold setLane
  repeat' (first | with_reducible assumption | split | (intro _ _) | (intro _) | dsimp only | (with_reducible refine keeps_mk ?_) | (with_reducible refine ok_of ?_; first | with_reducible assumption))

theorem keeps_setLanes (t nc r mask : Nat) (f : Nat → Nat) (s : State) (hok : memOk s) : memOk (setLanes t nc r mask f s) := by
  unfold setLanes
  repeat' (first | with_reducible assumption | with_reducible apply keeps_setLane | with_reducible apply keeps_foldl | split | (intro _ _) | (intro _))

theorem keeps_setP (t nc r v : Nat) (s : State) (hok : memOk s) : memOk (setP t nc r v s) := by
  unfold setP
  repeat' (first | with_reducible assumption | split | (intro _ _) | (intro _) | dsimp only | (with_reducible refine keeps_mk ?_) | (with_reducible refine ok_of ?_; first | with_reducible assumption))

theorem keeps_setVec (t nc r mask v : Nat) (s : State) (hok : memOk s) : memOk (setVec t nc r mask v s) := by
  unfold setVec
  repeat' (first | with_reducible assumption | with_reducible apply keeps_setLanes)

theorem keeps_regPut (t nc kind r v : Nat) (s : State) (hok : memOk s) : memOk (regPut t nc kind r v s) := by
  unfold regPut
  repeat' (first | with_reducible assumption | with_reducible apply keeps_setS | with_reducible apply keeps_setP | with_reducible apply keeps_setVec | split | (intro _ _) | (intro _))

theorem keeps_restoreReg (y : Young) (s : State) (hok : memOk s) : memOk (restoreReg y s) := by
  unfold restoreReg
  repeat' (first | with_reducible assumption | with_reducible apply keeps_regPut | split | (intro _ _) | (intro _))

theorem keeps_writeReady (t nc kind r lat : Nat) (write : State → State) (s : State) (hwrite : ∀ s, memOk s → memOk (write s)) (hok : memOk s) : memOk (writeReady t nc kind r lat write s) := by
  unfold writeReady
  split
  · exact hwrite _ hok
  · split
    · split
      · exact hwrite _ hok
      · exact keeps_mk (ok_of (hwrite _ hok))
    · rename_i y hy
      have h1 := hwrite _ (keeps_restoreReg y s hok)
      refine keeps_mk (ok_of ?_)
      split
      · exact keeps_regPut _ _ _ _ _ _ h1
      · exact h1

theorem keeps_seen (t nc : Nat) (s : State) (hok : memOk s) : memOk (seen t nc s) := by
  unfold seen
  split
  · exact hok
  · refine keeps_foldl_fst (keeps_mk (ok_of hok)) ?_
    intro a y ha
    split
    · exact ha
    · dsimp only
      split
      · exact ha
      · exact keeps_mk (ok_of (keeps_regPut _ _ _ _ _ _ ha))

theorem keeps_settle (t nc : Nat) (moved : Bool) (s : State) (hok : memOk s) : memOk (settle t nc moved s) := by
  unfold settle
  repeat' (first | with_reducible assumption | with_reducible apply keeps_restoreReg | with_reducible apply keeps_foldl | with_reducible apply keeps_foldl_fst | with_reducible apply keeps_foldl_snd | split | (intro _ _) | (intro _) | dsimp only | (with_reducible refine keeps_mk ?_) | (with_reducible refine ok_of ?_; first | with_reducible assumption | with_reducible apply keeps_restoreReg | with_reducible apply keeps_foldl | with_reducible apply keeps_foldl_fst | with_reducible apply keeps_foldl_snd))

theorem keeps_setPC (t nc v : Nat) (s : State) (hok : memOk s) : memOk (setPC t nc v s) := by
  unfold setPC
  repeat' (first | with_reducible assumption | split | (intro _ _) | (intro _) | dsimp only | (with_reducible refine keeps_mk ?_) | (with_reducible refine ok_of ?_; first | with_reducible assumption))

theorem keeps_advance (t nc : Nat) (s : State) (hok : memOk s) : memOk (advance t nc s) := by
  unfold advance
  repeat' (first | with_reducible assumption | with_reducible apply keeps_setPC)

theorem keeps_arbitrate (s : State) (t unit : Nat) (reqs : List Nat) (hok : memOk s) : ∀ r, arbitrate s t unit reqs = some r → memOk r.2 := by
  intro r h
  unfold arbitrate at h
  dsimp only at h
  split at h
  · cases hr : reqs.head? <;> rw [hr] at h <;> simp at h
    subst h; exact hok
  · injection h with h; subst h
    refine keeps_mk (ok_of ?_)
    exact keeps_foldl hok (fun s x h => keeps_mk (ok_of h))

theorem keeps_gatherPut (t entry en data : Nat) (s : State) (hok : memOk s) : memOk (gatherPut t entry en data s) := by
  unfold gatherPut
  repeat' (first | with_reducible assumption | with_reducible apply keeps_flushAll | split | (intro _ _) | (intro _) | dsimp only | (with_reducible refine keeps_mk ?_) | (with_reducible refine ok_of ?_; first | with_reducible assumption | with_reducible apply keeps_flushAll))

theorem keeps_extNarrow (t : Nat) : ∀ (off n v en : Nat) (s : State), memOk s → memOk (extNarrow t off n v en s)
  | _, 0, _, _, _, hok => hok
  | off, n + 1, v, en, s, hok => by
    unfold extNarrow
    refine keeps_extNarrow t _ n _ _ _ ?_
    split
    · split
      · exact hok
      · exact keeps_gatherPut _ _ _ _ _ hok
    · exact keeps_wrEn _ _ _ _ _ (keeps_flushHalf _ _ _ hok)

theorem keeps_extWritePkt (t : Nat) : ∀ (m off n v en : Nat) (s : State), memOk s → memOk (extWritePkt t m off n v en s)
  | 0, _, _, _, _, _, hok => hok
  | m + 1, off, n, v, en, s, hok => by
    unfold extWritePkt
    refine keeps_extWritePkt t m _ _ _ _ _ ?_
    split
    · exact keeps_wrLE _ _ _ _ (keeps_flushHalf _ _ _ hok)
    · exact keeps_extNarrow _ _ _ _ _ _ hok

theorem keeps_windowCmd (t w op nc : Nat) (s : State) (hok : memOk s) : memOk (windowCmd t w op nc s) := by
  unfold windowCmd
  repeat' (first | with_reducible assumption | with_reducible apply keeps_wr | with_reducible apply keeps_tileError | split | (intro _ _) | (intro _) | dsimp only | (with_reducible refine keeps_mk ?_) | (with_reducible refine ok_of ?_; first | with_reducible assumption | with_reducible apply keeps_wr | with_reducible apply keeps_tileError))

theorem keeps_wrBit (f : Field) (u i : Nat) (b : Bool) (s : State) (hok : memOk s) : memOk (wrBit f u i b s) := by
  unfold wrBit
  repeat' (first | with_reducible assumption | with_reducible apply keeps_wr)

theorem keeps_setTx (t n : Nat) (e : TxEp) (s : State) (hok : memOk s) : memOk (setTx t n e s) := by
  unfold setTx
  repeat' (first | with_reducible assumption | with_reducible apply keeps_wrLE | with_reducible apply keeps_flushHalf | with_reducible apply keeps_wrBit | split | (intro _ _) | (intro _) | dsimp only | (with_reducible refine keeps_mk ?_) | (with_reducible refine ok_of ?_; first | with_reducible assumption | with_reducible apply keeps_wrLE | with_reducible apply keeps_flushHalf | with_reducible apply keeps_wrBit))

theorem keeps_setRx (t n : Nat) (e : RxEp) (s : State) (hok : memOk s) : memOk (setRx t n e s) := by
  unfold setRx
  repeat' (first | with_reducible assumption | with_reducible apply keeps_wrLE | with_reducible apply keeps_flushHalf | with_reducible apply keeps_wrBit | split | (intro _ _) | (intro _) | dsimp only | (with_reducible refine keeps_mk ?_) | (with_reducible refine ok_of ?_; first | with_reducible assumption | with_reducible apply keeps_wrLE | with_reducible apply keeps_flushHalf | with_reducible apply keeps_wrBit))

theorem keeps_sendCtl (t peer data : Nat) (s : State) (hok : memOk s) : memOk (sendCtl t peer data s) := by
  unfold sendCtl
  repeat' (first | with_reducible assumption | with_reducible apply keeps_inject)

theorem keeps_txCommand (t n w0 nc : Nat) (s : State) (hok : memOk s) : memOk (txCommand t n w0 nc s) := by
  unfold txCommand
  repeat' (first | with_reducible assumption | with_reducible apply keeps_wr | with_reducible apply keeps_tileError | with_reducible apply keeps_setTx | with_reducible apply keeps_sendCtl | split | (intro _ _) | (intro _) | dsimp only | (with_reducible refine keeps_mk ?_) | (with_reducible refine ok_of ?_; first | with_reducible assumption | with_reducible apply keeps_wr | with_reducible apply keeps_tileError | with_reducible apply keeps_setTx | with_reducible apply keeps_sendCtl))

theorem keeps_clearHead (t n : Nat) (s : State) (hok : memOk s) : memOk (clearHead t n s) := by
  unfold clearHead
  repeat' (first | with_reducible assumption | with_reducible apply keeps_wrLE | with_reducible apply keeps_flushHalf)

theorem keeps_rxCommand (t n w0 nc : Nat) (s : State) (hok : memOk s) : memOk (rxCommand t n w0 nc s) := by
  unfold rxCommand
  repeat' (first | with_reducible assumption | with_reducible apply keeps_wr | with_reducible apply keeps_tileError | with_reducible apply keeps_setRx | with_reducible apply keeps_sendCtl | with_reducible apply keeps_clearHead | split | (intro _ _) | (intro _) | dsimp only | (with_reducible refine keeps_mk ?_) | (with_reducible refine ok_of ?_; first | with_reducible assumption | with_reducible apply keeps_wr | with_reducible apply keeps_tileError | with_reducible apply keeps_setRx | with_reducible apply keeps_sendCtl | with_reducible apply keeps_clearHead))

theorem keeps_headWrite (t n h nc : Nat) (s : State) (hok : memOk s) : memOk (headWrite t n h nc s) := by
  unfold headWrite
  repeat' (first | with_reducible assumption | with_reducible apply keeps_trapNeedle | with_reducible apply keeps_setRx | with_reducible apply keeps_sendCtl | split | (intro _ _) | (intro _) | dsimp only | (with_reducible refine keeps_mk ?_) | (with_reducible refine ok_of ?_; first | with_reducible assumption | with_reducible apply keeps_trapNeedle | with_reducible apply keeps_setRx | with_reducible apply keeps_sendCtl))

theorem keeps_endpointAct (t off n nc : Nat) (s : State) (hok : memOk s) : memOk (endpointAct t off n nc s) := by
  unfold endpointAct
  repeat' (first | with_reducible assumption | with_reducible apply keeps_txCommand | with_reducible apply keeps_rxCommand | with_reducible apply keeps_headWrite | with_reducible apply keeps_foldl | with_reducible apply keeps_foldl_fst | with_reducible apply keeps_foldl_snd | split | (intro _ _) | (intro _) | dsimp only | (with_reducible refine keeps_mk ?_) | (with_reducible refine ok_of ?_; first | with_reducible assumption | with_reducible apply keeps_txCommand | with_reducible apply keeps_rxCommand | with_reducible apply keeps_headWrite | with_reducible apply keeps_foldl | with_reducible apply keeps_foldl_fst | with_reducible apply keeps_foldl_snd))

theorem keeps_engineWrite (t off n v nc : Nat) (s : State) (hok : memOk s) : memOk (engineWrite t off n v nc s).1 := by
  unfold engineWrite
  repeat' (first | with_reducible assumption | with_reducible apply keeps_trapNeedle | with_reducible apply keeps_wrLE | with_reducible apply keeps_flushRange | with_reducible apply keeps_endpointAct | split | (intro _ _) | (intro _) | dsimp only | (with_reducible refine keeps_mk ?_) | (with_reducible refine ok_of ?_; first | with_reducible assumption | with_reducible apply keeps_trapNeedle | with_reducible apply keeps_wrLE | with_reducible apply keeps_flushRange | with_reducible apply keeps_endpointAct))

theorem keeps_setAshps (t : Nat) (l : List (Nat × Nat)) (s : State) (hok : memOk s) : memOk (setAshps t l s) := by
  unfold setAshps
  repeat' (first | with_reducible assumption | with_reducible apply keeps_wr | split | (intro _ _) | (intro _) | dsimp only | (with_reducible refine keeps_mk ?_) | (with_reducible refine ok_of ?_; first | with_reducible assumption | with_reducible apply keeps_wr))

theorem keeps_ashpWaits (t nc : Nat) (s : State) (hok : memOk s) : memOk (ashpWaits t nc s) := by
  unfold ashpWaits
  repeat' (first | with_reducible assumption | with_reducible apply keeps_setAshps)

theorem keeps_ashpDone (t nc : Nat) (s : State) (hok : memOk s) : memOk (ashpDone t nc s) := by
  unfold ashpDone
  repeat' (first | with_reducible assumption | with_reducible apply keeps_setAshps)

theorem keeps_dropWaits (t nc : Nat) (s : State) (hok : memOk s) : memOk (dropWaits t nc s) := by
  unfold dropWaits
  repeat' (first | with_reducible assumption | with_reducible apply keeps_ashpDone | split | (intro _ _) | (intro _) | dsimp only | (with_reducible refine keeps_mk ?_) | (with_reducible refine ok_of ?_; first | with_reducible assumption | with_reducible apply keeps_ashpDone))

theorem keeps_outbound (t nc : Nat) (act : State → State) (s : State) (hact : ∀ s, memOk s → memOk (act s)) (hok : memOk s) : memOk (outbound t nc act s) := by
  unfold outbound
  repeat' (first | with_reducible assumption | with_reducible apply hact | split | (intro _ _) | (intro _) | dsimp only | (with_reducible refine keeps_mk ?_) | (with_reducible refine ok_of ?_; first | with_reducible assumption | with_reducible apply hact))

theorem keeps_setFlags (t nc fl : Nat) (s : State) (hok : memOk s) : memOk (setFlags t nc fl s) := by
  unfold setFlags
  repeat' (first | with_reducible assumption | with_reducible apply keeps_wrOr | split | (intro _ _) | (intro _))

theorem keeps_setRngCount (t v : Nat) (s : State) (hok : memOk s) : memOk (setRngCount t v s) := by
  unfold setRngCount
  repeat' (first | with_reducible assumption | with_reducible apply keeps_wr)

theorem keeps_gaugeCount (t : Nat) (r : GaugeRep) (s : State) (hok : memOk s) : memOk (gaugeCount t r s) := by
  unfold gaugeCount
  repeat' (first | with_reducible assumption | with_reducible apply keeps_incS)

theorem keeps_gaugePolicy (t nc pc : Nat) (r : GaugeRep) (s : State) (hok : memOk s) : memOk (gaugePolicy t nc pc r s) := by
  unfold gaugePolicy
  repeat' (first | with_reducible assumption | with_reducible apply keeps_tileFail | split | (intro _ _) | (intro _) | dsimp only | (with_reducible refine keeps_mk ?_) | (with_reducible refine ok_of ?_; first | with_reducible assumption | with_reducible apply keeps_tileFail))

theorem keeps_clearNeedle (t nc : Nat) (s : State) (hok : memOk s) : memOk (clearNeedle t nc s) := by
  unfold clearNeedle
  repeat' (first | with_reducible assumption | split | (intro _ _) | (intro _) | dsimp only | (with_reducible refine keeps_mk ?_) | (with_reducible refine ok_of ?_; first | with_reducible assumption))

theorem keeps_dropWaiters (t : Nat) (s : State) (hok : memOk s) : memOk (dropWaiters t s) := by
  unfold dropWaiters
  repeat' (first | with_reducible assumption | split | (intro _ _) | (intro _) | dsimp only | (with_reducible refine keeps_mk ?_) | (with_reducible refine ok_of ?_; first | with_reducible assumption))

theorem keeps_resetEndpoints (t : Nat) (s : State) (hok : memOk s) : memOk (resetEndpoints t s) := by
  unfold resetEndpoints
  repeat' (first | with_reducible assumption | with_reducible apply keeps_setTx | with_reducible apply keeps_setRx | with_reducible apply keeps_sendCtl | with_reducible apply keeps_foldl | with_reducible apply keeps_foldl_fst | with_reducible apply keeps_foldl_snd | split | (intro _ _) | (intro _) | dsimp only | (with_reducible refine keeps_mk ?_) | (with_reducible refine ok_of ?_; first | with_reducible assumption | with_reducible apply keeps_setTx | with_reducible apply keeps_setRx | with_reducible apply keeps_sendCtl | with_reducible apply keeps_foldl | with_reducible apply keeps_foldl_fst | with_reducible apply keeps_foldl_snd))

theorem keeps_resetTileCore (t : Nat) (s : State) (hok : memOk s) : memOk (resetTileCore t s) := by
  unfold resetTileCore
  repeat' (first | with_reducible assumption | with_reducible apply keeps_wrReset | with_reducible apply keeps_clearNeedle | with_reducible apply keeps_dropWaiters | with_reducible apply keeps_foldl | with_reducible apply keeps_foldl_fst | with_reducible apply keeps_foldl_snd | split | (intro _ _) | (intro _) | dsimp only | (with_reducible refine keeps_mk ?_) | (with_reducible refine ok_of ?_; first | with_reducible assumption | with_reducible apply keeps_wrReset | with_reducible apply keeps_clearNeedle | with_reducible apply keeps_dropWaiters | with_reducible apply keeps_foldl | with_reducible apply keeps_foldl_fst | with_reducible apply keeps_foldl_snd))

theorem keeps_resetTile (t : Nat) (s : State) (hok : memOk s) : memOk (resetTile t s) := by
  unfold resetTile
  repeat' (first | with_reducible assumption | with_reducible apply keeps_resetEndpoints | with_reducible apply keeps_resetTileCore)

end Sys2Proof.Laws
end

