-- ==== Sys2Proof/Laws/KeepOperands.lean ====
section
/-! SUPPORT. Machine/Operands.lean keeps memory in canonical form. -/

namespace Sys2Proof.Laws
open Sys2Proof.Machine

theorem keeps_trapAtPC (t nc code : Nat) (s : State) (hok : memOk s) : memOk (trapAtPC t nc code s) := by
  unfold trapAtPC
  repeat' (first | with_reducible assumption | with_reducible apply keeps_trapNeedle)

theorem keeps_issue (t : Nat) (n : Needle) (w : W64) (row ok : Bool) (act : State → State) (s : State) (hact : ∀ s, memOk s → memOk (act s)) (hok : memOk s) : memOk (issue t n w row ok act s) := by
  unfold issue
  repeat' (first | with_reducible assumption | with_reducible apply keeps_seen | with_reducible apply keeps_settle | with_reducible apply keeps_advance | with_reducible apply keeps_trapAtPC | with_reducible apply hact | split | (intro _ _) | (intro _) | dsimp only | (with_reducible refine keeps_mk ?_) | (with_reducible refine ok_of ?_; first | with_reducible assumption | with_reducible apply keeps_seen | with_reducible apply keeps_settle | with_reducible apply keeps_advance | with_reducible apply keeps_trapAtPC | with_reducible apply hact))

theorem keeps_noteUse (t purl slip cost : Nat) (s : State) (hok : memOk s) : memOk (noteUse t purl slip cost s) := by
  unfold noteUse
  repeat' (first | with_reducible assumption | split | (intro _ _) | (intro _) | dsimp only | (with_reducible refine keeps_mk ?_) | (with_reducible refine ok_of ?_; first | with_reducible assumption))

theorem keeps_granted (t : Nat) (n : Needle) (unit rq : Nat) (act : State → State) (s : State) (hact : ∀ s, memOk s → memOk (act s)) (hok : memOk s) : memOk (granted t n unit rq act s) := by
  unfold granted
  split
  · rename_i win s1 h
    have h1 : memOk s1 := keeps_arbitrate _ _ _ _ hok _ h
    have h2 := hact _ h1
    split
    · exact hok
    · split
      · exact keeps_noteUse _ _ _ _ _ h2
      · split
        · exact keeps_noteUse _ _ _ _ _ h2
        · exact h2
  · exact hok

end Sys2Proof.Laws
end

