-- ==== Sys2Proof/Laws/KeepScalar.lean ====
section
/-! SUPPORT. Machine/Scalar.lean keeps memory in canonical form. -/

namespace Sys2Proof.Laws
open Sys2Proof.Machine

theorem keeps_execIll (t : Nat) (n : Needle) (w : W64) (s : State) (hok : memOk s) : ∀ r, execIll t n w s = .next r → memOk r := by
  unfold execIll
  intro r h; injection h with h; subst h
  exact keeps_issue _ _ _ _ _ _ _ (fun _ h => h) hok

theorem keeps_readAll (t nc : Nat) (s : State) (hok : memOk s) : memOk (readAll t nc s) := by
  unfold readAll
  repeat' (first | with_reducible assumption | with_reducible apply keeps_restoreReg | with_reducible apply keeps_foldl | with_reducible apply keeps_foldl_fst | with_reducible apply keeps_foldl_snd | split | (intro _ _) | (intro _) | dsimp only | (with_reducible refine keeps_mk ?_) | (with_reducible refine ok_of ?_; first | with_reducible assumption | with_reducible apply keeps_restoreReg | with_reducible apply keeps_foldl | with_reducible apply keeps_foldl_fst | with_reducible apply keeps_foldl_snd))

theorem keeps_endEffect (t nc : Nat) (s : State) (hok : memOk s) : memOk (endEffect t nc s) := by
  unfold endEffect
  repeat' (first | with_reducible assumption | with_reducible apply keeps_wr | with_reducible apply keeps_advance | with_reducible apply keeps_readAll | split | (intro _ _) | (intro _))

theorem keeps_execEnd (t : Nat) (n : Needle) (w : W64) (s : State) (hok : memOk s) : ∀ r, execEnd t n w s = .next r → memOk r := by
  unfold execEnd
  intro r h; injection h with h; subst h
  repeat' (first | with_reducible assumption | with_reducible apply keeps_issue | with_reducible apply keeps_endEffect)

theorem keeps_brEffect (t nc : Nat) (w : W64) (s : State) (hok : memOk s) : memOk (brEffect t nc w s) := by
  unfold brEffect
  repeat' (first | with_reducible assumption | with_reducible apply keeps_setPC | with_reducible apply keeps_advance | split | (intro _ _) | (intro _))

theorem keeps_execBr (t : Nat) (n : Needle) (w : W64) (s : State) (hok : memOk s) : ∀ r, execBr t n w s = .next r → memOk r := by
  unfold execBr
  intro r h; injection h with h; subst h
  repeat' (first | with_reducible assumption | with_reducible apply keeps_issue | with_reducible apply keeps_brEffect)

theorem keeps_jrEffect (t nc : Nat) (w : W64) (s : State) (hok : memOk s) : memOk (jrEffect t nc w s) := by
  unfold jrEffect
  repeat' (first | with_reducible assumption | with_reducible apply keeps_setPC | with_reducible apply keeps_trapAtPC | split | (intro _ _) | (intro _) | dsimp only | (with_reducible refine keeps_mk ?_) | (with_reducible refine ok_of ?_; first | with_reducible assumption | with_reducible apply keeps_setPC | with_reducible apply keeps_trapAtPC))

theorem keeps_execJr (t : Nat) (n : Needle) (w : W64) (s : State) (hok : memOk s) : ∀ r, execJr t n w s = .next r → memOk r := by
  unfold execJr
  intro r h; injection h with h; subst h
  repeat' (first | with_reducible assumption | with_reducible apply keeps_issue | with_reducible apply keeps_jrEffect)

theorem keeps_scalarResult (t nc rd : Nat) (r : W32 × Nat) (s : State) (hok : memOk s) : memOk (scalarResult t nc rd r s) := by
  unfold scalarResult
  repeat' (first | with_reducible assumption | with_reducible apply keeps_setS | with_reducible apply keeps_writeReady | with_reducible apply keeps_advance | with_reducible apply keeps_setFlags)

theorem keeps_saluEffect (t nc : Nat) (w : W64) (s : State) (hok : memOk s) : memOk (saluEffect t nc w s) := by
  unfold saluEffect
  repeat' (first | with_reducible assumption | with_reducible apply keeps_scalarResult)

theorem keeps_execSalu (t : Nat) (n : Needle) (w : W64) (s : State) (hok : memOk s) : ∀ r, execSalu t n w s = .next r → memOk r := by
  unfold execSalu
  intro r h; injection h with h; subst h
  repeat' (first | with_reducible assumption | with_reducible apply keeps_issue | with_reducible apply keeps_saluEffect)

theorem keeps_saluiEffect (t nc : Nat) (w : W64) (s : State) (hok : memOk s) : memOk (saluiEffect t nc w s) := by
  unfold saluiEffect
  repeat' (first | with_reducible assumption | with_reducible apply keeps_scalarResult)

theorem keeps_execSalui (t : Nat) (n : Needle) (w : W64) (s : State) (hok : memOk s) : ∀ r, execSalui t n w s = .next r → memOk r := by
  unfold execSalui
  intro r h; injection h with h; subst h
  repeat' (first | with_reducible assumption | with_reducible apply keeps_issue | with_reducible apply keeps_saluiEffect)

theorem keeps_sflgEffect (t nc : Nat) (w : W64) (s : State) (hok : memOk s) : memOk (sflgEffect t nc w s) := by
  unfold sflgEffect
  repeat' (first | with_reducible assumption | with_reducible apply keeps_wr | with_reducible apply keeps_setS | with_reducible apply keeps_writeReady | with_reducible apply keeps_advance)

theorem keeps_execSflg (t : Nat) (n : Needle) (w : W64) (s : State) (hok : memOk s) : ∀ r, execSflg t n w s = .next r → memOk r := by
  unfold execSflg
  intro r h; injection h with h; subst h
  repeat' (first | with_reducible assumption | with_reducible apply keeps_issue | with_reducible apply keeps_sflgEffect)

theorem keeps_aaluAddEffect (t nc : Nat) (w : W64) (s : State) (hok : memOk s) : memOk (aaluAddEffect t nc w s) := by
  unfold aaluAddEffect
  repeat' (first | with_reducible assumption | with_reducible apply keeps_setA | with_reducible apply keeps_advance)

theorem keeps_execAaluAdd (t : Nat) (n : Needle) (w : W64) (s : State) (hok : memOk s) : ∀ r, execAaluAdd t n w s = .next r → memOk r := by
  unfold execAaluAdd
  intro r h; injection h with h; subst h
  repeat' (first | with_reducible assumption | with_reducible apply keeps_issue | with_reducible apply keeps_aaluAddEffect)

theorem keeps_movsaEffect (t nc : Nat) (w : W64) (s : State) (hok : memOk s) : memOk (movsaEffect t nc w s) := by
  unfold movsaEffect
  repeat' (first | with_reducible assumption | with_reducible apply keeps_setA | with_reducible apply keeps_advance)

theorem keeps_execMovsa (t : Nat) (n : Needle) (w : W64) (s : State) (hok : memOk s) : ∀ r, execMovsa t n w s = .next r → memOk r := by
  unfold execMovsa
  intro r h; injection h with h; subst h
  repeat' (first | with_reducible assumption | with_reducible apply keeps_issue | with_reducible apply keeps_movsaEffect)

theorem keeps_movloEffect (t nc : Nat) (w : W64) (s : State) (hok : memOk s) : memOk (movloEffect t nc w s) := by
  unfold movloEffect
  repeat' (first | with_reducible assumption | with_reducible apply keeps_scalarResult)

theorem keeps_execMovlo (t : Nat) (n : Needle) (w : W64) (s : State) (hok : memOk s) : ∀ r, execMovlo t n w s = .next r → memOk r := by
  unfold execMovlo
  intro r h; injection h with h; subst h
  repeat' (first | with_reducible assumption | with_reducible apply keeps_issue | with_reducible apply keeps_movloEffect)

theorem keeps_movhiEffect (t nc : Nat) (w : W64) (s : State) (hok : memOk s) : memOk (movhiEffect t nc w s) := by
  unfold movhiEffect
  repeat' (first | with_reducible assumption | with_reducible apply keeps_scalarResult)

theorem keeps_execMovhi (t : Nat) (n : Needle) (w : W64) (s : State) (hok : memOk s) : ∀ r, execMovhi t n w s = .next r → memOk r := by
  unfold execMovhi
  intro r h; injection h with h; subst h
  repeat' (first | with_reducible assumption | with_reducible apply keeps_issue | with_reducible apply keeps_movhiEffect)

theorem keeps_aaluiEffect (t nc : Nat) (w : W64) (s : State) (hok : memOk s) : memOk (aaluiEffect t nc w s) := by
  unfold aaluiEffect
  repeat' (first | with_reducible assumption | with_reducible apply keeps_setA | with_reducible apply keeps_advance)

theorem keeps_execAalui (t : Nat) (n : Needle) (w : W64) (s : State) (hok : memOk s) : ∀ r, execAalui t n w s = .next r → memOk r := by
  unfold execAalui
  intro r h; injection h with h; subst h
  repeat' (first | with_reducible assumption | with_reducible apply keeps_issue | with_reducible apply keeps_aaluiEffect)

theorem keeps_ldEffect (t nc : Nat) (w : W64) (s : State) (hok : memOk s) : memOk (ldEffect t nc w s) := by
  unfold ldEffect
  repeat' (first | with_reducible assumption | with_reducible apply keeps_refuseTile | with_reducible apply keeps_setS | with_reducible apply keeps_writeReady | with_reducible apply keeps_advance | split | (intro _ _) | (intro _) | dsimp only | (with_reducible refine keeps_mk ?_) | (with_reducible refine ok_of ?_; first | with_reducible assumption | with_reducible apply keeps_refuseTile | with_reducible apply keeps_setS | with_reducible apply keeps_writeReady | with_reducible apply keeps_advance))

theorem keeps_execLd (t : Nat) (n : Needle) (w : W64) (rq : Nat) (s : State) (hok : memOk s) : ∀ r, execLd t n w rq s = .next r → memOk r := by
  unfold execLd
  intro r h; injection h with h; subst h
  repeat' (first | with_reducible assumption | with_reducible apply keeps_issue | with_reducible apply keeps_granted | with_reducible apply keeps_ldEffect | split | (intro _ _) | (intro _))

theorem keeps_stEffect (t nc : Nat) (w : W64) (s : State) (hok : memOk s) : memOk (stEffect t nc w s) := by
  unfold stEffect
  repeat' (first | with_reducible assumption | with_reducible apply keeps_refuseTile | with_reducible apply keeps_advance | with_reducible apply keeps_engineWrite | split | (intro _ _) | (intro _) | dsimp only | (with_reducible refine keeps_mk ?_) | (with_reducible refine ok_of ?_; first | with_reducible assumption | with_reducible apply keeps_refuseTile | with_reducible apply keeps_advance | with_reducible apply keeps_engineWrite))

theorem keeps_execSt (t : Nat) (n : Needle) (w : W64) (rq : Nat) (s : State) (hok : memOk s) : ∀ r, execSt t n w rq s = .next r → memOk r := by
  unfold execSt
  intro r h; injection h with h; subst h
  repeat' (first | with_reducible assumption | with_reducible apply keeps_issue | with_reducible apply keeps_granted | with_reducible apply keeps_stEffect | split | (intro _ _) | (intro _))

theorem keeps_ldvEffect (t nc : Nat) (w : W64) (s : State) (hok : memOk s) : memOk (ldvEffect t nc w s) := by
  unfold ldvEffect
  repeat' (first | with_reducible assumption | with_reducible apply keeps_flushRange | with_reducible apply keeps_refuseTile | with_reducible apply keeps_setVec | with_reducible apply keeps_writeReady | with_reducible apply keeps_advance | split | (intro _ _) | (intro _) | dsimp only | (with_reducible refine keeps_mk ?_) | (with_reducible refine ok_of ?_; first | with_reducible assumption | with_reducible apply keeps_flushRange | with_reducible apply keeps_refuseTile | with_reducible apply keeps_setVec | with_reducible apply keeps_writeReady | with_reducible apply keeps_advance))

theorem keeps_execLdv (t : Nat) (n : Needle) (w : W64) (rq : Nat) (s : State) (hok : memOk s) : ∀ r, execLdv t n w rq s = .next r → memOk r := by
  unfold execLdv
  intro r h; injection h with h; subst h
  repeat' (first | with_reducible assumption | with_reducible apply keeps_issue | with_reducible apply keeps_granted | with_reducible apply keeps_ldvEffect | split | (intro _ _) | (intro _))

theorem keeps_stvEffect (t nc : Nat) (w : W64) (s : State) (hok : memOk s) : memOk (stvEffect t nc w s) := by
  unfold stvEffect
  repeat' (first | with_reducible assumption | with_reducible apply keeps_refuseTile | with_reducible apply keeps_advance | with_reducible apply keeps_engineWrite | split | (intro _ _) | (intro _) | dsimp only | (with_reducible refine keeps_mk ?_) | (with_reducible refine ok_of ?_; first | with_reducible assumption | with_reducible apply keeps_refuseTile | with_reducible apply keeps_advance | with_reducible apply keeps_engineWrite))

theorem keeps_execStv (t : Nat) (n : Needle) (w : W64) (rq : Nat) (s : State) (hok : memOk s) : ∀ r, execStv t n w rq s = .next r → memOk r := by
  unfold execStv
  intro r h; injection h with h; subst h
  repeat' (first | with_reducible assumption | with_reducible apply keeps_issue | with_reducible apply keeps_granted | with_reducible apply keeps_stvEffect | split | (intro _ _) | (intro _))

end Sys2Proof.Laws
end

