-- ==== Sys2Proof/Laws/KeepVector.lean ====
section
/-! SUPPORT. Machine/Vector.lean keeps memory in canonical form. -/

namespace Sys2Proof.Laws
open Sys2Proof.Machine

theorem keeps_laneResult (t nc : Nat) (w : W64) (f : Nat → Nat × Nat) (s : State) (hok : memOk s) : memOk (laneResult t nc w f s) := by
  unfold laneResult
  repeat' (first | with_reducible assumption | with_reducible apply keeps_setLanes | with_reducible apply keeps_writeReady | with_reducible apply keeps_advance | with_reducible apply keeps_setFlags)

theorem keeps_vfpEffect (op : Rnd → Nat → Nat → Nat → Nat × Nat) (t nc : Nat) (w : W64) (s : State) (hok : memOk s) : memOk (vfpEffect op t nc w s) := by
  unfold vfpEffect
  repeat' (first | with_reducible assumption | with_reducible apply keeps_laneResult)

theorem keeps_vcmpEffect (op : FVal → FVal → Bool × Nat) (t nc : Nat) (w : W64) (s : State) (hok : memOk s) : memOk (vcmpEffect op t nc w s) := by
  unfold vcmpEffect
  repeat' (first | with_reducible assumption | with_reducible apply keeps_setP | with_reducible apply keeps_writeReady | with_reducible apply keeps_advance | with_reducible apply keeps_setFlags | split | (intro _ _) | (intro _))

theorem keeps_issueVfp (fn : Nat) (eff : Nat → Nat → W64 → State → State) (t : Nat) (n : Needle) (w : W64) (rq : Nat) (s : State) (heff : ∀ a0 a1 a2 s, memOk s → memOk (eff a0 a1 a2 s)) (hok : memOk s) : memOk (issueVfp fn eff t n w rq s) := by
  unfold issueVfp
  repeat' (first | with_reducible assumption | with_reducible apply keeps_issue | with_reducible apply keeps_granted | with_reducible apply heff | split | (intro _ _) | (intro _))

theorem keeps_execFadd (t : Nat) (n : Needle) (w : W64) (rq : Nat) (s : State) (hok : memOk s) : ∀ r, execFadd t n w rq s = .next r → memOk r := by
  unfold execFadd
  intro r h; injection h with h; subst h
  repeat' (first | with_reducible assumption | with_reducible apply keeps_vfpEffect | with_reducible apply keeps_issueVfp)

theorem keeps_execFsub (t : Nat) (n : Needle) (w : W64) (rq : Nat) (s : State) (hok : memOk s) : ∀ r, execFsub t n w rq s = .next r → memOk r := by
  unfold execFsub
  intro r h; injection h with h; subst h
  repeat' (first | with_reducible assumption | with_reducible apply keeps_vfpEffect | with_reducible apply keeps_issueVfp)

theorem keeps_execFmul (t : Nat) (n : Needle) (w : W64) (rq : Nat) (s : State) (hok : memOk s) : ∀ r, execFmul t n w rq s = .next r → memOk r := by
  unfold execFmul
  intro r h; injection h with h; subst h
  repeat' (first | with_reducible assumption | with_reducible apply keeps_vfpEffect | with_reducible apply keeps_issueVfp)

theorem keeps_execFma (t : Nat) (n : Needle) (w : W64) (rq : Nat) (s : State) (hok : memOk s) : ∀ r, execFma t n w rq s = .next r → memOk r := by
  unfold execFma
  intro r h; injection h with h; subst h
  repeat' (first | with_reducible assumption | with_reducible apply keeps_vfpEffect | with_reducible apply keeps_issueVfp)

theorem keeps_execFmin (t : Nat) (n : Needle) (w : W64) (rq : Nat) (s : State) (hok : memOk s) : ∀ r, execFmin t n w rq s = .next r → memOk r := by
  unfold execFmin
  intro r h; injection h with h; subst h
  repeat' (first | with_reducible assumption | with_reducible apply keeps_vfpEffect | with_reducible apply keeps_issueVfp)

theorem keeps_execFmax (t : Nat) (n : Needle) (w : W64) (rq : Nat) (s : State) (hok : memOk s) : ∀ r, execFmax t n w rq s = .next r → memOk r := by
  unfold execFmax
  intro r h; injection h with h; subst h
  repeat' (first | with_reducible assumption | with_reducible apply keeps_vfpEffect | with_reducible apply keeps_issueVfp)

theorem keeps_execFcmpeq (t : Nat) (n : Needle) (w : W64) (rq : Nat) (s : State) (hok : memOk s) : ∀ r, execFcmpeq t n w rq s = .next r → memOk r := by
  unfold execFcmpeq
  intro r h; injection h with h; subst h
  repeat' (first | with_reducible assumption | with_reducible apply keeps_vcmpEffect | with_reducible apply keeps_issueVfp)

theorem keeps_execFcmplt (t : Nat) (n : Needle) (w : W64) (rq : Nat) (s : State) (hok : memOk s) : ∀ r, execFcmplt t n w rq s = .next r → memOk r := by
  unfold execFcmplt
  intro r h; injection h with h; subst h
  repeat' (first | with_reducible assumption | with_reducible apply keeps_vcmpEffect | with_reducible apply keeps_issueVfp)

theorem keeps_execFcmple (t : Nat) (n : Needle) (w : W64) (rq : Nat) (s : State) (hok : memOk s) : ∀ r, execFcmple t n w rq s = .next r → memOk r := by
  unfold execFcmple
  intro r h; injection h with h; subst h
  repeat' (first | with_reducible assumption | with_reducible apply keeps_vcmpEffect | with_reducible apply keeps_issueVfp)

theorem keeps_execFneg (t : Nat) (n : Needle) (w : W64) (rq : Nat) (s : State) (hok : memOk s) : ∀ r, execFneg t n w rq s = .next r → memOk r := by
  unfold execFneg
  intro r h; injection h with h; subst h
  repeat' (first | with_reducible assumption | with_reducible apply keeps_vfpEffect | with_reducible apply keeps_issueVfp)

theorem keeps_execFabs (t : Nat) (n : Needle) (w : W64) (rq : Nat) (s : State) (hok : memOk s) : ∀ r, execFabs t n w rq s = .next r → memOk r := by
  unfold execFabs
  intro r h; injection h with h; subst h
  repeat' (first | with_reducible assumption | with_reducible apply keeps_vfpEffect | with_reducible apply keeps_issueVfp)

theorem keeps_vintEffect (t nc : Nat) (w : W64) (s : State) (hok : memOk s) : memOk (vintEffect t nc w s) := by
  unfold vintEffect
  repeat' (first | with_reducible assumption | with_reducible apply keeps_laneResult)

theorem keeps_execVint (t : Nat) (n : Needle) (w : W64) (rq : Nat) (s : State) (hok : memOk s) : ∀ r, execVint t n w rq s = .next r → memOk r := by
  unfold execVint
  intro r h; injection h with h; subst h
  repeat' (first | with_reducible assumption | with_reducible apply keeps_issue | with_reducible apply keeps_granted | with_reducible apply keeps_vintEffect | split | (intro _ _) | (intro _))

theorem keeps_vbcEffect (t nc : Nat) (w : W64) (s : State) (hok : memOk s) : memOk (vbcEffect t nc w s) := by
  unfold vbcEffect
  repeat' (first | with_reducible assumption | with_reducible apply keeps_laneResult)

theorem keeps_execVbc (t : Nat) (n : Needle) (w : W64) (rq : Nat) (s : State) (hok : memOk s) : ∀ r, execVbc t n w rq s = .next r → memOk r := by
  unfold execVbc
  intro r h; injection h with h; subst h
  repeat' (first | with_reducible assumption | with_reducible apply keeps_issue | with_reducible apply keeps_granted | with_reducible apply keeps_vbcEffect | split | (intro _ _) | (intro _))

theorem keeps_cvtNarrow (t nc : Nat) (w : W64) (s : State) (hok : memOk s) : memOk (cvtNarrow t nc w s) := by
  unfold cvtNarrow
  repeat' (first | with_reducible assumption | with_reducible apply keeps_setVec | with_reducible apply keeps_writeReady | with_reducible apply keeps_advance | with_reducible apply keeps_setFlags | with_reducible apply keeps_setRngCount | with_reducible apply keeps_gaugeCount | with_reducible apply keeps_gaugePolicy | split | (intro _ _) | (intro _))

theorem keeps_cvtWiden (t nc : Nat) (w : W64) (s : State) (hok : memOk s) : memOk (cvtWiden t nc w s) := by
  unfold cvtWiden
  repeat' (first | with_reducible assumption | with_reducible apply keeps_setLanes | with_reducible apply keeps_writeReady | with_reducible apply keeps_advance | with_reducible apply keeps_setFlags)

theorem keeps_execCvt (t : Nat) (n : Needle) (w : W64) (rq : Nat) (s : State) (hok : memOk s) : ∀ r, execCvt t n w rq s = .next r → memOk r := by
  unfold execCvt
  intro r h; injection h with h; subst h
  repeat' (first | with_reducible assumption | with_reducible apply keeps_issue | with_reducible apply keeps_granted | with_reducible apply keeps_cvtNarrow | with_reducible apply keeps_cvtWiden | split | (intro _ _) | (intro _))

theorem keeps_repackEffect (f : Nat → Nat) (t nc : Nat) (w : W64) (s : State) (hok : memOk s) : memOk (repackEffect f t nc w s) := by
  unfold repackEffect
  repeat' (first | with_reducible assumption | with_reducible apply keeps_setVec | with_reducible apply keeps_writeReady | with_reducible apply keeps_advance)

theorem keeps_execZ4Unpack (t : Nat) (n : Needle) (w : W64) (rq : Nat) (s : State) (hok : memOk s) : ∀ r, execZ4Unpack t n w rq s = .next r → memOk r := by
  unfold execZ4Unpack
  intro r h; injection h with h; subst h
  repeat' (first | with_reducible assumption | with_reducible apply keeps_issue | with_reducible apply keeps_granted | with_reducible apply keeps_repackEffect | split | (intro _ _) | (intro _))

theorem keeps_execZ4Pack (t : Nat) (n : Needle) (w : W64) (rq : Nat) (s : State) (hok : memOk s) : ∀ r, execZ4Pack t n w rq s = .next r → memOk r := by
  unfold execZ4Pack
  intro r h; injection h with h; subst h
  repeat' (first | with_reducible assumption | with_reducible apply keeps_issue | with_reducible apply keeps_granted | with_reducible apply keeps_repackEffect | split | (intro _ _) | (intro _))

theorem keeps_runResult (t nc : Nat) (w : W64) (s : State) (hok : memOk s) : memOk (runResult t nc w s) := by
  unfold runResult
  repeat' (first | with_reducible assumption | with_reducible apply keeps_setLanes | with_reducible apply keeps_setP | with_reducible apply keeps_writeReady | with_reducible apply keeps_advance | with_reducible apply keeps_setFlags | with_reducible apply keeps_setRngCount | split | (intro _ _) | (intro _) | dsimp only | (with_reducible refine keeps_mk ?_) | (with_reducible refine ok_of ?_; first | with_reducible assumption | with_reducible apply keeps_setLanes | with_reducible apply keeps_setP | with_reducible apply keeps_writeReady | with_reducible apply keeps_advance | with_reducible apply keeps_setFlags | with_reducible apply keeps_setRngCount))

theorem keeps_prunEffect (t nc : Nat) (w : W64) (s : State) (hok : memOk s) : memOk (prunEffect t nc w s) := by
  unfold prunEffect
  repeat' (first | with_reducible assumption | with_reducible apply keeps_trapAtPC | with_reducible apply keeps_runResult | split | (intro _ _) | (intro _))

theorem keeps_execPrun (t : Nat) (n : Needle) (w : W64) (rq : Nat) (s : State) (hok : memOk s) : ∀ r, execPrun t n w rq s = .next r → memOk r := by
  unfold execPrun
  intro r h; injection h with h; subst h
  repeat' (first | with_reducible assumption | with_reducible apply keeps_issue | with_reducible apply keeps_granted | with_reducible apply keeps_prunEffect | split | (intro _ _) | (intro _))

end Sys2Proof.Laws
end

