-- ==== Sys2Proof/Laws/KeepArray.lean ====
section
/-! SUPPORT. Machine/Array.lean keeps memory in canonical form. -/

namespace Sys2Proof.Laws
open Sys2Proof.Machine

theorem keeps_putFlight (t nc : Nat) (slv : Bool) (fl : Nat) (vals : List (Nat × W32)) (s : State) (hok : memOk s) : memOk (putFlight t nc slv fl vals s) := by
  unfold putFlight
  repeat' (first | with_reducible assumption | with_reducible apply keeps_foldl | with_reducible apply keeps_foldl_fst | with_reducible apply keeps_foldl_snd | split | (intro _ _) | (intro _) | dsimp only | (with_reducible refine keeps_mk ?_) | (with_reducible refine ok_of ?_; first | with_reducible assumption | with_reducible apply keeps_foldl | with_reducible apply keeps_foldl_fst | with_reducible apply keeps_foldl_snd))

theorem keeps_putLatches (ls : List (Nat × Nat)) (s : State) (hok : memOk s) : memOk (putLatches ls s) := by
  unfold putLatches
  repeat' (first | with_reducible assumption | with_reducible apply keeps_foldl | with_reducible apply keeps_foldl_fst | with_reducible apply keeps_foldl_snd | split | (intro _ _) | (intro _) | dsimp only | (with_reducible refine keeps_mk ?_) | (with_reducible refine ok_of ?_; first | with_reducible assumption | with_reducible apply keeps_foldl | with_reducible apply keeps_foldl_fst | with_reducible apply keeps_foldl_snd))

theorem keeps_awlEffect (t nc : Nat) (w : W64) (s : State) (hok : memOk s) : memOk (awlEffect t nc w s) := by
  unfold awlEffect
  repeat' (first | with_reducible assumption | with_reducible apply keeps_wr | with_reducible apply keeps_refuseTile | with_reducible apply keeps_advance | with_reducible apply keeps_trapAtPC | split | (intro _ _) | (intro _) | dsimp only | (with_reducible refine keeps_mk ?_) | (with_reducible refine ok_of ?_; first | with_reducible assumption | with_reducible apply keeps_wr | with_reducible apply keeps_refuseTile | with_reducible apply keeps_advance | with_reducible apply keeps_trapAtPC))

theorem keeps_issueAwl (mode : Nat) (t : Nat) (n : Needle) (w : W64) (rq : Nat) (s : State) (hok : memOk s) : memOk (issueAwl mode t n w rq s) := by
  unfold issueAwl
  repeat' (first | with_reducible assumption | with_reducible apply keeps_issue | with_reducible apply keeps_granted | with_reducible apply keeps_awlEffect | split | (intro _ _) | (intro _))

theorem keeps_execAwl (t : Nat) (n : Needle) (w : W64) (rq : Nat) (s : State) (hok : memOk s) : ∀ r, execAwl t n w rq s = .next r → memOk r := by
  unfold execAwl
  intro r h; injection h with h; subst h
  repeat' (first | with_reducible assumption | with_reducible apply keeps_issueAwl)

theorem keeps_execAwlExact (t : Nat) (n : Needle) (w : W64) (rq : Nat) (s : State) (hok : memOk s) : ∀ r, execAwlExact t n w rq s = .next r → memOk r := by
  unfold execAwlExact
  intro r h; injection h with h; subst h
  repeat' (first | with_reducible assumption | with_reducible apply keeps_issueAwl)

theorem keeps_execAwlReblock (t : Nat) (n : Needle) (w : W64) (rq : Nat) (s : State) (hok : memOk s) : ∀ r, execAwlReblock t n w rq s = .next r → memOk r := by
  unfold execAwlReblock
  intro r h; injection h with h; subst h
  repeat' (first | with_reducible assumption | with_reducible apply keeps_issueAwl)

theorem keeps_putImage (t b : Nat) : ∀ (off n v : Nat) (s : State), memOk s → memOk (putImage t b off n v s)
  | _, 0, _, _, hok => hok
  | off, n + 1, v, s, hok => by
    unfold putImage
    exact keeps_putImage t b _ _ _ _ (keeps_mk (ok_of hok))

theorem keeps_finishLoad (x : WLoad) (s : State) (hok : memOk s) : memOk (finishLoad x s) := by
  unfold finishLoad
  repeat' (first | with_reducible assumption | with_reducible apply keeps_flushRange | with_reducible apply keeps_setFlags | with_reducible apply keeps_gaugeCount | with_reducible apply keeps_gaugePolicy | with_reducible apply keeps_putImage | split | (intro _ _) | (intro _))

theorem keeps_weightLoadDone (t : Nat) (s : State) (hok : memOk s) : memOk (weightLoadDone t s) := by
  unfold weightLoadDone
  repeat' (first | with_reducible assumption | with_reducible apply keeps_wr | with_reducible apply keeps_finishLoad | split | (intro _ _) | (intro _) | dsimp only | (with_reducible refine keeps_mk ?_) | (with_reducible refine ok_of ?_; first | with_reducible assumption | with_reducible apply keeps_wr | with_reducible apply keeps_finishLoad))

theorem keeps_execWeightLoadComplete (t : Nat) (s : State) (hok : memOk s) : ∀ r, execWeightLoadComplete t s = .next r → memOk r := by
  unfold execWeightLoadComplete
  intro r h; injection h with h; subst h
  repeat' (first | with_reducible assumption | with_reducible apply keeps_weightLoadDone)

theorem keeps_ammEffect (t nc : Nat) (w : W64) (s : State) (hok : memOk s) : memOk (ammEffect t nc w s) := by
  unfold ammEffect
  repeat' (first | with_reducible assumption | with_reducible apply keeps_incM | with_reducible apply keeps_flushRange | with_reducible apply keeps_refuseTile | with_reducible apply keeps_advance | with_reducible apply keeps_trapAtPC | with_reducible apply keeps_noteUse | with_reducible apply keeps_putFlight | with_reducible apply keeps_putLatches | split | (intro _ _) | (intro _) | dsimp only | (with_reducible refine keeps_mk ?_) | (with_reducible refine ok_of ?_; first | with_reducible assumption | with_reducible apply keeps_incM | with_reducible apply keeps_flushRange | with_reducible apply keeps_refuseTile | with_reducible apply keeps_advance | with_reducible apply keeps_trapAtPC | with_reducible apply keeps_noteUse | with_reducible apply keeps_putFlight | with_reducible apply keeps_putLatches))

theorem keeps_execAmm (t : Nat) (n : Needle) (w : W64) (rq : Nat) (s : State) (hok : memOk s) : ∀ r, execAmm t n w rq s = .next r → memOk r := by
  unfold execAmm
  intro r h; injection h with h; subst h
  repeat' (first | with_reducible assumption | with_reducible apply keeps_issue | with_reducible apply keeps_granted | with_reducible apply keeps_ammEffect | split | (intro _ _) | (intro _))

theorem keeps_arrayReady (t : Nat) (slv : Bool) (s : State) (hok : memOk s) : memOk (arrayReady t slv s) := by
  unfold arrayReady
  repeat' (first | with_reducible assumption | with_reducible apply keeps_setFlags | with_reducible apply keeps_foldl | with_reducible apply keeps_foldl_fst | with_reducible apply keeps_foldl_snd | split | (intro _ _) | (intro _) | dsimp only | (with_reducible refine keeps_mk ?_) | (with_reducible refine ok_of ?_; first | with_reducible assumption | with_reducible apply keeps_setFlags | with_reducible apply keeps_foldl | with_reducible apply keeps_foldl_fst | with_reducible apply keeps_foldl_snd))

theorem keeps_execArrayResultReady (a : ArrayOut) (s : State) (hok : memOk s) : ∀ r, execArrayResultReady a s = .next r → memOk r := by
  unfold execArrayResultReady
  intro r h; injection h with h; subst h
  repeat' (first | with_reducible assumption | with_reducible apply keeps_arrayReady)

theorem keeps_adrRow (fn t nc row off : Nat) (s : State) (hok : memOk s) : memOk (adrRow fn t nc row off s) := by
  unfold adrRow
  repeat' (first | with_reducible assumption | with_reducible apply keeps_engineWrite | with_reducible apply keeps_setFlags | with_reducible apply keeps_foldl)

theorem keeps_adrConvRow (t nc : Nat) (w : W64) (i off : Nat) (sr : State × GaugeRep) (hsr : memOk sr.1) : memOk (adrConvRow t nc w i off sr).1 := by
  unfold adrConvRow
  repeat' (first | with_reducible assumption | with_reducible apply keeps_engineWrite | with_reducible apply keeps_setFlags | with_reducible apply keeps_setRngCount | split | (intro _ _) | (intro _))

theorem keeps_adrEffect (t nc : Nat) (w : W64) (s : State) (hok : memOk s) : memOk (adrEffect t nc w s) := by
  unfold adrEffect
  repeat' (first | with_reducible assumption | with_reducible apply keeps_refuseTile | with_reducible apply keeps_advance | with_reducible apply keeps_gaugeCount | with_reducible apply keeps_gaugePolicy | with_reducible apply keeps_trapAtPC | with_reducible apply keeps_adrRow | with_reducible apply keeps_adrConvRow | with_reducible apply keeps_foldl | with_reducible apply keeps_foldl_fst | with_reducible apply keeps_foldl_snd | split | (intro _ _) | (intro _) | dsimp only | (with_reducible refine keeps_mk ?_) | (with_reducible refine ok_of ?_; first | with_reducible assumption | with_reducible apply keeps_refuseTile | with_reducible apply keeps_advance | with_reducible apply keeps_gaugeCount | with_reducible apply keeps_gaugePolicy | with_reducible apply keeps_trapAtPC | with_reducible apply keeps_adrRow | with_reducible apply keeps_adrConvRow | with_reducible apply keeps_foldl | with_reducible apply keeps_foldl_fst | with_reducible apply keeps_foldl_snd))

theorem keeps_issueAdr (fn : Nat) (t : Nat) (n : Needle) (w : W64) (rq : Nat) (s : State) (hok : memOk s) : memOk (issueAdr fn t n w rq s) := by
  unfold issueAdr
  repeat' (first | with_reducible assumption | with_reducible apply keeps_issue | with_reducible apply keeps_granted | with_reducible apply keeps_adrEffect | split | (intro _ _) | (intro _))

theorem keeps_execAdrStore (t : Nat) (n : Needle) (w : W64) (rq : Nat) (s : State) (hok : memOk s) : ∀ r, execAdrStore t n w rq s = .next r → memOk r := by
  unfold execAdrStore
  intro r h; injection h with h; subst h
  repeat' (first | with_reducible assumption | with_reducible apply keeps_issueAdr)

theorem keeps_execAdrAdd (t : Nat) (n : Needle) (w : W64) (rq : Nat) (s : State) (hok : memOk s) : ∀ r, execAdrAdd t n w rq s = .next r → memOk r := by
  unfold execAdrAdd
  intro r h; injection h with h; subst h
  repeat' (first | with_reducible assumption | with_reducible apply keeps_issueAdr)

theorem keeps_execAdrConvert (t : Nat) (n : Needle) (w : W64) (rq : Nat) (s : State) (hok : memOk s) : ∀ r, execAdrConvert t n w rq s = .next r → memOk r := by
  unfold execAdrConvert
  intro r h; injection h with h; subst h
  repeat' (first | with_reducible assumption | with_reducible apply keeps_issueAdr)

theorem keeps_ashpEffect (t nc : Nat) (w : W64) (s : State) (hok : memOk s) : memOk (ashpEffect t nc w s) := by
  unfold ashpEffect
  repeat' (first | with_reducible assumption | with_reducible apply keeps_wr | with_reducible apply keeps_advance | split | (intro _ _) | (intro _))

theorem keeps_execAshp (t : Nat) (n : Needle) (w : W64) (rq : Nat) (s : State) (hok : memOk s) : ∀ r, execAshp t n w rq s = .next r → memOk r := by
  unfold execAshp
  intro r h; injection h with h; subst h
  repeat' (first | with_reducible assumption | with_reducible apply keeps_ashpWaits | with_reducible apply keeps_ashpDone | with_reducible apply keeps_issue | with_reducible apply keeps_granted | with_reducible apply keeps_ashpEffect | split | (intro _ _) | (intro _))

theorem keeps_slvEffect (t nc : Nat) (w : W64) (s : State) (hok : memOk s) : memOk (slvEffect t nc w s) := by
  unfold slvEffect
  repeat' (first | with_reducible assumption | with_reducible apply keeps_incM | with_reducible apply keeps_flushRange | with_reducible apply keeps_refuseTile | with_reducible apply keeps_advance | with_reducible apply keeps_trapAtPC | with_reducible apply keeps_noteUse | with_reducible apply keeps_putFlight | with_reducible apply keeps_putLatches | split | (intro _ _) | (intro _) | dsimp only | (with_reducible refine keeps_mk ?_) | (with_reducible refine ok_of ?_; first | with_reducible assumption | with_reducible apply keeps_incM | with_reducible apply keeps_flushRange | with_reducible apply keeps_refuseTile | with_reducible apply keeps_advance | with_reducible apply keeps_trapAtPC | with_reducible apply keeps_noteUse | with_reducible apply keeps_putFlight | with_reducible apply keeps_putLatches))

theorem keeps_execSlv (t : Nat) (n : Needle) (w : W64) (rq : Nat) (s : State) (hok : memOk s) : ∀ r, execSlv t n w rq s = .next r → memOk r := by
  unfold execSlv
  intro r h; injection h with h; subst h
  repeat' (first | with_reducible assumption | with_reducible apply keeps_issue | with_reducible apply keeps_granted | with_reducible apply keeps_slvEffect | split | (intro _ _) | (intro _))

end Sys2Proof.Laws
end

