-- ==== Sys2Proof/Laws/KeepSync.lean ====
section
/-! SUPPORT. Machine/Sync.lean keeps memory in canonical form. -/

namespace Sys2Proof.Laws
open Sys2Proof.Machine

theorem keeps_setCount (ph v : Nat) (s : State) (hok : memOk s) : memOk (setCount ph v s) := by
  unfold setCount
  repeat' (first | with_reducible assumption | with_reducible apply keeps_wr)

theorem keeps_releaseWaiters (p : Waiter → Bool) (s : State) (hok : memOk s) : memOk (releaseWaiters p s) := by
  unfold releaseWaiters
  repeat' (first | with_reducible assumption | split | (intro _ _) | (intro _) | dsimp only | (with_reducible refine keeps_mk ?_) | (with_reducible refine ok_of ?_; first | with_reducible assumption))

theorem keeps_addStitch (ph k : Nat) (s : State) (hok : memOk s) : memOk (addStitch ph k s) := by
  unfold addStitch
  repeat' (first | with_reducible assumption | with_reducible apply keeps_wr | with_reducible apply keeps_setCount | with_reducible apply keeps_releaseWaiters | split | (intro _ _) | (intro _))

theorem keeps_groupDone (g : Nat) (s : State) (hok : memOk s) : memOk (groupDone g s) := by
  unfold groupDone
  repeat' (first | with_reducible assumption | with_reducible apply keeps_landPkt | split | (intro _ _) | (intro _))

theorem keeps_applyOp (o : StOp) (s : State) (hok : memOk s) : memOk (applyOp o s) := by
  unfold applyOp
  repeat' (first | with_reducible assumption | with_reducible apply keeps_raise | with_reducible apply keeps_addStitch | with_reducible apply keeps_groupDone | split | (intro _ _) | (intro _))

theorem keeps_execStitchAddition (i : Nat) (s : State) (hok : memOk s) : ∀ r, execStitchAddition i s = .next r → memOk r := by
  unfold execStitchAddition
  intro r h; injection h with h; subst h
  repeat' (first | with_reducible assumption | with_reducible apply keeps_applyOp | split | (intro _ _) | (intro _) | dsimp only | (with_reducible refine keeps_mk ?_) | (with_reducible refine ok_of ?_; first | with_reducible assumption | with_reducible apply keeps_applyOp))

theorem keeps_bankWait (w : Waiter) (s : State) (hok : memOk s) : memOk (bankWait w s).2 := by
  unfold bankWait
  repeat' (first | with_reducible assumption | with_reducible apply keeps_wr | with_reducible apply keeps_setCount | split | (intro _ _) | (intro _) | dsimp only | (with_reducible refine keeps_mk ?_) | (with_reducible refine ok_of ?_; first | with_reducible assumption | with_reducible apply keeps_wr | with_reducible apply keeps_setCount))

theorem keeps_sigEffect (t nc : Nat) (w : W64) (s : State) (hok : memOk s) : memOk (sigEffect t nc w s) := by
  unfold sigEffect
  repeat' (first | with_reducible assumption | with_reducible apply keeps_sendStitch | with_reducible apply keeps_advance | split | (intro _ _) | (intro _) | dsimp only | (with_reducible refine keeps_mk ?_) | (with_reducible refine ok_of ?_; first | with_reducible assumption | with_reducible apply keeps_sendStitch | with_reducible apply keeps_advance))

theorem keeps_execSig (t : Nat) (n : Needle) (w : W64) (s : State) (hok : memOk s) : ∀ r, execSig t n w s = .next r → memOk r := by
  unfold execSig
  intro r h; injection h with h; subst h
  repeat' (first | with_reducible assumption | with_reducible apply keeps_issue | with_reducible apply keeps_sigEffect)

theorem keeps_waitEffect (kind : WaitKind) (t nc : Nat) (w : W64) (s : State) (hok : memOk s) : memOk (waitEffect kind t nc w s) := by
  unfold waitEffect
  repeat' (first | with_reducible assumption | (with_reducible refine of_fst (by with_reducible assumption) ?_) | (with_reducible refine of_snd (by with_reducible assumption) ?_) | with_reducible apply keeps_wr | with_reducible apply keeps_raise | with_reducible apply keeps_enterTrap | with_reducible apply keeps_advance | with_reducible apply keeps_bankWait | split | (intro _ _) | (intro _) | dsimp only | (with_reducible refine keeps_mk ?_) | (with_reducible refine ok_of ?_; first | with_reducible assumption | with_reducible apply keeps_wr | with_reducible apply keeps_raise | with_reducible apply keeps_enterTrap | with_reducible apply keeps_advance | with_reducible apply keeps_bankWait | split | dsimp only | (with_reducible apply of_fst; with_reducible assumption) | (with_reducible apply of_snd; with_reducible assumption)) | (with_reducible refine ok_mem ?_) | (with_reducible refine ok_host ?_) | (with_reducible refine ok_filter ?_) | (with_reducible refine ok_clear ?_) | (with_reducible refine ok_mem_fold ?_))

theorem keeps_execWaitObserve (t : Nat) (n : Needle) (w : W64) (s : State) (hok : memOk s) : ∀ r, execWaitObserve t n w s = .next r → memOk r := by
  unfold execWaitObserve
  intro r h; injection h with h; subst h
  repeat' (first | with_reducible assumption | with_reducible apply keeps_issue | with_reducible apply keeps_waitEffect)

theorem keeps_execWaitTake (t : Nat) (n : Needle) (w : W64) (s : State) (hok : memOk s) : ∀ r, execWaitTake t n w s = .next r → memOk r := by
  unfold execWaitTake
  intro r h; injection h with h; subst h
  repeat' (first | with_reducible assumption | with_reducible apply keeps_issue | with_reducible apply keeps_waitEffect)

theorem keeps_castResume (t : Nat) (s : State) (hok : memOk s) : memOk (castResume t s) := by
  unfold castResume
  repeat' (first | with_reducible assumption | with_reducible apply keeps_wr)

theorem keeps_castStop (t : Nat) (s : State) (hok : memOk s) : memOk (castStop t s) := by
  unfold castStop
  repeat' (first | with_reducible assumption | with_reducible apply keeps_wr)

theorem keeps_endWait (t nc : Nat) (s : State) (hok : memOk s) : memOk (endWait t nc s) := by
  unfold endWait
  repeat' (first | with_reducible assumption | with_reducible apply keeps_wr | with_reducible apply keeps_enterTrap | split | (intro _ _) | (intro _) | dsimp only | (with_reducible refine keeps_mk ?_) | (with_reducible refine ok_of ?_; first | with_reducible assumption | with_reducible apply keeps_wr | with_reducible apply keeps_enterTrap))

theorem keeps_execWaiterRelease (t who : Nat) (s : State) (hok : memOk s) : ∀ r, execWaiterRelease t who s = .next r → memOk r := by
  unfold execWaiterRelease
  intro r h; injection h with h; subst h
  repeat' (first | with_reducible assumption | with_reducible apply keeps_castResume | with_reducible apply keeps_endWait | split | (intro _ _) | (intro _) | dsimp only | (with_reducible refine keeps_mk ?_) | (with_reducible refine ok_of ?_; first | with_reducible assumption | with_reducible apply keeps_castResume | with_reducible apply keeps_endWait))

theorem keeps_execWaitTimerExpire (t who : Nat) (s : State) (hok : memOk s) : ∀ r, execWaitTimerExpire t who s = .next r → memOk r := by
  unfold execWaitTimerExpire
  intro r h; injection h with h; subst h
  repeat' (first | with_reducible assumption | with_reducible apply keeps_raise | with_reducible apply keeps_enterTrap | with_reducible apply keeps_haltWith | with_reducible apply keeps_castStop | split | (intro _ _) | (intro _) | dsimp only | (with_reducible refine keeps_mk ?_) | (with_reducible refine ok_of ?_; first | with_reducible assumption | with_reducible apply keeps_raise | with_reducible apply keeps_enterTrap | with_reducible apply keeps_haltWith | with_reducible apply keeps_castStop))

theorem keeps_transfer (t who a d n : Nat) (sig : Bool) (stitch : Nat) (s : State) (hok : memOk s) : memOk (transfer t who a d n sig stitch s) := by
  unfold transfer
  repeat' (first | with_reducible assumption | with_reducible apply keeps_pushPieces | with_reducible apply keeps_pump | split | (intro _ _) | (intro _) | dsimp only | (with_reducible refine keeps_mk ?_) | (with_reducible refine ok_of ?_; first | with_reducible assumption | with_reducible apply keeps_pushPieces | with_reducible apply keeps_pump))

theorem keeps_xferEffect (t nc : Nat) (w : W64) (s : State) (hok : memOk s) : memOk (xferEffect t nc w s) := by
  unfold xferEffect
  repeat' (first | with_reducible assumption | with_reducible apply keeps_refuseTile | with_reducible apply keeps_advance | with_reducible apply keeps_trapAtPC | with_reducible apply keeps_transfer | split | (intro _ _) | (intro _) | dsimp only | (with_reducible refine keeps_mk ?_) | (with_reducible refine ok_of ?_; first | with_reducible assumption | with_reducible apply keeps_refuseTile | with_reducible apply keeps_advance | with_reducible apply keeps_trapAtPC | with_reducible apply keeps_transfer))

theorem keeps_execXfer (t : Nat) (n : Needle) (w : W64) (s : State) (hok : memOk s) : ∀ r, execXfer t n w s = .next r → memOk r := by
  unfold execXfer
  intro r h; injection h with h; subst h
  repeat' (first | with_reducible assumption | with_reducible apply keeps_outbound | with_reducible apply keeps_issue | with_reducible apply keeps_xferEffect | split | (intro _ _) | (intro _))

theorem keeps_recordPackets (t nc d n v : Nat) (s : State) (hok : memOk s) : memOk (recordPackets t nc d n v s) := by
  unfold recordPackets
  repeat' (first | with_reducible assumption | with_reducible apply keeps_inject | with_reducible apply keeps_foldl | split | (intro _ _) | (intro _))

theorem keeps_sendMessage (t nc ep off n : Nat) (s : State) (hok : memOk s) : memOk (sendMessage t nc ep off n s) := by
  unfold sendMessage
  repeat' (first | with_reducible assumption | with_reducible apply keeps_incM | with_reducible apply keeps_flushRead | with_reducible apply keeps_setTx | with_reducible apply keeps_recordPackets | split | (intro _ _) | (intro _))

theorem keeps_unstall (t nc : Nat) (s : State) (hok : memOk s) : memOk (unstall t nc s) := by
  unfold unstall
  repeat' (first | with_reducible assumption | split | (intro _ _) | (intro _) | dsimp only | (with_reducible refine keeps_mk ?_) | (with_reducible refine ok_of ?_; first | with_reducible assumption))

theorem keeps_stall (t nc ep : Nat) (s : State) (hok : memOk s) : memOk (stall t nc ep s) := by
  unfold stall
  repeat' (first | with_reducible assumption | split | (intro _ _) | (intro _) | dsimp only | (with_reducible refine keeps_mk ?_) | (with_reducible refine ok_of ?_; first | with_reducible assumption))

theorem keeps_strandTrap (t nc ep code : Nat) (s : State) (hok : memOk s) : memOk (strandTrap t nc ep code s) := by
  unfold strandTrap
  repeat' (first | with_reducible assumption | with_reducible apply keeps_trapNeedle | with_reducible apply keeps_unstall)

theorem keeps_sendEffect (t nc : Nat) (w : W64) (s : State) (hok : memOk s) : memOk (sendEffect t nc w s) := by
  unfold sendEffect
  repeat' (first | with_reducible assumption | with_reducible apply keeps_tileError | with_reducible apply keeps_refuseTile | with_reducible apply keeps_advance | with_reducible apply keeps_trapAtPC | with_reducible apply keeps_sendMessage | with_reducible apply keeps_unstall | with_reducible apply keeps_stall | with_reducible apply keeps_strandTrap | split | (intro _ _) | (intro _) | dsimp only | (with_reducible refine keeps_mk ?_) | (with_reducible refine ok_of ?_; first | with_reducible assumption | with_reducible apply keeps_tileError | with_reducible apply keeps_refuseTile | with_reducible apply keeps_advance | with_reducible apply keeps_trapAtPC | with_reducible apply keeps_sendMessage | with_reducible apply keeps_unstall | with_reducible apply keeps_stall | with_reducible apply keeps_strandTrap))

theorem keeps_execSend (t : Nat) (n : Needle) (w : W64) (s : State) (hok : memOk s) : ∀ r, execSend t n w s = .next r → memOk r := by
  unfold execSend
  intro r h; injection h with h; subst h
  repeat' (first | with_reducible assumption | with_reducible apply keeps_outbound | with_reducible apply keeps_issue | with_reducible apply keeps_sendEffect | split | (intro _ _) | (intro _))

theorem keeps_execSendStallTimeout (t : Nat) (n : Needle) (s : State) (hok : memOk s) : ∀ r, execSendStallTimeout t n s = .next r → memOk r := by
  unfold execSendStallTimeout
  intro r h; injection h with h; subst h
  repeat' (first | with_reducible assumption | with_reducible apply keeps_strandTrap | split | (intro _ _) | (intro _))

theorem keeps_jqEffect (t nc : Nat) (w : W64) (s : State) (hok : memOk s) : memOk (jqEffect t nc w s) := by
  unfold jqEffect
  repeat' (first | with_reducible assumption | with_reducible apply keeps_refuseTile | with_reducible apply keeps_pump | with_reducible apply keeps_advance | with_reducible apply keeps_trapAtPC | split | (intro _ _) | (intro _) | dsimp only | (with_reducible refine keeps_mk ?_) | (with_reducible refine ok_of ?_; first | with_reducible assumption | with_reducible apply keeps_refuseTile | with_reducible apply keeps_pump | with_reducible apply keeps_advance | with_reducible apply keeps_trapAtPC))

theorem keeps_execJq (t : Nat) (n : Needle) (w : W64) (s : State) (hok : memOk s) : ∀ r, execJq t n w s = .next r → memOk r := by
  unfold execJq
  intro r h; injection h with h; subst h
  repeat' (first | with_reducible assumption | with_reducible apply keeps_outbound | with_reducible apply keeps_issue | with_reducible apply keeps_jqEffect | split | (intro _ _) | (intro _))

theorem keeps_bkickEffect (t nc : Nat) (w : W64) (s : State) (hok : memOk s) : memOk (bkickEffect t nc w s) := by
  unfold bkickEffect
  repeat' (first | with_reducible assumption | with_reducible apply keeps_refuseTile | with_reducible apply keeps_advance | split | (intro _ _) | (intro _) | dsimp only | (with_reducible refine keeps_mk ?_) | (with_reducible refine ok_of ?_; first | with_reducible assumption | with_reducible apply keeps_refuseTile | with_reducible apply keeps_advance))

theorem keeps_execBkick (t : Nat) (n : Needle) (w : W64) (s : State) (hok : memOk s) : ∀ r, execBkick t n w s = .next r → memOk r := by
  unfold execBkick
  intro r h; injection h with h; subst h
  repeat' (first | with_reducible assumption | with_reducible apply keeps_outbound | with_reducible apply keeps_issue | with_reducible apply keeps_bkickEffect | split | (intro _ _) | (intro _))

end Sys2Proof.Laws
end

