-- ==== Sys2Proof/Laws/KeepBus.lean ====
section
/-! SUPPORT. Machine/Bus.lean keeps memory in canonical form. -/

namespace Sys2Proof.Laws
open Sys2Proof.Machine

theorem keeps_regUnmapped (rq : Requester) (ofs : Nat) (s : State) (hok : memOk s) : memOk (regUnmapped rq ofs s) := by
  unfold regUnmapped
  repeat' (first | with_reducible assumption | with_reducible apply keeps_raise)

theorem keeps_setWrign (fr : Frame) (u off : Nat) (s : State) (hok : memOk s) : memOk (setWrign fr u off s) := by
  unfold setWrign
  repeat' (first | with_reducible assumption | with_reducible apply keeps_wr | split | (intro _ _) | (intro _))

theorem keeps_writeField (rq : Requester) (view u : Nat) (v : W32) (w : Nat) (h : Hit) (s0 s : State) (hok : memOk s) : memOk (writeField rq view u v w h s0 s).1 := by
  unfold writeField
  repeat' (first | with_reducible assumption | with_reducible apply keeps_wr | with_reducible apply keeps_wrNext | split | (intro _ _) | (intro _) | dsimp only | (with_reducible refine keeps_mk ?_) | (with_reducible refine ok_of ?_; first | with_reducible assumption | with_reducible apply keeps_wr | with_reducible apply keeps_wrNext))

theorem keeps_shardValid (s0 : State) (u : Nat) (s : State) (hok : memOk s) : memOk (shardValid s0 u s) := by
  unfold shardValid
  repeat' (first | with_reducible assumption | with_reducible apply keeps_wr | split | (intro _ _) | (intro _) | dsimp only | (with_reducible refine keeps_mk ?_) | (with_reducible refine ok_of ?_; first | with_reducible assumption | with_reducible apply keeps_wr))

theorem keeps_writeHits (rq : Requester) (fr : Frame) (u off : Nat) (v : W32) (hs : List Hit) (s : State) (hok : memOk s) : memOk (writeHits rq fr u off v hs s) := by
  unfold writeHits
  repeat' (first | with_reducible assumption | with_reducible apply keeps_setWrign | with_reducible apply keeps_writeField | with_reducible apply keeps_shardValid | with_reducible apply keeps_foldl | with_reducible apply keeps_foldl_fst | with_reducible apply keeps_foldl_snd | split | (intro _ _) | (intro _) | dsimp only | (with_reducible refine keeps_mk ?_) | (with_reducible refine ok_of ?_; first | with_reducible assumption | with_reducible apply keeps_setWrign | with_reducible apply keeps_writeField | with_reducible apply keeps_shardValid | with_reducible apply keeps_foldl | with_reducible apply keeps_foldl_fst | with_reducible apply keeps_foldl_snd))

theorem keeps_readSide (s0 : State) (rq : Requester) (u : Nat) (s : State) (h : Hit) (hok : memOk s) : memOk (readSide s0 rq u s h) := by
  unfold readSide
  repeat' (first | with_reducible assumption | with_reducible apply keeps_wr | split | (intro _ _) | (intro _) | dsimp only | (with_reducible refine keeps_mk ?_) | (with_reducible refine ok_of ?_; first | with_reducible assumption | with_reducible apply keeps_wr))

theorem keeps_waitRead (rq : Requester) (ofs n : Nat) (s : State) (hok : memOk s) : memOk (waitRead rq ofs n s) := by
  unfold waitRead
  repeat' (first | with_reducible assumption | split | (intro _ _) | (intro _) | dsimp only | (with_reducible refine keeps_mk ?_) | (with_reducible refine ok_of ?_; first | with_reducible assumption))

theorem keeps_readDone (rq : Requester) (ofs : Nat) (s : State) (hok : memOk s) : memOk (readDone rq ofs s) := by
  unfold readDone
  repeat' (first | with_reducible assumption | split | (intro _ _) | (intro _) | dsimp only | (with_reducible refine keeps_mk ?_) | (with_reducible refine ok_of ?_; first | with_reducible assumption))

theorem keeps_busReadBy (val : State → Requester → Nat → Hit → Nat) (rq : Requester) (ofs : Nat) (s0 : State) (hok : memOk s0) : memOk (busReadBy val rq ofs s0) := by
  unfold busReadBy
  repeat' (first | with_reducible assumption | with_reducible apply keeps_regUnmapped | with_reducible apply keeps_readSide | with_reducible apply keeps_waitRead | with_reducible apply keeps_readDone | with_reducible apply keeps_foldl | with_reducible apply keeps_foldl_fst | with_reducible apply keeps_foldl_snd | split | (intro _ _) | (intro _) | dsimp only | (with_reducible refine keeps_mk ?_) | (with_reducible refine ok_of ?_; first | with_reducible assumption | with_reducible apply keeps_regUnmapped | with_reducible apply keeps_readSide | with_reducible apply keeps_waitRead | with_reducible apply keeps_readDone | with_reducible apply keeps_foldl | with_reducible apply keeps_foldl_fst | with_reducible apply keeps_foldl_snd))

theorem keeps_busRead (rq : Requester) (ofs : Nat) (s : State) (hok : memOk s) : memOk (busRead rq ofs s) := by
  unfold busRead
  repeat' (first | with_reducible assumption | with_reducible apply keeps_busReadBy)

theorem keeps_busWrite (rq : Requester) (ofs : Nat) (v : W32) (be : Nat) (act : Frame → Nat → Nat → List Hit → State → State) (s : State) (hact : ∀ a0 a1 a2 a3 s, memOk s → memOk (act a0 a1 a2 a3 s)) (hok : memOk s) : memOk (busWrite rq ofs v be act s) := by
  unfold busWrite
  repeat' (first | with_reducible assumption | with_reducible apply keeps_regUnmapped | with_reducible apply keeps_setWrign | with_reducible apply hact | split | (intro _ _) | (intro _) | dsimp only | (with_reducible refine keeps_mk ?_) | (with_reducible refine ok_of ?_; first | with_reducible assumption | with_reducible apply keeps_regUnmapped | with_reducible apply keeps_setWrign | with_reducible apply hact))

theorem keeps_busCmd (rq : Requester) (f : Field) (u n : Nat) (v : W32) (act : Nat → State → State) (s : State) (hact : ∀ a0 s, memOk s → memOk (act a0 s)) (hok : memOk s) : memOk (busCmd rq f u n v act s) := by
  unfold busCmd
  repeat' (first | with_reducible assumption | with_reducible apply keeps_writeHits | with_reducible apply keeps_busWrite | with_reducible apply hact | split | (intro _ _) | (intro _))

theorem keeps_execCounterLowRead (rq : Requester) (ofs : Nat) (s : State) (hok : memOk s) : ∀ r, execCounterLowRead rq ofs s = .next r → memOk r := by
  unfold execCounterLowRead
  intro r h; injection h with h; subst h
  repeat' (first | with_reducible assumption | with_reducible apply keeps_busRead | split | (intro _ _) | (intro _))

end Sys2Proof.Laws
end

