-- ==== Sys2Proof/Laws/KeepTileCtl.lean ====
section
/-! SUPPORT. Machine/TileCtl.lean keeps memory in canonical form. -/

namespace Sys2Proof.Laws
open Sys2Proof.Machine

theorem keeps_lwCommand (op t win : Nat) (via : LwBy) (s : State) (hok : memOk s) : memOk (lwCommand op t win via s) := by
  unfold lwCommand
  repeat' (first | with_reducible assumption | with_reducible apply keeps_advance | with_reducible apply keeps_windowCmd | with_reducible apply keeps_issue | with_reducible apply keeps_busCmd | split | (intro _ _) | (intro _))

theorem keeps_execLwOpen (t win : Nat) (via : LwBy) (s : State) (hok : memOk s) : ∀ r, execLwOpen t win via s = .next r → memOk r := by
  unfold execLwOpen
  intro r h; injection h with h; subst h
  repeat' (first | with_reducible assumption | with_reducible apply keeps_lwCommand | split | (intro _ _) | (intro _))

theorem keeps_execLwClose (t win : Nat) (via : LwBy) (s : State) (hok : memOk s) : ∀ r, execLwClose t win via s = .next r → memOk r := by
  unfold execLwClose
  intro r h; injection h with h; subst h
  repeat' (first | with_reducible assumption | with_reducible apply keeps_lwCommand | split | (intro _ _) | (intro _))

theorem keeps_execLwRelease (t win : Nat) (via : LwBy) (s : State) (hok : memOk s) : ∀ r, execLwRelease t win via s = .next r → memOk r := by
  unfold execLwRelease
  intro r h; injection h with h; subst h
  repeat' (first | with_reducible assumption | with_reducible apply keeps_lwCommand | split | (intro _ _) | (intro _))

theorem keeps_startFill (t src page nc : Nat) (s : State) (hok : memOk s) : memOk (startFill t src page nc s) := by
  unfold startFill
  repeat' (first | with_reducible assumption | with_reducible apply keeps_wr | with_reducible apply keeps_tileError | split | (intro _ _) | (intro _) | dsimp only | (with_reducible refine keeps_mk ?_) | (with_reducible refine ok_of ?_; first | with_reducible assumption | with_reducible apply keeps_wr | with_reducible apply keeps_tileError))

theorem keeps_ifillEffect (t nc : Nat) (w : W64) (s : State) (hok : memOk s) : memOk (ifillEffect t nc w s) := by
  unfold ifillEffect
  repeat' (first | with_reducible assumption | with_reducible apply keeps_wr | with_reducible apply keeps_advance | with_reducible apply keeps_startFill | split | (intro _ _) | (intro _))

theorem keeps_execIfill (t : Nat) (n : Needle) (w : W64) (rq : Nat) (s : State) (hok : memOk s) : ∀ r, execIfill t n w rq s = .next r → memOk r := by
  unfold execIfill
  intro r h; injection h with h; subst h
  repeat' (first | with_reducible assumption | with_reducible apply keeps_issue | with_reducible apply keeps_granted | with_reducible apply keeps_ifillEffect | split | (intro _ _) | (intro _))

theorem keeps_execIfillGo (rq : Requester) (t : Nat) (v : W32) (s : State) (hok : memOk s) : ∀ r, execIfillGo rq t v s = .next r → memOk r := by
  unfold execIfillGo
  intro r h; injection h with h; subst h
  repeat' (first | with_reducible assumption | with_reducible apply keeps_setWrign | with_reducible apply keeps_busCmd | with_reducible apply keeps_startFill | split | (intro _ _) | (intro _))

theorem keeps_fillPage (f : Fill) (s : State) (hok : memOk s) : memOk (fillPage f s) := by
  unfold fillPage
  repeat' (first | with_reducible assumption | with_reducible apply keeps_flushRange | with_reducible apply keeps_foldl | with_reducible apply keeps_foldl_fst | with_reducible apply keeps_foldl_snd | split | (intro _ _) | (intro _) | dsimp only | (with_reducible refine keeps_mk ?_) | (with_reducible refine ok_of ?_; first | with_reducible assumption | with_reducible apply keeps_flushRange | with_reducible apply keeps_foldl | with_reducible apply keeps_foldl_fst | with_reducible apply keeps_foldl_snd))

theorem keeps_execIfillComplete (t : Nat) (s : State) (hok : memOk s) : ∀ r, execIfillComplete t s = .next r → memOk r := by
  unfold execIfillComplete
  intro r h; injection h with h; subst h
  repeat' (first | with_reducible assumption | with_reducible apply keeps_wr | with_reducible apply keeps_fillPage | split | (intro _ _) | (intro _) | dsimp only | (with_reducible refine keeps_mk ?_) | (with_reducible refine ok_of ?_; first | with_reducible assumption | with_reducible apply keeps_wr | with_reducible apply keeps_fillPage))

theorem keeps_execTileLtagWrite (rq : Requester) (t : Nat) (v : W32) (s : State) (hok : memOk s) : ∀ r, execTileLtagWrite rq t v s = .next r → memOk r := by
  unfold execTileLtagWrite
  intro r h; injection h with h; subst h
  repeat' (first | with_reducible assumption | with_reducible apply keeps_wr | with_reducible apply keeps_tileError | with_reducible apply keeps_busCmd | split | (intro _ _) | (intro _) | dsimp only | (with_reducible refine keeps_mk ?_) | (with_reducible refine ok_of ?_; first | with_reducible assumption | with_reducible apply keeps_wr | with_reducible apply keeps_tileError | with_reducible apply keeps_busCmd))

theorem keeps_execPrlLoadGo (rq : Requester) (t : Nat) (v : W32) (s : State) (hok : memOk s) : ∀ r, execPrlLoadGo rq t v s = .next r → memOk r := by
  unfold execPrlLoadGo
  intro r h; injection h with h; subst h
  repeat' (first | with_reducible assumption | with_reducible apply keeps_wr | with_reducible apply keeps_setWrign | with_reducible apply keeps_busCmd | split | (intro _ _) | (intro _) | dsimp only | (with_reducible refine keeps_mk ?_) | (with_reducible refine ok_of ?_; first | with_reducible assumption | with_reducible apply keeps_wr | with_reducible apply keeps_setWrign | with_reducible apply keeps_busCmd))

theorem keeps_execPrlLoadComplete (t : Nat) (s : State) (hok : memOk s) : ∀ r, execPrlLoadComplete t s = .next r → memOk r := by
  unfold execPrlLoadComplete
  intro r h; injection h with h; subst h
  repeat' (first | with_reducible assumption | with_reducible apply keeps_wr | with_reducible apply keeps_flushRange | with_reducible apply keeps_foldl | with_reducible apply keeps_foldl_fst | with_reducible apply keeps_foldl_snd | split | (intro _ _) | (intro _) | dsimp only | (with_reducible refine keeps_mk ?_) | (with_reducible refine ok_of ?_; first | with_reducible assumption | with_reducible apply keeps_wr | with_reducible apply keeps_flushRange | with_reducible apply keeps_foldl | with_reducible apply keeps_foldl_fst | with_reducible apply keeps_foldl_snd))

theorem keeps_execGatherOff (rq : Requester) (t : Nat) (v : W32) (s : State) (hok : memOk s) : ∀ r, execGatherOff rq t v s = .next r → memOk r := by
  unfold execGatherOff
  intro r h; injection h with h; subst h
  repeat' (first | with_reducible assumption | with_reducible apply keeps_flushAll | with_reducible apply keeps_busCmd | split | (intro _ _) | (intro _))

theorem keeps_execGatherFlushTimeout (t : Nat) (s : State) (hok : memOk s) : ∀ r, execGatherFlushTimeout t s = .next r → memOk r := by
  unfold execGatherFlushTimeout
  intro r h; injection h with h; subst h
  repeat' (first | with_reducible assumption | with_reducible apply keeps_flushAll)

theorem keeps_stopNeedle (t nc : Nat) (s : State) (hok : memOk s) : memOk (stopNeedle t nc s) := by
  unfold stopNeedle
  repeat' (first | with_reducible assumption | with_reducible apply keeps_enterTrap | with_reducible apply keeps_dropWaits | split | (intro _ _) | (intro _) | dsimp only | (with_reducible refine keeps_mk ?_) | (with_reducible refine ok_of ?_; first | with_reducible assumption | with_reducible apply keeps_enterTrap | with_reducible apply keeps_dropWaits))

theorem keeps_trapSender (u : UnitId) (e : ErrRec) (p : Pkt) (s : State) (hok : memOk s) : memOk (trapSender u e p s) := by
  unfold trapSender
  repeat' (first | with_reducible assumption | with_reducible apply keeps_raise | with_reducible apply keeps_castBranch | with_reducible apply keeps_stopNeedle | split | (intro _ _) | (intro _))

theorem keeps_packetFail (t code win : Nat) (pol : Field) (p : Pkt) (s : State) (hok : memOk s) : memOk (packetFail t code win pol p s) := by
  unfold packetFail
  repeat' (first | with_reducible assumption | with_reducible apply keeps_raise | with_reducible apply keeps_trapSender | split | (intro _ _) | (intro _) | dsimp only | (with_reducible refine keeps_mk ?_) | (with_reducible refine ok_of ?_; first | with_reducible assumption | with_reducible apply keeps_raise | with_reducible apply keeps_trapSender))

theorem keeps_extOverrun (t ep : Nat) (p : Pkt) (s : State) (hok : memOk s) : memOk (extOverrun t ep p s) := by
  unfold extOverrun
  repeat' (first | with_reducible assumption | with_reducible apply keeps_tileError | with_reducible apply keeps_landPkt)

theorem keeps_meetWindows (t : Nat) (p : Pkt) (extra : List StOp) (s : State) (hok : memOk s) : memOk (meetWindows t p extra s).1 := by
  unfold meetWindows
  repeat' (first | with_reducible assumption | with_reducible apply keeps_incS | with_reducible apply keeps_landPkt | with_reducible apply keeps_landWith | with_reducible apply keeps_extWritePkt | with_reducible apply keeps_packetFail | split | (intro _ _) | (intro _) | dsimp only | (with_reducible refine keeps_mk ?_) | (with_reducible refine ok_of ?_; first | with_reducible assumption | with_reducible apply keeps_incS | with_reducible apply keeps_landPkt | with_reducible apply keeps_landWith | with_reducible apply keeps_extWritePkt | with_reducible apply keeps_packetFail))

theorem keeps_noteCollision (t : Nat) (col : Bool) (r : State × Bool) (hr : memOk r.1) : memOk (noteCollision t col r).1 := by
  unfold noteCollision
  repeat' (first | with_reducible assumption | with_reducible apply keeps_wr | split | (intro _ _) | (intro _))

theorem keeps_tileArrival (t : Nat) (col : Bool) (p : Pkt) (s : State) (hok : memOk s) : memOk (tileArrival t col p s) := by
  unfold tileArrival
  repeat' (first | with_reducible assumption | with_reducible apply keeps_extOverrun | with_reducible apply keeps_meetWindows | with_reducible apply keeps_noteCollision | split | (intro _ _) | (intro _))

theorem keeps_execArrival (a : Landing) (s : State) (hok : memOk s) : ∀ r, execArrival a s = .next r → memOk r := by
  unfold execArrival
  intro r h; injection h with h; subst h
  repeat' (first | with_reducible assumption | with_reducible apply keeps_tileArrival | split | (intro _ _) | (intro _))

end Sys2Proof.Laws
end

