-- ==== Sys2Proof/Laws/KeepStrand.lean ====
section
/-! SUPPORT. Machine/Strand.lean keeps memory in canonical form. -/

namespace Sys2Proof.Laws
open Sys2Proof.Machine

theorem keeps_tableWrite (t : Nat) (n : Needle) (ofs : Nat) (v : W32) (s : State) (hok : memOk s) : memOk (tableWrite t n ofs v s) := by
  unfold tableWrite
  repeat' (first | with_reducible assumption | with_reducible apply keeps_engineWrite | split | (intro _ _) | (intro _))

theorem keeps_execTxOpenCmd (t : Nat) (n : Needle) (ep : Nat) (v : W32) (s : State) (hok : memOk s) : ∀ r, execTxOpenCmd t n ep v s = .next r → memOk r := by
  unfold execTxOpenCmd
  intro r h; injection h with h; subst h
  repeat' (first | with_reducible assumption | with_reducible apply keeps_tableWrite | split | (intro _ _) | (intro _))

theorem keeps_execTxCloseCmd (t : Nat) (n : Needle) (ep : Nat) (v : W32) (s : State) (hok : memOk s) : ∀ r, execTxCloseCmd t n ep v s = .next r → memOk r := by
  unfold execTxCloseCmd
  intro r h; injection h with h; subst h
  repeat' (first | with_reducible assumption | with_reducible apply keeps_tableWrite | split | (intro _ _) | (intro _))

theorem keeps_execRxOpenCmd (t : Nat) (n : Needle) (ep : Nat) (v : W32) (s : State) (hok : memOk s) : ∀ r, execRxOpenCmd t n ep v s = .next r → memOk r := by
  unfold execRxOpenCmd
  intro r h; injection h with h; subst h
  repeat' (first | with_reducible assumption | with_reducible apply keeps_tableWrite | split | (intro _ _) | (intro _))

theorem keeps_execRxCloseCmd (t : Nat) (n : Needle) (ep : Nat) (v : W32) (s : State) (hok : memOk s) : ∀ r, execRxCloseCmd t n ep v s = .next r → memOk r := by
  unfold execRxCloseCmd
  intro r h; injection h with h; subst h
  repeat' (first | with_reducible assumption | with_reducible apply keeps_tableWrite | split | (intro _ _) | (intro _))

theorem keeps_execHeadWrite (t : Nat) (n : Needle) (ep : Nat) (v : W32) (s : State) (hok : memOk s) : ∀ r, execHeadWrite t n ep v s = .next r → memOk r := by
  unfold execHeadWrite
  intro r h; injection h with h; subst h
  repeat' (first | with_reducible assumption | with_reducible apply keeps_tableWrite | split | (intro _ _) | (intro _))

theorem keeps_onCtl (kind pid : Nat) (act : Nat → Pkt → State → State) (s : State) (hact : ∀ a0 a1 s, memOk s → memOk (act a0 a1 s)) (hok : memOk s) : memOk (onCtl kind pid act s) := by
  unfold onCtl
  repeat' (first | with_reducible assumption | with_reducible apply keeps_landPkt | with_reducible apply hact | split | (intro _ _) | (intro _))

theorem keeps_onTx (act : Nat → Nat → TxEp → State → State) (t : Nat) (p : Pkt) (s : State) (hact : ∀ a0 a1 a2 s, memOk s → memOk (act a0 a1 a2 s)) (hok : memOk s) : memOk (onTx act t p s) := by
  unfold onTx
  repeat' (first | with_reducible assumption | with_reducible apply hact | split | (intro _ _) | (intro _) | dsimp only | (with_reducible refine keeps_mk ?_) | (with_reducible refine ok_of ?_; first | with_reducible assumption | with_reducible apply hact))

theorem keeps_rxOpenReq (t : Nat) (p : Pkt) (s : State) (hok : memOk s) : memOk (rxOpenReq t p s) := by
  unfold rxOpenReq
  repeat' (first | with_reducible assumption | with_reducible apply keeps_setRx | with_reducible apply keeps_sendCtl | split | (intro _ _) | (intro _) | dsimp only | (with_reducible refine keeps_mk ?_) | (with_reducible refine ok_of ?_; first | with_reducible assumption | with_reducible apply keeps_setRx | with_reducible apply keeps_sendCtl))

theorem keeps_execOpenReq (pid : Nat) (s : State) (hok : memOk s) : ∀ r, execOpenReq pid s = .next r → memOk r := by
  unfold execOpenReq
  intro r h; injection h with h; subst h
  repeat' (first | with_reducible assumption | with_reducible apply keeps_onCtl | with_reducible apply keeps_rxOpenReq)

theorem keeps_txOpenAck (t n : Nat) (e : TxEp) (rb rs : Nat) (s : State) (hok : memOk s) : memOk (txOpenAck t n e rb rs s) := by
  unfold txOpenAck
  repeat' (first | with_reducible assumption | with_reducible apply keeps_setTx | split | (intro _ _) | (intro _))

theorem keeps_execOpenAck (pid : Nat) (s : State) (hok : memOk s) : ∀ r, execOpenAck pid s = .next r → memOk r := by
  unfold execOpenAck
  intro r h; injection h with h; subst h
  repeat' (first | with_reducible assumption | with_reducible apply keeps_onCtl | with_reducible apply keeps_onTx | with_reducible apply keeps_txOpenAck | split | (intro _ _) | (intro _))

theorem keeps_txOpenNak (t n : Nat) (e : TxEp) (s : State) (hok : memOk s) : memOk (txOpenNak t n e s) := by
  unfold txOpenNak
  repeat' (first | with_reducible assumption | with_reducible apply keeps_tileError | with_reducible apply keeps_setTx | split | (intro _ _) | (intro _))

theorem keeps_execOpenNak (pid : Nat) (s : State) (hok : memOk s) : ∀ r, execOpenNak pid s = .next r → memOk r := by
  unfold execOpenNak
  intro r h; injection h with h; subst h
  repeat' (first | with_reducible assumption | with_reducible apply keeps_onCtl | with_reducible apply keeps_onTx | with_reducible apply keeps_txOpenNak | split | (intro _ _) | (intro _))

theorem keeps_txCredit (k t n : Nat) (e : TxEp) (s : State) (hok : memOk s) : memOk (txCredit k t n e s) := by
  unfold txCredit
  repeat' (first | with_reducible assumption | with_reducible apply keeps_castBranch | with_reducible apply keeps_setTx | split | (intro _ _) | (intro _))

theorem keeps_execCredit (pid : Nat) (s : State) (hok : memOk s) : ∀ r, execCredit pid s = .next r → memOk r := by
  unfold execCredit
  intro r h; injection h with h; subst h
  repeat' (first | with_reducible assumption | with_reducible apply keeps_onCtl | with_reducible apply keeps_onTx | with_reducible apply keeps_txCredit | split | (intro _ _) | (intro _))

theorem keeps_rxClose (t : Nat) (p : Pkt) (s : State) (hok : memOk s) : memOk (rxClose t p s) := by
  unfold rxClose
  repeat' (first | with_reducible assumption | with_reducible apply keeps_setRx | with_reducible apply keeps_sendCtl | split | (intro _ _) | (intro _))

theorem keeps_execClose (pid : Nat) (s : State) (hok : memOk s) : ∀ r, execClose pid s = .next r → memOk r := by
  unfold execClose
  intro r h; injection h with h; subst h
  repeat' (first | with_reducible assumption | with_reducible apply keeps_onCtl | with_reducible apply keeps_rxClose)

theorem keeps_txCloseAck (t n : Nat) (e : TxEp) (s : State) (hok : memOk s) : memOk (txCloseAck t n e s) := by
  unfold txCloseAck
  repeat' (first | with_reducible assumption | with_reducible apply keeps_setTx | split | (intro _ _) | (intro _))

theorem keeps_execCloseAck (pid : Nat) (s : State) (hok : memOk s) : ∀ r, execCloseAck pid s = .next r → memOk r := by
  unfold execCloseAck
  intro r h; injection h with h; subst h
  repeat' (first | with_reducible assumption | with_reducible apply keeps_onCtl | with_reducible apply keeps_onTx | with_reducible apply keeps_txCloseAck | split | (intro _ _) | (intro _))

theorem keeps_txOrphan (t n : Nat) (e : TxEp) (s : State) (hok : memOk s) : memOk (txOrphan t n e s) := by
  unfold txOrphan
  repeat' (first | with_reducible assumption | with_reducible apply keeps_setTx | split | (intro _ _) | (intro _))

theorem keeps_execOrphan (pid : Nat) (s : State) (hok : memOk s) : ∀ r, execOrphan pid s = .next r → memOk r := by
  unfold execOrphan
  intro r h; injection h with h; subst h
  repeat' (first | with_reducible assumption | with_reducible apply keeps_onCtl | with_reducible apply keeps_onTx | with_reducible apply keeps_txOrphan | split | (intro _ _) | (intro _))

theorem keeps_dropData (t : Nat) (p : Pkt) (s : State) (hok : memOk s) : memOk (dropData t p s) := by
  unfold dropData
  repeat' (first | with_reducible assumption | with_reducible apply keeps_incS | with_reducible apply keeps_landPkt | split | (intro _ _) | (intro _))

theorem keeps_recordLanded (t m : Nat) (p : Pkt) (pos : Nat) (s : State) (hok : memOk s) : memOk (recordLanded t m p pos s) := by
  unfold recordLanded
  repeat' (first | with_reducible assumption | with_reducible apply keeps_incM | with_reducible apply keeps_setRx | split | (intro _ _) | (intro _) | dsimp only | (with_reducible refine keeps_mk ?_) | (with_reducible refine ok_of ?_; first | with_reducible assumption | with_reducible apply keeps_incM | with_reducible apply keeps_setRx))

theorem keeps_ringData (t m : Nat) (col : Bool) (p : Pkt) (s : State) (hok : memOk s) : memOk (ringData t m col p s) := by
  unfold ringData
  repeat' (first | with_reducible assumption | with_reducible apply keeps_extOverrun | with_reducible apply keeps_meetWindows | with_reducible apply keeps_noteCollision | with_reducible apply keeps_recordLanded | split | (intro _ _) | (intro _) | dsimp only | (with_reducible refine keeps_mk ?_) | (with_reducible refine ok_of ?_; first | with_reducible assumption | with_reducible apply keeps_extOverrun | with_reducible apply keeps_meetWindows | with_reducible apply keeps_noteCollision | with_reducible apply keeps_recordLanded))

theorem keeps_strandData (t : Nat) (col : Bool) (p : Pkt) (s : State) (hok : memOk s) : memOk (strandData t col p s) := by
  unfold strandData
  repeat' (first | with_reducible assumption | with_reducible apply keeps_extOverrun | with_reducible apply keeps_dropData | with_reducible apply keeps_ringData | split | (intro _ _) | (intro _) | dsimp only | (with_reducible refine keeps_mk ?_) | (with_reducible refine ok_of ?_; first | with_reducible assumption | with_reducible apply keeps_extOverrun | with_reducible apply keeps_dropData | with_reducible apply keeps_ringData))

theorem keeps_execStrandData (a : Landing) (s : State) (hok : memOk s) : ∀ r, execStrandData a s = .next r → memOk r := by
  unfold execStrandData
  intro r h; injection h with h; subst h
  repeat' (first | with_reducible assumption | with_reducible apply keeps_strandData | split | (intro _ _) | (intro _))

end Sys2Proof.Laws
end

