-- ==== Sys2Proof/Laws/KeepCast.lean ====
section
/-! SUPPORT. Machine/Cast.lean keeps memory in canonical form. -/

namespace Sys2Proof.Laws
open Sys2Proof.Machine

theorem keeps_castIllegal (t lid : Nat) (s : State) (hok : memOk s) : memOk (castIllegal t lid s) := by
  unfold castIllegal
  repeat' (first | with_reducible assumption | with_reducible apply keeps_castBranch | with_reducible apply keeps_castStop)

theorem keeps_castStart (t : Nat) (s : State) (hok : memOk s) : memOk (castStart t s) := by
  unfold castStart
  repeat' (first | with_reducible assumption | with_reducible apply keeps_wr | with_reducible apply keeps_castIllegal | split | (intro _ _) | (intro _) | dsimp only | (with_reducible refine keeps_mk ?_) | (with_reducible refine ok_of ?_; first | with_reducible assumption | with_reducible apply keeps_wr | with_reducible apply keeps_castIllegal))

theorem keeps_execCastPhaseStart (t : Nat) (s : State) (hok : memOk s) : ∀ r, execCastPhaseStart t s = .next r → memOk r := by
  unfold execCastPhaseStart
  intro r h; injection h with h; subst h
  repeat' (first | with_reducible assumption | with_reducible apply keeps_castStart | split | (intro _ _) | (intro _))

theorem keeps_castNext (t : Nat) (s : State) (hok : memOk s) : memOk (castNext t s) := by
  unfold castNext
  repeat' (first | with_reducible assumption | with_reducible apply keeps_wr)

theorem keeps_castStep (cop t : Nat) (act : Nat → State → State) (s : State) (hact : ∀ a0 s, memOk s → memOk (act a0 s)) (hok : memOk s) : memOk (castStep cop t act s) := by
  unfold castStep
  repeat' (first | with_reducible assumption | with_reducible apply keeps_castIllegal | with_reducible apply hact | split | (intro _ _) | (intro _) | dsimp only | (with_reducible refine keeps_mk ?_) | (with_reducible refine ok_of ?_; first | with_reducible assumption | with_reducible apply keeps_castIllegal | with_reducible apply hact))

theorem keeps_castRefuse (t a : Nat) (s : State) (hok : memOk s) : memOk (castRefuse t a s) := by
  unfold castRefuse
  repeat' (first | with_reducible assumption | with_reducible apply keeps_refuseTile | with_reducible apply keeps_castStop | with_reducible apply keeps_castNext | split | (intro _ _) | (intro _))

theorem keeps_execCend (t : Nat) (s : State) (hok : memOk s) : ∀ r, execCend t s = .next r → memOk r := by
  unfold execCend
  intro r h; injection h with h; subst h
  repeat' (first | with_reducible assumption | with_reducible apply keeps_castStep | split | (intro _ _) | (intro _) | dsimp only | (with_reducible refine keeps_mk ?_) | (with_reducible refine ok_of ?_; first | with_reducible assumption | with_reducible apply keeps_castStep))

theorem keeps_cwrEffect (t x : Nat) (s : State) (hok : memOk s) : memOk (cwrEffect t x s) := by
  unfold cwrEffect
  repeat' (first | with_reducible assumption | with_reducible apply keeps_transfer | with_reducible apply keeps_castNext | with_reducible apply keeps_castRefuse | split | (intro _ _) | (intro _) | dsimp only | (with_reducible refine keeps_mk ?_) | (with_reducible refine ok_of ?_; first | with_reducible assumption | with_reducible apply keeps_transfer | with_reducible apply keeps_castNext | with_reducible apply keeps_castRefuse))

theorem keeps_execCwr (t : Nat) (s : State) (hok : memOk s) : ∀ r, execCwr t s = .next r → memOk r := by
  unfold execCwr
  intro r h; injection h with h; subst h
  repeat' (first | with_reducible assumption | with_reducible apply keeps_castStep | with_reducible apply keeps_cwrEffect)

theorem keeps_crdEffect (t x : Nat) (s : State) (hok : memOk s) : memOk (crdEffect t x s) := by
  unfold crdEffect
  repeat' (first | with_reducible assumption | with_reducible apply keeps_pump | with_reducible apply keeps_castNext | with_reducible apply keeps_castRefuse | split | (intro _ _) | (intro _) | dsimp only | (with_reducible refine keeps_mk ?_) | (with_reducible refine ok_of ?_; first | with_reducible assumption | with_reducible apply keeps_pump | with_reducible apply keeps_castNext | with_reducible apply keeps_castRefuse))

theorem keeps_execCrd (t : Nat) (s : State) (hok : memOk s) : ∀ r, execCrd t s = .next r → memOk r := by
  unfold execCrd
  intro r h; injection h with h; subst h
  repeat' (first | with_reducible assumption | with_reducible apply keeps_castStep | with_reducible apply keeps_crdEffect)

theorem keeps_cxrEffect (t x : Nat) (s : State) (hok : memOk s) : memOk (cxrEffect t x s) := by
  unfold cxrEffect
  repeat' (first | with_reducible assumption | with_reducible apply keeps_pump | with_reducible apply keeps_castNext | with_reducible apply keeps_castRefuse | split | (intro _ _) | (intro _) | dsimp only | (with_reducible refine keeps_mk ?_) | (with_reducible refine ok_of ?_; first | with_reducible assumption | with_reducible apply keeps_pump | with_reducible apply keeps_castNext | with_reducible apply keeps_castRefuse))

theorem keeps_execCxr (t : Nat) (s : State) (hok : memOk s) : ∀ r, execCxr t s = .next r → memOk r := by
  unfold execCxr
  intro r h; injection h with h; subst h
  repeat' (first | with_reducible assumption | with_reducible apply keeps_castStep | with_reducible apply keeps_cxrEffect)

theorem keeps_csigEffect (t x : Nat) (s : State) (hok : memOk s) : memOk (csigEffect t x s) := by
  unfold csigEffect
  repeat' (first | with_reducible assumption | with_reducible apply keeps_sendStitch | with_reducible apply keeps_castNext | split | (intro _ _) | (intro _) | dsimp only | (with_reducible refine keeps_mk ?_) | (with_reducible refine ok_of ?_; first | with_reducible assumption | with_reducible apply keeps_sendStitch | with_reducible apply keeps_castNext))

theorem keeps_execCsig (t : Nat) (s : State) (hok : memOk s) : ∀ r, execCsig t s = .next r → memOk r := by
  unfold execCsig
  intro r h; injection h with h; subst h
  repeat' (first | with_reducible assumption | with_reducible apply keeps_castStep | with_reducible apply keeps_csigEffect)

theorem keeps_cwaitEffect (t x : Nat) (s : State) (hok : memOk s) : memOk (cwaitEffect t x s) := by
  unfold cwaitEffect
  repeat' (first | with_reducible assumption | (with_reducible refine of_fst (by with_reducible assumption) ?_) | (with_reducible refine of_snd (by with_reducible assumption) ?_) | with_reducible apply keeps_wr | with_reducible apply keeps_haltWith | with_reducible apply keeps_bankWait | with_reducible apply keeps_castStop | with_reducible apply keeps_castNext | split | (intro _ _) | (intro _) | dsimp only | (with_reducible refine keeps_mk ?_) | (with_reducible refine ok_of ?_; first | with_reducible assumption | with_reducible apply keeps_wr | with_reducible apply keeps_haltWith | with_reducible apply keeps_bankWait | with_reducible apply keeps_castStop | with_reducible apply keeps_castNext | split | dsimp only | (with_reducible apply of_fst; with_reducible assumption) | (with_reducible apply of_snd; with_reducible assumption)) | (with_reducible refine ok_mem ?_) | (with_reducible refine ok_host ?_) | (with_reducible refine ok_filter ?_) | (with_reducible refine ok_clear ?_) | (with_reducible refine ok_mem_fold ?_))

theorem keeps_execCwait (t : Nat) (s : State) (hok : memOk s) : ∀ r, execCwait t s = .next r → memOk r := by
  unfold execCwait
  intro r h; injection h with h; subst h
  repeat' (first | with_reducible assumption | with_reducible apply keeps_castStep | with_reducible apply keeps_cwaitEffect)

theorem keeps_cbarEffect (t x : Nat) (s : State) (hok : memOk s) : memOk (cbarEffect t x s) := by
  unfold cbarEffect
  repeat' (first | with_reducible assumption | with_reducible apply keeps_wr | with_reducible apply keeps_castIllegal | split | (intro _ _) | (intro _) | dsimp only | (with_reducible refine keeps_mk ?_) | (with_reducible refine ok_of ?_; first | with_reducible assumption | with_reducible apply keeps_wr | with_reducible apply keeps_castIllegal))

theorem keeps_execCbar (t : Nat) (s : State) (hok : memOk s) : ∀ r, execCbar t s = .next r → memOk r := by
  unfold execCbar
  intro r h; injection h with h; subst h
  repeat' (first | with_reducible assumption | with_reducible apply keeps_castStep | with_reducible apply keeps_cbarEffect)

theorem keeps_execSubBarrierComplete (p plane : Nat) (s : State) (hok : memOk s) : ∀ r, execSubBarrierComplete p plane s = .next r → memOk r := by
  unfold execSubBarrierComplete
  intro r h; injection h with h; subst h
  repeat' (first | with_reducible assumption | with_reducible apply keeps_releaseWaiters | split | (intro _ _) | (intro _) | dsimp only | (with_reducible refine keeps_mk ?_) | (with_reducible refine ok_of ?_; first | with_reducible assumption | with_reducible apply keeps_releaseWaiters))

end Sys2Proof.Laws
end

