-- ==== Sys2Proof/Laws/KeepCluster.lean ====
section
/-! SUPPORT. Machine/Cluster.lean keeps memory in canonical form. -/

namespace Sys2Proof.Laws
open Sys2Proof.Machine

theorem keeps_clusterEcc (c a : Nat) (p : Pkt) (ecc : Ecc) (s : State) (hok : memOk s) : memOk (clusterEcc c a p ecc s) := by
  unfold clusterEcc
  repeat' (first | with_reducible assumption | with_reducible apply keeps_wr | with_reducible apply keeps_incS | with_reducible apply keeps_trapSender | split | (intro _ _) | (intro _))

theorem keeps_freeOwner (p : Pkt) (s : State) (hok : memOk s) : memOk (freeOwner p s) := by
  unfold freeOwner
  repeat' (first | with_reducible assumption | with_reducible apply keeps_setTag | with_reducible apply keeps_pump | split | (intro _ _) | (intro _))

theorem keeps_closeMerge (c line : Nat) (s : State) (hok : memOk s) : memOk (closeMerge c line s) := by
  unfold closeMerge
  repeat' (first | with_reducible assumption | split | (intro _ _) | (intro _) | dsimp only | (with_reducible refine keeps_mk ?_) | (with_reducible refine ok_of ?_; first | with_reducible assumption))

theorem keeps_cstoreWrite (c : Nat) (p : Pkt) (s : State) (hok : memOk s) : memOk (cstoreWrite c p s) := by
  unfold cstoreWrite
  repeat' (first | with_reducible assumption | with_reducible apply keeps_wrEn | with_reducible apply keeps_closeMerge)

theorem keeps_storeServe (c : Nat) (p : Pkt) (s : State) (hok : memOk s) : memOk (storeServe c p s) := by
  unfold storeServe
  repeat' (first | with_reducible assumption | with_reducible apply keeps_landWith | with_reducible apply keeps_storeServed | with_reducible apply keeps_freeOwner | with_reducible apply keeps_cstoreWrite)

theorem keeps_execClusterStoreWrite (a : Service) (s : State) (hok : memOk s) : ∀ r, execClusterStoreWrite a s = .next r → memOk r := by
  unfold execClusterStoreWrite
  intro r h; injection h with h; subst h
  repeat' (first | with_reducible assumption | with_reducible apply keeps_storeServe | split | (intro _ _) | (intro _))

theorem keeps_execRdrsp (a : Response) (s : State) (hok : memOk s) : ∀ r, execRdrsp a s = .next r → memOk r := by
  unfold execRdrsp
  intro r h; injection h with h; subst h
  repeat' (first | with_reducible assumption | with_reducible apply keeps_landWith | with_reducible apply keeps_postPkt | with_reducible apply keeps_tileArrival | with_reducible apply keeps_freeOwner | with_reducible apply keeps_storeServe | split | (intro _ _) | (intro _))

theorem keeps_answer (p : Pkt) (node v : Nat) (s : State) (hok : memOk s) : memOk (answer p node v s) := by
  unfold answer
  repeat' (first | with_reducible assumption | with_reducible apply keeps_inject | with_reducible apply keeps_landPkt)

theorem keeps_grantedRead (c : Nat) (p : Pkt) (ecc : Ecc) (s : State) (hok : memOk s) : memOk (grantedRead c p ecc s) := by
  unfold grantedRead
  repeat' (first | with_reducible assumption | with_reducible apply keeps_storeServed | with_reducible apply keeps_clusterEcc | with_reducible apply keeps_answer | split | (intro _ _) | (intro _) | dsimp only | (with_reducible refine keeps_mk ?_) | (with_reducible refine ok_of ?_; first | with_reducible assumption | with_reducible apply keeps_storeServed | with_reducible apply keeps_clusterEcc | with_reducible apply keeps_answer))

theorem keeps_clusterRead (c : Nat) (p : Pkt) (ecc : Ecc) (aged : Bool) (s : State) (hok : memOk s) : memOk (clusterRead c p ecc aged s) := by
  unfold clusterRead
  repeat' (first | with_reducible assumption | with_reducible apply keeps_incM | with_reducible apply keeps_answer | with_reducible apply keeps_grantedRead | split | (intro _ _) | (intro _))

theorem keeps_tileRead (t off : Nat) (p : Pkt) (s : State) (hok : memOk s) : memOk (tileRead t off p s) := by
  unfold tileRead
  repeat' (first | with_reducible assumption | with_reducible apply keeps_flushRead | with_reducible apply keeps_answer | split | (intro _ _) | (intro _))

theorem keeps_execRdreq (a : Service) (ecc : Ecc) (s : State) (hok : memOk s) : ∀ r, execRdreq a ecc s = .next r → memOk r := by
  unfold execRdreq
  intro r h; injection h with h; subst h
  repeat' (first | with_reducible assumption | with_reducible apply keeps_clusterRead | with_reducible apply keeps_tileRead | split | (intro _ _) | (intro _))

theorem keeps_execMergeWindowExpire (c line : Nat) (s : State) (hok : memOk s) : ∀ r, execMergeWindowExpire c line s = .next r → memOk r := by
  unfold execMergeWindowExpire
  intro r h; injection h with h; subst h
  repeat' (first | with_reducible assumption | with_reducible apply keeps_closeMerge)

theorem keeps_clusterGauge (c : Nat) (r : GaugeRep) (s : State) (hok : memOk s) : memOk (clusterGauge c r s) := by
  unfold clusterGauge
  repeat' (first | with_reducible assumption | with_reducible apply keeps_incS)

theorem keeps_xposeReport (code c blk pol : Nat) (p : Pkt) (s : State) (hok : memOk s) : memOk (xposeReport code c blk pol p s) := by
  unfold xposeReport
  repeat' (first | with_reducible assumption | with_reducible apply keeps_raise | with_reducible apply keeps_castBranch | split | (intro _ _) | (intro _))

theorem keeps_xposePolicy (c : Nat) (r : GaugeRep) (p : Pkt) (s : State) (hok : memOk s) : memOk (xposePolicy c r p s) := by
  unfold xposePolicy
  repeat' (first | with_reducible assumption | with_reducible apply keeps_xposeReport | split | (intro _ _) | (intro _))

theorem keeps_imagePackets (p : Pkt) (c v : Nat) (s0 : State) : ∀ (l : List (Nat × Nat × Nat)) (s : State), memOk s →
    memOk (imagePackets p c v s0 l s)
  | [], _, hok => hok
  | (a, d, k) :: rest, s, hok => by
    unfold imagePackets
    exact keeps_imagePackets p c v s0 rest _ (keeps_inject _ _ hok)

theorem keeps_sendImage (p : Pkt) (c v n : Nat) (s : State) (hok : memOk s) : memOk (sendImage p c v n s) := by
  unfold sendImage
  repeat' (first | with_reducible assumption | with_reducible apply keeps_landPkt | with_reducible apply keeps_imagePackets)

theorem keeps_xposeServe (c : Nat) (p : Pkt) (ecc : Ecc) (s : State) (hok : memOk s) : memOk (xposeServe c p ecc s) := by
  unfold xposeServe
  repeat' (first | with_reducible assumption | with_reducible apply keeps_clusterEcc | with_reducible apply keeps_clusterGauge | with_reducible apply keeps_xposePolicy | with_reducible apply keeps_sendImage | split | (intro _ _) | (intro _))

theorem keeps_execTransposeRead (pid : Nat) (ecc : Ecc) (s : State) (hok : memOk s) : ∀ r, execTransposeRead pid ecc s = .next r → memOk r := by
  unfold execTransposeRead
  intro r h; injection h with h; subst h
  repeat' (first | with_reducible assumption | with_reducible apply keeps_xposeServe | split | (intro _ _) | (intro _))

theorem keeps_execCluTestWrite (rq : Requester) (c : Nat) (v : W32) (s : State) (hok : memOk s) : ∀ r, execCluTestWrite rq c v s = .next r → memOk r := by
  unfold execCluTestWrite
  intro r h; injection h with h; subst h
  repeat' (first | with_reducible assumption | with_reducible apply keeps_setWrign | with_reducible apply keeps_writeHits | with_reducible apply keeps_busWrite | split | (intro _ _) | (intro _))

theorem keeps_execCluDarnWrite (rq : Requester) (c row : Nat) (v : W32) (s : State) (hok : memOk s) : ∀ r, execCluDarnWrite rq c row v s = .next r → memOk r := by
  unfold execCluDarnWrite
  intro r h; injection h with h; subst h
  repeat' (first | with_reducible assumption | with_reducible apply keeps_wr | with_reducible apply keeps_setWrign | with_reducible apply keeps_busWrite | split | (intro _ _) | (intro _) | dsimp only | (with_reducible refine keeps_mk ?_) | (with_reducible refine ok_of ?_; first | with_reducible assumption | with_reducible apply keeps_wr | with_reducible apply keeps_setWrign | with_reducible apply keeps_busWrite))

end Sys2Proof.Laws
end

