-- ==== Sys2Proof/Laws/KeepHank.lean ====
section
/-! SUPPORT. Machine/Hank.lean keeps memory in canonical form. -/

namespace Sys2Proof.Laws
open Sys2Proof.Machine

theorem keeps_setFresh (c l : Nat) (b : Bool) (s : State) (hok : memOk s) : memOk (setFresh c l b s) := by
  unfold setFresh
  repeat' (first | with_reducible assumption | split | (intro _ _) | (intro _) | dsimp only | (with_reducible refine keeps_mk ?_) | (with_reducible refine ok_of ?_; first | with_reducible assumption))

theorem keeps_freshen (c l n : Nat) (s : State) (hok : memOk s) : memOk (freshen c l n s) := by
  unfold freshen
  repeat' (first | with_reducible assumption | split | (intro _ _) | (intro _) | dsimp only | (with_reducible refine keeps_mk ?_) | (with_reducible refine ok_of ?_; first | with_reducible assumption))

theorem keeps_bankServed (c src : Nat) (p : Pkt) (s : State) (hok : memOk s) : memOk (bankServed c src p s) := by
  unfold bankServed
  repeat' (first | with_reducible assumption | split | (intro _ _) | (intro _) | dsimp only | (with_reducible refine keeps_mk ?_) | (with_reducible refine ok_of ?_; first | with_reducible assumption))

theorem keeps_hankAdd (c : Nat) (p : Pkt) (ecc : Ecc) (s : State) (hok : memOk s) : memOk (hankAdd c p ecc s) := by
  unfold hankAdd
  repeat' (first | with_reducible assumption | with_reducible apply keeps_incS | with_reducible apply keeps_incM | with_reducible apply keeps_wrLE | with_reducible apply keeps_clusterEcc | with_reducible apply keeps_setFresh)

theorem keeps_execHankAdd (a : Service) (ecc : Ecc) (s : State) (hok : memOk s) : ∀ r, execHankAdd a ecc s = .next r → memOk r := by
  unfold execHankAdd
  intro r h; injection h with h; subst h
  repeat' (first | with_reducible assumption | with_reducible apply keeps_landWith | with_reducible apply keeps_freeOwner | with_reducible apply keeps_bankServed | with_reducible apply keeps_hankAdd | split | (intro _ _) | (intro _))

theorem keeps_hankRead (c off : Nat) (p : Pkt) (ecc : Ecc) (s : State) (hok : memOk s) : memOk (hankRead c off p ecc s) := by
  unfold hankRead
  repeat' (first | with_reducible assumption | with_reducible apply keeps_clusterEcc | with_reducible apply keeps_answer | with_reducible apply keeps_setFresh | split | (intro _ _) | (intro _))

theorem keeps_execHankRead (a : Service) (ecc : Ecc) (s : State) (hok : memOk s) : ∀ r, execHankRead a ecc s = .next r → memOk r := by
  unfold execHankRead
  intro r h; injection h with h; subst h
  repeat' (first | with_reducible assumption | with_reducible apply keeps_bankServed | with_reducible apply keeps_hankRead | split | (intro _ _) | (intro _))

theorem keeps_execHnkFreshGo (rq : Requester) (c : Nat) (v : W32) (s : State) (hok : memOk s) : ∀ r, execHnkFreshGo rq c v s = .next r → memOk r := by
  unfold execHnkFreshGo
  intro r h; injection h with h; subst h
  repeat' (first | with_reducible assumption | with_reducible apply keeps_wr | with_reducible apply keeps_setWrign | with_reducible apply keeps_busCmd | with_reducible apply keeps_freshen | split | (intro _ _) | (intro _) | dsimp only | (with_reducible refine keeps_mk ?_) | (with_reducible refine ok_of ?_; first | with_reducible assumption | with_reducible apply keeps_wr | with_reducible apply keeps_setWrign | with_reducible apply keeps_busCmd | with_reducible apply keeps_freshen))

theorem keeps_execFreshenComplete (c : Nat) (s : State) (hok : memOk s) : ∀ r, execFreshenComplete c s = .next r → memOk r := by
  unfold execFreshenComplete
  intro r h; injection h with h; subst h
  repeat' (first | with_reducible assumption | with_reducible apply keeps_wr | with_reducible apply keeps_freshen | split | (intro _ _) | (intro _) | dsimp only | (with_reducible refine keeps_mk ?_) | (with_reducible refine ok_of ?_; first | with_reducible assumption | with_reducible apply keeps_wr | with_reducible apply keeps_freshen))

theorem keeps_joinFail (c q code : Nat) (p : Pkt) (s : State) (hok : memOk s) : memOk (joinFail c q code p s) := by
  unfold joinFail
  repeat' (first | with_reducible assumption | with_reducible apply keeps_castBranch | with_reducible apply keeps_landPkt)

theorem keeps_joinCredits (t : Nat) (s : State) (hok : memOk s) : memOk (joinCredits t s) := by
  unfold joinCredits
  repeat' (first | with_reducible assumption | with_reducible apply keeps_pump | split | (intro _ _) | (intro _) | dsimp only | (with_reducible refine keeps_mk ?_) | (with_reducible refine ok_of ?_; first | with_reducible assumption | with_reducible apply keeps_pump))

theorem keeps_joinClear (c q : Nat) (s : State) (hok : memOk s) : memOk (joinClear c q s) := by
  unfold joinClear
  repeat' (first | with_reducible assumption | with_reducible apply keeps_wr | with_reducible apply keeps_freshen)

theorem keeps_joinCopy (c q dest n : Nat) (ecc : Ecc) (p : Pkt) (s0 : State) (hok : memOk s0) : memOk (joinCopy c q dest n ecc p s0) := by
  unfold joinCopy
  repeat' (first | with_reducible assumption | with_reducible apply keeps_pushPieces | with_reducible apply keeps_clusterEcc | split | (intro _ _) | (intro _) | dsimp only | (with_reducible refine keeps_mk ?_) | (with_reducible refine ok_of ?_; first | with_reducible assumption | with_reducible apply keeps_pushPieces | with_reducible apply keeps_clusterEcc))

theorem keeps_joinLast (c q : Nat) (cecc : Ecc) (p : Pkt) (s : State) (hok : memOk s) : memOk (joinLast c q cecc p s) := by
  unfold joinLast
  repeat' (first | with_reducible assumption | with_reducible apply keeps_wr | with_reducible apply keeps_incS | with_reducible apply keeps_castBranch | with_reducible apply keeps_landPkt | with_reducible apply keeps_joinClear | with_reducible apply keeps_joinCopy | split | (intro _ _) | (intro _) | dsimp only | (with_reducible refine keeps_mk ?_) | (with_reducible refine ok_of ?_; first | with_reducible assumption | with_reducible apply keeps_wr | with_reducible apply keeps_incS | with_reducible apply keeps_castBranch | with_reducible apply keeps_landPkt | with_reducible apply keeps_joinClear | with_reducible apply keeps_joinCopy))

theorem keeps_joinApply (c : Nat) (p : Pkt) (ecc cecc : Ecc) (s : State) (hok : memOk s) : memOk (joinApply c p ecc cecc s) := by
  unfold joinApply
  repeat' (first | with_reducible assumption | with_reducible apply keeps_wrLE | with_reducible apply keeps_landPkt | with_reducible apply keeps_clusterEcc | with_reducible apply keeps_setFresh | with_reducible apply keeps_joinFail | with_reducible apply keeps_joinLast | split | (intro _ _) | (intro _) | dsimp only | (with_reducible refine keeps_mk ?_) | (with_reducible refine ok_of ?_; first | with_reducible assumption | with_reducible apply keeps_wrLE | with_reducible apply keeps_landPkt | with_reducible apply keeps_clusterEcc | with_reducible apply keeps_setFresh | with_reducible apply keeps_joinFail | with_reducible apply keeps_joinLast))

theorem keeps_execJoin (a : Service) (ecc : JoinEcc) (s : State) (hok : memOk s) : ∀ r, execJoin a ecc s = .next r → memOk r := by
  unfold execJoin
  intro r h; injection h with h; subst h
  repeat' (first | with_reducible assumption | with_reducible apply keeps_bankServed | with_reducible apply keeps_joinCredits | with_reducible apply keeps_joinApply | split | (intro _ _) | (intro _) | dsimp only | (with_reducible refine keeps_mk ?_) | (with_reducible refine ok_of ?_; first | with_reducible assumption | with_reducible apply keeps_bankServed | with_reducible apply keeps_joinCredits | with_reducible apply keeps_joinApply))

end Sys2Proof.Laws
end

