-- ==== Sys2Proof/Laws/KeepMemory.lean ====
section
/-! SUPPORT. Machine/Memory.lean keeps memory in canonical form. -/

namespace Sys2Proof.Laws
open Sys2Proof.Machine

theorem keeps_markUe (k x : Nat) (s : State) (hok : memOk s) : memOk (markUe k x s) := by
  unfold markUe
  repeat' (first | with_reducible assumption | with_reducible apply keeps_wr | split | (intro _ _) | (intro _))

theorem keeps_unitUe (node p x : Nat) (s : State) (hok : memOk s) : memOk (unitUe node p x s) := by
  unfold unitUe
  repeat' (first | with_reducible assumption | with_reducible apply keeps_castBranch | with_reducible apply keeps_markUe | split | (intro _ _) | (intro _))

theorem keeps_countMoved (part : Option Nat) (unit n : Nat) (s : State) (hok : memOk s) : memOk (countMoved part unit n s) := by
  unfold countMoved
  repeat' (first | with_reducible assumption | split | (intro _ _) | (intro _) | dsimp only | (with_reducible refine keeps_mk ?_) | (with_reducible refine ok_of ?_; first | with_reducible assumption))

theorem keeps_queueReq (r : MReq) (s0 : State) (hok : memOk s0) : memOk (queueReq r s0) := by
  unfold queueReq
  repeat' (first | with_reducible assumption | with_reducible apply keeps_countMoved | split | (intro _ _) | (intro _) | dsimp only | (with_reducible refine keeps_mk ?_) | (with_reducible refine ok_of ?_; first | with_reducible assumption | with_reducible apply keeps_countMoved))

theorem keeps_memAccept (p : Pkt) (k ch ca : Nat) (s : State) (hok : memOk s) : memOk (memAccept p k ch ca s) := by
  unfold memAccept
  repeat' (first | with_reducible assumption | with_reducible apply keeps_wrEn | with_reducible apply keeps_landPkt | with_reducible apply keeps_landWith | with_reducible apply keeps_freeOwner | with_reducible apply keeps_queueReq | split | (intro _ _) | (intro _) | dsimp only | (with_reducible refine keeps_mk ?_) | (with_reducible refine ok_of ?_; first | with_reducible assumption | with_reducible apply keeps_wrEn | with_reducible apply keeps_landPkt | with_reducible apply keeps_landWith | with_reducible apply keeps_freeOwner | with_reducible apply keeps_queueReq))

theorem keeps_execMemAccept (pid : Nat) (s : State) (hok : memOk s) : ∀ r, execMemAccept pid s = .next r → memOk r := by
  unfold execMemAccept
  intro r h; injection h with h; subst h
  repeat' (first | with_reducible assumption | with_reducible apply keeps_memAccept | split | (intro _ _) | (intro _) | dsimp only | (with_reducible refine keeps_mk ?_) | (with_reducible refine ok_of ?_; first | with_reducible assumption | with_reducible apply keeps_memAccept))

theorem keeps_unitAccept (write : Bool) (cls node : Nat) (part : Option Nat) (a n : Nat) (s : State) (hok : memOk s) : memOk (unitAccept write cls node part a n s) := by
  unfold unitAccept
  repeat' (first | with_reducible assumption | with_reducible apply keeps_queueReq | with_reducible apply keeps_foldl | split | (intro _ _) | (intro _))

theorem keeps_takenWhole (act : State → State) (s : State) (hact : ∀ s, memOk s → memOk (act s)) (hok : memOk s) : memOk (takenWhole act s) := by
  unfold takenWhole
  repeat' (first | with_reducible assumption | with_reducible apply hact | split | (intro _ _) | (intro _) | dsimp only | (with_reducible refine keeps_mk ?_) | (with_reducible refine ok_of ?_; first | with_reducible assumption | with_reducible apply hact))

theorem keeps_execMemCtrlEnWrite (rq : Requester) (k : Nat) (v : W32) (s : State) (hok : memOk s) : ∀ r, execMemCtrlEnWrite rq k v s = .next r → memOk r := by
  unfold execMemCtrlEnWrite
  intro r h; injection h with h; subst h
  repeat' (first | with_reducible assumption | with_reducible apply keeps_busCmd | split | (intro _ _) | (intro _))

theorem keeps_burstEcc (r : MReq) (ecc : Ecc) (s : State) (hok : memOk s) : memOk (burstEcc r ecc s) := by
  unfold burstEcc
  repeat' (first | with_reducible assumption | with_reducible apply keeps_incS | with_reducible apply keeps_raise | with_reducible apply keeps_trapSender | with_reducible apply keeps_markUe | split | (intro _ _) | (intro _) | dsimp only | (with_reducible refine keeps_mk ?_) | (with_reducible refine ok_of ?_; first | with_reducible assumption | with_reducible apply keeps_incS | with_reducible apply keeps_raise | with_reducible apply keeps_trapSender | with_reducible apply keeps_markUe))

theorem keeps_burst (r : MReq) (ecc : Ecc) (s : State) (hok : memOk s) : memOk (burst r ecc s) := by
  unfold burst
  repeat' (first | with_reducible assumption | with_reducible apply keeps_incM | with_reducible apply keeps_inject | with_reducible apply keeps_burstEcc | split | (intro _ _) | (intro _) | dsimp only | (with_reducible refine keeps_mk ?_) | (with_reducible refine ok_of ?_; first | with_reducible assumption | with_reducible apply keeps_incM | with_reducible apply keeps_inject | with_reducible apply keeps_burstEcc))

theorem keeps_execBurstIssue (k ch i aged : Nat) (ecc : Ecc) (s : State) (hok : memOk s) : ∀ r, execBurstIssue k ch i aged ecc s = .next r → memOk r := by
  unfold execBurstIssue
  intro r h; injection h with h; subst h
  repeat' (first | with_reducible assumption | with_reducible apply keeps_burst | split | (intro _ _) | (intro _) | dsimp only | (with_reducible refine keeps_mk ?_) | (with_reducible refine ok_of ?_; first | with_reducible assumption | with_reducible apply keeps_burst))

theorem keeps_execRefresh (k ch bank : Nat) (s : State) (hok : memOk s) : ∀ r, execRefresh k ch bank s = .next r → memOk r := by
  unfold execRefresh
  intro r h; injection h with h; subst h
  repeat' (first | with_reducible assumption | split | (intro _ _) | (intro _) | dsimp only | (with_reducible refine keeps_mk ?_) | (with_reducible refine ok_of ?_; first | with_reducible assumption))

theorem keeps_execScrub (k ch us : Nat) (s : State) (hok : memOk s) : ∀ r, execScrub k ch us s = .next r → memOk r := by
  unfold execScrub
  intro r h; injection h with h; subst h
  repeat' (first | with_reducible assumption | with_reducible apply keeps_queueReq | split | (intro _ _) | (intro _) | dsimp only | (with_reducible refine keeps_mk ?_) | (with_reducible refine ok_of ?_; first | with_reducible assumption | with_reducible apply keeps_queueReq))

theorem keeps_execPhyTrainGo (rq : Requester) (k : Nat) (v : W32) (s : State) (hok : memOk s) : ∀ r, execPhyTrainGo rq k v s = .next r → memOk r := by
  unfold execPhyTrainGo
  intro r h; injection h with h; subst h
  repeat' (first | with_reducible assumption | with_reducible apply keeps_wr | with_reducible apply keeps_setWrign | with_reducible apply keeps_busCmd | split | (intro _ _) | (intro _) | dsimp only | (with_reducible refine keeps_mk ?_) | (with_reducible refine ok_of ?_; first | with_reducible assumption | with_reducible apply keeps_wr | with_reducible apply keeps_setWrign | with_reducible apply keeps_busCmd))

theorem keeps_zeroStack (k : Nat) (s : State) (hok : memOk s) : memOk (zeroStack k s) := by
  unfold zeroStack
  repeat' (first | with_reducible assumption | (with_reducible refine of_fst (by with_reducible assumption) ?_) | (with_reducible refine of_snd (by with_reducible assumption) ?_) | split | (intro _ _) | (intro _) | dsimp only | (with_reducible refine keeps_mk ?_) | (with_reducible refine ok_of ?_; first | with_reducible assumption | split | dsimp only | (with_reducible apply of_fst; with_reducible assumption) | (with_reducible apply of_snd; with_reducible assumption)) | (with_reducible refine ok_mem ?_) | (with_reducible refine ok_host ?_) | (with_reducible refine ok_filter ?_) | (with_reducible refine ok_clear ?_) | (with_reducible refine ok_mem_fold ?_))

theorem keeps_setTotal (s : State) (hok : memOk s) : memOk (setTotal s) := by
  unfold setTotal
  repeat' (first | with_reducible assumption | with_reducible apply keeps_wr)

theorem keeps_trainRecord (start : Bool) (e : ErrRec) (s : State) (hok : memOk s) : memOk (trainRecord start e s) := by
  unfold trainRecord
  repeat' (first | with_reducible assumption | with_reducible apply keeps_raise | split | (intro _ _) | (intro _) | dsimp only | (with_reducible refine keeps_mk ?_) | (with_reducible refine ok_of ?_; first | with_reducible assumption | with_reducible apply keeps_raise))

theorem keeps_putRecord (k v : Nat) (s : State) (hok : memOk s) : memOk (putRecord k v s) := by
  unfold putRecord
  generalize recordLen + 4 = n
  repeat' (first | with_reducible assumption | (with_reducible refine of_fst (by with_reducible assumption) ?_) | (with_reducible refine of_snd (by with_reducible assumption) ?_) | with_reducible apply keeps_foldl | with_reducible apply keeps_foldl_fst | with_reducible apply keeps_foldl_snd | split | (intro _ _) | (intro _) | dsimp only | (with_reducible refine keeps_mk ?_) | (with_reducible refine ok_of ?_; first | with_reducible assumption | with_reducible apply keeps_foldl | with_reducible apply keeps_foldl_fst | with_reducible apply keeps_foldl_snd | split | dsimp only | (with_reducible apply of_fst; with_reducible assumption) | (with_reducible apply of_snd; with_reducible assumption)) | (with_reducible refine ok_mem ?_) | (with_reducible refine ok_host ?_) | (with_reducible refine ok_filter ?_) | (with_reducible refine ok_clear ?_) | (with_reducible refine ok_mem_fold ?_))

theorem keeps_writeRecord (k : Nat) (lanes : List LaneEyes) (s : State) (hok : memOk s) : memOk (writeRecord k lanes s) :=
  keeps_putRecord k _ s hok

theorem keeps_fullTraining (k kind : Nat) (lanes : List LaneEyes) (s : State) (hok : memOk s) : memOk (fullTraining k kind lanes s) := by
  unfold fullTraining
  repeat' (first | with_reducible assumption | with_reducible apply keeps_wr | with_reducible apply keeps_zeroStack | with_reducible apply keeps_trainRecord | with_reducible apply keeps_writeRecord | with_reducible apply keeps_foldl | with_reducible apply keeps_foldl_fst | with_reducible apply keeps_foldl_snd | split | (intro _ _) | (intro _) | dsimp only | (with_reducible refine keeps_mk ?_) | (with_reducible refine ok_of ?_; first | with_reducible assumption | with_reducible apply keeps_wr | with_reducible apply keeps_zeroStack | with_reducible apply keeps_trainRecord | with_reducible apply keeps_writeRecord | with_reducible apply keeps_foldl | with_reducible apply keeps_foldl_fst | with_reducible apply keeps_foldl_snd))

theorem keeps_execStackTrainingComplete (k : Nat) (lanes : List LaneEyes) (s : State) (hok : memOk s) : ∀ r, execStackTrainingComplete k lanes s = .next r → memOk r := by
  unfold execStackTrainingComplete
  intro r h; injection h with h; subst h
  repeat' (first | with_reducible assumption | with_reducible apply keeps_wr | with_reducible apply keeps_setTotal | with_reducible apply keeps_fullTraining | split | (intro _ _) | (intro _) | dsimp only | (with_reducible refine keeps_mk ?_) | (with_reducible refine ok_of ?_; first | with_reducible assumption | with_reducible apply keeps_wr | with_reducible apply keeps_setTotal | with_reducible apply keeps_fullTraining))

theorem keeps_execPhyMrunGo (rq : Requester) (k : Nat) (v : W32) (s : State) (hok : memOk s) : ∀ r, execPhyMrunGo rq k v s = .next r → memOk r := by
  unfold execPhyMrunGo
  intro r h; injection h with h; subst h
  repeat' (first | with_reducible assumption | with_reducible apply keeps_wr | with_reducible apply keeps_setWrign | with_reducible apply keeps_busCmd | split | (intro _ _) | (intro _))

theorem keeps_execMarginRunComplete (k errs : Nat) (s : State) (hok : memOk s) : ∀ r, execMarginRunComplete k errs s = .next r → memOk r := by
  unfold execMarginRunComplete
  intro r h; injection h with h; subst h
  repeat' (first | with_reducible assumption | (with_reducible refine of_fst (by with_reducible assumption) ?_) | (with_reducible refine of_snd (by with_reducible assumption) ?_) | with_reducible apply keeps_wr | with_reducible apply keeps_foldl | with_reducible apply keeps_foldl_fst | with_reducible apply keeps_foldl_snd | split | (intro _ _) | (intro _) | dsimp only | (with_reducible refine keeps_mk ?_) | (with_reducible refine ok_of ?_; first | with_reducible assumption | with_reducible apply keeps_wr | with_reducible apply keeps_foldl | with_reducible apply keeps_foldl_fst | with_reducible apply keeps_foldl_snd | split | dsimp only | (with_reducible apply of_fst; with_reducible assumption) | (with_reducible apply of_snd; with_reducible assumption)) | (with_reducible refine ok_mem ?_) | (with_reducible refine ok_host ?_) | (with_reducible refine ok_filter ?_) | (with_reducible refine ok_clear ?_) | (with_reducible refine ok_mem_fold ?_))

end Sys2Proof.Laws
end

