-- ==== Sys2Proof/Laws/KeepBlocker.lean ====
section
/-! SUPPORT. Machine/Blocker.lean keeps memory in canonical form. -/

namespace Sys2Proof.Laws
open Sys2Proof.Machine

theorem keeps_unitErr (node : Nat) (part : Option Nat) (x : Nat) (s : State) (hok : memOk s) : memOk (unitErr node part x s) := by
  unfold unitErr
  repeat' (first | with_reducible assumption | with_reducible apply keeps_raise | with_reducible apply keeps_clusterEcc | with_reducible apply keeps_markUe | with_reducible apply keeps_unitUe | split | (intro _ _) | (intro _))

theorem keeps_countCe (ce : List (Nat × Nat)) (reads : List (Nat × Nat)) (s : State) (hok : memOk s) : memOk (countCe ce reads s) := by
  unfold countCe
  repeat' (first | with_reducible assumption | with_reducible apply keeps_incS | with_reducible apply keeps_foldl | split | (intro _ _) | (intro _))

theorem keeps_unitRead (cls node : Nat) (part ue : Option Nat) (a n : Nat) (s : State) (hok : memOk s) : memOk (unitRead cls node part ue a n s).2 := by
  unfold unitRead
  repeat' (first | with_reducible assumption | with_reducible apply keeps_flushRead | with_reducible apply keeps_setFresh | with_reducible apply keeps_unitAccept | with_reducible apply keeps_foldl | with_reducible apply keeps_foldl_fst | with_reducible apply keeps_foldl_snd | split | (intro _ _) | (intro _) | dsimp only | (with_reducible refine keeps_mk ?_) | (with_reducible refine ok_of ?_; first | with_reducible assumption | with_reducible apply keeps_flushRead | with_reducible apply keeps_setFresh | with_reducible apply keeps_unitAccept | with_reducible apply keeps_foldl | with_reducible apply keeps_foldl_fst | with_reducible apply keeps_foldl_snd))

theorem keeps_unitWrite (cls node p a n v : Nat) (s : State) (hok : memOk s) : memOk (unitWrite cls node p a n v s) := by
  unfold unitWrite
  repeat' (first | with_reducible assumption | with_reducible apply keeps_wrLE | with_reducible apply keeps_pushPieces | with_reducible apply keeps_unitAccept | split | (intro _ _) | (intro _))

theorem keeps_unitRecord (node p a v : Nat) (sig : Bool) (stitch : Nat) (s : State) (hok : memOk s) : memOk (unitRecord node p a v sig stitch s) := by
  unfold unitRecord
  repeat' (first | with_reducible assumption | with_reducible apply keeps_inject)

theorem keeps_unitRefused (u : UnitId) (node p x : Nat) (s : State) (hok : memOk s) : memOk (unitRefused u node p x s) := by
  unfold unitRefused
  repeat' (first | with_reducible assumption | with_reducible apply keeps_raise | with_reducible apply keeps_castBranch | split | (intro _ _) | (intro _))

theorem keeps_descRefuse (d : Desc) (code object source : Nat) (s : State) (hok : memOk s) : memOk (descRefuse d code object source s) := by
  unfold descRefuse
  repeat' (first | with_reducible assumption | with_reducible apply keeps_raise | with_reducible apply keeps_enterTrap | split | (intro _ _) | (intro _) | dsimp only | (with_reducible refine keeps_mk ?_) | (with_reducible refine ok_of ?_; first | with_reducible assumption | with_reducible apply keeps_raise | with_reducible apply keeps_enterTrap))

theorem keeps_gatherRead (b p a n : Nat) (ue : Option Nat) (ce : List (Nat × Nat)) (s : State) (hok : memOk s) : memOk (gatherRead b p a n ue ce s).2 := by
  unfold gatherRead
  repeat' (first | with_reducible assumption | with_reducible apply keeps_unitErr | with_reducible apply keeps_countCe | with_reducible apply keeps_unitRead | with_reducible apply keeps_unitRefused | split | (intro _ _) | (intro _))

theorem keeps_gatherServe (d : Desc) (p slot : Nat) (ue : Option Nat) (ce : List (Nat × Nat)) (s : State) (hok : memOk s) : memOk (gatherServe d p slot ue ce s) := by
  unfold gatherServe
  repeat' (first | with_reducible assumption | with_reducible apply keeps_pushPieces | with_reducible apply keeps_gatherRead | split | (intro _ _) | (intro _) | dsimp only | (with_reducible refine keeps_mk ?_) | (with_reducible refine ok_of ?_; first | with_reducible assumption | with_reducible apply keeps_pushPieces | with_reducible apply keeps_gatherRead))

theorem keeps_gatherGo (d : Desc) (p slot : Nat) (ue : Option Nat) (ce : List (Nat × Nat)) (s : State) (hok : memOk s) : memOk (gatherGo d p slot ue ce s) := by
  unfold gatherGo
  repeat' (first | with_reducible assumption | with_reducible apply keeps_unitRefused | with_reducible apply keeps_descRefuse | with_reducible apply keeps_gatherServe | split | (intro _ _) | (intro _))

theorem keeps_shardRequest (kind : Nat) (act : Desc → Nat → State → State) (bad : State → Desc → Nat → Bool) (i : Nat) (s : State) (hact : ∀ a0 a1 s, memOk s → memOk (act a0 a1 s)) (hok : memOk s) : memOk (shardRequest kind act bad i s) := by
  unfold shardRequest
  repeat' (first | with_reducible assumption | with_reducible apply keeps_descRefuse | with_reducible apply hact | split | (intro _ _) | (intro _) | dsimp only | (with_reducible refine keeps_mk ?_) | (with_reducible refine ok_of ?_; first | with_reducible assumption | with_reducible apply keeps_descRefuse | with_reducible apply hact))

theorem keeps_execGather (i : Nat) (out : ReadOut) (s : State) (hok : memOk s) : ∀ r, execGather i out s = .next r → memOk r := by
  unfold execGather
  intro r h; injection h with h; subst h
  repeat' (first | with_reducible assumption | with_reducible apply keeps_takenWhole | with_reducible apply keeps_gatherGo | with_reducible apply keeps_shardRequest | split | (intro _ _) | (intro _))

theorem keeps_execGatherchk (i : Nat) (out : ReadOut) (s : State) (hok : memOk s) : ∀ r, execGatherchk i out s = .next r → memOk r := by
  unfold execGatherchk
  intro r h; injection h with h; subst h
  repeat' (first | with_reducible assumption | with_reducible apply keeps_takenWhole | with_reducible apply keeps_descRefuse | with_reducible apply keeps_gatherGo | with_reducible apply keeps_shardRequest | split | (intro _ _) | (intro _))

theorem keeps_execShardRelease (i : Nat) (s : State) (hok : memOk s) : ∀ r, execShardRelease i s = .next r → memOk r := by
  unfold execShardRelease
  intro r h; injection h with h; subst h
  repeat' (first | with_reducible assumption | with_reducible apply keeps_shardRequest | split | (intro _ _) | (intro _) | dsimp only | (with_reducible refine keeps_mk ?_) | (with_reducible refine ok_of ?_; first | with_reducible assumption | with_reducible apply keeps_shardRequest))

theorem keeps_execGatherReceipt (i : Nat) (s : State) (hok : memOk s) : ∀ r, execGatherReceipt i s = .next r → memOk r := by
  unfold execGatherReceipt
  intro r h; injection h with h; subst h
  repeat' (first | with_reducible assumption | with_reducible apply keeps_unitRecord | split | (intro _ _) | (intro _) | dsimp only | (with_reducible refine keeps_mk ?_) | (with_reducible refine ok_of ?_; first | with_reducible assumption | with_reducible apply keeps_unitRecord))

theorem keeps_execPinTimerExpire (b handle : Nat) (s : State) (hok : memOk s) : ∀ r, execPinTimerExpire b handle s = .next r → memOk r := by
  unfold execPinTimerExpire
  intro r h; injection h with h; subst h
  repeat' (first | with_reducible assumption | with_reducible apply keeps_incS | with_reducible apply keeps_castBranch | split | (intro _ _) | (intro _) | dsimp only | (with_reducible refine keeps_mk ?_) | (with_reducible refine ok_of ?_; first | with_reducible assumption | with_reducible apply keeps_incS | with_reducible apply keeps_castBranch))

theorem keeps_execUpdate (i : Nat) (s : State) (hok : memOk s) : ∀ r, execUpdate i s = .next r → memOk r := by
  unfold execUpdate
  intro r h; injection h with h; subst h
  repeat' (first | with_reducible assumption | with_reducible apply keeps_descRefuse | split | (intro _ _) | (intro _) | dsimp only | (with_reducible refine keeps_mk ?_) | (with_reducible refine ok_of ?_; first | with_reducible assumption | with_reducible apply keeps_descRefuse))

theorem keeps_headerStep (b p d : Nat) (s : State) (hok : memOk s) : memOk (headerStep b p d s).2 := by
  unfold headerStep
  repeat' (first | with_reducible assumption | with_reducible apply keeps_unitRead | with_reducible apply keeps_unitRefused | split | (intro _ _) | (intro _))

theorem keeps_finishUpd (u : Upd) (status : Nat) (s : State) (hok : memOk s) : memOk (finishUpd u status s) := by
  unfold finishUpd
  repeat' (first | with_reducible assumption | with_reducible apply keeps_unitRecord | with_reducible apply keeps_unitRefused | with_reducible apply keeps_headerStep | split | (intro _ _) | (intro _) | dsimp only | (with_reducible refine keeps_mk ?_) | (with_reducible refine ok_of ?_; first | with_reducible assumption | with_reducible apply keeps_unitRecord | with_reducible apply keeps_unitRefused | with_reducible apply keeps_headerStep))

theorem keeps_putUpd (u : Upd) (s : State) (hok : memOk s) : memOk (putUpd u s) := by
  unfold putUpd
  repeat' (first | with_reducible assumption | split | (intro _ _) | (intro _) | dsimp only | (with_reducible refine keeps_mk ?_) | (with_reducible refine ok_of ?_; first | with_reducible assumption))

theorem keeps_endUpd (u : Upd) (status : Nat) (s : State) (hok : memOk s) : memOk (endUpd u status s) := by
  unfold endUpd
  repeat' (first | with_reducible assumption | with_reducible apply keeps_finishUpd | with_reducible apply keeps_putUpd | split | (intro _ _) | (intro _))

theorem keeps_updWindow (u : Upd) (x : Nat) (s : State) (hok : memOk s) : memOk (updWindow u x s) := by
  unfold updWindow
  repeat' (first | with_reducible assumption | with_reducible apply keeps_unitRefused | with_reducible apply keeps_endUpd)

theorem keeps_abortUpd (b p tag who : Nat) (s : State) (hok : memOk s) : memOk (abortUpd b p tag who s) := by
  unfold abortUpd
  repeat' (first | with_reducible assumption | with_reducible apply keeps_raise | with_reducible apply keeps_endUpd | split | (intro _ _) | (intro _))

theorem keeps_execAbort (i : Nat) (s : State) (hok : memOk s) : ∀ r, execAbort i s = .next r → memOk r := by
  unfold execAbort
  intro r h; injection h with h; subst h
  repeat' (first | with_reducible assumption | with_reducible apply keeps_descRefuse | with_reducible apply keeps_abortUpd | split | (intro _ _) | (intro _) | dsimp only | (with_reducible refine keeps_mk ?_) | (with_reducible refine ok_of ?_; first | with_reducible assumption | with_reducible apply keeps_descRefuse | with_reducible apply keeps_abortUpd))

theorem keeps_execBlkAbortGo (rq : Requester) (b : Nat) (v : W32) (s : State) (hok : memOk s) : ∀ r, execBlkAbortGo rq b v s = .next r → memOk r := by
  unfold execBlkAbortGo
  intro r h; injection h with h; subst h
  repeat' (first | with_reducible assumption | with_reducible apply keeps_busCmd | with_reducible apply keeps_abortUpd | split | (intro _ _) | (intro _))

theorem keeps_updRead (u : Upd) (ue : Option Nat) (a n : Nat) (s : State) (hok : memOk s) : memOk (updRead u ue a n s).2 := by
  unfold updRead
  repeat' (first | with_reducible assumption | with_reducible apply keeps_unitErr | with_reducible apply keeps_unitRead | split | (intro _ _) | (intro _))

theorem keeps_beginUpd (u : Upd) (ge : Nat) (ue : Option Nat) (s : State) (hok : memOk s) : memOk (beginUpd u ge ue s) := by
  unfold beginUpd
  repeat' (first | with_reducible assumption | with_reducible apply keeps_putUpd | with_reducible apply keeps_endUpd | with_reducible apply keeps_updWindow | with_reducible apply keeps_updRead | split | (intro _ _) | (intro _))

theorem keeps_startUpd (b : Nat) (ue : Option Nat) (ce : List (Nat × Nat)) (s : State) (hok : memOk s) : memOk (startUpd b ue ce s) := by
  unfold startUpd
  repeat' (first | with_reducible assumption | with_reducible apply keeps_castBranch | with_reducible apply keeps_countCe | with_reducible apply keeps_endUpd | with_reducible apply keeps_updWindow | with_reducible apply keeps_updRead | with_reducible apply keeps_beginUpd | split | (intro _ _) | (intro _) | dsimp only | (with_reducible refine keeps_mk ?_) | (with_reducible refine ok_of ?_; first | with_reducible assumption | with_reducible apply keeps_castBranch | with_reducible apply keeps_countCe | with_reducible apply keeps_endUpd | with_reducible apply keeps_updWindow | with_reducible apply keeps_updRead | with_reducible apply keeps_beginUpd))

theorem keeps_execUpdateStart (u : UpdateReads) (s : State) (hok : memOk s) : ∀ r, execUpdateStart u s = .next r → memOk r := by
  unfold execUpdateStart
  intro r h; injection h with h; subst h
  repeat' (first | with_reducible assumption | with_reducible apply keeps_takenWhole | with_reducible apply keeps_startUpd)

theorem keeps_blkGauge (b : Nat) (r : GaugeRep) (s : State) (hok : memOk s) : memOk (blkGauge b r s) := by
  unfold blkGauge
  repeat' (first | with_reducible assumption | with_reducible apply keeps_incS)

theorem keeps_updEscapes (u : Upd) : ∀ (n : Nat) (s : State), memOk s → memOk (updEscapes u n s)
  | 0, _, hok => hok
  | n + 1, s, hok => by
    unfold updEscapes
    apply keeps_updEscapes
    repeat' (first | with_reducible assumption | with_reducible apply keeps_raise | with_reducible apply keeps_castBranch | split)

theorem keeps_emitInto (u : Upd) (e : List (Nat × Nat × Nat) × GaugeRep) (s : State) (hok : memOk s) : memOk (emitInto u e s) := by
  unfold emitInto
  repeat' (first | with_reducible assumption | with_reducible apply keeps_unitWrite | with_reducible apply keeps_blkGauge | with_reducible apply keeps_updEscapes | with_reducible apply keeps_foldl | with_reducible apply keeps_foldl_fst | with_reducible apply keeps_foldl_snd | split | (intro _ _) | (intro _) | dsimp only | (with_reducible refine keeps_mk ?_) | (with_reducible refine ok_of ?_; first | with_reducible assumption | with_reducible apply keeps_unitWrite | with_reducible apply keeps_blkGauge | with_reducible apply keeps_updEscapes | with_reducible apply keeps_foldl | with_reducible apply keeps_foldl_fst | with_reducible apply keeps_foldl_snd))

theorem keeps_readMoments (u : Upd) (j : Nat) (ue : Option Nat) (s : State) (hok : memOk s) : memOk (readMoments u j ue s).2.2 := by
  unfold readMoments
  repeat' (first | with_reducible assumption | with_reducible apply keeps_updRead | with_reducible apply keeps_foldl | with_reducible apply keeps_foldl_fst | with_reducible apply keeps_foldl_snd | split | (intro _ _) | (intro _) | dsimp only | (with_reducible refine keeps_mk ?_) | (with_reducible refine ok_of ?_; first | with_reducible assumption | with_reducible apply keeps_updRead | with_reducible apply keeps_foldl | with_reducible apply keeps_foldl_fst | with_reducible apply keeps_foldl_snd))

theorem keeps_oldMoments (u : Upd) (j : Nat) (ue : Option Nat) (s : State) (hok : memOk s) : memOk (oldMoments u j ue s).2 := by
  unfold oldMoments
  repeat' (first | with_reducible assumption | with_reducible apply keeps_updRead)

theorem keeps_nonFinCheck (u : Upd) (gs : List Nat) (s : State) (hok : memOk s) : memOk (nonFinCheck u gs s).1 := by
  unfold nonFinCheck
  repeat' (first | with_reducible assumption | with_reducible apply keeps_incS | with_reducible apply keeps_raise | with_reducible apply keeps_castBranch | split | (intro _ _) | (intro _) | dsimp only | (with_reducible refine keeps_mk ?_) | (with_reducible refine ok_of ?_; first | with_reducible assumption | with_reducible apply keeps_incS | with_reducible apply keeps_raise | with_reducible apply keeps_castBranch))

theorem keeps_blockPass1 (u : Upd) (ue : Option Nat) (s : State) (hok : memOk s) : memOk (blockPass1 u ue s) := by
  unfold blockPass1
  repeat' (first | with_reducible assumption | with_reducible apply keeps_unitWrite | with_reducible apply keeps_putUpd | with_reducible apply keeps_endUpd | with_reducible apply keeps_updWindow | with_reducible apply keeps_updRead | with_reducible apply keeps_readMoments | with_reducible apply keeps_nonFinCheck | split | (intro _ _) | (intro _) | dsimp only | (with_reducible refine keeps_mk ?_) | (with_reducible refine ok_of ?_; first | with_reducible assumption | with_reducible apply keeps_unitWrite | with_reducible apply keeps_putUpd | with_reducible apply keeps_endUpd | with_reducible apply keeps_updWindow | with_reducible apply keeps_updRead | with_reducible apply keeps_readMoments | with_reducible apply keeps_nonFinCheck))

theorem keeps_blockPass2 (u : Upd) (ue : Option Nat) (s : State) (hok : memOk s) : memOk (blockPass2 u ue s) := by
  unfold blockPass2
  repeat' (first | with_reducible assumption | with_reducible apply keeps_incM | with_reducible apply keeps_unitWrite | with_reducible apply keeps_putUpd | with_reducible apply keeps_endUpd | with_reducible apply keeps_updWindow | with_reducible apply keeps_updRead | with_reducible apply keeps_emitInto | with_reducible apply keeps_readMoments | with_reducible apply keeps_oldMoments | with_reducible apply keeps_nonFinCheck | with_reducible apply keeps_foldl | with_reducible apply keeps_foldl_fst | with_reducible apply keeps_foldl_snd | split | (intro _ _) | (intro _) | dsimp only | (with_reducible refine keeps_mk ?_) | (with_reducible refine ok_of ?_; first | with_reducible assumption | with_reducible apply keeps_incM | with_reducible apply keeps_unitWrite | with_reducible apply keeps_putUpd | with_reducible apply keeps_endUpd | with_reducible apply keeps_updWindow | with_reducible apply keeps_updRead | with_reducible apply keeps_emitInto | with_reducible apply keeps_readMoments | with_reducible apply keeps_oldMoments | with_reducible apply keeps_nonFinCheck | with_reducible apply keeps_foldl | with_reducible apply keeps_foldl_fst | with_reducible apply keeps_foldl_snd))

theorem keeps_blockPass3 (u : Upd) (ue : Option Nat) (s : State) (hok : memOk s) : memOk (blockPass3 u ue s) := by
  unfold blockPass3
  repeat' (first | with_reducible assumption | with_reducible apply keeps_putUpd | with_reducible apply keeps_updWindow | with_reducible apply keeps_updRead | with_reducible apply keeps_emitInto | with_reducible apply keeps_foldl | with_reducible apply keeps_foldl_fst | with_reducible apply keeps_foldl_snd | split | (intro _ _) | (intro _) | dsimp only | (with_reducible refine keeps_mk ?_) | (with_reducible refine ok_of ?_; first | with_reducible assumption | with_reducible apply keeps_putUpd | with_reducible apply keeps_updWindow | with_reducible apply keeps_updRead | with_reducible apply keeps_emitInto | with_reducible apply keeps_foldl | with_reducible apply keeps_foldl_fst | with_reducible apply keeps_foldl_snd))

theorem keeps_beginSlot (u : Upd) (s : State) (hok : memOk s) : memOk (beginSlot u s) := by
  unfold beginSlot
  repeat' (first | with_reducible assumption | with_reducible apply keeps_wr)

theorem keeps_blockUpd (b : Nat) (ue : Option Nat) (ce : List (Nat × Nat)) (s : State) (hok : memOk s) : memOk (blockUpd b ue ce s) := by
  unfold blockUpd
  repeat' (first | with_reducible assumption | with_reducible apply keeps_unitErr | with_reducible apply keeps_countCe | with_reducible apply keeps_putUpd | with_reducible apply keeps_endUpd | with_reducible apply keeps_blockPass1 | with_reducible apply keeps_blockPass2 | with_reducible apply keeps_blockPass3 | with_reducible apply keeps_beginSlot | split | (intro _ _) | (intro _) | dsimp only | (with_reducible refine keeps_mk ?_) | (with_reducible refine ok_of ?_; first | with_reducible assumption | with_reducible apply keeps_unitErr | with_reducible apply keeps_countCe | with_reducible apply keeps_putUpd | with_reducible apply keeps_endUpd | with_reducible apply keeps_blockPass1 | with_reducible apply keeps_blockPass2 | with_reducible apply keeps_blockPass3 | with_reducible apply keeps_beginSlot))

theorem keeps_execUpdateBlock (b : Nat) (out : ReadOut) (s : State) (hok : memOk s) : ∀ r, execUpdateBlock b out s = .next r → memOk r := by
  unfold execUpdateBlock
  intro r h; injection h with h; subst h
  repeat' (first | with_reducible assumption | with_reducible apply keeps_takenWhole | with_reducible apply keeps_blockUpd)

theorem keeps_publish (b e : Nat) (s : State) (hok : memOk s) : memOk (publish b e s) := by
  unfold publish
  repeat' (first | with_reducible assumption | with_reducible apply keeps_wr | with_reducible apply keeps_foldl | with_reducible apply keeps_foldl_fst | with_reducible apply keeps_foldl_snd | split | (intro _ _) | (intro _) | dsimp only | (with_reducible refine keeps_mk ?_) | (with_reducible refine ok_of ?_; first | with_reducible assumption | with_reducible apply keeps_wr | with_reducible apply keeps_foldl | with_reducible apply keeps_foldl_fst | with_reducible apply keeps_foldl_snd))

theorem keeps_completeUpd (b : Nat) (s : State) (hok : memOk s) : memOk (completeUpd b s) := by
  unfold completeUpd
  repeat' (first | with_reducible assumption | with_reducible apply keeps_incM | with_reducible apply keeps_unitWrite | with_reducible apply keeps_finishUpd | with_reducible apply keeps_endUpd | with_reducible apply keeps_updWindow | with_reducible apply keeps_publish | split | (intro _ _) | (intro _) | dsimp only | (with_reducible refine keeps_mk ?_) | (with_reducible refine ok_of ?_; first | with_reducible assumption | with_reducible apply keeps_incM | with_reducible apply keeps_unitWrite | with_reducible apply keeps_finishUpd | with_reducible apply keeps_endUpd | with_reducible apply keeps_updWindow | with_reducible apply keeps_publish))

theorem keeps_execUpdateComplete (b : Nat) (s : State) (hok : memOk s) : ∀ r, execUpdateComplete b s = .next r → memOk r := by
  unfold execUpdateComplete
  intro r h; injection h with h; subst h
  repeat' (first | with_reducible assumption | with_reducible apply keeps_takenWhole | with_reducible apply keeps_completeUpd)

end Sys2Proof.Laws
end

