-- ==== Sys2Proof/Laws/KeepSkein.lean ====
section
/-! SUPPORT. Machine/Skein.lean keeps memory in canonical form. -/

namespace Sys2Proof.Laws
open Sys2Proof.Machine

theorem ok_put : ∀ {k n v : Nat} {m h : SMap Byte}, okParts m h → okParts (putMap k n v m) h
  | _, 0, _, _, _, hs => hs
  | k, n + 1, v, m, h, hs => by
    unfold putMap
    exact ok_put (ok_mem hs)

theorem keeps_setSkein (k e : Nat) (s : State) (hok : memOk s) : memOk (setSkein k e s) := by
  unfold setSkein
  repeat' (first | with_reducible assumption | (with_reducible refine of_fst (by with_reducible assumption) ?_) | (with_reducible refine of_snd (by with_reducible assumption) ?_) | split | (intro _ _) | (intro _) | dsimp only | (with_reducible refine keeps_mk ?_) | (with_reducible refine ok_of ?_; first | with_reducible assumption | split | dsimp only | (with_reducible apply of_fst; with_reducible assumption) | (with_reducible apply of_snd; with_reducible assumption)) | (with_reducible refine ok_mem ?_) | (with_reducible refine ok_host ?_) | (with_reducible refine ok_filter ?_) | (with_reducible refine ok_clear ?_) | (with_reducible refine ok_put ?_) | (with_reducible refine ok_mem_fold ?_))

theorem keeps_endSkein (k reason : Nat) (s : State) (hok : memOk s) : memOk (endSkein k reason s) := by
  unfold endSkein
  repeat' (first | with_reducible assumption | with_reducible apply keeps_setSkein)

theorem keeps_setState (k st : Nat) (s : State) (hok : memOk s) : memOk (setState k st s) := by
  unfold setState
  repeat' (first | with_reducible assumption | with_reducible apply keeps_setSkein)

theorem keeps_skeinRefused (k p x : Nat) (s : State) (hok : memOk s) : memOk (skeinRefused k p x s) := by
  unfold skeinRefused
  repeat' (first | with_reducible assumption | with_reducible apply keeps_unitRefused | with_reducible apply keeps_endSkein)

theorem keeps_skAsk (p a n : Nat) (s : State) (hok : memOk s) : memOk (skAsk p a n s) := by
  unfold skAsk
  repeat' (first | with_reducible assumption | with_reducible apply keeps_unitAccept)

theorem keeps_skPut (p a n v : Nat) (s : State) (hok : memOk s) : memOk (skPut p a n v s) := by
  unfold skPut
  repeat' (first | with_reducible assumption | with_reducible apply keeps_unitWrite)

theorem keeps_countBytes (e n : Nat) (s : State) (hok : memOk s) : memOk (countBytes e n s) := by
  unfold countBytes
  repeat' (first | with_reducible assumption | with_reducible apply keeps_incM)

theorem keeps_copyOut (p a n h : Nat) (s : State) (hok : memOk s) : memOk (copyOut p a n h s) := by
  unfold copyOut
  repeat' (first | with_reducible assumption | with_reducible apply keeps_postHost | with_reducible apply keeps_unitAccept | with_reducible apply keeps_countBytes)

theorem keeps_pushPage (p page : Nat) (s : State) (hok : memOk s) : memOk (pushPage p page s) := by
  unfold pushPage
  repeat' (first | with_reducible assumption | with_reducible apply keeps_wr | with_reducible apply keeps_unitRefused | with_reducible apply keeps_skPut | split | (intro _ _) | (intro _) | dsimp only | (with_reducible refine keeps_mk ?_) | (with_reducible refine ok_of ?_; first | with_reducible assumption | with_reducible apply keeps_wr | with_reducible apply keeps_unitRefused | with_reducible apply keeps_skPut))

theorem keeps_allocPages (p e j n : Nat) (s : State) (hok : memOk s) : ∀ r, (allocPages p e j n s = .ok r ∨ allocPages p e j n s = .bad r) → memOk r := by
  intro r hq
  unfold allocPages at hq
  dsimp only at hq
  repeat' split at hq
  all_goals (rcases hq with hq | hq <;> first | cases hq | skip)
  all_goals repeat' (first | with_reducible assumption | with_reducible apply keeps_wr | with_reducible apply keeps_skAsk | with_reducible apply keeps_skPut)

theorem keeps_countNoPage (p : Nat) (s : State) (hok : memOk s) : memOk (countNoPage p s) := by
  unfold countNoPage
  repeat' (first | with_reducible assumption | with_reducible apply keeps_incS)

theorem keeps_poolBad (p k slot : Nat) (s : State) (hok : memOk s) : memOk (poolBad p k slot s) := by
  unfold poolBad
  repeat' (first | with_reducible assumption | with_reducible apply keeps_castBranch)

theorem keeps_freePages (k : Nat) (s : State) (hok : memOk s) : memOk (freePages k s) := by
  unfold freePages
  repeat' (first | with_reducible assumption | with_reducible apply keeps_unitRefused | with_reducible apply keeps_skAsk | with_reducible apply keeps_pushPage | with_reducible apply keeps_foldl | with_reducible apply keeps_foldl_fst | with_reducible apply keeps_foldl_snd | split | (intro _ _) | (intro _) | dsimp only | (with_reducible refine keeps_mk ?_) | (with_reducible refine ok_of ?_; first | with_reducible assumption | with_reducible apply keeps_unitRefused | with_reducible apply keeps_skAsk | with_reducible apply keeps_pushPage | with_reducible apply keeps_foldl | with_reducible apply keeps_foldl_fst | with_reducible apply keeps_foldl_snd))

theorem keeps_skeinCmd (op : Nat) (rq : Requester) (v : W32) (act : Nat → Nat → State → Nat × State) (s : State) (hact : ∀ a0 a1 s, memOk s → memOk (act a0 a1 s).2) (hok : memOk s) : memOk (skeinCmd op rq v act s) := by
  unfold skeinCmd
  repeat' (first | with_reducible assumption | with_reducible apply keeps_wr | with_reducible apply keeps_busCmd | with_reducible apply hact | split | (intro _ _) | (intro _))

theorem keeps_execSknRead (rq : Requester) (v : W32) (s : State) (hok : memOk s) : ∀ r, execSknRead rq v s = .next r → memOk r := by
  unfold execSknRead
  intro r h; injection h with h; subst h
  repeat' (first | with_reducible assumption | with_reducible apply keeps_wr | with_reducible apply keeps_skeinCmd | with_reducible apply keeps_foldl | split | (intro _ _) | (intro _))

theorem keeps_createSkein (rq : Requester) (k p : Nat) (s : State) (hok : memOk s) : memOk (createSkein rq k p s).2 := by
  unfold createSkein
  repeat' (first | with_reducible assumption | with_reducible apply keeps_unitRefused | with_reducible apply keeps_setSkein | with_reducible apply keeps_endSkein | (with_reducible refine keeps_allocPages _ _ _ _ _ ?_ _ (by first | exact Or.inl (by assumption) | exact Or.inr (by assumption))) | with_reducible apply keeps_countNoPage | with_reducible apply keeps_poolBad | split | (intro _ _) | (intro _) | dsimp only | (with_reducible refine keeps_mk ?_) | (with_reducible refine ok_of ?_; first | with_reducible assumption | with_reducible apply keeps_unitRefused | with_reducible apply keeps_setSkein | with_reducible apply keeps_endSkein | (with_reducible refine keeps_allocPages _ _ _ _ _ ?_ _ (by first | exact Or.inl (by assumption) | exact Or.inr (by assumption))) | with_reducible apply keeps_countNoPage | with_reducible apply keeps_poolBad))

theorem keeps_execSknCreate (rq : Requester) (v : W32) (s : State) (hok : memOk s) : ∀ r, execSknCreate rq v s = .next r → memOk r := by
  unfold execSknCreate
  intro r h; injection h with h; subst h
  repeat' (first | with_reducible assumption | with_reducible apply keeps_takenWhole | with_reducible apply keeps_skeinCmd | with_reducible apply keeps_createSkein | split | (intro _ _) | (intro _))

theorem keeps_dropReturns (k : Nat) (s : State) (hok : memOk s) : memOk (dropReturns k s) := by
  unfold dropReturns
  repeat' (first | with_reducible assumption | split | (intro _ _) | (intro _) | dsimp only | (with_reducible refine keeps_mk ?_) | (with_reducible refine ok_of ?_; first | with_reducible assumption))

theorem keeps_cancelSkein (k : Nat) (s : State) (hok : memOk s) : memOk (cancelSkein k s).2 := by
  unfold cancelSkein
  repeat' (first | with_reducible assumption | with_reducible apply keeps_setSkein | with_reducible apply keeps_endSkein | with_reducible apply keeps_dropReturns | split | (intro _ _) | (intro _) | dsimp only | (with_reducible refine keeps_mk ?_) | (with_reducible refine ok_of ?_; first | with_reducible assumption | with_reducible apply keeps_setSkein | with_reducible apply keeps_endSkein | with_reducible apply keeps_dropReturns))

theorem keeps_execSknCancel (rq : Requester) (v : W32) (s : State) (hok : memOk s) : ∀ r, execSknCancel rq v s = .next r → memOk r := by
  unfold execSknCancel
  intro r h; injection h with h; subst h
  repeat' (first | with_reducible assumption | with_reducible apply keeps_skeinCmd | with_reducible apply keeps_cancelSkein | split | (intro _ _) | (intro _))

theorem keeps_placeSkein (p c k : Nat) (s : State) (hok : memOk s) : memOk (placeSkein p c k s) := by
  unfold placeSkein
  repeat' (first | with_reducible assumption | with_reducible apply keeps_unitRefused | with_reducible apply keeps_setState | with_reducible apply keeps_skPut | split | (intro _ _) | (intro _) | dsimp only | (with_reducible refine keeps_mk ?_) | (with_reducible refine ok_of ?_; first | with_reducible assumption | with_reducible apply keeps_unitRefused | with_reducible apply keeps_setState | with_reducible apply keeps_skPut))

theorem keeps_growSkein (p k : Nat) (s : State) (hok : memOk s) : ∀ r, (growSkein p k s = .ok r ∨ growSkein p k s = .bad r) → memOk r := by
  intro r hq
  unfold growSkein at hq
  dsimp only at hq
  split at hq
  · split at hq
    · rename_i s1 h1
      rcases hq with hq | hq <;> cases hq
      exact keeps_mk (ok_of (keeps_allocPages _ _ _ _ _ hok _ (Or.inl h1)))
    · exact keeps_allocPages _ _ _ _ _ hok _ hq
  · rcases hq with hq | hq <;> cases hq
    exact hok

theorem keeps_buildNext (p : Nat) (s : State) (hok : memOk s) : memOk (buildNext p s) := by
  unfold buildNext
  repeat' (first | with_reducible assumption | with_reducible apply keeps_skeinRefused | with_reducible apply keeps_countNoPage | with_reducible apply keeps_poolBad | with_reducible apply keeps_placeSkein | (with_reducible refine keeps_growSkein _ _ _ ?_ _ (by first | exact Or.inl (by assumption) | exact Or.inr (by assumption))) | split | (intro _ _) | (intro _) | dsimp only | (with_reducible refine keeps_mk ?_) | (with_reducible refine ok_of ?_; first | with_reducible assumption | with_reducible apply keeps_skeinRefused | with_reducible apply keeps_countNoPage | with_reducible apply keeps_poolBad | with_reducible apply keeps_placeSkein | (with_reducible refine keeps_growSkein _ _ _ ?_ _ (by first | exact Or.inl (by assumption) | exact Or.inr (by assumption)))))

theorem keeps_execBatchBuild (p : Nat) (s : State) (hok : memOk s) : ∀ r, execBatchBuild p s = .next r → memOk r := by
  unfold execBatchBuild
  intro r h; injection h with h; subst h
  repeat' (first | with_reducible assumption | with_reducible apply keeps_takenWhole | with_reducible apply keeps_buildNext)

theorem keeps_withdraw (p late : Nat) (s : State) (hok : memOk s) : memOk (withdraw p late s) := by
  unfold withdraw
  repeat' (first | with_reducible assumption | with_reducible apply keeps_setState | with_reducible apply keeps_foldl | with_reducible apply keeps_foldl_fst | with_reducible apply keeps_foldl_snd | split | (intro _ _) | (intro _) | dsimp only | (with_reducible refine keeps_mk ?_) | (with_reducible refine ok_of ?_; first | with_reducible assumption | with_reducible apply keeps_setState | with_reducible apply keeps_foldl | with_reducible apply keeps_foldl_fst | with_reducible apply keeps_foldl_snd))

theorem keeps_commitBatch (p c late : Nat) (s0 : State) (hok : memOk s0) : memOk (commitBatch p c late s0) := by
  unfold commitBatch
  repeat' (first | with_reducible assumption | with_reducible apply keeps_inject | with_reducible apply keeps_unitRefused | with_reducible apply keeps_withdraw | split | (intro _ _) | (intro _) | dsimp only | (with_reducible refine keeps_mk ?_) | (with_reducible refine ok_of ?_; first | with_reducible assumption | with_reducible apply keeps_inject | with_reducible apply keeps_unitRefused | with_reducible apply keeps_withdraw))

theorem keeps_noReturn (p k : Nat) (s : State) (hok : memOk s) : memOk (noReturn p k s) := by
  unfold noReturn
  repeat' (first | with_reducible assumption | with_reducible apply keeps_incS | with_reducible apply keeps_setState | split | (intro _ _) | (intro _))

theorem keeps_collectReturns (p c unread : Nat) (s : State) (hok : memOk s) : memOk (collectReturns p c unread s) := by
  unfold collectReturns
  repeat' (first | with_reducible assumption | with_reducible apply keeps_wr | with_reducible apply keeps_incS | with_reducible apply keeps_unitRefused | with_reducible apply keeps_skAsk | with_reducible apply keeps_noReturn | with_reducible apply keeps_foldl | with_reducible apply keeps_foldl_fst | with_reducible apply keeps_foldl_snd | split | (intro _ _) | (intro _) | dsimp only | (with_reducible refine keeps_mk ?_) | (with_reducible refine ok_of ?_; first | with_reducible assumption | with_reducible apply keeps_wr | with_reducible apply keeps_incS | with_reducible apply keeps_unitRefused | with_reducible apply keeps_skAsk | with_reducible apply keeps_noReturn | with_reducible apply keeps_foldl | with_reducible apply keeps_foldl_fst | with_reducible apply keeps_foldl_snd))

theorem keeps_acceptToken (r : Ret) (ue : Option Nat) (s : State) (hok : memOk s) : memOk (acceptToken r ue s) := by
  unfold acceptToken
  repeat' (first | with_reducible assumption | with_reducible apply keeps_incM | with_reducible apply keeps_unitUe | with_reducible apply keeps_setSkein | with_reducible apply keeps_endSkein | with_reducible apply keeps_skeinRefused | with_reducible apply keeps_skPut | split | (intro _ _) | (intro _) | dsimp only | (with_reducible refine keeps_mk ?_) | (with_reducible refine ok_of ?_; first | with_reducible assumption | with_reducible apply keeps_incM | with_reducible apply keeps_unitUe | with_reducible apply keeps_setSkein | with_reducible apply keeps_endSkein | with_reducible apply keeps_skeinRefused | with_reducible apply keeps_skPut))

theorem keeps_acceptNext (p : Nat) (ue : Option Nat) (s : State) (hok : memOk s) : memOk (acceptNext p ue s) := by
  unfold acceptNext
  repeat' (first | with_reducible assumption | with_reducible apply keeps_raise | with_reducible apply keeps_endSkein | with_reducible apply keeps_noReturn | with_reducible apply keeps_acceptToken | split | (intro _ _) | (intro _) | dsimp only | (with_reducible refine keeps_mk ?_) | (with_reducible refine ok_of ?_; first | with_reducible assumption | with_reducible apply keeps_raise | with_reducible apply keeps_endSkein | with_reducible apply keeps_noReturn | with_reducible apply keeps_acceptToken))

theorem keeps_execReturnAccept (p : Nat) (ue : Option Nat) (s : State) (hok : memOk s) : ∀ r, execReturnAccept p ue s = .next r → memOk r := by
  unfold execReturnAccept
  intro r h; injection h with h; subst h
  repeat' (first | with_reducible assumption | with_reducible apply keeps_takenWhole | with_reducible apply keeps_acceptNext)

theorem keeps_ringSignal (p : Nat) (s : State) (hok : memOk s) : memOk (ringSignal p s) := by
  unfold ringSignal
  repeat' (first | with_reducible assumption | with_reducible apply keeps_signalVec | split | (intro _ _) | (intro _) | dsimp only | (with_reducible refine keeps_mk ?_) | (with_reducible refine ok_of ?_; first | with_reducible assumption | with_reducible apply keeps_signalVec))

theorem keeps_ringWrite (p v : Nat) (s : State) (hok : memOk s) : memOk (ringWrite p v s) := by
  unfold ringWrite
  repeat' (first | with_reducible assumption | with_reducible apply keeps_wr | with_reducible apply keeps_postHost | with_reducible apply keeps_ringSignal | split | (intro _ _) | (intro _) | dsimp only | (with_reducible refine keeps_mk ?_) | (with_reducible refine ok_of ?_; first | with_reducible assumption | with_reducible apply keeps_wr | with_reducible apply keeps_postHost | with_reducible apply keeps_ringSignal))

theorem keeps_execRolloutModerationTimer (p : Nat) (s : State) (hok : memOk s) : ∀ r, execRolloutModerationTimer p s = .next r → memOk r := by
  unfold execRolloutModerationTimer
  intro r h; injection h with h; subst h
  repeat' (first | with_reducible assumption | with_reducible apply keeps_ringSignal | split | (intro _ _) | (intro _))

theorem keeps_copyTokens (k p : Nat) (ue : Option Nat) (s : State) (hok : memOk s) : memOk (copyTokens k p ue s) := by
  unfold copyTokens
  repeat' (first | with_reducible assumption | with_reducible apply keeps_unitUe | with_reducible apply keeps_endSkein | with_reducible apply keeps_skeinRefused | with_reducible apply keeps_copyOut | split | (intro _ _) | (intro _) | dsimp only | (with_reducible refine keeps_mk ?_) | (with_reducible refine ok_of ?_; first | with_reducible assumption | with_reducible apply keeps_unitUe | with_reducible apply keeps_endSkein | with_reducible apply keeps_skeinRefused | with_reducible apply keeps_copyOut))

theorem keeps_emitSkein (k : Nat) (ue : Option Nat) (s : State) (hok : memOk s) : memOk (emitSkein k ue s) := by
  unfold emitSkein
  repeat' (first | with_reducible assumption | with_reducible apply keeps_incM | with_reducible apply keeps_setState | with_reducible apply keeps_freePages | with_reducible apply keeps_ringWrite | with_reducible apply keeps_copyTokens | split | (intro _ _) | (intro _) | dsimp only | (with_reducible refine keeps_mk ?_) | (with_reducible refine ok_of ?_; first | with_reducible assumption | with_reducible apply keeps_incM | with_reducible apply keeps_setState | with_reducible apply keeps_freePages | with_reducible apply keeps_ringWrite | with_reducible apply keeps_copyTokens))

theorem keeps_execSkeinEmit (k : Nat) (ue : Option Nat) (s : State) (hok : memOk s) : ∀ r, execSkeinEmit k ue s = .next r → memOk r := by
  unfold execSkeinEmit
  intro r h; injection h with h; subst h
  repeat' (first | with_reducible assumption | with_reducible apply keeps_takenWhole | with_reducible apply keeps_emitSkein)

theorem keeps_execEvictStart (p : Nat) (s : State) (hok : memOk s) : ∀ r, execEvictStart p s = .next r → memOk r := by
  unfold execEvictStart
  intro r h; injection h with h; subst h
  repeat' (first | with_reducible assumption | with_reducible apply keeps_setState | split | (intro _ _) | (intro _) | dsimp only | (with_reducible refine keeps_mk ?_) | (with_reducible refine ok_of ?_; first | with_reducible assumption | with_reducible apply keeps_setState))

theorem keeps_evictSkein (k : Nat) (ue : Option Nat) (s : State) (hok : memOk s) : memOk (evictSkein k ue s) := by
  unfold evictSkein
  repeat' (first | with_reducible assumption | with_reducible apply keeps_incS | with_reducible apply keeps_unitUe | with_reducible apply keeps_endSkein | with_reducible apply keeps_setState | with_reducible apply keeps_skeinRefused | with_reducible apply keeps_skAsk | with_reducible apply keeps_skPut | with_reducible apply keeps_copyOut | with_reducible apply keeps_pushPage | with_reducible apply keeps_foldl | with_reducible apply keeps_foldl_fst | with_reducible apply keeps_foldl_snd | split | (intro _ _) | (intro _) | dsimp only | (with_reducible refine keeps_mk ?_) | (with_reducible refine ok_of ?_; first | with_reducible assumption | with_reducible apply keeps_incS | with_reducible apply keeps_unitUe | with_reducible apply keeps_endSkein | with_reducible apply keeps_setState | with_reducible apply keeps_skeinRefused | with_reducible apply keeps_skAsk | with_reducible apply keeps_skPut | with_reducible apply keeps_copyOut | with_reducible apply keeps_pushPage | with_reducible apply keeps_foldl | with_reducible apply keeps_foldl_fst | with_reducible apply keeps_foldl_snd))

theorem keeps_execEvictComplete (e : PageReads) (s : State) (hok : memOk s) : ∀ r, execEvictComplete e s = .next r → memOk r := by
  unfold execEvictComplete
  intro r h; injection h with h; subst h
  repeat' (first | with_reducible assumption | with_reducible apply keeps_takenWhole | with_reducible apply keeps_evictSkein)

theorem keeps_restoreNext (p : Nat) (s : State) (hok : memOk s) : memOk (restoreNext p s) := by
  unfold restoreNext
  repeat' (first | with_reducible assumption | with_reducible apply keeps_wr | with_reducible apply keeps_askHost | with_reducible apply keeps_setState | with_reducible apply keeps_skeinRefused | with_reducible apply keeps_skAsk | with_reducible apply keeps_poolBad | with_reducible apply keeps_foldl | with_reducible apply keeps_foldl_fst | with_reducible apply keeps_foldl_snd | split | (intro _ _) | (intro _) | dsimp only | (with_reducible refine keeps_mk ?_) | (with_reducible refine ok_of ?_; first | with_reducible assumption | with_reducible apply keeps_wr | with_reducible apply keeps_askHost | with_reducible apply keeps_setState | with_reducible apply keeps_skeinRefused | with_reducible apply keeps_skAsk | with_reducible apply keeps_poolBad | with_reducible apply keeps_foldl | with_reducible apply keeps_foldl_fst | with_reducible apply keeps_foldl_snd))

theorem keeps_execRestoreStart (p : Nat) (s : State) (hok : memOk s) : ∀ r, execRestoreStart p s = .next r → memOk r := by
  unfold execRestoreStart
  intro r h; injection h with h; subst h
  repeat' (first | with_reducible assumption | with_reducible apply keeps_takenWhole | with_reducible apply keeps_restoreNext)

theorem keeps_endRestore (k : Nat) (s : State) (hok : memOk s) : memOk (endRestore k s) := by
  unfold endRestore
  repeat' (first | with_reducible assumption | with_reducible apply keeps_endSkein | with_reducible apply keeps_setState | with_reducible apply keeps_skeinRefused | with_reducible apply keeps_skPut | with_reducible apply keeps_foldl | with_reducible apply keeps_foldl_fst | with_reducible apply keeps_foldl_snd | split | (intro _ _) | (intro _) | dsimp only | (with_reducible refine keeps_mk ?_) | (with_reducible refine ok_of ?_; first | with_reducible assumption | with_reducible apply keeps_endSkein | with_reducible apply keeps_setState | with_reducible apply keeps_skeinRefused | with_reducible apply keeps_skPut | with_reducible apply keeps_foldl | with_reducible apply keeps_foldl_fst | with_reducible apply keeps_foldl_snd))

theorem keeps_execRestoreComplete (k : Nat) (s : State) (hok : memOk s) : ∀ r, execRestoreComplete k s = .next r → memOk r := by
  unfold execRestoreComplete
  intro r h; injection h with h; subst h
  repeat' (first | with_reducible assumption | with_reducible apply keeps_takenWhole | with_reducible apply keeps_endRestore)

theorem keeps_rebuildPool (p : Nat) (s : State) (hok : memOk s) : memOk (rebuildPool p s) := by
  unfold rebuildPool
  repeat' (first | with_reducible assumption | with_reducible apply keeps_wr | with_reducible apply keeps_unitRefused | with_reducible apply keeps_skPut | split | (intro _ _) | (intro _) | dsimp only | (with_reducible refine keeps_mk ?_) | (with_reducible refine ok_of ?_; first | with_reducible assumption | with_reducible apply keeps_wr | with_reducible apply keeps_unitRefused | with_reducible apply keeps_skPut))

theorem keeps_bcfgEn (p off : Nat) (s0 s : State) (hok : memOk s) : memOk (bcfgEn p off s0 s) := by
  unfold bcfgEn
  repeat' (first | with_reducible assumption | with_reducible apply keeps_wr | with_reducible apply keeps_setWrign | with_reducible apply keeps_rebuildPool | split | (intro _ _) | (intro _))

theorem keeps_execSknBcfgEnWrite (rq : Requester) (p : Nat) (v : W32) (s : State) (hok : memOk s) : ∀ r, execSknBcfgEnWrite rq p v s = .next r → memOk r := by
  unfold execSknBcfgEnWrite
  intro r h; injection h with h; subst h
  repeat' (first | with_reducible assumption | with_reducible apply keeps_busCmd | with_reducible apply keeps_takenWhole | with_reducible apply keeps_bcfgEn | split | (intro _ _) | (intro _))

theorem keeps_clearSkeins (p : Nat) (s : State) (hok : memOk s) : memOk (clearSkeins p s) := by
  unfold clearSkeins
  repeat' (first | with_reducible assumption | with_reducible apply keeps_wr | with_reducible apply keeps_setState | with_reducible apply keeps_foldl | with_reducible apply keeps_foldl_fst | with_reducible apply keeps_foldl_snd | split | (intro _ _) | (intro _) | dsimp only | (with_reducible refine keeps_mk ?_) | (with_reducible refine ok_of ?_; first | with_reducible assumption | with_reducible apply keeps_wr | with_reducible apply keeps_setState | with_reducible apply keeps_foldl | with_reducible apply keeps_foldl_fst | with_reducible apply keeps_foldl_snd))

end Sys2Proof.Laws
end

