-- ==== Sys2Proof/Laws/KeepLink.lean ====
section
/-! SUPPORT. Machine/Link.lean keeps memory in canonical form. -/

namespace Sys2Proof.Laws
open Sys2Proof.Machine

theorem keeps_sendBlock (k vc : Nat) (s : State) (hok : memOk s) : ∀ r, sendBlock k vc s = some r → memOk r := by
  intro r hq
  unfold sendBlock at hq
  try dsimp only at hq
  repeat' split at hq
  all_goals (first | cases hq | skip)
  repeat' (first | with_reducible assumption | with_reducible apply keeps_incM | with_reducible apply keeps_sendFlit | with_reducible apply keeps_foldl | with_reducible apply keeps_foldl_fst | with_reducible apply keeps_foldl_snd | split | (intro _ _) | (intro _) | dsimp only | (with_reducible refine keeps_mk ?_) | (with_reducible refine ok_of ?_; first | with_reducible assumption | with_reducible apply keeps_incM | with_reducible apply keeps_sendFlit | with_reducible apply keeps_foldl | with_reducible apply keeps_foldl_fst | with_reducible apply keeps_foldl_snd))

theorem keeps_pumpBlocks : ∀ (n k : Nat) (s : State), memOk s → memOk (pumpBlocks n k s)
  | 0, _, _, hok => hok
  | n + 1, k, s, hok => by
    unfold pumpBlocks
    repeat' split
    all_goals (first | exact hok | exact keeps_pumpBlocks n k _ (keeps_sendBlock _ _ _ hok _ (by assumption)))

theorem keeps_drainMirror (s : State) (hok : memOk s) : memOk (drainMirror s) := by
  unfold drainMirror
  repeat' (first | with_reducible assumption | split | (intro _ _) | (intro _) | dsimp only | (with_reducible refine keeps_mk ?_) | (with_reducible refine ok_of ?_; first | with_reducible assumption))

theorem keeps_pumpLink (k : Nat) (s : State) (hok : memOk s) : memOk (pumpLink k s) := by
  unfold pumpLink
  repeat' (first | with_reducible assumption | with_reducible apply keeps_pumpBlocks | with_reducible apply keeps_drainMirror)

theorem keeps_enqueue (x : LItem) (s : State) (hok : memOk s) : memOk (enqueue x s) := by
  unfold enqueue
  repeat' (first | with_reducible assumption | with_reducible apply keeps_pumpLink | split | (intro _ _) | (intro _) | dsimp only | (with_reducible refine keeps_mk ?_) | (with_reducible refine ok_of ?_; first | with_reducible assumption | with_reducible apply keeps_pumpLink))

theorem keeps_toLink (p : Pkt) (k n : Nat) (s : State) (hok : memOk s) : memOk (toLink p k n s) := by
  unfold toLink
  repeat' (first | with_reducible assumption | with_reducible apply keeps_countMoved | with_reducible apply keeps_enqueue | split | (intro _ _) | (intro _) | dsimp only | (with_reducible refine keeps_mk ?_) | (with_reducible refine ok_of ?_; first | with_reducible assumption | with_reducible apply keeps_countMoved | with_reducible apply keeps_enqueue))

theorem keeps_sendOn (k : Nat) (m : BitVec 128) (s : State) (hok : memOk s) : memOk (sendOn k m s) := by
  unfold sendOn
  repeat' (first | with_reducible assumption | with_reducible apply keeps_enqueue | split | (intro _ _) | (intro _))

theorem keeps_sendMask (mask : Nat) (m : BitVec 128) (s : State) (hok : memOk s) : memOk (sendMask mask m s) := by
  unfold sendMask
  repeat' (first | with_reducible assumption | with_reducible apply keeps_sendOn | with_reducible apply keeps_foldl | split | (intro _ _) | (intro _))

theorem keeps_flood (inl : Nat) (m : BitVec 128) (s : State) (hok : memOk s) : memOk (flood inl m s) := by
  unfold flood
  repeat' (first | with_reducible assumption | with_reducible apply keeps_sendOn | with_reducible apply keeps_foldl | split | (intro _ _) | (intro _))

theorem keeps_sendTo (kind dst arg : Nat) (s : State) (hok : memOk s) : memOk (sendTo kind dst arg s) := by
  unfold sendTo
  repeat' (first | with_reducible assumption | with_reducible apply keeps_flood)

theorem keeps_spanNext (i : Nat) (s : State) (hok : memOk s) : memOk (spanNext i s) := by
  unfold spanNext
  repeat' (first | with_reducible assumption | with_reducible apply keeps_wr | split | (intro _ _) | (intro _) | dsimp only | (with_reducible refine keeps_mk ?_) | (with_reducible refine ok_of ?_; first | with_reducible assumption | with_reducible apply keeps_wr))

theorem keeps_giveRelease (i : Nat) (s : State) (hok : memOk s) : memOk (giveRelease i s) := by
  unfold giveRelease
  repeat' (first | with_reducible assumption | split | (intro _ _) | (intro _) | dsimp only | (with_reducible refine keeps_mk ?_) | (with_reducible refine ok_of ?_; first | with_reducible assumption))

theorem keeps_spanStep (i : Nat) (s : State) (hok : memOk s) : memOk (spanStep i s) := by
  unfold spanStep
  repeat' (first | with_reducible assumption | with_reducible apply keeps_sendOn | with_reducible apply keeps_sendMask | with_reducible apply keeps_spanNext | with_reducible apply keeps_giveRelease | split | (intro _ _) | (intro _) | dsimp only | (with_reducible refine keeps_mk ?_) | (with_reducible refine ok_of ?_; first | with_reducible assumption | with_reducible apply keeps_sendOn | with_reducible apply keeps_sendMask | with_reducible apply keeps_spanNext | with_reducible apply keeps_giveRelease))

theorem keeps_spanArrived (p : Nat) (s : State) (hok : memOk s) : memOk (spanArrived p s) := by
  unfold spanArrived
  repeat' (first | with_reducible assumption | with_reducible apply keeps_spanStep | with_reducible apply keeps_foldl | split | (intro _ _) | (intro _))

end Sys2Proof.Laws
end

