-- ==== Sys2Proof/Laws/KeepStash.lean ====
section
/-! SUPPORT. Machine/Stash.lean keeps memory in canonical form. -/

namespace Sys2Proof.Laws
open Sys2Proof.Machine

theorem keeps_stashFail (p entry e code : Nat) (s : State) (hok : memOk s) : memOk (stashFail p entry e code s) := by
  unfold stashFail
  repeat' (first | with_reducible assumption | with_reducible apply keeps_castBranch)

theorem keeps_fireEntry (p c entry d : Nat) (s : State) (hok : memOk s) : memOk (fireEntry p c entry d s) := by
  unfold fireEntry
  repeat' (first | with_reducible assumption | with_reducible apply keeps_incS | with_reducible apply keeps_castBranch | with_reducible apply keeps_askHost | with_reducible apply keeps_stashFail | split | (intro _ _) | (intro _) | dsimp only | (with_reducible refine keeps_mk ?_) | (with_reducible refine ok_of ?_; first | with_reducible assumption | with_reducible apply keeps_incS | with_reducible apply keeps_castBranch | with_reducible apply keeps_askHost | with_reducible apply keeps_stashFail))

theorem keeps_walkRing (p c o : Nat) : ∀ (n ptr : Nat) (s : State), memOk s → memOk (walkRing p c o n ptr s)
  | 0, _, _, hok => by unfold walkRing; exact keeps_mk (ok_of hok)
  | n + 1, ptr, s, hok => by
    have hm : ∀ x, memOk { s with stqPtr := x } := fun _ => keeps_mk (ok_of hok)
    unfold walkRing
    dsimp only
    split
    · exact hm _
    · split
      · exact keeps_unitRefused _ _ _ _ _ (hm _)
      · split
        · exact keeps_skAsk _ _ _ _ (hm _)
        · apply keeps_walkRing
          split
          · exact keeps_fireEntry _ _ _ _ _ (keeps_skAsk _ _ _ _ hok)
          · exact keeps_skAsk _ _ _ _ hok

theorem keeps_stashSignal (f : Firing) (s : State) (hok : memOk s) : memOk (stashSignal f s) := by
  unfold stashSignal
  repeat' (first | with_reducible assumption | with_reducible apply keeps_sendStitch | split | (intro _ _) | (intro _) | dsimp only | (with_reducible refine keeps_mk ?_) | (with_reducible refine ok_of ?_; first | with_reducible assumption | with_reducible apply keeps_sendStitch))

theorem keeps_stashBoundary (p c : Nat) (s : State) (hok : memOk s) : memOk (stashBoundary p c s) := by
  unfold stashBoundary
  repeat' (first | with_reducible assumption | with_reducible apply keeps_walkRing | with_reducible apply keeps_stashSignal | with_reducible apply keeps_foldl | with_reducible apply keeps_foldl_fst | with_reducible apply keeps_foldl_snd | split | (intro _ _) | (intro _) | dsimp only | (with_reducible refine keeps_mk ?_) | (with_reducible refine ok_of ?_; first | with_reducible assumption | with_reducible apply keeps_walkRing | with_reducible apply keeps_stashSignal | with_reducible apply keeps_foldl | with_reducible apply keeps_foldl_fst | with_reducible apply keeps_foldl_snd))

theorem keeps_moveOut (f : Firing) (ue : Option Nat) (s : State) (hok : memOk s) : memOk (moveOut f ue s) := by
  unfold moveOut
  repeat' (first | with_reducible assumption | with_reducible apply keeps_postHost | with_reducible apply keeps_unitUe | with_reducible apply keeps_unitAccept | with_reducible apply keeps_countBytes | split | (intro _ _) | (intro _))

theorem keeps_firingDone (f : Firing) (s : State) (hok : memOk s) : memOk (firingDone f s) := by
  unfold firingDone
  repeat' (first | with_reducible assumption | with_reducible apply keeps_incS | with_reducible apply keeps_stashSignal | split | (intro _ _) | (intro _) | dsimp only | (with_reducible refine keeps_mk ?_) | (with_reducible refine ok_of ?_; first | with_reducible assumption | with_reducible apply keeps_incS | with_reducible apply keeps_stashSignal))

theorem keeps_firingEnds (p entry : Nat) (ue : Option Nat) (s : State) (hok : memOk s) : memOk (firingEnds p entry ue s) := by
  unfold firingEnds
  repeat' (first | with_reducible assumption | with_reducible apply keeps_moveOut | with_reducible apply keeps_firingDone | split | (intro _ _) | (intro _))

theorem keeps_execStashFiringComplete (p entry : Nat) (ue : Option Nat) (s : State) (hok : memOk s) : ∀ r, execStashFiringComplete p entry ue s = .next r → memOk r := by
  unfold execStashFiringComplete
  intro r h; injection h with h; subst h
  repeat' (first | with_reducible assumption | with_reducible apply keeps_takenWhole | with_reducible apply keeps_firingEnds)

theorem keeps_abandonFirings (dead : Firing → Bool) (s : State) (hok : memOk s) : memOk (abandonFirings dead s) := by
  unfold abandonFirings
  repeat' (first | with_reducible assumption | split | (intro _ _) | (intro _) | dsimp only | (with_reducible refine keeps_mk ?_) | (with_reducible refine ok_of ?_; first | with_reducible assumption))

end Sys2Proof.Laws
end

