-- ==== Sys2Proof/Laws/KeepTension.lean ====
section
/-! SUPPORT. Machine/Tension.lean keeps memory in canonical form. -/

namespace Sys2Proof.Laws
open Sys2Proof.Machine

theorem keeps_setCeiling (d r v : Nat) (s : State) (hok : memOk s) : memOk (setCeiling d r v s) := by
  unfold setCeiling
  repeat' (first | with_reducible assumption | split | (intro _ _) | (intro _) | dsimp only | (with_reducible refine keeps_mk ?_) | (with_reducible refine ok_of ?_; first | with_reducible assumption))

theorem keeps_stepDown (d r : Nat) (s : State) (hok : memOk s) : memOk (stepDown d r s) := by
  unfold stepDown
  repeat' (first | with_reducible assumption | with_reducible apply keeps_setCeiling | split | (intro _ _) | (intro _))

theorem keeps_stepUp (d : Nat) (s : State) (hok : memOk s) : memOk (stepUp d s) := by
  unfold stepUp
  repeat' (first | with_reducible assumption | with_reducible apply keeps_setCeiling | with_reducible apply keeps_foldl | split | (intro _ _) | (intro _))

theorem keeps_takeStep (a : AStep) (s : State) (hok : memOk s) : memOk (takeStep a s) := by
  unfold takeStep
  repeat' (first | with_reducible assumption | with_reducible apply keeps_stepDown | with_reducible apply keeps_stepUp | split | (intro _ _) | (intro _) | dsimp only | (with_reducible refine keeps_mk ?_) | (with_reducible refine ok_of ?_; first | with_reducible assumption | with_reducible apply keeps_stepDown | with_reducible apply keeps_stepUp))

theorem keeps_askStep (a : AStep) (s : State) (hok : memOk s) : memOk (askStep a s) := by
  unfold askStep
  repeat' (first | with_reducible assumption | with_reducible apply keeps_takeStep | split | (intro _ _) | (intro _) | dsimp only | (with_reducible refine keeps_mk ?_) | (with_reducible refine ok_of ?_; first | with_reducible assumption | with_reducible apply keeps_takeStep))

theorem keeps_takeAligned (p : Nat) (s : State) (hok : memOk s) : memOk (takeAligned p s) := by
  unfold takeAligned
  repeat' (first | with_reducible assumption | with_reducible apply keeps_takeStep | with_reducible apply keeps_foldl | split | (intro _ _) | (intro _))

theorem keeps_checkTension (p : Nat) (s : State) (hok : memOk s) : memOk (checkTension p s) := by
  unfold checkTension
  repeat' (first | with_reducible assumption | with_reducible apply keeps_raise | with_reducible apply keeps_haltWith | split | (intro _ _) | (intro _) | dsimp only | (with_reducible refine keeps_mk ?_) | (with_reducible refine ok_of ?_; first | with_reducible assumption | with_reducible apply keeps_raise | with_reducible apply keeps_haltWith))

theorem keeps_recharge (p : Nat) (s : State) (hok : memOk s) : memOk (recharge p s) := by
  unfold recharge
  repeat' (first | with_reducible assumption | with_reducible apply keeps_checkTension | split | (intro _ _) | (intro _) | dsimp only | (with_reducible refine keeps_mk ?_) | (with_reducible refine ok_of ?_; first | with_reducible assumption | with_reducible apply keeps_checkTension))

theorem keeps_recheckAll (s : State) (hok : memOk s) : memOk (recheckAll s) := by
  unfold recheckAll
  repeat' (first | with_reducible assumption | with_reducible apply keeps_recharge | with_reducible apply keeps_foldl | split | (intro _ _) | (intro _))

theorem keeps_turnTension (p : Nat) (s : State) (hok : memOk s) : memOk (turnTension p s) := by
  unfold turnTension
  repeat' (first | with_reducible assumption | with_reducible apply keeps_wr | with_reducible apply keeps_foldl | with_reducible apply keeps_foldl_fst | with_reducible apply keeps_foldl_snd | split | (intro _ _) | (intro _) | dsimp only | (with_reducible refine keeps_mk ?_) | (with_reducible refine ok_of ?_; first | with_reducible assumption | with_reducible apply keeps_wr | with_reducible apply keeps_foldl | with_reducible apply keeps_foldl_fst | with_reducible apply keeps_foldl_snd))

end Sys2Proof.Laws
end

