-- ==== Sys2Proof/Laws/KeepCapture.lean ====
section
/-! SUPPORT. Machine/Capture.lean keeps memory in canonical form. -/

namespace Sys2Proof.Laws
open Sys2Proof.Machine

theorem keeps_zeroCounters (s : State) (hok : memOk s) : memOk (zeroCounters s) := by
  unfold zeroCounters
  repeat' (first | with_reducible assumption | split | (intro _ _) | (intro _) | dsimp only | (with_reducible refine keeps_mk ?_) | (with_reducible refine ok_of ?_; first | with_reducible assumption))

theorem keeps_capture (course : Nat) (zero : Bool) (s : State) (hok : memOk s) : memOk (capture course zero s) := by
  unfold capture
  repeat' (first | with_reducible assumption | with_reducible apply keeps_wr | with_reducible apply keeps_wr64 | with_reducible apply keeps_zeroCounters | split | (intro _ _) | (intro _) | dsimp only | (with_reducible refine keeps_mk ?_) | (with_reducible refine ok_of ?_; first | with_reducible assumption | with_reducible apply keeps_wr | with_reducible apply keeps_wr64 | with_reducible apply keeps_zeroCounters))

theorem keeps_captureAt (p : Nat) (s : State) (hok : memOk s) : memOk (captureAt p s) := by
  unfold captureAt
  repeat' (first | with_reducible assumption | with_reducible apply keeps_capture | split | (intro _ _) | (intro _))

end Sys2Proof.Laws
end

