-- ==== Sys2Proof/Laws/KeepCourse.lean ====
section
/-! SUPPORT. Machine/Course.lean keeps memory in canonical form. -/

namespace Sys2Proof.Laws
open Sys2Proof.Machine

theorem keeps_closeCheck (p : Nat) (s : State) (hok : memOk s) : memOk (closeCheck p s) := by
  unfold closeCheck
  repeat' (first | with_reducible assumption | with_reducible apply keeps_wr | with_reducible apply keeps_spanArrived | with_reducible apply keeps_checkTension | split | (intro _ _) | (intro _))

theorem keeps_noteArrivals (p : Nat) (s : State) (hok : memOk s) : memOk (noteArrivals p s) := by
  unfold noteArrivals
  repeat' (first | with_reducible assumption | with_reducible apply keeps_closeCheck | split | (intro _ _) | (intro _) | dsimp only | (with_reducible refine keeps_mk ?_) | (with_reducible refine ok_of ?_; first | with_reducible assumption | with_reducible apply keeps_closeCheck))

theorem keeps_execTileArrive (t : Nat) (s : State) (hok : memOk s) : ∀ r, execTileArrive t s = .next r → memOk r := by
  unfold execTileArrive
  intro r h; injection h with h; subst h
  repeat' (first | with_reducible assumption | with_reducible apply keeps_wr | with_reducible apply keeps_noteArrivals | split | (intro _ _) | (intro _))

theorem keeps_execBarrierTimerExpire (p : Nat) (s : State) (hok : memOk s) : ∀ r, execBarrierTimerExpire p s = .next r → memOk r := by
  unfold execBarrierTimerExpire
  intro r h; injection h with h; subst h
  repeat' (first | with_reducible assumption | with_reducible apply keeps_wr | with_reducible apply keeps_haltWith | split | (intro _ _) | (intro _) | dsimp only | (with_reducible refine keeps_mk ?_) | (with_reducible refine ok_of ?_; first | with_reducible assumption | with_reducible apply keeps_wr | with_reducible apply keeps_haltWith))

theorem keeps_rootRecord (p : Nat) (hold : Bool) (code : Nat) (source : State → Nat × Nat → Nat) (x : Nat × Nat) (s : State) (hok : memOk s) : memOk (rootRecord p hold code source x s) := by
  unfold rootRecord
  repeat' (first | with_reducible assumption | with_reducible apply keeps_raise | with_reducible apply keeps_haltWith | split | (intro _ _) | (intro _))

theorem keeps_recordMismatches (p : Nat) (s : State) (hok : memOk s) : memOk (recordMismatches p s) := by
  unfold recordMismatches
  repeat' (first | with_reducible assumption | with_reducible apply keeps_wr | with_reducible apply keeps_rootRecord | with_reducible apply keeps_foldl | split | (intro _ _) | (intro _))

theorem keeps_resetStitch (s : State) (x : Nat × Nat) (hok : memOk s) : memOk (resetStitch s x) := by
  unfold resetStitch
  repeat' (first | with_reducible assumption | with_reducible apply keeps_wr | with_reducible apply keeps_commitField)

theorem keeps_commitHub (p : Nat) (s : State) (hok : memOk s) : memOk (commitHub p s) := by
  unfold commitHub
  repeat' (first | with_reducible assumption | with_reducible apply keeps_commitField | with_reducible apply keeps_commitFields | with_reducible apply keeps_foldl | with_reducible apply keeps_foldl_fst | with_reducible apply keeps_foldl_snd | split | (intro _ _) | (intro _) | dsimp only | (with_reducible refine keeps_mk ?_) | (with_reducible refine ok_of ?_; first | with_reducible assumption | with_reducible apply keeps_commitField | with_reducible apply keeps_commitFields | with_reducible apply keeps_foldl | with_reducible apply keeps_foldl_fst | with_reducible apply keeps_foldl_snd))

theorem keeps_dropRound (p : Nat) (report : Bool) (s : State) (x : Nat × Nat) (hok : memOk s) : memOk (dropRound p report s x) := by
  unfold dropRound
  repeat' (first | with_reducible assumption | with_reducible apply keeps_wr | with_reducible apply keeps_raise | with_reducible apply keeps_joinClear | split | (intro _ _) | (intro _))

theorem keeps_advanceCourse (p unread late : Nat) (s : State) (hok : memOk s) : memOk (advanceCourse p unread late s) := by
  unfold advanceCourse
  repeat' (first | with_reducible assumption | with_reducible apply keeps_wr | with_reducible apply keeps_wr64 | with_reducible apply keeps_commitBatch | with_reducible apply keeps_collectReturns | with_reducible apply keeps_stashBoundary | with_reducible apply keeps_takeAligned | with_reducible apply keeps_recheckAll | with_reducible apply keeps_turnTension | with_reducible apply keeps_commitHub | with_reducible apply keeps_dropRound | with_reducible apply keeps_foldl | with_reducible apply keeps_foldl_fst | with_reducible apply keeps_foldl_snd | split | (intro _ _) | (intro _) | dsimp only | (with_reducible refine keeps_mk ?_) | (with_reducible refine ok_of ?_; first | with_reducible assumption | with_reducible apply keeps_wr | with_reducible apply keeps_wr64 | with_reducible apply keeps_commitBatch | with_reducible apply keeps_collectReturns | with_reducible apply keeps_stashBoundary | with_reducible apply keeps_takeAligned | with_reducible apply keeps_recheckAll | with_reducible apply keeps_turnTension | with_reducible apply keeps_commitHub | with_reducible apply keeps_dropRound | with_reducible apply keeps_foldl | with_reducible apply keeps_foldl_fst | with_reducible apply keeps_foldl_snd))

theorem keeps_boundary (p unread late : Nat) (s : State) (hok : memOk s) : memOk (boundary p unread late s) := by
  unfold boundary
  repeat' (first | with_reducible assumption | with_reducible apply keeps_wr | with_reducible apply keeps_captureAt | with_reducible apply keeps_noteArrivals | with_reducible apply keeps_recordMismatches | with_reducible apply keeps_resetStitch | with_reducible apply keeps_advanceCourse | with_reducible apply keeps_foldl | with_reducible apply keeps_foldl_fst | with_reducible apply keeps_foldl_snd | split | (intro _ _) | (intro _) | dsimp only | (with_reducible refine keeps_mk ?_) | (with_reducible refine ok_of ?_; first | with_reducible assumption | with_reducible apply keeps_wr | with_reducible apply keeps_captureAt | with_reducible apply keeps_noteArrivals | with_reducible apply keeps_recordMismatches | with_reducible apply keeps_resetStitch | with_reducible apply keeps_advanceCourse | with_reducible apply keeps_foldl | with_reducible apply keeps_foldl_fst | with_reducible apply keeps_foldl_snd))

theorem keeps_overdraw (p c d : Nat) (s : State) (hok : memOk s) : memOk (overdraw p c d s) := by
  unfold overdraw
  repeat' (first | with_reducible assumption | with_reducible apply keeps_incS | with_reducible apply keeps_raise | with_reducible apply keeps_haltWith | split | (intro _ _) | (intro _) | dsimp only | (with_reducible refine keeps_mk ?_) | (with_reducible refine ok_of ?_; first | with_reducible assumption | with_reducible apply keeps_incS | with_reducible apply keeps_raise | with_reducible apply keeps_haltWith))

theorem keeps_turnTogether (p unread late : Nat) (s : State) (hok : memOk s) : memOk (turnTogether p unread late s) := by
  unfold turnTogether
  repeat' (first | with_reducible assumption | with_reducible apply keeps_boundary | with_reducible apply keeps_foldl | with_reducible apply keeps_foldl_fst | with_reducible apply keeps_foldl_snd | split | (intro _ _) | (intro _) | dsimp only | (with_reducible refine keeps_mk ?_) | (with_reducible refine ok_of ?_; first | with_reducible assumption | with_reducible apply keeps_boundary | with_reducible apply keeps_foldl | with_reducible apply keeps_foldl_fst | with_reducible apply keeps_foldl_snd))

theorem keeps_tryBoundary (p dur : Nat) (blk : List Nat) (unread late : Nat) (s : State) (hok : memOk s) : memOk (tryBoundary p dur blk unread late s) := by
  unfold tryBoundary
  repeat' (first | with_reducible assumption | with_reducible apply keeps_spanArrived | with_reducible apply keeps_boundary | with_reducible apply keeps_overdraw | with_reducible apply keeps_turnTogether | split | (intro _ _) | (intro _) | dsimp only | (with_reducible refine keeps_mk ?_) | (with_reducible refine ok_of ?_; first | with_reducible assumption | with_reducible apply keeps_spanArrived | with_reducible apply keeps_boundary | with_reducible apply keeps_overdraw | with_reducible apply keeps_turnTogether))

theorem keeps_execCourseBoundary (p : Nat) (m : Measured) (left : BatchLeft) (s : State) (hok : memOk s) : ∀ r, execCourseBoundary p m left s = .next r → memOk r := by
  unfold execCourseBoundary
  intro r h; injection h with h; subst h
  repeat' (first | with_reducible assumption | with_reducible apply keeps_tryBoundary | split | (intro _ _) | (intro _))

theorem keeps_takeKey (t p : Nat) (s : State) (hok : memOk s) : memOk (takeKey t p s) := by
  unfold takeKey
  repeat' (first | with_reducible assumption | with_reducible apply keeps_setRngCount | split | (intro _ _) | (intro _) | dsimp only | (with_reducible refine keeps_mk ?_) | (with_reducible refine ok_of ?_; first | with_reducible assumption | with_reducible apply keeps_setRngCount))

theorem keeps_needleBoundary (t : Nat) (s : State) (nc : Nat) (hok : memOk s) : memOk (needleBoundary t s nc) := by
  unfold needleBoundary
  repeat' (first | with_reducible assumption | with_reducible apply keeps_wr | with_reducible apply keeps_setPC | split | (intro _ _) | (intro _))

theorem keeps_autoClose (t : Nat) (s : State) (w : Nat) (hok : memOk s) : memOk (autoClose t s w) := by
  unfold autoClose
  repeat' (first | with_reducible assumption | with_reducible apply keeps_wr | split | (intro _ _) | (intro _))

theorem keeps_enterCourse (t p n : Nat) (key : Bool) (s : State) (hok : memOk s) : memOk (enterCourse t p n key s) := by
  unfold enterCourse
  repeat' (first | with_reducible assumption | with_reducible apply keeps_wr | with_reducible apply keeps_commitFields | with_reducible apply keeps_takeKey | with_reducible apply keeps_needleBoundary | with_reducible apply keeps_autoClose | with_reducible apply keeps_foldl | with_reducible apply keeps_foldl_fst | with_reducible apply keeps_foldl_snd | split | (intro _ _) | (intro _) | dsimp only | (with_reducible refine keeps_mk ?_) | (with_reducible refine ok_of ?_; first | with_reducible assumption | with_reducible apply keeps_wr | with_reducible apply keeps_commitFields | with_reducible apply keeps_takeKey | with_reducible apply keeps_needleBoundary | with_reducible apply keeps_autoClose | with_reducible apply keeps_foldl | with_reducible apply keeps_foldl_fst | with_reducible apply keeps_foldl_snd))

theorem keeps_execTileRelease (t : Nat) (s : State) (hok : memOk s) : ∀ r, execTileRelease t s = .next r → memOk r := by
  unfold execTileRelease
  intro r h; injection h with h; subst h
  repeat' (first | with_reducible assumption | with_reducible apply keeps_commitFields | with_reducible apply keeps_enterCourse | split | (intro _ _) | (intro _) | dsimp only | (with_reducible refine keeps_mk ?_) | (with_reducible refine ok_of ?_; first | with_reducible assumption | with_reducible apply keeps_commitFields | with_reducible apply keeps_enterCourse))

theorem keeps_startTile (p : Nat) (s : State) (t : Nat) (hok : memOk s) : memOk (startTile p s t) := by
  unfold startTile
  repeat' (first | with_reducible assumption | with_reducible apply keeps_wr | with_reducible apply keeps_enterCourse | with_reducible apply keeps_foldl | split | (intro _ _) | (intro _))

theorem keeps_startPartition (p : Nat) (s : State) (hok : memOk s) : memOk (startPartition p s) := by
  unfold startPartition
  repeat' (first | with_reducible assumption | with_reducible apply keeps_wr | with_reducible apply keeps_commitFields | with_reducible apply keeps_wr64 | with_reducible apply keeps_noteArrivals | with_reducible apply keeps_resetStitch | with_reducible apply keeps_commitHub | with_reducible apply keeps_dropRound | with_reducible apply keeps_startTile | with_reducible apply keeps_foldl | with_reducible apply keeps_foldl_fst | with_reducible apply keeps_foldl_snd | split | (intro _ _) | (intro _) | dsimp only | (with_reducible refine keeps_mk ?_) | (with_reducible refine ok_of ?_; first | with_reducible assumption | with_reducible apply keeps_wr | with_reducible apply keeps_commitFields | with_reducible apply keeps_wr64 | with_reducible apply keeps_noteArrivals | with_reducible apply keeps_resetStitch | with_reducible apply keeps_commitHub | with_reducible apply keeps_dropRound | with_reducible apply keeps_startTile | with_reducible apply keeps_foldl | with_reducible apply keeps_foldl_fst | with_reducible apply keeps_foldl_snd))

theorem keeps_execPartitionResetRelease (p : Nat) (s : State) (hok : memOk s) : ∀ r, execPartitionResetRelease p s = .next r → memOk r := by
  unfold execPartitionResetRelease
  intro r h; injection h with h; subst h
  repeat' (first | with_reducible assumption | with_reducible apply keeps_startPartition | split | (intro _ _) | (intro _))

theorem keeps_execStcXtDataWrite (rq : Requester) (p : Nat) (v : W32) (s : State) (hok : memOk s) : ∀ r, execStcXtDataWrite rq p v s = .next r → memOk r := by
  unfold execStcXtDataWrite
  intro r h; injection h with h; subst h
  repeat' (first | with_reducible assumption | with_reducible apply keeps_setWrign | with_reducible apply keeps_writeHits | with_reducible apply keeps_busWrite | split | (intro _ _) | (intro _) | dsimp only | (with_reducible refine keeps_mk ?_) | (with_reducible refine ok_of ?_; first | with_reducible assumption | with_reducible apply keeps_setWrign | with_reducible apply keeps_writeHits | with_reducible apply keeps_busWrite))

theorem keeps_ownedChange (die : Nat) (s0 s : State) (hok : memOk s) : memOk (ownedChange die s0 s) := by
  unfold ownedChange
  repeat' (first | with_reducible assumption | with_reducible apply keeps_setCount | split | (intro _ _) | (intro _) | dsimp only | (with_reducible refine keeps_mk ?_) | (with_reducible refine ok_of ?_; first | with_reducible assumption | with_reducible apply keeps_setCount))

theorem keeps_execStcCtlWrite (rq : Requester) (die : Nat) (v : W32) (s : State) (hok : memOk s) : ∀ r, execStcCtlWrite rq die v s = .next r → memOk r := by
  unfold execStcCtlWrite
  intro r h; injection h with h; subst h
  repeat' (first | with_reducible assumption | with_reducible apply keeps_busCmd | with_reducible apply keeps_ownedChange | split | (intro _ _) | (intro _))

end Sys2Proof.Laws
end

