-- ==== Sys2Proof/Laws/KeepRecords.lean ====
section
/-! SUPPORT. Machine/Records.lean keeps memory in canonical form. -/

namespace Sys2Proof.Laws
open Sys2Proof.Machine

theorem keeps_ringRecord (ws : List W32) (bad : Bool) (f : Nat) (s : State) (hok : memOk s) : memOk (ringRecord ws bad f s) := by
  unfold ringRecord
  repeat' (first | with_reducible assumption | with_reducible apply keeps_wr | with_reducible apply keeps_postHost | split | (intro _ _) | (intro _))

theorem keeps_countRecord (now : Bool) (f : Nat) (s : State) (hok : memOk s) : memOk (countRecord now f s) := by
  unfold countRecord
  repeat' (first | with_reducible assumption | with_reducible apply keeps_signalErr | split | (intro _ _) | (intro _) | dsimp only | (with_reducible refine keeps_mk ?_) | (with_reducible refine ok_of ?_; first | with_reducible assumption | with_reducible apply keeps_signalErr))

theorem keeps_fileRecord (h : Held) (bad : Nat) (s : State) (hok : memOk s) : memOk (fileRecord h bad s) := by
  unfold fileRecord
  repeat' (first | with_reducible assumption | with_reducible apply keeps_wr | with_reducible apply keeps_incM | with_reducible apply keeps_signalHalted | with_reducible apply keeps_ringRecord | with_reducible apply keeps_countRecord | with_reducible apply keeps_foldl | with_reducible apply keeps_foldl_fst | with_reducible apply keeps_foldl_snd | split | (intro _ _) | (intro _) | dsimp only | (with_reducible refine keeps_mk ?_) | (with_reducible refine ok_of ?_; first | with_reducible assumption | with_reducible apply keeps_wr | with_reducible apply keeps_incM | with_reducible apply keeps_signalHalted | with_reducible apply keeps_ringRecord | with_reducible apply keeps_countRecord | with_reducible apply keeps_foldl | with_reducible apply keeps_foldl_fst | with_reducible apply keeps_foldl_snd))

theorem keeps_execRecordFile (i bad : Nat) (s : State) (hok : memOk s) : ∀ r, execRecordFile i bad s = .next r → memOk r := by
  unfold execRecordFile
  intro r h; injection h with h; subst h
  repeat' (first | with_reducible assumption | with_reducible apply keeps_fileRecord | split | (intro _ _) | (intro _) | dsimp only | (with_reducible refine keeps_mk ?_) | (with_reducible refine ok_of ?_; first | with_reducible assumption | with_reducible apply keeps_fileRecord))

theorem keeps_execErrQpop (rq : Requester) (v : W32) (s : State) (hok : memOk s) : ∀ r, execErrQpop rq v s = .next r → memOk r := by
  unfold execErrQpop
  intro r h; injection h with h; subst h
  repeat' (first | with_reducible assumption | with_reducible apply keeps_setWrign | with_reducible apply keeps_busCmd | split | (intro _ _) | (intro _) | dsimp only | (with_reducible refine keeps_mk ?_) | (with_reducible refine ok_of ?_; first | with_reducible assumption | with_reducible apply keeps_setWrign | with_reducible apply keeps_busCmd))

theorem keeps_fileFatal (code object source : Nat) (u : UnitId) (s : State) (hok : memOk s) : memOk (fileFatal code object source u s) := by
  unfold fileFatal
  repeat' (first | with_reducible assumption | with_reducible apply keeps_raise | with_reducible apply keeps_fileRecord | with_reducible apply keeps_foldl | with_reducible apply keeps_foldl_fst | with_reducible apply keeps_foldl_snd | split | (intro _ _) | (intro _) | dsimp only | (with_reducible refine keeps_mk ?_) | (with_reducible refine ok_of ?_; first | with_reducible assumption | with_reducible apply keeps_raise | with_reducible apply keeps_fileRecord | with_reducible apply keeps_foldl | with_reducible apply keeps_foldl_fst | with_reducible apply keeps_foldl_snd))

end Sys2Proof.Laws
end

