-- ==== Sys2Proof/Laws/KeepCensus.lean ====
section
/-! SUPPORT. Machine/Census.lean keeps memory in canonical form. -/

namespace Sys2Proof.Laws
open Sys2Proof.Machine

theorem keeps_censusAdvance (s : State) (hok : memOk s) : memOk (censusAdvance s) := by
  unfold censusAdvance
  repeat' (first | with_reducible assumption | with_reducible apply keeps_wr | split | (intro _ _) | (intro _))

theorem keeps_execCnsSdataRead (rq : Requester) (s : State) (hok : memOk s) : ∀ r, execCnsSdataRead rq s = .next r → memOk r := by
  unfold execCnsSdataRead
  intro r h; injection h with h; subst h
  repeat' (first | with_reducible assumption | with_reducible apply keeps_busRead | with_reducible apply keeps_censusAdvance | split | (intro _ _) | (intro _) | dsimp only | (with_reducible refine keeps_mk ?_) | (with_reducible refine ok_of ?_; first | with_reducible assumption | with_reducible apply keeps_busRead | with_reducible apply keeps_censusAdvance))

theorem keeps_disarm (s : State) (hok : memOk s) : memOk (disarm s) := by
  unfold disarm
  repeat' (first | with_reducible assumption | with_reducible apply keeps_wr | split | (intro _ _) | (intro _) | dsimp only | (with_reducible refine keeps_mk ?_) | (with_reducible refine ok_of ?_; first | with_reducible assumption | with_reducible apply keeps_wr))

theorem keeps_censusGo (m : Nat) (rq : Requester) (v : W32) (act : State → State) (s : State) (hact : ∀ s, memOk s → memOk (act s)) (hok : memOk s) : memOk (censusGo m rq v act s) := by
  unfold censusGo
  repeat' (first | with_reducible assumption | with_reducible apply keeps_setWrign | with_reducible apply keeps_busCmd | with_reducible apply keeps_disarm | with_reducible apply hact | split | (intro _ _) | (intro _) | dsimp only | (with_reducible refine keeps_mk ?_) | (with_reducible refine ok_of ?_; first | with_reducible assumption | with_reducible apply keeps_setWrign | with_reducible apply keeps_busCmd | with_reducible apply keeps_disarm | with_reducible apply hact))

theorem keeps_execCensusAtBoundary (rq : Requester) (v : W32) (s : State) (hok : memOk s) : ∀ r, execCensusAtBoundary rq v s = .next r → memOk r := by
  unfold execCensusAtBoundary
  intro r h; injection h with h; subst h
  repeat' (first | with_reducible assumption | with_reducible apply keeps_wr | with_reducible apply keeps_censusGo | split | (intro _ _) | (intro _) | dsimp only | (with_reducible refine keeps_mk ?_) | (with_reducible refine ok_of ?_; first | with_reducible assumption | with_reducible apply keeps_wr | with_reducible apply keeps_censusGo))

theorem keeps_execCensusNow (rq : Requester) (v : W32) (s : State) (hok : memOk s) : ∀ r, execCensusNow rq v s = .next r → memOk r := by
  unfold execCensusNow
  intro r h; injection h with h; subst h
  repeat' (first | with_reducible assumption | with_reducible apply keeps_capture | with_reducible apply keeps_censusGo | split | (intro _ _) | (intro _))

theorem keeps_execCensusCancel (rq : Requester) (v : W32) (s : State) (hok : memOk s) : ∀ r, execCensusCancel rq v s = .next r → memOk r := by
  unfold execCensusCancel
  intro r h; injection h with h; subst h
  repeat' (first | with_reducible assumption | with_reducible apply keeps_busCmd | with_reducible apply keeps_disarm | split | (intro _ _) | (intro _))

theorem keeps_execCensusDone (s : State) (hok : memOk s) : ∀ r, execCensusDone s = .next r → memOk r := by
  unfold execCensusDone
  intro r h; injection h with h; subst h
  repeat' (first | with_reducible assumption | with_reducible apply keeps_wr | split | (intro _ _) | (intro _))

end Sys2Proof.Laws
end

