-- ==== Sys2Proof/Laws/KeepReset.lean ====
section
/-! SUPPORT. Machine/Reset.lean keeps memory in canonical form. -/

namespace Sys2Proof.Laws
open Sys2Proof.Machine

theorem keeps_stopEngine (e : Nat) (s : State) (hok : memOk s) : memOk (stopEngine e s) := by
  unfold stopEngine
  repeat' (first | with_reducible assumption | with_reducible apply keeps_wr | split | (intro _ _) | (intro _) | dsimp only | (with_reducible refine keeps_mk ?_) | (with_reducible refine ok_of ?_; first | with_reducible assumption | with_reducible apply keeps_wr))

theorem keeps_zeroUnits (tile cluster : Nat → Bool) (s : State) (hok : memOk s) : memOk (zeroUnits tile cluster s) := by
  unfold zeroUnits
  repeat' (first | with_reducible assumption | split | (intro _ _) | (intro _) | dsimp only | (with_reducible refine keeps_mk ?_) | (with_reducible refine ok_of ?_; first | with_reducible assumption))

theorem keeps_dropRecords (gone : UnitId → Bool) (s : State) (hok : memOk s) : memOk (dropRecords gone s) := by
  unfold dropRecords
  repeat' (first | with_reducible assumption | split | (intro _ _) | (intro _) | dsimp only | (with_reducible refine keeps_mk ?_) | (with_reducible refine ok_of ?_; first | with_reducible assumption))

theorem keeps_closeEndpoints (t : Nat) (s : State) (hok : memOk s) : memOk (closeEndpoints t s) := by
  unfold closeEndpoints
  repeat' (first | with_reducible assumption | with_reducible apply keeps_setTx | with_reducible apply keeps_setRx | with_reducible apply keeps_foldl | with_reducible apply keeps_foldl_fst | with_reducible apply keeps_foldl_snd | split | (intro _ _) | (intro _) | dsimp only | (with_reducible refine keeps_mk ?_) | (with_reducible refine ok_of ?_; first | with_reducible assumption | with_reducible apply keeps_setTx | with_reducible apply keeps_setRx | with_reducible apply keeps_foldl | with_reducible apply keeps_foldl_fst | with_reducible apply keeps_foldl_snd))

theorem keeps_resetTileWide (t : Nat) (s : State) (hok : memOk s) : memOk (resetTileWide t s) := by
  unfold resetTileWide
  repeat' (first | with_reducible assumption | with_reducible apply keeps_wrReset | with_reducible apply keeps_resetTileCore | with_reducible apply keeps_closeEndpoints | split | (intro _ _) | (intro _) | dsimp only | (with_reducible refine keeps_mk ?_) | (with_reducible refine ok_of ?_; first | with_reducible assumption | with_reducible apply keeps_wrReset | with_reducible apply keeps_resetTileCore | with_reducible apply keeps_closeEndpoints))

theorem keeps_resetShared (p : Nat) (s : State) (hok : memOk s) : memOk (resetShared p s) := by
  unfold resetShared
  repeat' (first | with_reducible assumption | with_reducible apply keeps_wr | with_reducible apply keeps_clearSkeins | with_reducible apply keeps_abandonFirings | with_reducible apply keeps_foldl | with_reducible apply keeps_foldl_fst | with_reducible apply keeps_foldl_snd | split | (intro _ _) | (intro _) | dsimp only | (with_reducible refine keeps_mk ?_) | (with_reducible refine ok_of ?_; first | with_reducible assumption | with_reducible apply keeps_wr | with_reducible apply keeps_clearSkeins | with_reducible apply keeps_abandonFirings | with_reducible apply keeps_foldl | with_reducible apply keeps_foldl_fst | with_reducible apply keeps_foldl_snd))

theorem keeps_resetPlans (p : Nat) (s : State) (hok : memOk s) : memOk (resetPlans p s) := by
  unfold resetPlans
  repeat' (first | with_reducible assumption | with_reducible apply keeps_takeStep | with_reducible apply keeps_foldl | with_reducible apply keeps_foldl_fst | with_reducible apply keeps_foldl_snd | split | (intro _ _) | (intro _) | dsimp only | (with_reducible refine keeps_mk ?_) | (with_reducible refine ok_of ?_; first | with_reducible assumption | with_reducible apply keeps_takeStep | with_reducible apply keeps_foldl | with_reducible apply keeps_foldl_fst | with_reducible apply keeps_foldl_snd))

theorem keeps_disarmFor (p : Nat) (s : State) (hok : memOk s) : memOk (disarmFor p s) := by
  unfold disarmFor
  repeat' (first | with_reducible assumption | with_reducible apply keeps_disarm | split | (intro _ _) | (intro _))

theorem keeps_resetPartition (p : Nat) (s : State) (hok : memOk s) : memOk (resetPartition p s) := by
  unfold resetPartition
  repeat' (first | with_reducible assumption | with_reducible apply keeps_wr | with_reducible apply keeps_dropRound | with_reducible apply keeps_stopEngine | with_reducible apply keeps_zeroUnits | with_reducible apply keeps_dropRecords | with_reducible apply keeps_resetTileWide | with_reducible apply keeps_resetShared | with_reducible apply keeps_resetPlans | with_reducible apply keeps_disarmFor | with_reducible apply keeps_foldl | with_reducible apply keeps_foldl_fst | with_reducible apply keeps_foldl_snd | split | (intro _ _) | (intro _) | dsimp only | (with_reducible refine keeps_mk ?_) | (with_reducible refine ok_of ?_; first | with_reducible assumption | with_reducible apply keeps_wr | with_reducible apply keeps_dropRound | with_reducible apply keeps_stopEngine | with_reducible apply keeps_zeroUnits | with_reducible apply keeps_dropRecords | with_reducible apply keeps_resetTileWide | with_reducible apply keeps_resetShared | with_reducible apply keeps_resetPlans | with_reducible apply keeps_disarmFor | with_reducible apply keeps_foldl | with_reducible apply keeps_foldl_fst | with_reducible apply keeps_foldl_snd))

theorem keeps_abandonCensus (s : State) (hok : memOk s) : memOk (abandonCensus s) := by
  unfold abandonCensus
  repeat' (first | with_reducible assumption | with_reducible apply keeps_wr | split | (intro _ _) | (intro _) | dsimp only | (with_reducible refine keeps_mk ?_) | (with_reducible refine ok_of ?_; first | with_reducible assumption | with_reducible apply keeps_wr))

theorem keeps_resetUnits (s : State) (hok : memOk s) : memOk (resetUnits s) := by
  unfold resetUnits
  repeat' (first | with_reducible assumption | with_reducible apply keeps_freshen | split | (intro _ _) | (intro _) | dsimp only | (with_reducible refine keeps_mk ?_) | (with_reducible refine ok_of ?_; first | with_reducible assumption | with_reducible apply keeps_freshen))

theorem keeps_freeSkeins (s : State) (hok : memOk s) : memOk (freeSkeins s) := by
  unfold freeSkeins
  repeat' (first | with_reducible assumption | with_reducible apply keeps_setState | with_reducible apply keeps_foldl | with_reducible apply keeps_foldl_fst | with_reducible apply keeps_foldl_snd | split | (intro _ _) | (intro _) | dsimp only | (with_reducible refine keeps_mk ?_) | (with_reducible refine ok_of ?_; first | with_reducible assumption | with_reducible apply keeps_setState | with_reducible apply keeps_foldl | with_reducible apply keeps_foldl_fst | with_reducible apply keeps_foldl_snd))

theorem keeps_enterCompute (s : State) (hok : memOk s) : memOk (enterCompute s) := by
  unfold enterCompute
  repeat' (first | with_reducible assumption | with_reducible apply keeps_wrOr | with_reducible apply keeps_dropRecords | with_reducible apply keeps_resetPartition | with_reducible apply keeps_abandonCensus | with_reducible apply keeps_resetUnits | with_reducible apply keeps_freeSkeins | with_reducible apply keeps_foldl | with_reducible apply keeps_foldl_fst | with_reducible apply keeps_foldl_snd | split | (intro _ _) | (intro _) | dsimp only | (with_reducible refine keeps_mk ?_) | (with_reducible refine ok_of ?_; first | with_reducible assumption | with_reducible apply keeps_wrOr | with_reducible apply keeps_dropRecords | with_reducible apply keeps_resetPartition | with_reducible apply keeps_abandonCensus | with_reducible apply keeps_resetUnits | with_reducible apply keeps_freeSkeins | with_reducible apply keeps_foldl | with_reducible apply keeps_foldl_fst | with_reducible apply keeps_foldl_snd))

theorem keeps_enterWarm (s : State) (hok : memOk s) : memOk (enterWarm s) := by
  unfold enterWarm
  repeat' (first | with_reducible assumption | (with_reducible refine of_fst (by with_reducible assumption) ?_) | (with_reducible refine of_snd (by with_reducible assumption) ?_) | split | (intro _ _) | (intro _) | dsimp only | (with_reducible refine keeps_mk ?_) | (with_reducible refine ok_of ?_; first | with_reducible assumption | split | dsimp only | (with_reducible apply of_fst; with_reducible assumption) | (with_reducible apply of_snd; with_reducible assumption)) | (with_reducible refine ok_mem ?_) | (with_reducible refine ok_host ?_) | (with_reducible refine ok_filter ?_) | (with_reducible refine ok_clear ?_) | (with_reducible refine ok_put ?_) | (with_reducible refine ok_mem_fold ?_))

theorem keeps_enterCold (s : State) (hok : memOk s) : memOk (enterCold s) := by
  unfold enterCold
  repeat' (first | with_reducible assumption | with_reducible apply keeps_enterWarm | split | (intro _ _) | (intro _) | dsimp only | (with_reducible refine keeps_mk ?_) | (with_reducible refine ok_of ?_; first | with_reducible assumption | with_reducible apply keeps_enterWarm))

theorem keeps_enterReach (r : Nat) (s : State) (hok : memOk s) : memOk (enterReach r s) := by
  unfold enterReach
  repeat' (first | with_reducible assumption | with_reducible apply keeps_enterCompute | with_reducible apply keeps_enterWarm | with_reducible apply keeps_enterCold | split | (intro _ _) | (intro _))

theorem keeps_resetEndpoint (s : State) (hok : memOk s) : memOk (resetEndpoint s) := by
  unfold resetEndpoint
  repeat' (first | with_reducible assumption | split | (intro _ _) | (intro _) | dsimp only | (with_reducible refine keeps_mk ?_) | (with_reducible refine ok_of ?_; first | with_reducible assumption))

theorem keeps_assertSource (i reach : Nat) (s : State) (hok : memOk s) : memOk (assertSource i reach s) := by
  unfold assertSource
  repeat' (first | with_reducible assumption | with_reducible apply keeps_wrOr | with_reducible apply keeps_enterReach | with_reducible apply keeps_resetEndpoint | split | (intro _ _) | (intro _) | dsimp only | (with_reducible refine keeps_mk ?_) | (with_reducible refine ok_of ?_; first | with_reducible assumption | with_reducible apply keeps_wrOr | with_reducible apply keeps_enterReach | with_reducible apply keeps_resetEndpoint))

theorem keeps_releaseSource (i : Nat) (s : State) (hok : memOk s) : memOk (releaseSource i s) := by
  unfold releaseSource
  repeat' (first | with_reducible assumption | with_reducible apply keeps_wr)

theorem keeps_fatalError (code object source : Nat) (u : UnitId) (s : State) (hok : memOk s) : memOk (fatalError code object source u s) := by
  unfold fatalError
  repeat' (first | with_reducible assumption | with_reducible apply keeps_fileFatal | with_reducible apply keeps_assertSource)

theorem keeps_execPerstNAssert (s : State) (hok : memOk s) : ∀ r, execPerstNAssert s = .next r → memOk r := by
  unfold execPerstNAssert
  intro r h; injection h with h; subst h
  repeat' (first | with_reducible assumption | with_reducible apply keeps_assertSource | split | (intro _ _) | (intro _))

theorem keeps_execPerstNRelease (s : State) (hok : memOk s) : ∀ r, execPerstNRelease s = .next r → memOk r := by
  unfold execPerstNRelease
  intro r h; injection h with h; subst h
  repeat' (first | with_reducible assumption | with_reducible apply keeps_releaseSource)

theorem keeps_execMresetNAssert (s : State) (hok : memOk s) : ∀ r, execMresetNAssert s = .next r → memOk r := by
  unfold execMresetNAssert
  intro r h; injection h with h; subst h
  repeat' (first | with_reducible assumption | with_reducible apply keeps_assertSource | split | (intro _ _) | (intro _))

theorem keeps_execMresetNRelease (s : State) (hok : memOk s) : ∀ r, execMresetNRelease s = .next r → memOk r := by
  unfold execMresetNRelease
  intro r h; injection h with h; subst h
  repeat' (first | with_reducible assumption | with_reducible apply keeps_releaseSource)

theorem keeps_execWdogExpire (s : State) (hok : memOk s) : ∀ r, execWdogExpire s = .next r → memOk r := by
  unfold execWdogExpire
  intro r h; injection h with h; subst h
  repeat' (first | with_reducible assumption | with_reducible apply keeps_raise | with_reducible apply keeps_assertSource | split | (intro _ _) | (intro _) | dsimp only | (with_reducible refine keeps_mk ?_) | (with_reducible refine ok_of ?_; first | with_reducible assumption | with_reducible apply keeps_raise | with_reducible apply keeps_assertSource))

theorem keeps_execWdogKick (rq : Requester) (v : W32) (s : State) (hok : memOk s) : ∀ r, execWdogKick rq v s = .next r → memOk r := by
  unfold execWdogKick
  intro r h; injection h with h; subst h
  repeat' (first | with_reducible assumption | with_reducible apply keeps_busCmd | split | (intro _ _) | (intro _) | dsimp only | (with_reducible refine keeps_mk ?_) | (with_reducible refine ok_of ?_; first | with_reducible assumption | with_reducible apply keeps_busCmd))

theorem keeps_softRequest (reach : Nat) (rq : Requester) (v : W32) (act : Nat → State → State) (s : State) (hact : ∀ a0 s, memOk s → memOk (act a0 s)) (hok : memOk s) : memOk (softRequest reach rq v act s) := by
  unfold softRequest
  repeat' (first | with_reducible assumption | with_reducible apply keeps_busCmd | with_reducible apply hact | split | (intro _ _) | (intro _))

theorem keeps_softTile (t : Nat) (s : State) (hok : memOk s) : memOk (softTile t s) := by
  unfold softTile
  repeat' (first | with_reducible assumption | with_reducible apply keeps_resetTile | with_reducible apply keeps_noteArrivals | split | (intro _ _) | (intro _) | dsimp only | (with_reducible refine keeps_mk ?_) | (with_reducible refine ok_of ?_; first | with_reducible assumption | with_reducible apply keeps_resetTile | with_reducible apply keeps_noteArrivals))

theorem keeps_softPartition (p : Nat) (s : State) (hok : memOk s) : memOk (softPartition p s) := by
  unfold softPartition
  repeat' (first | with_reducible assumption | with_reducible apply keeps_resetPartition | split | (intro _ _) | (intro _) | dsimp only | (with_reducible refine keeps_mk ?_) | (with_reducible refine ok_of ?_; first | with_reducible assumption | with_reducible apply keeps_resetPartition))

theorem keeps_execSwreqTile (rq : Requester) (v : W32) (s : State) (hok : memOk s) : ∀ r, execSwreqTile rq v s = .next r → memOk r := by
  unfold execSwreqTile
  intro r h; injection h with h; subst h
  repeat' (first | with_reducible assumption | with_reducible apply keeps_softRequest | with_reducible apply keeps_softTile)

theorem keeps_execSwreqPartition (rq : Requester) (v : W32) (s : State) (hok : memOk s) : ∀ r, execSwreqPartition rq v s = .next r → memOk r := by
  unfold execSwreqPartition
  intro r h; injection h with h; subst h
  repeat' (first | with_reducible assumption | with_reducible apply keeps_softRequest | with_reducible apply keeps_softPartition | split | (intro _ _) | (intro _))

theorem keeps_execSwreqCompute (rq : Requester) (v : W32) (s : State) (hok : memOk s) : ∀ r, execSwreqCompute rq v s = .next r → memOk r := by
  unfold execSwreqCompute
  intro r h; injection h with h; subst h
  repeat' (first | with_reducible assumption | with_reducible apply keeps_assertSource | with_reducible apply keeps_softRequest | split | (intro _ _) | (intro _))

theorem keeps_execSwreqWarm (rq : Requester) (v : W32) (s : State) (hok : memOk s) : ∀ r, execSwreqWarm rq v s = .next r → memOk r := by
  unfold execSwreqWarm
  intro r h; injection h with h; subst h
  repeat' (first | with_reducible assumption | with_reducible apply keeps_assertSource | with_reducible apply keeps_softRequest | split | (intro _ _) | (intro _))

theorem keeps_execSwreqCold (rq : Requester) (v : W32) (s : State) (hok : memOk s) : ∀ r, execSwreqCold rq v s = .next r → memOk r := by
  unfold execSwreqCold
  intro r h; injection h with h; subst h
  repeat' (first | with_reducible assumption | with_reducible apply keeps_assertSource | with_reducible apply keeps_softRequest | split | (intro _ _) | (intro _))

theorem keeps_pholdChange (s0 s : State) (hok : memOk s) : memOk (pholdChange s0 s) := by
  unfold pholdChange
  repeat' (first | with_reducible assumption | with_reducible apply keeps_resetPartition | with_reducible apply keeps_foldl | split | (intro _ _) | (intro _))

theorem keeps_execRstPholdWrite (rq : Requester) (v : W32) (s : State) (hok : memOk s) : ∀ r, execRstPholdWrite rq v s = .next r → memOk r := by
  unfold execRstPholdWrite
  intro r h; injection h with h; subst h
  repeat' (first | with_reducible assumption | with_reducible apply keeps_setWrign | with_reducible apply keeps_writeHits | with_reducible apply keeps_busWrite | with_reducible apply keeps_pholdChange | split | (intro _ _) | (intro _))

theorem keeps_execTileResetRelease (t : Nat) (s : State) (hok : memOk s) : ∀ r, execTileResetRelease t s = .next r → memOk r := by
  unfold execTileResetRelease
  intro r h; injection h with h; subst h
  repeat' (first | with_reducible assumption | with_reducible apply keeps_wr | with_reducible apply keeps_foldl | with_reducible apply keeps_foldl_fst | with_reducible apply keeps_foldl_snd | split | (intro _ _) | (intro _) | dsimp only | (with_reducible refine keeps_mk ?_) | (with_reducible refine ok_of ?_; first | with_reducible assumption | with_reducible apply keeps_wr | with_reducible apply keeps_foldl | with_reducible apply keeps_foldl_fst | with_reducible apply keeps_foldl_snd))

end Sys2Proof.Laws
end

