-- ==== Sys2Proof/Laws/KeepRouter.lean ====
section
/-! SUPPORT. Machine/Router.lean keeps memory in canonical form. -/

namespace Sys2Proof.Laws
open Sys2Proof.Machine

theorem keeps_hostRequest (p : Pkt) (h : Nat) (s : State) (hok : memOk s) : memOk (hostRequest p h s) := by
  unfold hostRequest
  repeat' (first | with_reducible assumption | with_reducible apply keeps_askHost | with_reducible apply keeps_landPkt | split | (intro _ _) | (intro _) | dsimp only | (with_reducible refine keeps_mk ?_) | (with_reducible refine ok_of ?_; first | with_reducible assumption | with_reducible apply keeps_askHost | with_reducible apply keeps_landPkt))

theorem keeps_atHdie (p : Pkt) (s : State) (hok : memOk s) : memOk (atHdie p s) := by
  unfold atHdie
  repeat' (first | with_reducible assumption | with_reducible apply keeps_landPkt | with_reducible apply keeps_landWith | with_reducible apply keeps_postPkt | with_reducible apply keeps_toLink | with_reducible apply keeps_hostRequest | split | (intro _ _) | (intro _))

theorem keeps_countPort (c port : Nat) (s : State) (hok : memOk s) : memOk (countPort c port s) := by
  unfold countPort
  repeat' (first | with_reducible assumption | with_reducible apply keeps_incM | split | (intro _ _) | (intro _))

theorem keeps_moveOn (c port : Nat) (p : Pkt) (s : State) (hok : memOk s) : memOk (moveOn c port p s) := by
  unfold moveOn
  repeat' (first | with_reducible assumption | with_reducible apply keeps_atHdie | with_reducible apply keeps_countPort | split | (intro _ _) | (intro _) | dsimp only | (with_reducible refine keeps_mk ?_) | (with_reducible refine ok_of ?_; first | with_reducible assumption | with_reducible apply keeps_atHdie | with_reducible apply keeps_countPort))

theorem keeps_meshUe (c port : Nat) (p : Pkt) (s : State) (hok : memOk s) : memOk (meshUe c port p s) := by
  unfold meshUe
  repeat' (first | with_reducible assumption | with_reducible apply keeps_wr | with_reducible apply keeps_landPkt | with_reducible apply keeps_fatalError)

theorem keeps_debit (c port : Nat) (p : Pkt) (s : State) (hok : memOk s) : memOk (debit c port p s) := by
  unfold debit
  repeat' (first | with_reducible assumption | split | (intro _ _) | (intro _) | dsimp only | (with_reducible refine keeps_mk ?_) | (with_reducible refine ok_of ?_; first | with_reducible assumption))

theorem keeps_grantOut (c port : Nat) (p : Pkt) (ecc : Ecc) (s : State) (hok : memOk s) : memOk (grantOut c port p ecc s) := by
  unfold grantOut
  repeat' (first | with_reducible assumption | with_reducible apply keeps_incS | with_reducible apply keeps_moveOn | with_reducible apply keeps_meshUe | with_reducible apply keeps_debit | split | (intro _ _) | (intro _))

theorem keeps_execRouterForward (c port : Nat) (aged : Option Nat) (ecc : Ecc) (s : State) (hok : memOk s) : ∀ r, execRouterForward c port aged ecc s = .next r → memOk r := by
  unfold execRouterForward
  intro r h; injection h with h; subst h
  repeat' (first | with_reducible assumption | with_reducible apply keeps_grantOut | split | (intro _ _) | (intro _))

theorem keeps_meshCredit (c port vc : Nat) (s : State) (hok : memOk s) : memOk (meshCredit c port vc s) := by
  unfold meshCredit
  dsimp only
  split <;> exact keeps_fatalError _ _ _ _ _ (by first | exact hok | exact keeps_wr _ _ _ _ _ hok)

theorem keeps_execCreditReturn (c port vc k : Nat) (s : State) (hok : memOk s) : ∀ r, execCreditReturn c port vc k s = .next r → memOk r := by
  unfold execCreditReturn
  intro r h; injection h with h; subst h
  repeat' (first | with_reducible assumption | with_reducible apply keeps_meshCredit | split | (intro _ _) | (intro _) | dsimp only | (with_reducible refine keeps_mk ?_) | (with_reducible refine ok_of ?_; first | with_reducible assumption | with_reducible apply keeps_meshCredit))

end Sys2Proof.Laws
end

