-- ==== Sys2Proof/Laws/KeepPly.lean ====
section
/-! SUPPORT. Machine/Ply.lean keeps memory in canonical form. -/

namespace Sys2Proof.Laws
open Sys2Proof.Machine

theorem keeps_dropLink (k : Nat) (s : State) (hok : memOk s) : memOk (dropLink k s) := by
  unfold dropLink
  repeat' (first | with_reducible assumption | with_reducible apply keeps_landPkt | with_reducible apply keeps_foldl | with_reducible apply keeps_foldl_fst | with_reducible apply keeps_foldl_snd | split | (intro _ _) | (intro _) | dsimp only | (with_reducible refine keeps_mk ?_) | (with_reducible refine ok_of ?_; first | with_reducible assumption | with_reducible apply keeps_landPkt | with_reducible apply keeps_foldl | with_reducible apply keeps_foldl_fst | with_reducible apply keeps_foldl_snd))

theorem keeps_upLost (k : Nat) (s : State) (hok : memOk s) : memOk (upLost k s) := by
  unfold upLost
  repeat' (first | with_reducible assumption | with_reducible apply keeps_wr | split | (intro _ _) | (intro _))

theorem keeps_linkDown (k : Nat) (s : State) (hok : memOk s) : memOk (linkDown k s) := by
  unfold linkDown
  repeat' (first | with_reducible assumption | with_reducible apply keeps_wr | with_reducible apply keeps_dropLink | with_reducible apply keeps_upLost)

theorem keeps_startTraining (st k : Nat) (s : State) (hok : memOk s) : memOk (startTraining st k s) := by
  unfold startTraining
  repeat' (first | with_reducible assumption | with_reducible apply keeps_wr)

theorem keeps_plyCtrl (k : Nat) (retrain : Bool) (s0 s : State) (hok : memOk s) : memOk (plyCtrl k retrain s0 s) := by
  unfold plyCtrl
  repeat' (first | with_reducible assumption | with_reducible apply keeps_linkDown | with_reducible apply keeps_startTraining | split | (intro _ _) | (intro _) | dsimp only | (with_reducible refine keeps_mk ?_) | (with_reducible refine ok_of ?_; first | with_reducible assumption | with_reducible apply keeps_linkDown | with_reducible apply keeps_startTraining))

theorem keeps_plyWrite (rq : Requester) (k : Nat) (v : W32) (retrain : Bool) (s : State) (hok : memOk s) : memOk (plyWrite rq k v retrain s) := by
  unfold plyWrite
  repeat' (first | with_reducible assumption | with_reducible apply keeps_busCmd | with_reducible apply keeps_plyCtrl | split | (intro _ _) | (intro _))

theorem keeps_execPlyEnable (rq : Requester) (k : Nat) (v : W32) (s : State) (hok : memOk s) : ∀ r, execPlyEnable rq k v s = .next r → memOk r := by
  unfold execPlyEnable
  intro r h; injection h with h; subst h
  repeat' (first | with_reducible assumption | with_reducible apply keeps_plyWrite)

theorem keeps_execPlyRetrain (rq : Requester) (k : Nat) (v : W32) (s : State) (hok : memOk s) : ∀ r, execPlyRetrain rq k v s = .next r → memOk r := by
  unfold execPlyRetrain
  intro r h; injection h with h; subst h
  repeat' (first | with_reducible assumption | with_reducible apply keeps_plyWrite)

theorem keeps_execPlyLinkLoss (k : Nat) (s : State) (hok : memOk s) : ∀ r, execPlyLinkLoss k s = .next r → memOk r := by
  unfold execPlyLinkLoss
  intro r h; injection h with h; subst h
  repeat' (first | with_reducible assumption | with_reducible apply keeps_startTraining | split | (intro _ _) | (intro _))

theorem keeps_resend (k : Nat) (s : State) (hok : memOk s) : memOk (resend k s) := by
  unfold resend
  repeat' (first | with_reducible assumption | with_reducible apply keeps_incM | with_reducible apply keeps_sendFlit | with_reducible apply keeps_foldl | split | (intro _ _) | (intro _))

theorem keeps_replayLink (k : Nat) (s : State) (hok : memOk s) : memOk (replayLink k s) := by
  unfold replayLink
  repeat' (first | with_reducible assumption | with_reducible apply keeps_incS | with_reducible apply keeps_startTraining | with_reducible apply keeps_resend | split | (intro _ _) | (intro _) | dsimp only | (with_reducible refine keeps_mk ?_) | (with_reducible refine ok_of ?_; first | with_reducible assumption | with_reducible apply keeps_incS | with_reducible apply keeps_startTraining | with_reducible apply keeps_resend))

theorem keeps_execReplayTimerExpire (k : Nat) (s : State) (hok : memOk s) : ∀ r, execReplayTimerExpire k s = .next r → memOk r := by
  unfold execReplayTimerExpire
  intro r h; injection h with h; subst h
  repeat' (first | with_reducible assumption | with_reducible apply keeps_replayLink | split | (intro _ _) | (intro _))

theorem keeps_freshLink (k : Nat) (s : State) (hok : memOk s) : memOk (freshLink k s) := by
  unfold freshLink
  repeat' (first | with_reducible assumption | with_reducible apply keeps_foldl | with_reducible apply keeps_foldl_fst | with_reducible apply keeps_foldl_snd | split | (intro _ _) | (intro _) | dsimp only | (with_reducible refine keeps_mk ?_) | (with_reducible refine ok_of ?_; first | with_reducible assumption | with_reducible apply keeps_foldl | with_reducible apply keeps_foldl_fst | with_reducible apply keeps_foldl_snd))

theorem keeps_execPlyTrainingComplete (k : Nat) (up4 : Bool) (peer plink : Nat) (s : State) (hok : memOk s) : ∀ r, execPlyTrainingComplete k up4 peer plink s = .next r → memOk r := by
  unfold execPlyTrainingComplete
  intro r h; injection h with h; subst h
  repeat' (first | with_reducible assumption | with_reducible apply keeps_wr | with_reducible apply keeps_sendOwed | with_reducible apply keeps_pumpLink | with_reducible apply keeps_replayLink | with_reducible apply keeps_freshLink | split | (intro _ _) | (intro _) | dsimp only | (with_reducible refine keeps_mk ?_) | (with_reducible refine ok_of ?_; first | with_reducible assumption | with_reducible apply keeps_wr | with_reducible apply keeps_sendOwed | with_reducible apply keeps_pumpLink | with_reducible apply keeps_replayLink | with_reducible apply keeps_freshLink))

theorem keeps_takeAck (k ack : Nat) (s : State) (hok : memOk s) : memOk (takeAck k ack s) := by
  unfold takeAck
  repeat' (first | with_reducible assumption | split | (intro _ _) | (intro _) | dsimp only | (with_reducible refine keeps_mk ?_) | (with_reducible refine ok_of ?_; first | with_reducible assumption))

theorem keeps_takeCredits (k x : Nat) (s : State) (hok : memOk s) : memOk (takeCredits k x s) := by
  unfold takeCredits
  repeat' (first | with_reducible assumption | with_reducible apply keeps_foldl | with_reducible apply keeps_foldl_fst | with_reducible apply keeps_foldl_snd | split | (intro _ _) | (intro _) | dsimp only | (with_reducible refine keeps_mk ?_) | (with_reducible refine ok_of ?_; first | with_reducible assumption | with_reducible apply keeps_foldl | with_reducible apply keeps_foldl_fst | with_reducible apply keeps_foldl_snd))

theorem keeps_takeCount (k p n : Nat) (s : State) (hok : memOk s) : memOk (takeCount k p n s) := by
  unfold takeCount
  repeat' (first | with_reducible assumption | with_reducible apply keeps_landPkt | with_reducible apply keeps_foldl | with_reducible apply keeps_foldl_fst | with_reducible apply keeps_foldl_snd | split | (intro _ _) | (intro _) | dsimp only | (with_reducible refine keeps_mk ?_) | (with_reducible refine ok_of ?_; first | with_reducible assumption | with_reducible apply keeps_landPkt | with_reducible apply keeps_foldl | with_reducible apply keeps_foldl_fst | with_reducible apply keeps_foldl_snd))

theorem keeps_takeReturns (k x : Nat) (s : State) (hok : memOk s) : memOk (takeReturns k x s) := by
  unfold takeReturns
  repeat' (first | with_reducible assumption | with_reducible apply keeps_takeAck | with_reducible apply keeps_takeCredits | with_reducible apply keeps_takeCount | split | (intro _ _) | (intro _) | dsimp only | (with_reducible refine keeps_mk ?_) | (with_reducible refine ok_of ?_; first | with_reducible assumption | with_reducible apply keeps_takeAck | with_reducible apply keeps_takeCredits | with_reducible apply keeps_takeCount))

theorem keeps_plyCredit (ovr : Bool) (k : Nat) (s : State) (hok : memOk s) : memOk (plyCredit ovr k s) := by
  unfold plyCredit
  repeat' (first | with_reducible assumption | with_reducible apply keeps_wr | with_reducible apply keeps_fatalError | split | (intro _ _) | (intro _))

theorem keeps_countFec (k corrected unc : Nat) (s : State) (hok : memOk s) : memOk (countFec k corrected unc s) := by
  unfold countFec
  repeat' (first | with_reducible assumption | with_reducible apply keeps_incS | with_reducible apply keeps_incM)

theorem keeps_countedOnly (k opart : Nat) (s : State) (hok : memOk s) : memOk (countedOnly k opart s) := by
  unfold countedOnly
  repeat' (first | with_reducible assumption | split | (intro _ _) | (intro _) | dsimp only | (with_reducible refine keeps_mk ?_) | (with_reducible refine ok_of ?_; first | with_reducible assumption))

theorem keeps_inboundRefused (k p opart x : Nat) (s : State) (hok : memOk s) : memOk (inboundRefused k p opart x s) := by
  unfold inboundRefused
  repeat' (first | with_reducible assumption | with_reducible apply keeps_bumpTally | with_reducible apply keeps_unitRefused | with_reducible apply keeps_countedOnly)

theorem keeps_inboundPacket (k : Nat) (h : Nat × Nat) (s : State) (hok : memOk s) : memOk (inboundPacket k h s) := by
  unfold inboundPacket
  repeat' (first | with_reducible assumption | with_reducible apply keeps_raise | with_reducible apply keeps_inject | with_reducible apply keeps_countedOnly | with_reducible apply keeps_inboundRefused | split | (intro _ _) | (intro _) | dsimp only | (with_reducible refine keeps_mk ?_) | (with_reducible refine ok_of ?_; first | with_reducible assumption | with_reducible apply keeps_raise | with_reducible apply keeps_inject | with_reducible apply keeps_countedOnly | with_reducible apply keeps_inboundRefused))

theorem keeps_inboundMirror (h : Nat × Nat) (s : State) (hok : memOk s) : memOk (inboundMirror h s) := by
  unfold inboundMirror
  repeat' (first | with_reducible assumption | with_reducible apply keeps_wrLE | split | (intro _ _) | (intro _) | dsimp only | (with_reducible refine keeps_mk ?_) | (with_reducible refine ok_of ?_; first | with_reducible assumption | with_reducible apply keeps_wrLE))

theorem keeps_forwardBlock (k vc : Nat) (slots : List (BitVec 128)) (s : State) (hok : memOk s) : memOk (forwardBlock k vc slots s) := by
  unfold forwardBlock
  repeat' (first | with_reducible assumption | with_reducible apply keeps_inboundPacket | with_reducible apply keeps_inboundMirror | with_reducible apply keeps_foldl | with_reducible apply keeps_foldl_fst | with_reducible apply keeps_foldl_snd | split | (intro _ _) | (intro _) | dsimp only | (with_reducible refine keeps_mk ?_) | (with_reducible refine ok_of ?_; first | with_reducible assumption | with_reducible apply keeps_inboundPacket | with_reducible apply keeps_inboundMirror | with_reducible apply keeps_foldl | with_reducible apply keeps_foldl_fst | with_reducible apply keeps_foldl_snd))

theorem keeps_acceptFlit (k x : Nat) (s : State) (hok : memOk s) : memOk (acceptFlit k x s) := by
  unfold acceptFlit
  repeat' (first | with_reducible assumption | with_reducible apply keeps_incM | with_reducible apply keeps_forwardBlock | split | (intro _ _) | (intro _) | dsimp only | (with_reducible refine keeps_mk ?_) | (with_reducible refine ok_of ?_; first | with_reducible assumption | with_reducible apply keeps_incM | with_reducible apply keeps_forwardBlock))

theorem keeps_takeData (k x : Nat) (s : State) (hok : memOk s) : memOk (takeData k x s) := by
  unfold takeData
  repeat' (first | with_reducible assumption | with_reducible apply keeps_sendFlit | with_reducible apply keeps_acceptFlit | split | (intro _ _) | (intro _) | dsimp only | (with_reducible refine keeps_mk ?_) | (with_reducible refine ok_of ?_; first | with_reducible assumption | with_reducible apply keeps_sendFlit | with_reducible apply keeps_acceptFlit))

theorem keeps_execFlitReceive (k : Nat) (flit : BitVec 2048) (corrected unc : Nat) (s : State) (hok : memOk s) : ∀ r, execFlitReceive k flit corrected unc s = .next r → memOk r := by
  unfold execFlitReceive
  intro r h; injection h with h; subst h
  repeat' (first | with_reducible assumption | with_reducible apply keeps_sendOwed | with_reducible apply keeps_pumpLink | with_reducible apply keeps_takeReturns | with_reducible apply keeps_plyCredit | with_reducible apply keeps_countFec | with_reducible apply keeps_takeData | split | (intro _ _) | (intro _) | dsimp only | (with_reducible refine keeps_mk ?_) | (with_reducible refine ok_of ?_; first | with_reducible assumption | with_reducible apply keeps_sendOwed | with_reducible apply keeps_pumpLink | with_reducible apply keeps_takeReturns | with_reducible apply keeps_plyCredit | with_reducible apply keeps_countFec | with_reducible apply keeps_takeData))

theorem keeps_execNak (k : Nat) (flit : BitVec 2048) (corrected unc : Nat) (s : State) (hok : memOk s) : ∀ r, execNak k flit corrected unc s = .next r → memOk r := by
  unfold execNak
  intro r h; injection h with h; subst h
  repeat' (first | with_reducible assumption | with_reducible apply keeps_sendOwed | with_reducible apply keeps_pumpLink | with_reducible apply keeps_replayLink | with_reducible apply keeps_takeReturns | with_reducible apply keeps_plyCredit | with_reducible apply keeps_countFec | split | (intro _ _) | (intro _) | dsimp only | (with_reducible refine keeps_mk ?_) | (with_reducible refine ok_of ?_; first | with_reducible assumption | with_reducible apply keeps_sendOwed | with_reducible apply keeps_pumpLink | with_reducible apply keeps_replayLink | with_reducible apply keeps_takeReturns | with_reducible apply keeps_plyCredit | with_reducible apply keeps_countFec))

theorem keeps_execPlyLinkFail (k : Nat) (s : State) (hok : memOk s) : ∀ r, execPlyLinkFail k s = .next r → memOk r := by
  unfold execPlyLinkFail
  intro r h; injection h with h; subst h
  repeat' (first | with_reducible assumption | with_reducible apply keeps_wr | with_reducible apply keeps_raise | with_reducible apply keeps_castBranch | with_reducible apply keeps_linkDown | with_reducible apply keeps_foldl | split | (intro _ _) | (intro _))

end Sys2Proof.Laws
end

