-- ==== Sys2Proof/Laws/KeepGroup.lean ====
section
/-! SUPPORT. Machine/Group.lean keeps memory in canonical form. -/

namespace Sys2Proof.Laws
open Sys2Proof.Machine

theorem keeps_withMsg (kind i : Nat) (act : Nat → BitVec 128 → State → State) (s : State) (hact : ∀ a0 a1 s, memOk s → memOk (act a0 a1 s)) (hok : memOk s) : memOk (withMsg kind i act s) := by
  unfold withMsg
  repeat' (first | with_reducible assumption | with_reducible apply hact | split | (intro _ _) | (intro _) | dsimp only | (with_reducible refine keeps_mk ?_) | (with_reducible refine ok_of ?_; first | with_reducible assumption | with_reducible apply hact))

theorem keeps_managed (act : Nat → BitVec 128 → State → State) (k : Nat) (m : BitVec 128) (s : State) (hact : ∀ a0 a1 s, memOk s → memOk (act a0 a1 s)) (hok : memOk s) : memOk (managed act k m s) := by
  unfold managed
  repeat' (first | with_reducible assumption | with_reducible apply keeps_flood | with_reducible apply hact | split | (intro _ _) | (intro _))

theorem keeps_sendTwin (kind arg : Nat) (s : State) (hok : memOk s) : memOk (sendTwin kind arg s) := by
  unfold sendTwin
  repeat' (first | with_reducible assumption | with_reducible apply keeps_sendOn)

theorem keeps_groupRec (code k extra : Nat) (s : State) (hok : memOk s) : memOk (groupRec code k extra s) := by
  unfold groupRec
  repeat' (first | with_reducible assumption | with_reducible apply keeps_raise)

theorem keeps_twinRec (code : Nat) (s : State) (hok : memOk s) : memOk (twinRec code s) := by
  unfold twinRec
  repeat' (first | with_reducible assumption | with_reducible apply keeps_groupRec)

theorem keeps_sendUnknown (kind arg : Nat) (s : State) (hok : memOk s) : memOk (sendUnknown kind arg s) := by
  unfold sendUnknown
  repeat' (first | with_reducible assumption | with_reducible apply keeps_sendTo | split | (intro _ _) | (intro _) | dsimp only | (with_reducible refine keeps_mk ?_) | (with_reducible refine ok_of ?_; first | with_reducible assumption | with_reducible apply keeps_sendTo))

theorem keeps_spanArrive (k : Nat) (m : BitVec 128) (i : Nat) (s : State) (hok : memOk s) : memOk (spanArrive k m i s) := by
  unfold spanArrive
  repeat' (first | with_reducible assumption | with_reducible apply keeps_spanStep | with_reducible apply keeps_groupRec | split | (intro _ _) | (intro _) | dsimp only | (with_reducible refine keeps_mk ?_) | (with_reducible refine ok_of ?_; first | with_reducible assumption | with_reducible apply keeps_spanStep | with_reducible apply keeps_groupRec))

theorem keeps_spanRelease (k : Nat) (m : BitVec 128) (i : Nat) (s : State) (hok : memOk s) : memOk (spanRelease k m i s) := by
  unfold spanRelease
  repeat' (first | with_reducible assumption | with_reducible apply keeps_sendMask | with_reducible apply keeps_spanNext | with_reducible apply keeps_giveRelease | with_reducible apply keeps_groupRec | split | (intro _ _) | (intro _))

theorem keeps_execSpanArrive (i : Nat) (s : State) (hok : memOk s) : ∀ r, execSpanArrive i s = .next r → memOk r := by
  unfold execSpanArrive
  intro r h; injection h with h; subst h
  repeat' (first | with_reducible assumption | with_reducible apply keeps_withMsg | with_reducible apply keeps_spanArrive | with_reducible apply keeps_foldl | split | (intro _ _) | (intro _))

theorem keeps_execSpanRelease (i : Nat) (s : State) (hok : memOk s) : ∀ r, execSpanRelease i s = .next r → memOk r := by
  unfold execSpanRelease
  intro r h; injection h with h; subst h
  repeat' (first | with_reducible assumption | with_reducible apply keeps_withMsg | with_reducible apply keeps_spanRelease | with_reducible apply keeps_foldl | split | (intro _ _) | (intro _))

theorem keeps_addGrace (us p : Nat) (s : State) (hok : memOk s) : memOk (addGrace us p s) := by
  unfold addGrace
  repeat' (first | with_reducible assumption | with_reducible apply keeps_wr | split | (intro _ _) | (intro _))

theorem keeps_peerThrottle (sender us p : Nat) (s : State) (hok : memOk s) : memOk (peerThrottle sender us p s) := by
  unfold peerThrottle
  repeat' (first | with_reducible assumption | with_reducible apply keeps_raise | with_reducible apply keeps_addGrace | split | (intro _ _) | (intro _) | dsimp only | (with_reducible refine keeps_mk ?_) | (with_reducible refine ok_of ?_; first | with_reducible assumption | with_reducible apply keeps_raise | with_reducible apply keeps_addGrace))

theorem keeps_graceNotice (us : Nat) (s : State) (hok : memOk s) : memOk (graceNotice us s) := by
  unfold graceNotice
  repeat' (first | with_reducible assumption | with_reducible apply keeps_sendMask | with_reducible apply keeps_addGrace | with_reducible apply keeps_foldl | split | (intro _ _) | (intro _))

theorem keeps_execGrace (i : Nat) (s : State) (hok : memOk s) : ∀ r, execGrace i s = .next r → memOk r := by
  unfold execGrace
  intro r h; injection h with h; subst h
  repeat' (first | with_reducible assumption | with_reducible apply keeps_sendMask | with_reducible apply keeps_withMsg | with_reducible apply keeps_peerThrottle | with_reducible apply keeps_foldl | split | (intro _ _) | (intro _))

theorem keeps_setTwin (st : Nat) (s : State) (hok : memOk s) : memOk (setTwin st s) := by
  unfold setTwin
  repeat' (first | with_reducible assumption | with_reducible apply keeps_wr)

theorem keeps_mirrorWrite (ofs n v : Nat) (s : State) (hok : memOk s) : memOk (mirrorWrite ofs n v s) := by
  unfold mirrorWrite
  repeat' (first | with_reducible assumption | split | (intro _ _) | (intro _) | dsimp only | (with_reducible refine keeps_mk ?_) | (with_reducible refine ok_of ?_; first | with_reducible assumption))

theorem keeps_pumpTwin (s : State) (hok : memOk s) : memOk (pumpTwin s) := by
  unfold pumpTwin
  repeat' (first | with_reducible assumption | with_reducible apply keeps_pumpLink)

theorem keeps_startMirror (s : State) (hok : memOk s) : memOk (startMirror s) := by
  unfold startMirror
  repeat' (first | with_reducible assumption | with_reducible apply keeps_pumpTwin | split | (intro _ _) | (intro _) | dsimp only | (with_reducible refine keeps_mk ?_) | (with_reducible refine ok_of ?_; first | with_reducible assumption | with_reducible apply keeps_pumpTwin))

theorem keeps_pairIfReady (s : State) (hok : memOk s) : memOk (pairIfReady s) := by
  unfold pairIfReady
  repeat' (first | with_reducible assumption | with_reducible apply keeps_sendUnknown | with_reducible apply keeps_setTwin | split | (intro _ _) | (intro _) | dsimp only | (with_reducible refine keeps_mk ?_) | (with_reducible refine ok_of ?_; first | with_reducible assumption | with_reducible apply keeps_sendUnknown | with_reducible apply keeps_setTwin))

theorem keeps_attachMeet (k : Nat) (m : BitVec 128) (s : State) (hok : memOk s) : memOk (attachMeet k m s) := by
  unfold attachMeet
  repeat' (first | with_reducible assumption | with_reducible apply keeps_wr | with_reducible apply keeps_sendOn | with_reducible apply keeps_twinRec | with_reducible apply keeps_setTwin | with_reducible apply keeps_startMirror | split | (intro _ _) | (intro _) | dsimp only | (with_reducible refine keeps_mk ?_) | (with_reducible refine ok_of ?_; first | with_reducible assumption | with_reducible apply keeps_wr | with_reducible apply keeps_sendOn | with_reducible apply keeps_twinRec | with_reducible apply keeps_setTwin | with_reducible apply keeps_startMirror))

theorem keeps_execAttachReq (i : Nat) (s : State) (hok : memOk s) : ∀ r, execAttachReq i s = .next r → memOk r := by
  unfold execAttachReq
  intro r h; injection h with h; subst h
  repeat' (first | with_reducible assumption | with_reducible apply keeps_sendOn | with_reducible apply keeps_withMsg | with_reducible apply keeps_managed | with_reducible apply keeps_startMirror | with_reducible apply keeps_attachMeet | split | (intro _ _) | (intro _))

theorem keeps_execAttachAck (i : Nat) (s : State) (hok : memOk s) : ∀ r, execAttachAck i s = .next r → memOk r := by
  unfold execAttachAck
  intro r h; injection h with h; subst h
  repeat' (first | with_reducible assumption | with_reducible apply keeps_withMsg | with_reducible apply keeps_managed | with_reducible apply keeps_attachMeet | split | (intro _ _) | (intro _))

theorem keeps_execAttachNak (i : Nat) (s : State) (hok : memOk s) : ∀ r, execAttachNak i s = .next r → memOk r := by
  unfold execAttachNak
  intro r h; injection h with h; subst h
  repeat' (first | with_reducible assumption | with_reducible apply keeps_wr | with_reducible apply keeps_withMsg | with_reducible apply keeps_managed | with_reducible apply keeps_twinRec | with_reducible apply keeps_setTwin | split | (intro _ _) | (intro _) | dsimp only | (with_reducible refine keeps_mk ?_) | (with_reducible refine ok_of ?_; first | with_reducible assumption | with_reducible apply keeps_wr | with_reducible apply keeps_withMsg | with_reducible apply keeps_managed | with_reducible apply keeps_twinRec | with_reducible apply keeps_setTwin))

theorem keeps_execHb (i : Nat) (s : State) (hok : memOk s) : ∀ r, execHb i s = .next r → memOk r := by
  unfold execHb
  intro r h; injection h with h; subst h
  repeat' (first | with_reducible assumption | with_reducible apply keeps_withMsg | with_reducible apply keeps_managed | split | (intro _ _) | (intro _))

theorem keeps_execMirrorReady (i : Nat) (s : State) (hok : memOk s) : ∀ r, execMirrorReady i s = .next r → memOk r := by
  unfold execMirrorReady
  intro r h; injection h with h; subst h
  repeat' (first | with_reducible assumption | with_reducible apply keeps_withMsg | with_reducible apply keeps_managed | with_reducible apply keeps_pairIfReady | split | (intro _ _) | (intro _) | dsimp only | (with_reducible refine keeps_mk ?_) | (with_reducible refine ok_of ?_; first | with_reducible assumption | with_reducible apply keeps_withMsg | with_reducible apply keeps_managed | with_reducible apply keeps_pairIfReady))

theorem keeps_execInitialMirrorComplete (s : State) (hok : memOk s) : ∀ r, execInitialMirrorComplete s = .next r → memOk r := by
  unfold execInitialMirrorComplete
  intro r h; injection h with h; subst h
  repeat' (first | with_reducible assumption | with_reducible apply keeps_sendTwin | with_reducible apply keeps_pairIfReady | split | (intro _ _) | (intro _) | dsimp only | (with_reducible refine keeps_mk ?_) | (with_reducible refine ok_of ?_; first | with_reducible assumption | with_reducible apply keeps_sendTwin | with_reducible apply keeps_pairIfReady))

theorem keeps_execDetachReq (i : Nat) (s : State) (hok : memOk s) : ∀ r, execDetachReq i s = .next r → memOk r := by
  unfold execDetachReq
  intro r h; injection h with h; subst h
  repeat' (first | with_reducible assumption | with_reducible apply keeps_withMsg | with_reducible apply keeps_managed | split | (intro _ _) | (intro _) | dsimp only | (with_reducible refine keeps_mk ?_) | (with_reducible refine ok_of ?_; first | with_reducible assumption | with_reducible apply keeps_withMsg | with_reducible apply keeps_managed))

theorem keeps_cover (s : State) (hok : memOk s) : memOk (cover s) := by
  unfold cover
  repeat' (first | with_reducible assumption | with_reducible apply keeps_wr | with_reducible apply keeps_sendTwin | with_reducible apply keeps_twinRec | with_reducible apply keeps_sendUnknown | with_reducible apply keeps_setTwin | split | (intro _ _) | (intro _) | dsimp only | (with_reducible refine keeps_mk ?_) | (with_reducible refine ok_of ?_; first | with_reducible assumption | with_reducible apply keeps_wr | with_reducible apply keeps_sendTwin | with_reducible apply keeps_twinRec | with_reducible apply keeps_sendUnknown | with_reducible apply keeps_setTwin))

theorem keeps_askCover (s : State) (hok : memOk s) : memOk (askCover s) := by
  unfold askCover
  repeat' (first | with_reducible assumption | with_reducible apply keeps_sendUnknown | with_reducible apply keeps_cover | split | (intro _ _) | (intro _) | dsimp only | (with_reducible refine keeps_mk ?_) | (with_reducible refine ok_of ?_; first | with_reducible assumption | with_reducible apply keeps_sendUnknown | with_reducible apply keeps_cover))

theorem keeps_execDrainDone (i : Nat) (s : State) (hok : memOk s) : ∀ r, execDrainDone i s = .next r → memOk r := by
  unfold execDrainDone
  intro r h; injection h with h; subst h
  repeat' (first | with_reducible assumption | with_reducible apply keeps_withMsg | with_reducible apply keeps_managed | with_reducible apply keeps_askCover | split | (intro _ _) | (intro _))

theorem keeps_joinManager (s : State) (hok : memOk s) : memOk (joinManager s) := by
  unfold joinManager
  repeat' (first | with_reducible assumption | with_reducible apply keeps_sendTo | split | (intro _ _) | (intro _))

theorem keeps_handoverNews (x : Nat) (s : State) (hok : memOk s) : memOk (handoverNews x s) := by
  unfold handoverNews
  repeat' (first | with_reducible assumption | with_reducible apply keeps_wr | with_reducible apply keeps_joinManager | split | (intro _ _) | (intro _) | dsimp only | (with_reducible refine keeps_mk ?_) | (with_reducible refine ok_of ?_; first | with_reducible assumption | with_reducible apply keeps_wr | with_reducible apply keeps_joinManager))

theorem keeps_execHandover (i : Nat) (s : State) (hok : memOk s) : ∀ r, execHandover i s = .next r → memOk r := by
  unfold execHandover
  intro r h; injection h with h; subst h
  repeat' (first | with_reducible assumption | with_reducible apply keeps_flood | with_reducible apply keeps_sendTo | with_reducible apply keeps_withMsg | with_reducible apply keeps_handoverNews | split | (intro _ _) | (intro _) | dsimp only | (with_reducible refine keeps_mk ?_) | (with_reducible refine ok_of ?_; first | with_reducible assumption | with_reducible apply keeps_flood | with_reducible apply keeps_sendTo | with_reducible apply keeps_withMsg | with_reducible apply keeps_handoverNews))

theorem keeps_execHandoverAck (i : Nat) (s : State) (hok : memOk s) : ∀ r, execHandoverAck i s = .next r → memOk r := by
  unfold execHandoverAck
  intro r h; injection h with h; subst h
  repeat' (first | with_reducible assumption | with_reducible apply keeps_withMsg | with_reducible apply keeps_managed | with_reducible apply keeps_setTwin | with_reducible apply keeps_cover | split | (intro _ _) | (intro _) | dsimp only | (with_reducible refine keeps_mk ?_) | (with_reducible refine ok_of ?_; first | with_reducible assumption | with_reducible apply keeps_withMsg | with_reducible apply keeps_managed | with_reducible apply keeps_setTwin | with_reducible apply keeps_cover))

theorem keeps_execHandoverNak (i : Nat) (s : State) (hok : memOk s) : ∀ r, execHandoverNak i s = .next r → memOk r := by
  unfold execHandoverNak
  intro r h; injection h with h; subst h
  repeat' (first | with_reducible assumption | with_reducible apply keeps_wr | with_reducible apply keeps_withMsg | with_reducible apply keeps_managed | with_reducible apply keeps_twinRec | with_reducible apply keeps_setTwin | split | (intro _ _) | (intro _) | dsimp only | (with_reducible refine keeps_mk ?_) | (with_reducible refine ok_of ?_; first | with_reducible assumption | with_reducible apply keeps_wr | with_reducible apply keeps_withMsg | with_reducible apply keeps_managed | with_reducible apply keeps_twinRec | with_reducible apply keeps_setTwin))

theorem keeps_execHandback (i : Nat) (s : State) (hok : memOk s) : ∀ r, execHandback i s = .next r → memOk r := by
  unfold execHandback
  intro r h; injection h with h; subst h
  repeat' (first | with_reducible assumption | with_reducible apply keeps_wr | with_reducible apply keeps_flood | with_reducible apply keeps_withMsg | split | (intro _ _) | (intro _))

theorem keeps_execResetReq (i : Nat) (s : State) (hok : memOk s) : ∀ r, execResetReq i s = .next r → memOk r := by
  unfold execResetReq
  intro r h; injection h with h; subst h
  repeat' (first | with_reducible assumption | with_reducible apply keeps_assertSource | with_reducible apply keeps_withMsg | with_reducible apply keeps_managed | with_reducible apply keeps_groupRec | split | (intro _ _) | (intro _))

theorem keeps_execGroupJoin (i : Nat) (s : State) (hok : memOk s) : ∀ r, execGroupJoin i s = .next r → memOk r := by
  unfold execGroupJoin
  intro r h; injection h with h; subst h
  repeat' (first | with_reducible assumption | with_reducible apply keeps_sendTo | with_reducible apply keeps_withMsg | with_reducible apply keeps_managed | split | (intro _ _) | (intro _) | dsimp only | (with_reducible refine keeps_mk ?_) | (with_reducible refine ok_of ?_; first | with_reducible assumption | with_reducible apply keeps_sendTo | with_reducible apply keeps_withMsg | with_reducible apply keeps_managed))

theorem keeps_execJoinAck (i : Nat) (s : State) (hok : memOk s) : ∀ r, execJoinAck i s = .next r → memOk r := by
  unfold execJoinAck
  intro r h; injection h with h; subst h
  repeat' (first | with_reducible assumption | with_reducible apply keeps_withMsg | with_reducible apply keeps_managed | split | (intro _ _) | (intro _) | dsimp only | (with_reducible refine keeps_mk ?_) | (with_reducible refine ok_of ?_; first | with_reducible assumption | with_reducible apply keeps_withMsg | with_reducible apply keeps_managed))

theorem keeps_inboxPut (cons : Nat) (m : BitVec 128) (s : State) (hok : memOk s) : memOk (inboxPut cons m s) := by
  unfold inboxPut
  repeat' (first | with_reducible assumption | with_reducible apply keeps_signalVec | with_reducible apply keeps_raise | with_reducible apply keeps_postHost | split | (intro _ _) | (intro _) | dsimp only | (with_reducible refine keeps_mk ?_) | (with_reducible refine ok_of ?_; first | with_reducible assumption | with_reducible apply keeps_signalVec | with_reducible apply keeps_raise | with_reducible apply keeps_postHost))

theorem keeps_execDispatch (i cons : Nat) (s : State) (hok : memOk s) : ∀ r, execDispatch i cons s = .next r → memOk r := by
  unfold execDispatch
  intro r h; injection h with h; subst h
  repeat' (first | with_reducible assumption | with_reducible apply keeps_withMsg | with_reducible apply keeps_managed | with_reducible apply keeps_inboxPut | split | (intro _ _) | (intro _))

theorem keeps_execRollout (i cons : Nat) (s : State) (hok : memOk s) : ∀ r, execRollout i cons s = .next r → memOk r := by
  unfold execRollout
  intro r h; injection h with h; subst h
  repeat' (first | with_reducible assumption | with_reducible apply keeps_withMsg | with_reducible apply keeps_managed | with_reducible apply keeps_inboxPut | split | (intro _ _) | (intro _))

theorem keeps_passReport (froms tos : List Nat) (seen : SMap Nat) (m : BitVec 128) (s : State) (hok : memOk s) : memOk (passReport froms tos seen m s) := by
  unfold passReport
  repeat' (first | with_reducible assumption | with_reducible apply keeps_seen | with_reducible apply keeps_sendTo | with_reducible apply keeps_foldl | with_reducible apply keeps_foldl_fst | with_reducible apply keeps_foldl_snd | split | (intro _ _) | (intro _) | dsimp only | (with_reducible refine keeps_mk ?_) | (with_reducible refine ok_of ?_; first | with_reducible assumption | with_reducible apply keeps_seen | with_reducible apply keeps_sendTo | with_reducible apply keeps_foldl | with_reducible apply keeps_foldl_fst | with_reducible apply keeps_foldl_snd))

theorem keeps_execGenPublished (i : Nat) (s : State) (hok : memOk s) : ∀ r, execGenPublished i s = .next r → memOk r := by
  unfold execGenPublished
  intro r h; injection h with h; subst h
  repeat' (first | with_reducible assumption | with_reducible apply keeps_seen | with_reducible apply keeps_withMsg | with_reducible apply keeps_managed | with_reducible apply keeps_passReport | split | (intro _ _) | (intro _) | dsimp only | (with_reducible refine keeps_mk ?_) | (with_reducible refine ok_of ?_; first | with_reducible assumption | with_reducible apply keeps_seen | with_reducible apply keeps_withMsg | with_reducible apply keeps_managed | with_reducible apply keeps_passReport))

theorem keeps_execGenAdopted (i : Nat) (s : State) (hok : memOk s) : ∀ r, execGenAdopted i s = .next r → memOk r := by
  unfold execGenAdopted
  intro r h; injection h with h; subst h
  repeat' (first | with_reducible assumption | with_reducible apply keeps_seen | with_reducible apply keeps_withMsg | with_reducible apply keeps_managed | with_reducible apply keeps_passReport | split | (intro _ _) | (intro _) | dsimp only | (with_reducible refine keeps_mk ?_) | (with_reducible refine ok_of ?_; first | with_reducible assumption | with_reducible apply keeps_seen | with_reducible apply keeps_withMsg | with_reducible apply keeps_managed | with_reducible apply keeps_passReport))

theorem keeps_twinCmd (rq : Requester) (cmd : Nat) (v : W32) (act : State → State) (s : State) (hact : ∀ s, memOk s → memOk (act s)) (hok : memOk s) : memOk (twinCmd rq cmd v act s) := by
  unfold twinCmd
  repeat' (first | with_reducible assumption | with_reducible apply keeps_busCmd | with_reducible apply hact | split | (intro _ _) | (intro _))

theorem keeps_execTwinAttach (rq : Requester) (v : W32) (s : State) (hok : memOk s) : ∀ r, execTwinAttach rq v s = .next r → memOk r := by
  unfold execTwinAttach
  intro r h; injection h with h; subst h
  repeat' (first | with_reducible assumption | with_reducible apply keeps_sendTwin | with_reducible apply keeps_setTwin | with_reducible apply keeps_twinCmd | split | (intro _ _) | (intro _) | dsimp only | (with_reducible refine keeps_mk ?_) | (with_reducible refine ok_of ?_; first | with_reducible assumption | with_reducible apply keeps_sendTwin | with_reducible apply keeps_setTwin | with_reducible apply keeps_twinCmd))

theorem keeps_execTwinDetach (rq : Requester) (v : W32) (s : State) (hok : memOk s) : ∀ r, execTwinDetach rq v s = .next r → memOk r := by
  unfold execTwinDetach
  intro r h; injection h with h; subst h
  repeat' (first | with_reducible assumption | with_reducible apply keeps_sendOn | with_reducible apply keeps_sendTwin | with_reducible apply keeps_setTwin | with_reducible apply keeps_twinCmd | split | (intro _ _) | (intro _) | dsimp only | (with_reducible refine keeps_mk ?_) | (with_reducible refine ok_of ?_; first | with_reducible assumption | with_reducible apply keeps_sendOn | with_reducible apply keeps_sendTwin | with_reducible apply keeps_setTwin | with_reducible apply keeps_twinCmd))

theorem keeps_execTwinDrainComplete (s : State) (hok : memOk s) : ∀ r, execTwinDrainComplete s = .next r → memOk r := by
  unfold execTwinDrainComplete
  intro r h; injection h with h; subst h
  repeat' (first | with_reducible assumption | with_reducible apply keeps_sendTwin | split | (intro _ _) | (intro _) | dsimp only | (with_reducible refine keeps_mk ?_) | (with_reducible refine ok_of ?_; first | with_reducible assumption | with_reducible apply keeps_sendTwin))

theorem keeps_rollLoss (s : State) (hok : memOk s) : memOk (rollLoss s) := by
  unfold rollLoss
  repeat' (first | with_reducible assumption | with_reducible apply keeps_wr | with_reducible apply keeps_foldl | with_reducible apply keeps_foldl_fst | with_reducible apply keeps_foldl_snd | split | (intro _ _) | (intro _) | dsimp only | (with_reducible refine keeps_mk ?_) | (with_reducible refine ok_of ?_; first | with_reducible assumption | with_reducible apply keeps_wr | with_reducible apply keeps_foldl | with_reducible apply keeps_foldl_fst | with_reducible apply keeps_foldl_snd))

theorem keeps_execTwinPartnerLost (s : State) (hok : memOk s) : ∀ r, execTwinPartnerLost s = .next r → memOk r := by
  unfold execTwinPartnerLost
  intro r h; injection h with h; subst h
  repeat' (first | with_reducible assumption | with_reducible apply keeps_wr | with_reducible apply keeps_twinRec | with_reducible apply keeps_askCover | with_reducible apply keeps_rollLoss | split | (intro _ _) | (intro _) | dsimp only | (with_reducible refine keeps_mk ?_) | (with_reducible refine ok_of ?_; first | with_reducible assumption | with_reducible apply keeps_wr | with_reducible apply keeps_twinRec | with_reducible apply keeps_askCover | with_reducible apply keeps_rollLoss))

theorem keeps_execHeartbeatTimer (pin : Bool) (s : State) (hok : memOk s) : ∀ r, execHeartbeatTimer pin s = .next r → memOk r := by
  unfold execHeartbeatTimer
  intro r h; injection h with h; subst h
  repeat' (first | with_reducible assumption | with_reducible apply keeps_sendTwin | split | (intro _ _) | (intro _) | dsimp only | (with_reducible refine keeps_mk ?_) | (with_reducible refine ok_of ?_; first | with_reducible assumption | with_reducible apply keeps_sendTwin))

theorem keeps_execTwinHbPulse (s : State) (hok : memOk s) : ∀ r, execTwinHbPulse s = .next r → memOk r := by
  unfold execTwinHbPulse
  intro r h; injection h with h; subst h
  repeat' (first | with_reducible assumption | split | (intro _ _) | (intro _) | dsimp only | (with_reducible refine keeps_mk ?_) | (with_reducible refine ok_of ?_; first | with_reducible assumption))

theorem keeps_ckRead (e a n : Nat) (s : State) (hok : memOk s) : memOk (ckRead e a n s).2 := by
  unfold ckRead
  repeat' (first | with_reducible assumption | with_reducible apply keeps_raise | split | (intro _ _) | (intro _))

theorem keeps_ckIndex (i : Nat) (valid : Bool) (e h : Nat) (s : State) (hok : memOk s) : memOk (ckIndex i valid e h s) := by
  unfold ckIndex
  repeat' (first | with_reducible assumption | with_reducible apply keeps_mirrorWrite)

theorem keeps_ckCopy (i e : Nat) (s : State) (hok : memOk s) : memOk (ckCopy i e s) := by
  unfold ckCopy
  repeat' (first | with_reducible assumption | with_reducible apply keeps_mirrorWrite | with_reducible apply keeps_pumpTwin | with_reducible apply keeps_ckRead | with_reducible apply keeps_ckIndex | split | (intro _ _) | (intro _) | dsimp only | (with_reducible refine keeps_mk ?_) | (with_reducible refine ok_of ?_; first | with_reducible assumption | with_reducible apply keeps_mirrorWrite | with_reducible apply keeps_pumpTwin | with_reducible apply keeps_ckRead | with_reducible apply keeps_ckIndex))

theorem keeps_execCkptEntryCopy (s : State) (hok : memOk s) : ∀ r, execCkptEntryCopy s = .next r → memOk r := by
  unfold execCkptEntryCopy
  intro r h; injection h with h; subst h
  repeat' (first | with_reducible assumption | with_reducible apply keeps_groupRec | with_reducible apply keeps_pumpTwin | with_reducible apply keeps_ckRead | with_reducible apply keeps_ckIndex | with_reducible apply keeps_ckCopy | split | (intro _ _) | (intro _) | dsimp only | (with_reducible refine keeps_mk ?_) | (with_reducible refine ok_of ?_; first | with_reducible assumption | with_reducible apply keeps_groupRec | with_reducible apply keeps_pumpTwin | with_reducible apply keeps_ckRead | with_reducible apply keeps_ckIndex | with_reducible apply keeps_ckCopy))

end Sys2Proof.Laws
end

