-- ==== Sys2Proof/Laws/KeepDma.lean ====
section
/-! SUPPORT. Machine/Dma.lean keeps memory in canonical form. -/

namespace Sys2Proof.Laws
open Sys2Proof.Machine

theorem keeps_doorbellBad (f obj : Nat) (s : State) (hok : memOk s) : memOk (doorbellBad f obj s) := by
  unfold doorbellBad
  repeat' (first | with_reducible assumption | with_reducible apply keeps_wr | with_reducible apply keeps_raise)

theorem keeps_execDmaTailDoorbell (f e v : Nat) (s : State) (hok : memOk s) : ∀ r, execDmaTailDoorbell f e v s = .next r → memOk r := by
  unfold execDmaTailDoorbell
  intro r h; injection h with h; subst h
  repeat' (first | with_reducible assumption | with_reducible apply keeps_wr | with_reducible apply keeps_doorbellBad | split | (intro _ _) | (intro _) | dsimp only | (with_reducible refine keeps_mk ?_) | (with_reducible refine ok_of ?_; first | with_reducible assumption | with_reducible apply keeps_wr | with_reducible apply keeps_doorbellBad))

theorem keeps_execRolloutConsDoorbell (f v : Nat) (s : State) (hok : memOk s) : ∀ r, execRolloutConsDoorbell f v s = .next r → memOk r := by
  unfold execRolloutConsDoorbell
  intro r h; injection h with h; subst h
  repeat' (first | with_reducible assumption | with_reducible apply keeps_wr | with_reducible apply keeps_doorbellBad | split | (intro _ _) | (intro _) | dsimp only | (with_reducible refine keeps_mk ?_) | (with_reducible refine ok_of ?_; first | with_reducible assumption | with_reducible apply keeps_wr | with_reducible apply keeps_doorbellBad))

theorem keeps_dmaCtl (e : Nat) (s0 s : State) (hok : memOk s) : memOk (dmaCtl e s0 s) := by
  unfold dmaCtl
  repeat' (first | with_reducible assumption | with_reducible apply keeps_wr | split | (intro _ _) | (intro _))

theorem keeps_dmaRecord (status bytes err : Nat) (x : Dma) (s : State) (hok : memOk s) : memOk (dmaRecord status bytes err x s) := by
  unfold dmaRecord
  repeat' (first | with_reducible assumption | with_reducible apply keeps_wr | with_reducible apply keeps_postHost | with_reducible apply keeps_countBytes | split | (intro _ _) | (intro _) | dsimp only | (with_reducible refine keeps_mk ?_) | (with_reducible refine ok_of ?_; first | with_reducible assumption | with_reducible apply keeps_wr | with_reducible apply keeps_postHost | with_reducible apply keeps_countBytes))

theorem keeps_dmaError (e code object source : Nat) (trap : Bool) (s : State) (hok : memOk s) : memOk (dmaError e code object source trap s) := by
  unfold dmaError
  repeat' (first | with_reducible assumption | with_reducible apply keeps_raise | with_reducible apply keeps_castBranch | split | (intro _ _) | (intro _))

theorem keeps_dmaFail (code bytes : Nat) (x : Dma) (s : State) (hok : memOk s) : memOk (dmaFail code bytes x s) := by
  unfold dmaFail
  repeat' (first | with_reducible assumption | with_reducible apply keeps_wr | with_reducible apply keeps_dmaRecord | split | (intro _ _) | (intro _) | dsimp only | (with_reducible refine keeps_mk ?_) | (with_reducible refine ok_of ?_; first | with_reducible assumption | with_reducible apply keeps_wr | with_reducible apply keeps_dmaRecord))

theorem keeps_dmaFault (code bytes : Nat) (x : Dma) (s : State) (hok : memOk s) : memOk (dmaFault code bytes x s) := by
  unfold dmaFault
  repeat' (first | with_reducible assumption | with_reducible apply keeps_dmaError | with_reducible apply keeps_dmaFail)

theorem keeps_dmaWindow (a : Nat) (x : Dma) (s : State) (hok : memOk s) : memOk (dmaWindow a x s) := by
  unfold dmaWindow
  repeat' (first | with_reducible assumption | with_reducible apply keeps_dmaError | with_reducible apply keeps_dmaFail)

theorem keeps_dmaTake (e : Nat) (act : Dma → State → State) (d : Nat) (s : State) (hact : ∀ a0 s, memOk s → memOk (act a0 s)) (hok : memOk s) : memOk (dmaTake e act d s) := by
  unfold dmaTake
  repeat' (first | with_reducible assumption | with_reducible apply keeps_askHost | with_reducible apply keeps_dmaFault | with_reducible apply hact | split | (intro _ _) | (intro _) | dsimp only | (with_reducible refine keeps_mk ?_) | (with_reducible refine ok_of ?_; first | with_reducible assumption | with_reducible apply keeps_askHost | with_reducible apply keeps_dmaFault | with_reducible apply hact))

theorem keeps_dmaPush (get : Nat → Nat → Nat) (s0 : State) (part : Option Nat) (e who tag : Nat) (sig : Bool) (stitch : Nat) :
    ∀ (m : Nat) (l : List (Nat × Nat × Nat)) (s : State), memOk s → memOk (dmaPush get s0 part e who tag sig stitch m l s)
  | 0, _, _, hok => hok
  | _ + 1, [], _, hok => hok
  | m + 1, (a, d, k) :: rest, s, hok => by
    unfold dmaPush
    exact keeps_dmaPush get s0 part e who tag sig stitch m rest _ (keeps_inject _ _ hok)

theorem keeps_dmaData (x : Dma) (v : Nat) (s : State) (hok : memOk s) : memOk (dmaData x v s) := by
  unfold dmaData
  repeat' (first | with_reducible assumption | with_reducible apply keeps_dmaPush | split | (intro _ _) | (intro _) | dsimp only | (with_reducible refine keeps_mk ?_) | (with_reducible refine ok_of ?_; first | with_reducible assumption | with_reducible apply keeps_dmaPush))

theorem keeps_dmaCopy (ue : Option Nat) (ce : List (Nat × Nat)) (x : Dma) (s : State) (hok : memOk s) : memOk (dmaCopy ue ce x s) := by
  unfold dmaCopy
  repeat' (first | with_reducible assumption | with_reducible apply keeps_askHost | with_reducible apply keeps_postHost | with_reducible apply keeps_unitErr | with_reducible apply keeps_countCe | with_reducible apply keeps_unitRead | with_reducible apply keeps_dmaData | split | (intro _ _) | (intro _) | dsimp only | (with_reducible refine keeps_mk ?_) | (with_reducible refine ok_of ?_; first | with_reducible assumption | with_reducible apply keeps_askHost | with_reducible apply keeps_postHost | with_reducible apply keeps_unitErr | with_reducible apply keeps_countCe | with_reducible apply keeps_unitRead | with_reducible apply keeps_dmaData))

theorem keeps_execDmaCopy (e : Nat) (desc : BitVec 256) (out : ReadOut) (s : State) (hok : memOk s) : ∀ r, execDmaCopy e desc out s = .next r → memOk r := by
  unfold execDmaCopy
  intro r h; injection h with h; subst h
  repeat' (first | with_reducible assumption | with_reducible apply keeps_takenWhole | with_reducible apply keeps_dmaWindow | with_reducible apply keeps_dmaTake | with_reducible apply keeps_dmaCopy | split | (intro _ _) | (intro _) | dsimp only | (with_reducible refine keeps_mk ?_) | (with_reducible refine ok_of ?_; first | with_reducible assumption | with_reducible apply keeps_takenWhole | with_reducible apply keeps_dmaWindow | with_reducible apply keeps_dmaTake | with_reducible apply keeps_dmaCopy))

theorem keeps_execDmaFill (e : Nat) (desc : BitVec 256) (s : State) (hok : memOk s) : ∀ r, execDmaFill e desc s = .next r → memOk r := by
  unfold execDmaFill
  intro r h; injection h with h; subst h
  repeat' (first | with_reducible assumption | with_reducible apply keeps_dmaWindow | with_reducible apply keeps_dmaTake | with_reducible apply keeps_dmaData | split | (intro _ _) | (intro _) | dsimp only | (with_reducible refine keeps_mk ?_) | (with_reducible refine ok_of ?_; first | with_reducible assumption | with_reducible apply keeps_dmaWindow | with_reducible apply keeps_dmaTake | with_reducible apply keeps_dmaData))

theorem keeps_execDmaNop (e : Nat) (desc : Option (BitVec 256)) (s : State) (hok : memOk s) : ∀ r, execDmaNop e desc s = .next r → memOk r := by
  unfold execDmaNop
  intro r h; injection h with h; subst h
  repeat' (first | with_reducible assumption | with_reducible apply keeps_dmaFault | with_reducible apply keeps_dmaTake | split | (intro _ _) | (intro _) | dsimp only | (with_reducible refine keeps_mk ?_) | (with_reducible refine ok_of ?_; first | with_reducible assumption | with_reducible apply keeps_dmaFault | with_reducible apply keeps_dmaTake))

theorem keeps_dmaFinish (x : Dma) (s : State) (hok : memOk s) : memOk (dmaFinish x s) := by
  unfold dmaFinish
  repeat' (first | with_reducible assumption | with_reducible apply keeps_signalVec | with_reducible apply keeps_sendStitch | with_reducible apply keeps_dmaRecord | split | (intro _ _) | (intro _))

theorem keeps_dmaIdle (e : Nat) (s : State) (hok : memOk s) : memOk (dmaIdle e s) := by
  unfold dmaIdle
  repeat' (first | with_reducible assumption | with_reducible apply keeps_wr)

theorem keeps_execDmaDescriptorComplete (e : Nat) (s : State) (hok : memOk s) : ∀ r, execDmaDescriptorComplete e s = .next r → memOk r := by
  unfold execDmaDescriptorComplete
  intro r h; injection h with h; subst h
  repeat' (first | with_reducible assumption | with_reducible apply keeps_dmaRecord | with_reducible apply keeps_dmaFinish | with_reducible apply keeps_dmaIdle | split | (intro _ _) | (intro _))

theorem keeps_dmaStop (e : Nat) (s : State) (hok : memOk s) : memOk (dmaStop e s) := by
  unfold dmaStop
  repeat' (first | with_reducible assumption | with_reducible apply keeps_dmaFinish | with_reducible apply keeps_dmaIdle | split | (intro _ _) | (intro _) | dsimp only | (with_reducible refine keeps_mk ?_) | (with_reducible refine ok_of ?_; first | with_reducible assumption | with_reducible apply keeps_dmaFinish | with_reducible apply keeps_dmaIdle))

theorem keeps_dmaWrite (rq : Requester) (e : Nat) (v : W32) (stop : Bool) (s : State) (hok : memOk s) : memOk (dmaWrite rq e v stop s) := by
  unfold dmaWrite
  repeat' (first | with_reducible assumption | with_reducible apply keeps_busCmd | with_reducible apply keeps_dmaCtl | with_reducible apply keeps_dmaStop | split | (intro _ _) | (intro _))

theorem keeps_execDmaEnable (rq : Requester) (e : Nat) (v : W32) (s : State) (hok : memOk s) : ∀ r, execDmaEnable rq e v s = .next r → memOk r := by
  unfold execDmaEnable
  intro r h; injection h with h; subst h
  repeat' (first | with_reducible assumption | with_reducible apply keeps_dmaWrite)

theorem keeps_execDmaStop (rq : Requester) (e : Nat) (v : W32) (s : State) (hok : memOk s) : ∀ r, execDmaStop rq e v s = .next r → memOk r := by
  unfold execDmaStop
  intro r h; injection h with h; subst h
  repeat' (first | with_reducible assumption | with_reducible apply keeps_dmaWrite)

theorem keeps_advanceRead (k i : Nat) (s : State) (hok : memOk s) : memOk (advanceRead k i s) := by
  unfold advanceRead
  repeat' (first | with_reducible assumption | split | (intro _ _) | (intro _) | dsimp only | (with_reducible refine keeps_mk ?_) | (with_reducible refine ok_of ?_; first | with_reducible assumption))

theorem keeps_deliver (h : HRead) (v k : Nat) (s : State) (hok : memOk s) : memOk (deliver h v k s) := by
  unfold deliver
  repeat' (first | with_reducible assumption | with_reducible apply keeps_inject | with_reducible apply keeps_countBytes | with_reducible apply keeps_dmaPush | split | (intro _ _) | (intro _) | dsimp only | (with_reducible refine keeps_mk ?_) | (with_reducible refine ok_of ?_; first | with_reducible assumption | with_reducible apply keeps_inject | with_reducible apply keeps_countBytes | with_reducible apply keeps_dmaPush))

theorem keeps_hostErr (u : UnitId) (object : Nat) (part : Option Nat) (s : State) (hok : memOk s) : memOk (hostErr u object part s) := by
  unfold hostErr
  repeat' (first | with_reducible assumption | with_reducible apply keeps_raise | with_reducible apply keeps_castBranch | split | (intro _ _) | (intro _))

theorem keeps_failRead (h : HRead) (s : State) (hok : memOk s) : memOk (failRead h s) := by
  unfold failRead
  repeat' (first | with_reducible assumption | with_reducible apply keeps_freeOwner | with_reducible apply keeps_endSkein | with_reducible apply keeps_pushPage | with_reducible apply keeps_abandonFirings | with_reducible apply keeps_dmaFault | with_reducible apply keeps_hostErr | with_reducible apply keeps_foldl | with_reducible apply keeps_foldl_fst | with_reducible apply keeps_foldl_snd | split | (intro _ _) | (intro _) | dsimp only | (with_reducible refine keeps_mk ?_) | (with_reducible refine ok_of ?_; first | with_reducible assumption | with_reducible apply keeps_freeOwner | with_reducible apply keeps_endSkein | with_reducible apply keeps_pushPage | with_reducible apply keeps_abandonFirings | with_reducible apply keeps_dmaFault | with_reducible apply keeps_hostErr | with_reducible apply keeps_foldl | with_reducible apply keeps_foldl_fst | with_reducible apply keeps_foldl_snd))

theorem keeps_execHostCompletion (i data : Nat) (ok : Bool) (s : State) (hok : memOk s) : ∀ r, execHostCompletion i data ok s = .next r → memOk r := by
  unfold execHostCompletion
  intro r h; injection h with h; subst h
  repeat' (first | with_reducible assumption | with_reducible apply keeps_advanceRead | with_reducible apply keeps_deliver | with_reducible apply keeps_failRead | split | (intro _ _) | (intro _))

theorem keeps_execHostCompletionTimeout (i : Nat) (s : State) (hok : memOk s) : ∀ r, execHostCompletionTimeout i s = .next r → memOk r := by
  unfold execHostCompletionTimeout
  intro r h; injection h with h; subst h
  repeat' (first | with_reducible assumption | with_reducible apply keeps_failRead | split | (intro _ _) | (intro _))

end Sys2Proof.Laws
end

