-- ==== Sys2Proof/Laws/KeepHost.lean ====
section
/-! SUPPORT. Machine/Host.lean keeps memory in canonical form. -/

namespace Sys2Proof.Laws
open Sys2Proof.Machine

theorem keeps_execHostRefclkLoss (s : State) (hok : memOk s) : ∀ r, execHostRefclkLoss s = .next r → memOk r := by
  unfold execHostRefclkLoss
  intro r h; injection h with h; subst h
  repeat' (first | with_reducible assumption | split | (intro _ _) | (intro _) | dsimp only | (with_reducible refine keeps_mk ?_) | (with_reducible refine ok_of ?_; first | with_reducible assumption))

theorem keeps_execHostRefclkReturn (s : State) (hok : memOk s) : ∀ r, execHostRefclkReturn s = .next r → memOk r := by
  unfold execHostRefclkReturn
  intro r h; injection h with h; subst h
  repeat' (first | with_reducible assumption | split | (intro _ _) | (intro _) | dsimp only | (with_reducible refine keeps_mk ?_) | (with_reducible refine ok_of ?_; first | with_reducible assumption))

theorem keeps_execPcieLinkUp (speed width : Nat) (s : State) (hok : memOk s) : ∀ r, execPcieLinkUp speed width s = .next r → memOk r := by
  unfold execPcieLinkUp
  intro r h; injection h with h; subst h
  repeat' (first | with_reducible assumption | with_reducible apply keeps_wr | split | (intro _ _) | (intro _))

theorem keeps_maskVec (f v : Nat) (masked : Bool) (s : State) (hok : memOk s) : memOk (maskVec f v masked s) := by
  unfold maskVec
  repeat' (first | with_reducible assumption | with_reducible apply keeps_signalVec | split | (intro _ _) | (intro _) | dsimp only | (with_reducible refine keeps_mk ?_) | (with_reducible refine ok_of ?_; first | with_reducible assumption | with_reducible apply keeps_signalVec))

theorem keeps_cfgGive (v : Nat) (s : State) (hok : memOk s) : memOk (cfgGive v s) := by
  unfold cfgGive
  repeat' (first | with_reducible assumption | split | (intro _ _) | (intro _) | dsimp only | (with_reducible refine keeps_mk ?_) | (with_reducible refine ok_of ?_; first | with_reducible assumption))

theorem keeps_configAct (req : CfgReq) (s : State) (hok : memOk s) : memOk (configAct req s) := by
  unfold configAct
  repeat' (first | with_reducible assumption | with_reducible apply keeps_cfgGive | split | (intro _ _) | (intro _) | dsimp only | (with_reducible refine keeps_mk ?_) | (with_reducible refine ok_of ?_; first | with_reducible assumption | with_reducible apply keeps_cfgGive))

theorem keeps_bar4Act (req : CfgReq) (s : State) (hok : memOk s) : memOk (bar4Act req s) := by
  unfold bar4Act
  repeat' (first | with_reducible assumption | with_reducible apply keeps_maskVec | with_reducible apply keeps_cfgGive | split | (intro _ _) | (intro _))

theorem keeps_execConfigRequest (req : CfgReq) (s : State) (hok : memOk s) : ∀ r, execConfigRequest req s = .next r → memOk r := by
  unfold execConfigRequest
  intro r h; injection h with h; subst h
  repeat' (first | with_reducible assumption | with_reducible apply keeps_configAct | with_reducible apply keeps_bar4Act | split | (intro _ _) | (intro _) | dsimp only | (with_reducible refine keeps_mk ?_) | (with_reducible refine ok_of ?_; first | with_reducible assumption | with_reducible apply keeps_configAct | with_reducible apply keeps_bar4Act))

theorem keeps_hostWindow (f x : Nat) (s : State) (hok : memOk s) : memOk (hostWindow f x s) := by
  unfold hostWindow
  repeat' (first | with_reducible assumption | with_reducible apply keeps_raise | split | (intro _ _) | (intro _))

theorem keeps_hostWrite : ∀ (f a n v en fuel : Nat) (s : State), memOk s → memOk (hostWrite f a n v en fuel s)
  | _, _, _, _, _, 0, _, hok => hok
  | f, a, n, v, en, fuel + 1, s, hok => by
    unfold hostWrite
    split
    · exact hok
    · exact keeps_hostWrite _ _ _ _ _ fuel _ (keeps_inject _ _ hok)

theorem keeps_execBar2Write (f ofs n v en : Nat) (s : State) (hok : memOk s) : ∀ r, execBar2Write f ofs n v en s = .next r → memOk r := by
  unfold execBar2Write
  intro r h; injection h with h; subst h
  repeat' (first | with_reducible assumption | with_reducible apply keeps_hostWindow | with_reducible apply keeps_hostWrite | split | (intro _ _) | (intro _) | dsimp only | (with_reducible refine keeps_mk ?_) | (with_reducible refine ok_of ?_; first | with_reducible assumption | with_reducible apply keeps_hostWindow | with_reducible apply keeps_hostWrite))

theorem keeps_bar2Read (f ofs n : Nat) (ue : Option Nat) (ce : List (Nat × Nat)) (s : State) (hok : memOk s) : memOk (bar2Read f ofs n ue ce s) := by
  unfold bar2Read
  repeat' (first | with_reducible assumption | with_reducible apply keeps_unitErr | with_reducible apply keeps_countCe | with_reducible apply keeps_unitRead | with_reducible apply keeps_hostWindow | split | (intro _ _) | (intro _) | dsimp only | (with_reducible refine keeps_mk ?_) | (with_reducible refine ok_of ?_; first | with_reducible assumption | with_reducible apply keeps_unitErr | with_reducible apply keeps_countCe | with_reducible apply keeps_unitRead | with_reducible apply keeps_hostWindow))

theorem keeps_execBar2Read (f ofs : Nat) (b : BarRead) (s : State) (hok : memOk s) : ∀ r, execBar2Read f ofs b s = .next r → memOk r := by
  unfold execBar2Read
  intro r h; injection h with h; subst h
  repeat' (first | with_reducible assumption | with_reducible apply keeps_bar2Read)

theorem keeps_execBarReadTimeout (f : Nat) (s : State) (hok : memOk s) : ∀ r, execBarReadTimeout f s = .next r → memOk r := by
  unfold execBarReadTimeout
  intro r h; injection h with h; subst h
  repeat' (first | with_reducible assumption | with_reducible apply keeps_raise | split | (intro _ _) | (intro _) | dsimp only | (with_reducible refine keeps_mk ?_) | (with_reducible refine ok_of ?_; first | with_reducible assumption | with_reducible apply keeps_raise))

theorem keeps_dropRequest (f : Nat) (s : State) (hok : memOk s) : memOk (dropRequest f s) := by
  unfold dropRequest
  repeat' (first | with_reducible assumption | with_reducible apply keeps_wr | split | (intro _ _) | (intro _) | dsimp only | (with_reducible refine keeps_mk ?_) | (with_reducible refine ok_of ?_; first | with_reducible assumption | with_reducible apply keeps_wr))

theorem keeps_clearFn (f : Nat) (s : State) (hok : memOk s) : memOk (clearFn f s) := by
  unfold clearFn
  repeat' (first | with_reducible assumption | with_reducible apply keeps_wr | with_reducible apply keeps_dropRequest | split | (intro _ _) | (intro _) | dsimp only | (with_reducible refine keeps_mk ?_) | (with_reducible refine ok_of ?_; first | with_reducible assumption | with_reducible apply keeps_wr | with_reducible apply keeps_dropRequest))

theorem keeps_execVfFlr (f : Nat) (s : State) (hok : memOk s) : ∀ r, execVfFlr f s = .next r → memOk r := by
  unfold execVfFlr
  intro r h; injection h with h; subst h
  repeat' (first | with_reducible assumption | with_reducible apply keeps_wr | with_reducible apply keeps_stopEngine | with_reducible apply keeps_resetPartition | with_reducible apply keeps_clearFn | with_reducible apply keeps_foldl | with_reducible apply keeps_foldl_fst | with_reducible apply keeps_foldl_snd | split | (intro _ _) | (intro _) | dsimp only | (with_reducible refine keeps_mk ?_) | (with_reducible refine ok_of ?_; first | with_reducible assumption | with_reducible apply keeps_wr | with_reducible apply keeps_stopEngine | with_reducible apply keeps_resetPartition | with_reducible apply keeps_clearFn | with_reducible apply keeps_foldl | with_reducible apply keeps_foldl_fst | with_reducible apply keeps_foldl_snd))

theorem keeps_pfReset (s : State) (hok : memOk s) : memOk (pfReset s) := by
  unfold pfReset
  repeat' (first | with_reducible assumption | with_reducible apply keeps_wr | with_reducible apply keeps_wrOr | with_reducible apply keeps_stopEngine | with_reducible apply keeps_resetPartition | with_reducible apply keeps_clearFn | with_reducible apply keeps_foldl | with_reducible apply keeps_foldl_fst | with_reducible apply keeps_foldl_snd | split | (intro _ _) | (intro _) | dsimp only | (with_reducible refine keeps_mk ?_) | (with_reducible refine ok_of ?_; first | with_reducible assumption | with_reducible apply keeps_wr | with_reducible apply keeps_wrOr | with_reducible apply keeps_stopEngine | with_reducible apply keeps_resetPartition | with_reducible apply keeps_clearFn | with_reducible apply keeps_foldl | with_reducible apply keeps_foldl_fst | with_reducible apply keeps_foldl_snd))

theorem keeps_execPfFlr (s : State) (hok : memOk s) : ∀ r, execPfFlr s = .next r → memOk r := by
  unfold execPfFlr
  intro r h; injection h with h; subst h
  repeat' (first | with_reducible assumption | with_reducible apply keeps_pfReset | split | (intro _ _) | (intro _))

theorem keeps_execHotReset (s : State) (hok : memOk s) : ∀ r, execHotReset s = .next r → memOk r := by
  unfold execHotReset
  intro r h; injection h with h; subst h
  repeat' (first | with_reducible assumption | with_reducible apply keeps_pfReset | split | (intro _ _) | (intro _))

theorem keeps_execDlDown (s : State) (hok : memOk s) : ∀ r, execDlDown s = .next r → memOk r := by
  unfold execDlDown
  intro r h; injection h with h; subst h
  repeat' (first | with_reducible assumption | with_reducible apply keeps_wr | with_reducible apply keeps_pfReset | split | (intro _ _) | (intro _))

end Sys2Proof.Laws
end

