-- ==== Sys2Proof/Laws/KeepPower.lean ====
section
/-! SUPPORT. Machine/Power.lean keeps memory in canonical form. -/

namespace Sys2Proof.Laws
open Sys2Proof.Machine

theorem keeps_setStretch (d r : Nat) (on : Bool) (s : State) (hok : memOk s) : memOk (setStretch d r on s) := by
  unfold setStretch
  repeat' (first | with_reducible assumption | split | (intro _ _) | (intro _) | dsimp only | (with_reducible refine keeps_mk ?_) | (with_reducible refine ok_of ?_; first | with_reducible assumption))

theorem keeps_dropRises (s : State) (hok : memOk s) : memOk (dropRises s) := by
  unfold dropRises
  repeat' (first | with_reducible assumption | with_reducible apply keeps_recheckAll | split | (intro _ _) | (intro _) | dsimp only | (with_reducible refine keeps_mk ?_) | (with_reducible refine ok_of ?_; first | with_reducible assumption | with_reducible apply keeps_recheckAll))

theorem keeps_beginEvent (ev obj : Nat) (s : State) (hok : memOk s) : memOk (beginEvent ev obj s) := by
  unfold beginEvent
  repeat' (first | with_reducible assumption | with_reducible apply keeps_raise | with_reducible apply keeps_stepDown | with_reducible apply keeps_graceNotice | with_reducible apply keeps_setStretch | with_reducible apply keeps_dropRises | with_reducible apply keeps_foldl | with_reducible apply keeps_foldl_fst | with_reducible apply keeps_foldl_snd | split | (intro _ _) | (intro _) | dsimp only | (with_reducible refine keeps_mk ?_) | (with_reducible refine ok_of ?_; first | with_reducible assumption | with_reducible apply keeps_raise | with_reducible apply keeps_stepDown | with_reducible apply keeps_graceNotice | with_reducible apply keeps_setStretch | with_reducible apply keeps_dropRises | with_reducible apply keeps_foldl | with_reducible apply keeps_foldl_fst | with_reducible apply keeps_foldl_snd))

theorem keeps_endEvent (ev obj : Nat) (s : State) (hok : memOk s) : memOk (endEvent ev obj s) := by
  unfold endEvent
  repeat' (first | with_reducible assumption | with_reducible apply keeps_setStretch | with_reducible apply keeps_foldl | with_reducible apply keeps_foldl_fst | with_reducible apply keeps_foldl_snd | split | (intro _ _) | (intro _) | dsimp only | (with_reducible refine keeps_mk ?_) | (with_reducible refine ok_of ?_; first | with_reducible assumption | with_reducible apply keeps_setStretch | with_reducible apply keeps_foldl | with_reducible apply keeps_foldl_fst | with_reducible apply keeps_foldl_snd))

theorem keeps_execInputDroop (vin : Nat) (s : State) (hok : memOk s) : ∀ r, execInputDroop vin s = .next r → memOk r := by
  unfold execInputDroop
  intro r h; injection h with h; subst h
  repeat' (first | with_reducible assumption | with_reducible apply keeps_wr | with_reducible apply keeps_beginEvent | split | (intro _ _) | (intro _))

theorem keeps_execInputCurrentLimit (s : State) (hok : memOk s) : ∀ r, execInputCurrentLimit s = .next r → memOk r := by
  unfold execInputCurrentLimit
  intro r h; injection h with h; subst h
  repeat' (first | with_reducible assumption | with_reducible apply keeps_beginEvent | split | (intro _ _) | (intro _))

theorem keeps_execEmergencyStepTimer (ev d : Nat) (s : State) (hok : memOk s) : ∀ r, execEmergencyStepTimer ev d s = .next r → memOk r := by
  unfold execEmergencyStepTimer
  intro r h; injection h with h; subst h
  repeat' (first | with_reducible assumption | with_reducible apply keeps_stepDown | with_reducible apply keeps_recheckAll | with_reducible apply keeps_foldl | with_reducible apply keeps_foldl_fst | with_reducible apply keeps_foldl_snd | split | (intro _ _) | (intro _) | dsimp only | (with_reducible refine keeps_mk ?_) | (with_reducible refine ok_of ?_; first | with_reducible assumption | with_reducible apply keeps_stepDown | with_reducible apply keeps_recheckAll | with_reducible apply keeps_foldl | with_reducible apply keeps_foldl_fst | with_reducible apply keeps_foldl_snd))

theorem keeps_execEmergencyEnd (ev obj vin : Nat) (s : State) (hok : memOk s) : ∀ r, execEmergencyEnd ev obj vin s = .next r → memOk r := by
  unfold execEmergencyEnd
  intro r h; injection h with h; subst h
  repeat' (first | with_reducible assumption | with_reducible apply keeps_endEvent | split | (intro _ _) | (intro _) | dsimp only | (with_reducible refine keeps_mk ?_) | (with_reducible refine ok_of ?_; first | with_reducible assumption | with_reducible apply keeps_endEvent))

theorem keeps_execGraceResendTimer (s : State) (hok : memOk s) : ∀ r, execGraceResendTimer s = .next r → memOk r := by
  unfold execGraceResendTimer
  intro r h; injection h with h; subst h
  repeat' (first | with_reducible assumption | with_reducible apply keeps_graceNotice | split | (intro _ _) | (intro _))

theorem keeps_execTempPoll (k : Nat) (temp : Int) (s : State) (hok : memOk s) : ∀ r, execTempPoll k temp s = .next r → memOk r := by
  unfold execTempPoll
  intro r h; injection h with h; subst h
  repeat' (first | with_reducible assumption | with_reducible apply keeps_wr | with_reducible apply keeps_incM | with_reducible apply keeps_raise | with_reducible apply keeps_beginEvent | with_reducible apply keeps_endEvent | split | (intro _ _) | (intro _) | dsimp only | (with_reducible refine keeps_mk ?_) | (with_reducible refine ok_of ?_; first | with_reducible assumption | with_reducible apply keeps_wr | with_reducible apply keeps_incM | with_reducible apply keeps_raise | with_reducible apply keeps_beginEvent | with_reducible apply keeps_endEvent))

theorem keeps_tickReasons (s : State) (hok : memOk s) : memOk (tickReasons s) := by
  unfold tickReasons
  repeat' (first | with_reducible assumption | with_reducible apply keeps_incM | with_reducible apply keeps_foldl | split | (intro _ _) | (intro _))

theorem keeps_sampleDie (due d : Nat) (x : Int × Nat) (s : State) (hok : memOk s) : memOk (sampleDie due d x s) := by
  unfold sampleDie
  repeat' (first | with_reducible assumption | with_reducible apply keeps_wr | with_reducible apply keeps_askStep | with_reducible apply keeps_dropRises | with_reducible apply keeps_beginEvent | split | (intro _ _) | (intro _) | dsimp only | (with_reducible refine keeps_mk ?_) | (with_reducible refine ok_of ?_; first | with_reducible assumption | with_reducible apply keeps_wr | with_reducible apply keeps_askStep | with_reducible apply keeps_dropRises | with_reducible apply keeps_beginEvent))

theorem keeps_sampleH (t : Int) (s : State) (hok : memOk s) : memOk (sampleH t s) := by
  unfold sampleH
  repeat' (first | with_reducible assumption | with_reducible apply keeps_wr)

theorem keeps_tripCheck (temps : List Int) (s : State) (hok : memOk s) : memOk (tripCheck temps s) := by
  unfold tripCheck
  repeat' (first | with_reducible assumption | with_reducible apply keeps_assertSource | with_reducible apply keeps_releaseSource | split | (intro _ _) | (intro _) | dsimp only | (with_reducible refine keeps_mk ?_) | (with_reducible refine ok_of ?_; first | with_reducible assumption | with_reducible apply keeps_assertSource | with_reducible apply keeps_releaseSource))

theorem keeps_execSensorSample (vin iin pin : Nat) (dies : List (Int × Nat)) (due : Nat) (s : State) (hok : memOk s) : ∀ r, execSensorSample vin iin pin dies due s = .next r → memOk r := by
  unfold execSensorSample
  intro r h; injection h with h; subst h
  repeat' (first | with_reducible assumption | with_reducible apply keeps_wr | with_reducible apply keeps_tickReasons | with_reducible apply keeps_sampleDie | with_reducible apply keeps_sampleH | with_reducible apply keeps_tripCheck | with_reducible apply keeps_foldl | split | (intro _ _) | (intro _))

theorem keeps_execAlignHoldExpire (d : Nat) (s : State) (hok : memOk s) : ∀ r, execAlignHoldExpire d s = .next r → memOk r := by
  unfold execAlignHoldExpire
  intro r h; injection h with h; subst h
  repeat' (first | with_reducible assumption | with_reducible apply keeps_raise | with_reducible apply keeps_takeStep | with_reducible apply keeps_recheckAll | with_reducible apply keeps_graceNotice | split | (intro _ _) | (intro _) | dsimp only | (with_reducible refine keeps_mk ?_) | (with_reducible refine ok_of ?_; first | with_reducible assumption | with_reducible apply keeps_raise | with_reducible apply keeps_takeStep | with_reducible apply keeps_recheckAll | with_reducible apply keeps_graceNotice))

theorem keeps_execRecoveryStep (d : Nat) (s : State) (hok : memOk s) : ∀ r, execRecoveryStep d s = .next r → memOk r := by
  unfold execRecoveryStep
  intro r h; injection h with h; subst h
  repeat' (first | with_reducible assumption | with_reducible apply keeps_askStep | with_reducible apply keeps_recheckAll | split | (intro _ _) | (intro _))

theorem keeps_execCapStepTimer (pavg : Nat) (s : State) (hok : memOk s) : ∀ r, execCapStepTimer pavg s = .next r → memOk r := by
  unfold execCapStepTimer
  intro r h; injection h with h; subst h
  repeat' (first | with_reducible assumption | with_reducible apply keeps_wr | with_reducible apply keeps_askStep | with_reducible apply keeps_dropRises | with_reducible apply keeps_foldl | with_reducible apply keeps_foldl_fst | with_reducible apply keeps_foldl_snd | split | (intro _ _) | (intro _) | dsimp only | (with_reducible refine keeps_mk ?_) | (with_reducible refine ok_of ?_; first | with_reducible assumption | with_reducible apply keeps_wr | with_reducible apply keeps_askStep | with_reducible apply keeps_dropRises | with_reducible apply keeps_foldl | with_reducible apply keeps_foldl_fst | with_reducible apply keeps_foldl_snd))

theorem keeps_execHostcapWrite (rq : Requester) (v : W32) (s : State) (hok : memOk s) : ∀ r, execHostcapWrite rq v s = .next r → memOk r := by
  unfold execHostcapWrite
  intro r h; injection h with h; subst h
  repeat' (first | with_reducible assumption | with_reducible apply keeps_busCmd | split | (intro _ _) | (intro _))

theorem keeps_execTensionRecheck (p : Nat) (s : State) (hok : memOk s) : ∀ r, execTensionRecheck p s = .next r → memOk r := by
  unfold execTensionRecheck
  intro r h; injection h with h; subst h
  repeat' (first | with_reducible assumption | with_reducible apply keeps_checkTension | split | (intro _ _) | (intro _))

theorem keeps_execOverdrawHoldEnd (p : Nat) (s : State) (hok : memOk s) : ∀ r, execOverdrawHoldEnd p s = .next r → memOk r := by
  unfold execOverdrawHoldEnd
  intro r h; injection h with h; subst h
  repeat' (first | with_reducible assumption | split | (intro _ _) | (intro _) | dsimp only | (with_reducible refine keeps_mk ?_) | (with_reducible refine ok_of ?_; first | with_reducible assumption))

theorem keeps_execRailFault (rail mv : Nat) (s : State) (hok : memOk s) : ∀ r, execRailFault rail mv s = .next r → memOk r := by
  unfold execRailFault
  intro r h; injection h with h; subst h
  repeat' (first | with_reducible assumption | with_reducible apply keeps_fatalError | split | (intro _ _) | (intro _))

theorem keeps_execPowerLoss (s : State) (hok : memOk s) : ∀ r, execPowerLoss s = .next r → memOk r := by
  unfold execPowerLoss
  intro r h; injection h with h; subst h
  split
  · exact hok
  · exact keeps_wrOr _ _ _ _ _ (keeps_mk ⟨rfl, hok.2⟩)

end Sys2Proof.Laws
end

