-- ==== Sys2Proof/Laws/KeepMailbox.lean ====
section
/-! SUPPORT. Machine/Mailbox.lean keeps memory in canonical form. -/

namespace Sys2Proof.Laws
open Sys2Proof.Machine

theorem keeps_answerOk (s : State) (hok : memOk s) : memOk (answerOk s).next := by
  unfold answerOk
  repeat' (first | with_reducible assumption)

theorem keeps_answerErr (st : Nat) (s : State) (hok : memOk s) : memOk (answerErr st s).next := by
  unfold answerErr
  repeat' (first | with_reducible assumption)

theorem keeps_ringMailbox (f : Nat) (s : State) (hok : memOk s) : memOk (ringMailbox f s) := by
  unfold ringMailbox
  repeat' (first | with_reducible assumption | with_reducible apply keeps_wr | with_reducible apply keeps_doorbellBad | split | (intro _ _) | (intro _) | dsimp only | (with_reducible refine keeps_mk ?_) | (with_reducible refine ok_of ?_; first | with_reducible assumption | with_reducible apply keeps_wr | with_reducible apply keeps_doorbellBad))

theorem keeps_mailbox (ring : Bool) (f seq : Nat) (act : State → Reply) (s : State) (hact : ∀ s, memOk s → memOk (act s).next) (hok : memOk s) : memOk (mailbox ring f seq act s) := by
  unfold mailbox
  repeat' (first | with_reducible assumption | with_reducible apply keeps_wr | with_reducible apply keeps_signalVec | with_reducible apply keeps_askHost | with_reducible apply keeps_postHost | with_reducible apply keeps_ringMailbox | with_reducible apply hact | split | (intro _ _) | (intro _) | dsimp only | (with_reducible refine keeps_mk ?_) | (with_reducible refine ok_of ?_; first | with_reducible assumption | with_reducible apply keeps_wr | with_reducible apply keeps_signalVec | with_reducible apply keeps_askHost | with_reducible apply keeps_postHost | with_reducible apply keeps_ringMailbox | with_reducible apply hact))

theorem keeps_pfOnly (f : Nat) (act : State → Reply) (s : State) (hact : ∀ s, memOk s → memOk (act s).next) (hok : memOk s) : memOk (pfOnly f act s).next := by
  unfold pfOnly
  repeat' (first | with_reducible assumption | with_reducible apply keeps_answerErr | with_reducible apply hact | split | (intro _ _) | (intro _))

theorem keeps_pfOrOwner (f p : Nat) (act : State → Reply) (s : State) (hact : ∀ s, memOk s → memOk (act s).next) (hok : memOk s) : memOk (pfOrOwner f p act s).next := by
  unfold pfOrOwner
  repeat' (first | with_reducible assumption | with_reducible apply keeps_answerErr | with_reducible apply hact | split | (intro _ _) | (intro _))

theorem keeps_createPart (p mask planes first count prof budget : Nat) (s : State) (hok : memOk s) : memOk (createPart p mask planes first count prof budget s) := by
  unfold createPart
  repeat' (first | with_reducible assumption | with_reducible apply keeps_wr | with_reducible apply keeps_wrOr | with_reducible apply keeps_wr64 | with_reducible apply keeps_foldl | with_reducible apply keeps_foldl_fst | with_reducible apply keeps_foldl_snd | split | (intro _ _) | (intro _) | dsimp only | (with_reducible refine keeps_mk ?_) | (with_reducible refine ok_of ?_; first | with_reducible assumption | with_reducible apply keeps_wr | with_reducible apply keeps_wrOr | with_reducible apply keeps_wr64 | with_reducible apply keeps_foldl | with_reducible apply keeps_foldl_fst | with_reducible apply keeps_foldl_snd))

theorem keeps_execPartCreate (ring : Bool) (f seq p mask planes first count prof budget : Nat) (s : State) (hok : memOk s) : ∀ r, execPartCreate ring f seq p mask planes first count prof budget s = .next r → memOk r := by
  unfold execPartCreate
  intro r h; injection h with h; subst h
  repeat' (first | with_reducible assumption | with_reducible apply keeps_answerOk | with_reducible apply keeps_answerErr | with_reducible apply keeps_mailbox | with_reducible apply keeps_pfOnly | with_reducible apply keeps_createPart | split | (intro _ _) | (intro _))

theorem keeps_freePart (p : Nat) (s : State) (hok : memOk s) : memOk (freePart p s) := by
  unfold freePart
  repeat' (first | with_reducible assumption | with_reducible apply keeps_wr | with_reducible apply keeps_foldl | with_reducible apply keeps_foldl_fst | with_reducible apply keeps_foldl_snd | split | (intro _ _) | (intro _) | dsimp only | (with_reducible refine keeps_mk ?_) | (with_reducible refine ok_of ?_; first | with_reducible assumption | with_reducible apply keeps_wr | with_reducible apply keeps_foldl | with_reducible apply keeps_foldl_fst | with_reducible apply keeps_foldl_snd))

theorem keeps_execPartDestroy (ring : Bool) (f seq p : Nat) (s : State) (hok : memOk s) : ∀ r, execPartDestroy ring f seq p s = .next r → memOk r := by
  unfold execPartDestroy
  intro r h; injection h with h; subst h
  repeat' (first | with_reducible assumption | with_reducible apply keeps_resetPartition | with_reducible apply keeps_answerOk | with_reducible apply keeps_answerErr | with_reducible apply keeps_mailbox | with_reducible apply keeps_pfOnly | with_reducible apply keeps_freePart | split | (intro _ _) | (intro _))

theorem keeps_execPartHold (ring : Bool) (f seq p : Nat) (hold : Bool) (s : State) (hok : memOk s) : ∀ r, execPartHold ring f seq p hold s = .next r → memOk r := by
  unfold execPartHold
  intro r h; injection h with h; subst h
  repeat' (first | with_reducible assumption | with_reducible apply keeps_wr | with_reducible apply keeps_wrOr | with_reducible apply keeps_pholdChange | with_reducible apply keeps_answerOk | with_reducible apply keeps_answerErr | with_reducible apply keeps_mailbox | with_reducible apply keeps_pfOrOwner | split | (intro _ _) | (intro _))

theorem keeps_execWindowSet (ring : Bool) (f seq p w base len grants : Nat) (s : State) (hok : memOk s) : ∀ r, execWindowSet ring f seq p w base len grants s = .next r → memOk r := by
  unfold execWindowSet
  intro r h; injection h with h; subst h
  repeat' (first | with_reducible assumption | with_reducible apply keeps_answerOk | with_reducible apply keeps_answerErr | with_reducible apply keeps_mailbox | with_reducible apply keeps_pfOnly | split | (intro _ _) | (intro _) | dsimp only | (with_reducible refine keeps_mk ?_) | (with_reducible refine ok_of ?_; first | with_reducible assumption | with_reducible apply keeps_answerOk | with_reducible apply keeps_answerErr | with_reducible apply keeps_mailbox | with_reducible apply keeps_pfOnly))

theorem keeps_bindStitch (p lid ph : Nat) (s : State) (hok : memOk s) : memOk (bindStitch p lid ph s) := by
  unfold bindStitch
  repeat' (first | with_reducible assumption | with_reducible apply keeps_wr | with_reducible apply keeps_setWrign | split | (intro _ _) | (intro _))

theorem keeps_mapEntry (p : Nat) (r : Reply) (x : W32) (hr : memOk r.next) : memOk (mapEntry p r x).next := by
  unfold mapEntry
  dsimp only
  repeat' split
  all_goals first
    | exact hr
    | exact keeps_answerErr _ _ hr
    | exact keeps_answerOk _ (keeps_bindStitch _ _ _ _ hr)
    | exact keeps_answerOk _ (keeps_bindStitch _ _ _ _ (keeps_setCount _ _ _ (keeps_wr _ _ _ _ _ (keeps_wr _ _ _ _ _ hr))))

theorem keeps_mapEntries (p : Nat) (l : List W32) (r : Reply) (hr : memOk r.next) : memOk (l.foldl (mapEntry p) r).next := by
  induction l generalizing r with
  | nil => exact hr
  | cons x l ih => exact ih _ (keeps_mapEntry p r x hr)

theorem keeps_execStitchMap (ring : Bool) (f seq p : Nat) (list : List W32) (s : State) (hok : memOk s) : ∀ r, execStitchMap ring f seq p list s = .next r → memOk r := by
  unfold execStitchMap
  intro r h; injection h with h; subst h
  refine keeps_mailbox _ _ _ _ _ ?_ hok
  intro s hs
  refine keeps_pfOrOwner _ _ _ _ ?_ hs
  intro s hs
  have hm := keeps_mapEntries p list _ (keeps_answerOk _ hs)
  dsimp only
  repeat' split
  all_goals first | exact keeps_answerErr _ _ hs | exact hm

theorem keeps_execDmaeAssign (ring : Bool) (f seq e owner : Nat) (s : State) (hok : memOk s) : ∀ r, execDmaeAssign ring f seq e owner s = .next r → memOk r := by
  unfold execDmaeAssign
  intro r h; injection h with h; subst h
  repeat' (first | with_reducible assumption | with_reducible apply keeps_wr | with_reducible apply keeps_answerOk | with_reducible apply keeps_answerErr | with_reducible apply keeps_mailbox | with_reducible apply keeps_pfOnly | split | (intro _ _) | (intro _))

theorem keeps_writeShard (p b n : Nat) (valid : Bool) (cur base0 base1 len gen0 gen1 : Nat) (s : State) (hok : memOk s) : memOk (writeShard p b n valid cur base0 base1 len gen0 gen1 s) := by
  unfold writeShard
  repeat' (first | with_reducible assumption | with_reducible apply keeps_wr | split | (intro _ _) | (intro _))

theorem keeps_execShardSet (ring : Bool) (f seq p b entry : Nat) (valid : Bool) (cur base0 base1 len gen0 gen1 : Nat) (s : State) (hok : memOk s) : ∀ r, execShardSet ring f seq p b entry valid cur base0 base1 len gen0 gen1 s = .next r → memOk r := by
  unfold execShardSet
  intro r h; injection h with h; subst h
  repeat' (first | with_reducible assumption | with_reducible apply keeps_answerOk | with_reducible apply keeps_answerErr | with_reducible apply keeps_mailbox | with_reducible apply keeps_pfOrOwner | with_reducible apply keeps_writeShard | split | (intro _ _) | (intro _) | dsimp only | (with_reducible refine keeps_mk ?_) | (with_reducible refine ok_of ?_; first | with_reducible assumption | with_reducible apply keeps_answerOk | with_reducible apply keeps_answerErr | with_reducible apply keeps_mailbox | with_reducible apply keeps_pfOrOwner | with_reducible apply keeps_writeShard))

theorem keeps_execTensionSet (ring : Bool) (f seq p budget : Nat) (s : State) (hok : memOk s) : ∀ r, execTensionSet ring f seq p budget s = .next r → memOk r := by
  unfold execTensionSet
  intro r h; injection h with h; subst h
  repeat' (first | with_reducible assumption | with_reducible apply keeps_wrNext | with_reducible apply keeps_recheckAll | with_reducible apply keeps_answerOk | with_reducible apply keeps_answerErr | with_reducible apply keeps_mailbox | with_reducible apply keeps_pfOnly | split | (intro _ _) | (intro _))

theorem keeps_execPlySet (ring : Bool) (f seq k n : Nat) (valid : Bool) (p lbase llen pbase ppart grants : Nat) (s : State) (hok : memOk s) : ∀ r, execPlySet ring f seq k n valid p lbase llen pbase ppart grants s = .next r → memOk r := by
  unfold execPlySet
  intro r h; injection h with h; subst h
  repeat' (first | with_reducible assumption | with_reducible apply keeps_wr | with_reducible apply keeps_answerOk | with_reducible apply keeps_answerErr | with_reducible apply keeps_mailbox | with_reducible apply keeps_pfOnly | split | (intro _ _) | (intro _) | dsimp only | (with_reducible refine keeps_mk ?_) | (with_reducible refine ok_of ?_; first | with_reducible assumption | with_reducible apply keeps_wr | with_reducible apply keeps_answerOk | with_reducible apply keeps_answerErr | with_reducible apply keeps_mailbox | with_reducible apply keeps_pfOnly))

theorem keeps_writeSpan (x : Nat × W32 × Nat) (s : State) (hok : memOk s) : memOk (writeSpan x s) := by
  unfold writeSpan
  repeat' (first | with_reducible assumption | with_reducible apply keeps_wr | split | (intro _ _) | (intro _) | dsimp only | (with_reducible refine keeps_mk ?_) | (with_reducible refine ok_of ?_; first | with_reducible assumption | with_reducible apply keeps_wr))

theorem keeps_execGroupSet (ring : Bool) (f seq gid role up altup down tdown : Nat) (spans : List (Nat × W32 × Nat)) (s : State) (hok : memOk s) : ∀ r, execGroupSet ring f seq gid role up altup down tdown spans s = .next r → memOk r := by
  unfold execGroupSet
  intro r h; injection h with h; subst h
  repeat' (first | with_reducible assumption | with_reducible apply keeps_wr | with_reducible apply keeps_setWrign | with_reducible apply keeps_answerOk | with_reducible apply keeps_answerErr | with_reducible apply keeps_mailbox | with_reducible apply keeps_pfOnly | with_reducible apply keeps_writeSpan | with_reducible apply keeps_foldl | split | (intro _ _) | (intro _))

theorem keeps_execMsgSend (ring : Bool) (f seq kind dst arg : Nat) (s : State) (hok : memOk s) : ∀ r, execMsgSend ring f seq kind dst arg s = .next r → memOk r := by
  unfold execMsgSend
  intro r h; injection h with h; subst h
  repeat' (first | with_reducible assumption | with_reducible apply keeps_sendTo | with_reducible apply keeps_answerOk | with_reducible apply keeps_answerErr | with_reducible apply keeps_mailbox | with_reducible apply keeps_pfOnly | split | (intro _ _) | (intro _))

theorem keeps_execMailboxUnknownCmd (ring : Bool) (f seq cmd : Nat) (s : State) (hok : memOk s) : ∀ r, execMailboxUnknownCmd ring f seq cmd s = .next r → memOk r := by
  unfold execMailboxUnknownCmd
  intro r h; injection h with h; subst h
  repeat' (first | with_reducible assumption | with_reducible apply keeps_answerErr | with_reducible apply keeps_mailbox | split | (intro _ _) | (intro _))

theorem keeps_smbRead (pec : Bool) (v : State → Nat) (s : State) (hok : memOk s) : memOk (smbRead pec v s) := by
  unfold smbRead
  repeat' (first | with_reducible assumption | split | (intro _ _) | (intro _) | dsimp only | (with_reducible refine keeps_mk ?_) | (with_reducible refine ok_of ?_; first | with_reducible assumption))

theorem keeps_execSmbDeviceId (pec : Bool) (s : State) (hok : memOk s) : ∀ r, execSmbDeviceId pec s = .next r → memOk r := by
  unfold execSmbDeviceId
  intro r h; injection h with h; subst h
  repeat' (first | with_reducible assumption | with_reducible apply keeps_smbRead)

theorem keeps_execSmbState (pec : Bool) (s : State) (hok : memOk s) : ∀ r, execSmbState pec s = .next r → memOk r := by
  unfold execSmbState
  intro r h; injection h with h; subst h
  repeat' (first | with_reducible assumption | with_reducible apply keeps_smbRead)

theorem keeps_execSmbTemperatures (pec : Bool) (s : State) (hok : memOk s) : ∀ r, execSmbTemperatures pec s = .next r → memOk r := by
  unfold execSmbTemperatures
  intro r h; injection h with h; subst h
  repeat' (first | with_reducible assumption | with_reducible apply keeps_smbRead | with_reducible apply keeps_foldl)

theorem keeps_execSmbPower (pec : Bool) (s : State) (hok : memOk s) : ∀ r, execSmbPower pec s = .next r → memOk r := by
  unfold execSmbPower
  intro r h; injection h with h; subst h
  repeat' (first | with_reducible assumption | with_reducible apply keeps_smbRead)

theorem keeps_execSmbThrottle (pec : Bool) (s : State) (hok : memOk s) : ∀ r, execSmbThrottle pec s = .next r → memOk r := by
  unfold execSmbThrottle
  intro r h; injection h with h; subst h
  repeat' (first | with_reducible assumption | with_reducible apply keeps_smbRead)

theorem keeps_execSmbErrors (pec : Bool) (s : State) (hok : memOk s) : ∀ r, execSmbErrors pec s = .next r → memOk r := by
  unfold execSmbErrors
  intro r h; injection h with h; subst h
  repeat' (first | with_reducible assumption | with_reducible apply keeps_wr | with_reducible apply keeps_smbRead | split | (intro _ _) | (intro _))

theorem keeps_execSmbHostCap (pec : Bool) (v : Nat) (s : State) (hok : memOk s) : ∀ r, execSmbHostCap pec v s = .next r → memOk r := by
  unfold execSmbHostCap
  intro r h; injection h with h; subst h
  repeat' (first | with_reducible assumption | with_reducible apply keeps_wr | split | (intro _ _) | (intro _))

end Sys2Proof.Laws
end

