-- ==== Sys2Proof/Laws/KeepAccess.lean ====
section
/-! SUPPORT. Machine/Access.lean keeps memory in canonical form. -/

namespace Sys2Proof.Laws
open Sys2Proof.Machine

theorem keeps_frogWrite (ofs : Nat) (v : W32) (be : Nat) (s : State) (hok : memOk s) : memOk (frogWrite ofs v be s) := by
  unfold frogWrite
  repeat' (first | with_reducible assumption | with_reducible apply keeps_maskVec | with_reducible apply keeps_ringMailbox | split | (intro _ _) | (intro _))

theorem keeps_execRcRead (rq : Requester) (ofs : Nat) (s : State) (hok : memOk s) : ∀ r, execRcRead rq ofs s = .next r → memOk r := by
  unfold execRcRead
  intro r h; injection h with h; subst h
  repeat' (first | with_reducible assumption | with_reducible apply keeps_busReadBy | with_reducible apply keeps_censusAdvance | split | (intro _ _) | (intro _) | dsimp only | (with_reducible refine keeps_mk ?_) | (with_reducible refine ok_of ?_; first | with_reducible assumption | with_reducible apply keeps_busReadBy | with_reducible apply keeps_censusAdvance))

theorem keeps_stateAfter {o : Host.Outcome State Fault Refusal} {s : State} (ho : ∀ r, o = .next r → memOk r)
    (hok : memOk s) : memOk (stateAfter o s) := by
  unfold stateAfter
  split
  · exact ho _ rfl
  · exact hok

theorem keeps_badTrigger (rq : Requester) (f : Field) (u n : Nat) (v : W32) (s : State) (hok : memOk s) : memOk (badTrigger rq f u n v s) := by
  unfold badTrigger
  repeat' (first | with_reducible assumption | with_reducible apply keeps_setWrign | with_reducible apply keeps_busCmd)

theorem keeps_swreqWrite (rq : Requester) (v : W32) (s : State) (hok : memOk s) : memOk (swreqWrite rq v s) := by
  unfold swreqWrite
  repeat' (first | with_reducible assumption | with_reducible apply keeps_badTrigger | (with_reducible refine keeps_stateAfter (keeps_execSwreqTile _ _ _ ?_) ?_) | (with_reducible refine keeps_stateAfter (keeps_execSwreqPartition _ _ _ ?_) ?_) | (with_reducible refine keeps_stateAfter (keeps_execSwreqCompute _ _ _ ?_) ?_) | (with_reducible refine keeps_stateAfter (keeps_execSwreqWarm _ _ _ ?_) ?_) | (with_reducible refine keeps_stateAfter (keeps_execSwreqCold _ _ _ ?_) ?_) | split | (intro _ _) | (intro _))

theorem keeps_sknCmdWrite (rq : Requester) (v : W32) (s : State) (hok : memOk s) : memOk (sknCmdWrite rq v s) := by
  unfold sknCmdWrite
  repeat' (first | with_reducible assumption | with_reducible apply keeps_wr | with_reducible apply keeps_busCmd | (with_reducible refine keeps_stateAfter (keeps_execSknRead _ _ _ ?_) ?_) | (with_reducible refine keeps_stateAfter (keeps_execSknCreate _ _ _ ?_) ?_) | (with_reducible refine keeps_stateAfter (keeps_execSknCancel _ _ _ ?_) ?_) | split | (intro _ _) | (intro _))

theorem keeps_lwCmdWrite (rq : Requester) (t : Nat) (v : W32) (s : State) (hok : memOk s) : memOk (lwCmdWrite rq t v s) := by
  unfold lwCmdWrite
  repeat' (first | with_reducible assumption | with_reducible apply keeps_lwCommand)

theorem keeps_censusWrite (rq : Requester) (v : W32) (s : State) (hok : memOk s) : memOk (censusWrite rq v s) := by
  unfold censusWrite
  repeat' (first | with_reducible assumption | with_reducible apply keeps_setWrign | with_reducible apply keeps_busCmd | with_reducible apply keeps_disarm | (with_reducible refine keeps_stateAfter (keeps_execCensusAtBoundary _ _ _ ?_) ?_) | (with_reducible refine keeps_stateAfter (keeps_execCensusNow _ _ _ ?_) ?_) | (with_reducible refine keeps_stateAfter (keeps_execCensusCancel _ _ _ ?_) ?_) | split | (intro _ _) | (intro _))

theorem keeps_twinWrite (rq : Requester) (v : W32) (s : State) (hok : memOk s) : memOk (twinWrite rq v s) := by
  unfold twinWrite
  repeat' (first | with_reducible assumption | with_reducible apply keeps_badTrigger | (with_reducible refine keeps_stateAfter (keeps_execTwinAttach _ _ _ ?_) ?_) | (with_reducible refine keeps_stateAfter (keeps_execTwinDetach _ _ _ ?_) ?_) | split | (intro _ _) | (intro _))

theorem keeps_tileRows : ∀ r ∈ tileRows, ∀ rq u n v s, memOk s → memOk (r.2.2 rq u n v s) := by
  unfold tileRows
  repeat' (first | (refine List.forall_mem_cons.2 ⟨?_, ?_⟩) | exact List.forall_mem_nil _)
  all_goals intro rq u n v s h
  all_goals dsimp only
  all_goals try split
  all_goals first | with_reducible exact keeps_stateAfter (keeps_execCluDarnWrite _ _ _ _ _ h) h | with_reducible exact keeps_stateAfter (keeps_execCluTestWrite _ _ _ _ h) h | with_reducible exact keeps_stateAfter (keeps_execHnkFreshGo _ _ _ _ h) h | with_reducible exact keeps_stateAfter (keeps_execIfillGo _ _ _ _ h) h | with_reducible exact keeps_stateAfter (keeps_execPrlLoadGo _ _ _ _ h) h | with_reducible exact keeps_stateAfter (keeps_execTileLtagWrite _ _ _ _ h) h | with_reducible exact keeps_lwCmdWrite _ _ _ _ h

theorem keeps_hubRows : ∀ r ∈ hubRows, ∀ rq u n v s, memOk s → memOk (r.2.2 rq u n v s) := by
  unfold hubRows
  repeat' (first | (refine List.forall_mem_cons.2 ⟨?_, ?_⟩) | exact List.forall_mem_nil _)
  all_goals intro rq u n v s h
  all_goals dsimp only
  all_goals try split
  all_goals first | with_reducible exact keeps_stateAfter (keeps_execBlkAbortGo _ _ _ _ h) h | with_reducible exact keeps_stateAfter (keeps_execDmaEnable _ _ _ _ h) h | with_reducible exact keeps_stateAfter (keeps_execDmaStop _ _ _ _ h) h | with_reducible exact keeps_stateAfter (keeps_execMemCtrlEnWrite _ _ _ _ h) h | with_reducible exact keeps_stateAfter (keeps_execPhyMrunGo _ _ _ _ h) h | with_reducible exact keeps_stateAfter (keeps_execPhyTrainGo _ _ _ _ h) h | with_reducible exact keeps_stateAfter (keeps_execSknBcfgEnWrite _ _ _ _ h) h | with_reducible exact keeps_stateAfter (keeps_execStcCtlWrite _ _ _ _ h) h | with_reducible exact keeps_stateAfter (keeps_execStcXtDataWrite _ _ _ _ h) h | with_reducible exact keeps_sknCmdWrite _ _ _ h

theorem keeps_moduleRows : ∀ r ∈ moduleRows, ∀ rq u n v s, memOk s → memOk (r.2.2 rq u n v s) := by
  unfold moduleRows
  repeat' (first | (refine List.forall_mem_cons.2 ⟨?_, ?_⟩) | exact List.forall_mem_nil _)
  all_goals intro rq u n v s h
  all_goals dsimp only
  all_goals try split
  all_goals first | with_reducible exact keeps_badTrigger _ _ _ _ _ _ h | with_reducible exact keeps_censusWrite _ _ _ h | with_reducible exact keeps_stateAfter (keeps_execErrQpop _ _ _ h) h | with_reducible exact keeps_stateAfter (keeps_execHostcapWrite _ _ _ h) h | with_reducible exact keeps_stateAfter (keeps_execPlyEnable _ _ _ _ h) h | with_reducible exact keeps_stateAfter (keeps_execPlyRetrain _ _ _ _ h) h | with_reducible exact keeps_stateAfter (keeps_execRstPholdWrite _ _ _ h) h | with_reducible exact keeps_stateAfter (keeps_execWdogKick _ _ _ h) h | with_reducible exact keeps_swreqWrite _ _ _ h | with_reducible exact keeps_twinWrite _ _ _ h

theorem keeps_rowFor (view u : Nat) (w : W32) (hs : List Hit) (act : Requester → State → State)
    (hact : rowFor view u w hs = some act) (rq : Requester) (s : State) (hok : memOk s) : memOk (act rq s) := by
  unfold rowFor at hact
  obtain ⟨h, -, hh⟩ := List.exists_of_findSome?_eq_some hact
  split at hh
  · split at hh
    · cases hh
      exact keeps_stateAfter (keeps_execGatherOff _ _ _ _ hok) hok
    · cases hh
  · rw [Option.map_eq_some_iff] at hh
    obtain ⟨r, hr, rfl⟩ := hh
    have hm := List.mem_of_find?_eq_some hr
    rw [List.mem_append, List.mem_append] at hm
    rcases hm with (hm | hm) | hm
    · exact keeps_tileRows r hm _ _ _ _ _ hok
    · exact keeps_hubRows r hm _ _ _ _ _ hok
    · exact keeps_moduleRows r hm _ _ _ _ _ hok

theorem keeps_inView (fr : Frame) (u off : Nat) (act : State → State) (s : State) (hact : ∀ s, memOk s → memOk (act s)) (hok : memOk s) : memOk (inView fr u off act s) := by
  unfold inView
  repeat' (first | with_reducible assumption | with_reducible apply keeps_wr | with_reducible apply keeps_setWrign | with_reducible apply hact | split | (intro _ _) | (intro _) | dsimp only | (with_reducible refine keeps_mk ?_) | (with_reducible refine ok_of ?_; first | with_reducible assumption | with_reducible apply keeps_wr | with_reducible apply keeps_setWrign | with_reducible apply hact))

theorem keeps_afterWrite (fr : Frame) (off : Nat) (s0 s : State) (hok : memOk s) : memOk (afterWrite fr off s0 s) := by
  unfold afterWrite
  repeat' (first | with_reducible assumption | with_reducible apply keeps_recheckAll | with_reducible apply keeps_joinManager | split | (intro _ _) | (intro _))

theorem keeps_writeReg (rq : Requester) (ofs : Nat) (v : W32) (be : Nat) (s : State) (hok : memOk s) : memOk (writeReg rq ofs v be s) := by
  unfold writeReg
  split
  · exact keeps_frogWrite _ _ _ _ hok
  refine keeps_busWrite _ _ _ _ _ _ ?_ hok
  intro fr u off hs s hok
  dsimp only
  split
  · exact keeps_inView _ _ _ _ _ (fun s h => keeps_rowFor _ _ _ _ _ (by assumption) _ s h) hok
  · exact keeps_afterWrite _ _ _ _ (keeps_writeHits _ _ _ _ _ _ _ hok)

theorem keeps_execRegisterWrite (rq : Requester) (ofs : Nat) (v : W32) (be : Nat) (s : State) (hok : memOk s) : ∀ r, execRegisterWrite rq ofs v be s = .next r → memOk r := by
  unfold execRegisterWrite
  intro r h; injection h with h; subst h
  repeat' (first | with_reducible assumption | with_reducible apply keeps_writeReg)

theorem keeps_initEntry (addr value mask : Nat) (s : State) (hok : memOk s) : memOk (initEntry addr value mask s) := by
  unfold initEntry
  repeat' (first | with_reducible assumption | with_reducible apply keeps_writeReg | split | (intro _ _) | (intro _))

theorem keeps_applyInit (bit : Nat) (s : State) (hok : memOk s) : memOk (applyInit bit s) := by
  unfold applyInit
  repeat' (first | with_reducible assumption | with_reducible apply keeps_initEntry | with_reducible apply keeps_foldl | split | (intro _ _) | (intro _))

theorem keeps_replayWrites (s : State) (hok : memOk s) : memOk (replayWrites s) := by
  unfold replayWrites
  repeat' (first | with_reducible assumption | with_reducible apply keeps_writeReg | with_reducible apply keeps_foldl | with_reducible apply keeps_foldl_fst | with_reducible apply keeps_foldl_snd | split | (intro _ _) | (intro _) | dsimp only | (with_reducible refine keeps_mk ?_) | (with_reducible refine ok_of ?_; first | with_reducible assumption | with_reducible apply keeps_writeReg | with_reducible apply keeps_foldl | with_reducible apply keeps_foldl_fst | with_reducible apply keeps_foldl_snd))

end Sys2Proof.Laws
end

