-- ==== Sys2Proof/Laws/KeepBoot.lean ====
section
/-! SUPPORT. Machine/Boot.lean keeps memory in canonical form. -/

namespace Sys2Proof.Laws
open Sys2Proof.Machine

theorem keeps_hubRecord (code object : Nat) (s : State) (hok : memOk s) : memOk (hubRecord code object s) := by
  unfold hubRecord
  repeat' (first | with_reducible assumption | with_reducible apply keeps_raise | split | (intro _ _) | (intro _) | dsimp only | (with_reducible refine keeps_mk ?_) | (with_reducible refine ok_of ?_; first | with_reducible assumption | with_reducible apply keeps_raise))

theorem keeps_imageBadRec (c n : Nat) (s : State) (hok : memOk s) : memOk (imageBadRec c n s) := by
  unfold imageBadRec
  repeat' (first | with_reducible assumption | with_reducible apply keeps_hubRecord)

theorem keeps_appendBoot (fields : Nat) (s : State) (hok : memOk s) : memOk (appendBoot fields s) := by
  unfold appendBoot
  repeat' (first | with_reducible assumption | split | (intro _ _) | (intro _) | dsimp only | (with_reducible refine keeps_mk ?_) | (with_reducible refine ok_of ?_; first | with_reducible assumption))

theorem keeps_newBootRecord (s : State) (hok : memOk s) : memOk (newBootRecord s) := by
  unfold newBootRecord
  repeat' (first | with_reducible assumption | split | (intro _ _) | (intro _) | dsimp only | (with_reducible refine keeps_mk ?_) | (with_reducible refine ok_of ?_; first | with_reducible assumption))

theorem keeps_appendSig (kgen top : Nat) (s : State) (hok : memOk s) : memOk (appendSig kgen top s) := by
  unfold appendSig
  repeat' (first | with_reducible assumption | split | (intro _ _) | (intro _) | dsimp only | (with_reducible refine keeps_mk ?_) | (with_reducible refine ok_of ?_; first | with_reducible assumption))

theorem keeps_showLeaves (s : State) (hok : memOk s) : memOk (showLeaves s) := by
  unfold showLeaves
  repeat' (first | with_reducible assumption | with_reducible apply keeps_wr | split | (intro _ _) | (intro _))

theorem keeps_readSigState (s : State) (hok : memOk s) : memOk (readSigState s) := by
  unfold readSigState
  repeat' (first | with_reducible assumption | with_reducible apply keeps_wr | with_reducible apply keeps_hubRecord | with_reducible apply keeps_showLeaves | split | (intro _ _) | (intro _) | dsimp only | (with_reducible refine keeps_mk ?_) | (with_reducible refine ok_of ?_; first | with_reducible assumption | with_reducible apply keeps_wr | with_reducible apply keeps_hubRecord | with_reducible apply keeps_showLeaves))

theorem keeps_linksOff (s : State) (hok : memOk s) : memOk (linksOff s) := by
  unfold linksOff
  repeat' (first | with_reducible assumption | with_reducible apply keeps_wr | with_reducible apply keeps_linkDown | with_reducible apply keeps_foldl | split | (intro _ _) | (intro _))

theorem keeps_enterFrog (s : State) (hok : memOk s) : memOk (enterFrog s) := by
  unfold enterFrog
  repeat' (first | with_reducible assumption | (with_reducible refine of_fst (by with_reducible assumption) ?_) | (with_reducible refine of_snd (by with_reducible assumption) ?_) | with_reducible apply keeps_wr | with_reducible apply keeps_resetUnits | with_reducible apply keeps_linksOff | split | (intro _ _) | (intro _) | dsimp only | (with_reducible refine keeps_mk ?_) | (with_reducible refine ok_of ?_; first | with_reducible assumption | with_reducible apply keeps_wr | with_reducible apply keeps_resetUnits | with_reducible apply keeps_linksOff | split | dsimp only | (with_reducible apply of_fst; with_reducible assumption) | (with_reducible apply of_snd; with_reducible assumption)) | (with_reducible refine ok_mem ?_) | (with_reducible refine ok_host ?_) | (with_reducible refine ok_filter ?_) | (with_reducible refine ok_clear ?_) | (with_reducible refine ok_put ?_) | (with_reducible refine ok_mem_fold ?_))

theorem keeps_startFail (s : State) (hok : memOk s) : memOk (startFail s) := by
  unfold startFail
  repeat' (first | with_reducible assumption | with_reducible apply keeps_wr | with_reducible apply keeps_fileFatal | with_reducible apply keeps_assertSource | with_reducible apply keeps_hubRecord | with_reducible apply keeps_enterFrog | split | (intro _ _) | (intro _))

theorem keeps_applyLinkPlan (bs : List Byte) (s : State) (hok : memOk s) : memOk (applyLinkPlan bs s) := by
  unfold applyLinkPlan
  repeat' (first | with_reducible assumption | with_reducible apply keeps_wr | with_reducible apply keeps_plyCtrl | with_reducible apply keeps_foldl | split | (intro _ _) | (intro _))

theorem keeps_adoptImage (code : Nat) (img : Nat → Byte) (s : State) (hok : memOk s) : memOk (adoptImage code img s) := by
  unfold adoptImage
  repeat' (first | with_reducible assumption | with_reducible apply keeps_wr | with_reducible apply keeps_foldl | with_reducible apply keeps_foldl_fst | with_reducible apply keeps_foldl_snd | split | (intro _ _) | (intro _) | dsimp only | (with_reducible refine keeps_mk ?_) | (with_reducible refine ok_of ?_; first | with_reducible assumption | with_reducible apply keeps_wr | with_reducible apply keeps_foldl | with_reducible apply keeps_foldl_fst | with_reducible apply keeps_foldl_snd))

theorem keeps_runImage (exit kind : Nat) (img : Nat → Byte) (s : State) (hok : memOk s) : memOk (runImage exit kind img s) := by
  unfold runImage
  repeat' (first | with_reducible assumption | with_reducible apply keeps_wr | with_reducible apply keeps_applyInit | with_reducible apply keeps_applyLinkPlan | with_reducible apply keeps_foldl | with_reducible apply keeps_foldl_fst | with_reducible apply keeps_foldl_snd | split | (intro _ _) | (intro _) | dsimp only | (with_reducible refine keeps_mk ?_) | (with_reducible refine ok_of ?_; first | with_reducible assumption | with_reducible apply keeps_wr | with_reducible apply keeps_applyInit | with_reducible apply keeps_applyLinkPlan | with_reducible apply keeps_foldl | with_reducible apply keeps_foldl_fst | with_reducible apply keeps_foldl_snd))

theorem keeps_tryCopies (bad : Nat) : ∀ (l : List Nat) (s : State), memOk s → memOk (tryCopies bad l s).2
  | [], _, hok => hok
  | c :: cs, s, hok => by
    unfold tryCopies
    dsimp only
    split
    · exact hok
    · exact keeps_tryCopies bad cs _ (keeps_imageBadRec _ _ _ hok)

theorem keeps_startImages (bad : Nat) (s : State) (hok : memOk s) : memOk (startImages bad s) := by
  unfold startImages
  repeat' (first | with_reducible assumption | (with_reducible refine of_fst (by with_reducible assumption) ?_) | (with_reducible refine of_snd (by with_reducible assumption) ?_) | with_reducible apply keeps_enterFrog | with_reducible apply keeps_startFail | with_reducible apply keeps_adoptImage | with_reducible apply keeps_runImage | with_reducible apply keeps_tryCopies | split | (intro _ _) | (intro _) | dsimp only | (with_reducible refine keeps_mk ?_) | (with_reducible refine ok_of ?_; first | with_reducible assumption | with_reducible apply keeps_enterFrog | with_reducible apply keeps_startFail | with_reducible apply keeps_adoptImage | with_reducible apply keeps_runImage | with_reducible apply keeps_tryCopies | split | dsimp only | (with_reducible apply of_fst; with_reducible assumption) | (with_reducible apply of_snd; with_reducible assumption)) | (with_reducible refine ok_mem ?_) | (with_reducible refine ok_host ?_) | (with_reducible refine ok_filter ?_) | (with_reducible refine ok_clear ?_) | (with_reducible refine ok_put ?_) | (with_reducible refine ok_mem_fold ?_))

theorem keeps_startRecord (bad : Nat) (s : State) (hok : memOk s) : memOk (startRecord bad s) := by
  unfold startRecord
  repeat' (first | with_reducible assumption | with_reducible apply keeps_wr | with_reducible apply keeps_appendBoot | with_reducible apply keeps_enterFrog | with_reducible apply keeps_startImages | split | (intro _ _) | (intro _) | dsimp only | (with_reducible refine keeps_mk ?_) | (with_reducible refine ok_of ?_; first | with_reducible assumption | with_reducible apply keeps_wr | with_reducible apply keeps_appendBoot | with_reducible apply keeps_enterFrog | with_reducible apply keeps_startImages))

theorem keeps_cutEntry (s : State) (hok : memOk s) : memOk (cutEntry s) := by
  unfold cutEntry
  repeat' (first | with_reducible assumption | split | (intro _ _) | (intro _) | dsimp only | (with_reducible refine keeps_mk ?_) | (with_reducible refine ok_of ?_; first | with_reducible assumption))

theorem keeps_execStart (pll : Bool) (bad : Nat) (recOk : Bool) (s : State) (hok : memOk s) : ∀ r, execStart pll bad recOk s = .next r → memOk r := by
  unfold execStart
  intro r h; injection h with h; subst h
  repeat' (first | with_reducible assumption | with_reducible apply keeps_newBootRecord | with_reducible apply keeps_readSigState | with_reducible apply keeps_enterFrog | with_reducible apply keeps_startFail | with_reducible apply keeps_startRecord | with_reducible apply keeps_cutEntry | split | (intro _ _) | (intro _) | dsimp only | (with_reducible refine keeps_mk ?_) | (with_reducible refine ok_of ?_; first | with_reducible assumption | with_reducible apply keeps_newBootRecord | with_reducible apply keeps_readSigState | with_reducible apply keeps_enterFrog | with_reducible apply keeps_startFail | with_reducible apply keeps_startRecord | with_reducible apply keeps_cutEntry))

theorem keeps_applyPartDef (bs : List Byte) (s : State) (hok : memOk s) : memOk (applyPartDef bs s) := by
  unfold applyPartDef
  repeat' (first | with_reducible assumption | with_reducible apply keeps_writeReg | with_reducible apply keeps_foldl | split | (intro _ _) | (intro _))

theorem keeps_fileKept (s : State) (hok : memOk s) : memOk (fileKept s) := by
  unfold fileKept
  repeat' (first | with_reducible assumption | with_reducible apply keeps_raise | with_reducible apply keeps_foldl | with_reducible apply keeps_foldl_fst | with_reducible apply keeps_foldl_snd | split | (intro _ _) | (intro _) | dsimp only | (with_reducible refine keeps_mk ?_) | (with_reducible refine ok_of ?_; first | with_reducible assumption | with_reducible apply keeps_raise | with_reducible apply keeps_foldl | with_reducible apply keeps_foldl_fst | with_reducible apply keeps_foldl_snd))

theorem keeps_execStartReady (s : State) (hok : memOk s) : ∀ r, execStartReady s = .next r → memOk r := by
  unfold execStartReady
  intro r h; injection h with h; subst h
  repeat' (first | with_reducible assumption | with_reducible apply keeps_wr | with_reducible apply keeps_appendBoot | with_reducible apply keeps_startFail | with_reducible apply keeps_applyPartDef | with_reducible apply keeps_fileKept | split | (intro _ _) | (intro _) | dsimp only | (with_reducible refine keeps_mk ?_) | (with_reducible refine ok_of ?_; first | with_reducible assumption | with_reducible apply keeps_wr | with_reducible apply keeps_appendBoot | with_reducible apply keeps_startFail | with_reducible apply keeps_applyPartDef | with_reducible apply keeps_fileKept))

theorem keeps_execStartTimeout (s : State) (hok : memOk s) : ∀ r, execStartTimeout s = .next r → memOk r := by
  unfold execStartTimeout
  intro r h; injection h with h; subst h
  repeat' (first | with_reducible assumption | with_reducible apply keeps_startFail | split | (intro _ _) | (intro _))

theorem keeps_loadDarning (s : State) (hok : memOk s) : memOk (loadDarning s) := by
  unfold loadDarning
  repeat' (first | with_reducible assumption | with_reducible apply keeps_wr | with_reducible apply keeps_raise | with_reducible apply keeps_foldl | with_reducible apply keeps_foldl_fst | with_reducible apply keeps_foldl_snd | split | (intro _ _) | (intro _) | dsimp only | (with_reducible refine keeps_mk ?_) | (with_reducible refine ok_of ?_; first | with_reducible assumption | with_reducible apply keeps_wr | with_reducible apply keeps_raise | with_reducible apply keeps_foldl | with_reducible apply keeps_foldl_fst | with_reducible apply keeps_foldl_snd))

theorem keeps_writeLast (s : State) (hok : memOk s) : memOk (writeLast s) := by
  unfold writeLast
  repeat' (first | with_reducible assumption | with_reducible apply keeps_wr)

theorem keeps_sampleSwatch (c : Nat) (s : State) (hok : memOk s) : memOk (sampleSwatch c s) := by
  unfold sampleSwatch
  repeat' (first | with_reducible assumption | with_reducible apply keeps_wr)

theorem keeps_execResetExit (code : Nat) (s : State) (hok : memOk s) : ∀ r, execResetExit code s = .next r → memOk r := by
  unfold execResetExit
  intro r h; injection h with h; subst h
  repeat' (first | with_reducible assumption | with_reducible apply keeps_wr | with_reducible apply keeps_applyInit | with_reducible apply keeps_replayWrites | with_reducible apply keeps_loadDarning | with_reducible apply keeps_writeLast | with_reducible apply keeps_sampleSwatch | split | (intro _ _) | (intro _) | dsimp only | (with_reducible refine keeps_mk ?_) | (with_reducible refine ok_of ?_; first | with_reducible assumption | with_reducible apply keeps_wr | with_reducible apply keeps_applyInit | with_reducible apply keeps_replayWrites | with_reducible apply keeps_loadDarning | with_reducible apply keeps_writeLast | with_reducible apply keeps_sampleSwatch))

theorem keeps_execPcieEndpointResetExit (s : State) (hok : memOk s) : ∀ r, execPcieEndpointResetExit s = .next r → memOk r := by
  unfold execPcieEndpointResetExit
  intro r h; injection h with h; subst h
  repeat' (first | with_reducible assumption | split | (intro _ _) | (intro _) | dsimp only | (with_reducible refine keeps_mk ?_) | (with_reducible refine ok_of ?_; first | with_reducible assumption))

theorem keeps_execPowerOn (s : State) (hok : memOk s) : ∀ r, execPowerOn s = .next r → memOk r := by
  unfold execPowerOn
  intro r h; injection h with h; subst h
  repeat' (first | with_reducible assumption | with_reducible apply keeps_releaseSource | split | (intro _ _) | (intro _) | dsimp only | (with_reducible refine keeps_mk ?_) | (with_reducible refine ok_of ?_; first | with_reducible assumption | with_reducible apply keeps_releaseSource))

theorem keeps_execVinRise (vin : Nat) (s : State) (hok : memOk s) : ∀ r, execVinRise vin s = .next r → memOk r := by
  intro r h
  unfold execVinRise at h
  repeat' split at h
  all_goals cases h
  all_goals repeat' (first | with_reducible assumption | with_reducible apply keeps_wr | (with_reducible refine keeps_mk ?_) | (with_reducible refine ok_of ?_) | split)

end Sys2Proof.Laws
end

