-- ==== Sys2Proof/Laws/KeepTrust.lean ====
section
/-! SUPPORT. Machine/Trust.lean keeps memory in canonical form. -/

namespace Sys2Proof.Laws
open Sys2Proof.Machine

theorem keeps_service (frog : Bool) (f : Nat) (act : State → Reply) (s : State) (hact : ∀ s, memOk s → memOk (act s).next) (hok : memOk s) : memOk (service frog f act s).next := by
  unfold service
  repeat' (first | with_reducible assumption | with_reducible apply keeps_answerErr | with_reducible apply hact | split | (intro _ _) | (intro _))

theorem keeps_answerBytes (n v : Nat) (s : State) (hok : memOk s) : memOk (answerBytes n v s).next := by
  unfold answerBytes
  repeat' (first | with_reducible assumption)

theorem keeps_programCopy (c : Nat) (bs : List Byte) (s : State) (hok : memOk s) : memOk (programCopy c bs s) := by
  unfold programCopy
  repeat' (first | with_reducible assumption | split | (intro _ _) | (intro _) | dsimp only | (with_reducible refine keeps_mk ?_) | (with_reducible refine ok_of ?_; first | with_reducible assumption))

theorem keeps_execFlashWrite (ring : Bool) (f seq c : Nat) (img : List Byte) (ok : Bool) (s : State) (hok : memOk s) : ∀ r, execFlashWrite ring f seq c img ok s = .next r → memOk r := by
  unfold execFlashWrite
  intro r h; injection h with h; subst h
  repeat' (first | with_reducible assumption | with_reducible apply keeps_answerOk | with_reducible apply keeps_answerErr | with_reducible apply keeps_mailbox | with_reducible apply keeps_hubRecord | with_reducible apply keeps_imageBadRec | with_reducible apply keeps_appendBoot | with_reducible apply keeps_service | with_reducible apply keeps_programCopy | split | (intro _ _) | (intro _) | dsimp only | (with_reducible refine keeps_mk ?_) | (with_reducible refine ok_of ?_; first | with_reducible assumption | with_reducible apply keeps_answerOk | with_reducible apply keeps_answerErr | with_reducible apply keeps_mailbox | with_reducible apply keeps_hubRecord | with_reducible apply keeps_imageBadRec | with_reducible apply keeps_appendBoot | with_reducible apply keeps_service | with_reducible apply keeps_programCopy))

theorem keeps_execRamStart (ring : Bool) (f seq : Nat) (img : List Byte) (s : State) (hok : memOk s) : ∀ r, execRamStart ring f seq img s = .next r → memOk r := by
  unfold execRamStart
  intro r h; injection h with h; subst h
  repeat' (first | with_reducible assumption | with_reducible apply keeps_wr | with_reducible apply keeps_answerOk | with_reducible apply keeps_answerErr | with_reducible apply keeps_mailbox | with_reducible apply keeps_imageBadRec | with_reducible apply keeps_adoptImage | with_reducible apply keeps_runImage | with_reducible apply keeps_service | split | (intro _ _) | (intro _) | dsimp only | (with_reducible refine keeps_mk ?_) | (with_reducible refine ok_of ?_; first | with_reducible assumption | with_reducible apply keeps_wr | with_reducible apply keeps_answerOk | with_reducible apply keeps_answerErr | with_reducible apply keeps_mailbox | with_reducible apply keeps_imageBadRec | with_reducible apply keeps_adoptImage | with_reducible apply keeps_runImage | with_reducible apply keeps_service))

theorem keeps_execRestart (ring : Bool) (f seq : Nat) (s : State) (hok : memOk s) : ∀ r, execRestart ring f seq s = .next r → memOk r := by
  unfold execRestart
  intro r h; injection h with h; subst h
  repeat' (first | with_reducible assumption | with_reducible apply keeps_assertSource | with_reducible apply keeps_answerOk | with_reducible apply keeps_mailbox | with_reducible apply keeps_service | split | (intro _ _) | (intro _) | dsimp only | (with_reducible refine keeps_mk ?_) | (with_reducible refine ok_of ?_; first | with_reducible assumption | with_reducible apply keeps_assertSource | with_reducible apply keeps_answerOk | with_reducible apply keeps_mailbox | with_reducible apply keeps_service))

theorem keeps_execBootRecord (ring : Bool) (f seq buf : Nat) (s : State) (hok : memOk s) : ∀ r, execBootRecord ring f seq buf s = .next r → memOk r := by
  unfold execBootRecord
  intro r h; injection h with h; subst h
  repeat' (first | with_reducible assumption | with_reducible apply keeps_postHost | with_reducible apply keeps_answerOk | with_reducible apply keeps_mailbox | with_reducible apply keeps_service | split | (intro _ _) | (intro _))

theorem keeps_execIdentity (ring : Bool) (f seq : Nat) (s : State) (hok : memOk s) : ∀ r, execIdentity ring f seq s = .next r → memOk r := by
  unfold execIdentity
  intro r h; injection h with h; subst h
  repeat' (first | with_reducible assumption | with_reducible apply keeps_postHost | with_reducible apply keeps_mailbox | with_reducible apply keeps_service | with_reducible apply keeps_answerBytes | split | (intro _ _) | (intro _))

theorem keeps_reserveLeaves (s : State) (hok : memOk s) : memOk (reserveLeaves s) := by
  unfold reserveLeaves
  repeat' (first | with_reducible assumption | with_reducible apply keeps_appendSig | with_reducible apply keeps_showLeaves | split | (intro _ _) | (intro _))

theorem keeps_execAttest (ring : Bool) (f seq nonce buf : Nat) (s : State) (hok : memOk s) : ∀ r, execAttest ring f seq nonce buf s = .next r → memOk r := by
  unfold execAttest
  intro r h; injection h with h; subst h
  repeat' (first | with_reducible assumption | with_reducible apply keeps_postHost | with_reducible apply keeps_answerOk | with_reducible apply keeps_answerErr | with_reducible apply keeps_mailbox | with_reducible apply keeps_service | with_reducible apply keeps_reserveLeaves | split | (intro _ _) | (intro _) | dsimp only | (with_reducible refine keeps_mk ?_) | (with_reducible refine ok_of ?_; first | with_reducible assumption | with_reducible apply keeps_postHost | with_reducible apply keeps_answerOk | with_reducible apply keeps_answerErr | with_reducible apply keeps_mailbox | with_reducible apply keeps_service | with_reducible apply keeps_reserveLeaves))

theorem keeps_execReprovision (ring : Bool) (f seq : Nat) (key sig : List Byte) (s : State) (hok : memOk s) : ∀ r, execReprovision ring f seq key sig s = .next r → memOk r := by
  unfold execReprovision
  intro r h; injection h with h; subst h
  repeat' (first | with_reducible assumption | with_reducible apply keeps_wr | with_reducible apply keeps_answerOk | with_reducible apply keeps_answerErr | with_reducible apply keeps_mailbox | with_reducible apply keeps_hubRecord | with_reducible apply keeps_appendSig | with_reducible apply keeps_showLeaves | with_reducible apply keeps_service | split | (intro _ _) | (intro _) | dsimp only | (with_reducible refine keeps_mk ?_) | (with_reducible refine ok_of ?_; first | with_reducible assumption | with_reducible apply keeps_wr | with_reducible apply keeps_answerOk | with_reducible apply keeps_answerErr | with_reducible apply keeps_mailbox | with_reducible apply keeps_hubRecord | with_reducible apply keeps_appendSig | with_reducible apply keeps_showLeaves | with_reducible apply keeps_service))

theorem keeps_execDebugNonce (ring : Bool) (f seq : Nat) (s : State) (hok : memOk s) : ∀ r, execDebugNonce ring f seq s = .next r → memOk r := by
  unfold execDebugNonce
  intro r h; injection h with h; subst h
  repeat' (first | with_reducible assumption | with_reducible apply keeps_mailbox | with_reducible apply keeps_service | with_reducible apply keeps_answerBytes | split | (intro _ _) | (intro _) | dsimp only | (with_reducible refine keeps_mk ?_) | (with_reducible refine ok_of ?_; first | with_reducible assumption | with_reducible apply keeps_mailbox | with_reducible apply keeps_service | with_reducible apply keeps_answerBytes))

theorem keeps_execDebugUnlock (ring : Bool) (f seq level : Nat) (key sig : List Byte) (s : State) (hok : memOk s) : ∀ r, execDebugUnlock ring f seq level key sig s = .next r → memOk r := by
  unfold execDebugUnlock
  intro r h; injection h with h; subst h
  repeat' (first | with_reducible assumption | with_reducible apply keeps_wr | with_reducible apply keeps_answerOk | with_reducible apply keeps_answerErr | with_reducible apply keeps_mailbox | with_reducible apply keeps_hubRecord | with_reducible apply keeps_service | split | (intro _ _) | (intro _) | dsimp only | (with_reducible refine keeps_mk ?_) | (with_reducible refine ok_of ?_; first | with_reducible assumption | with_reducible apply keeps_wr | with_reducible apply keeps_answerOk | with_reducible apply keeps_answerErr | with_reducible apply keeps_mailbox | with_reducible apply keeps_hubRecord | with_reducible apply keeps_service))

theorem keeps_execDebugLock (ring : Bool) (f seq : Nat) (s : State) (hok : memOk s) : ∀ r, execDebugLock ring f seq s = .next r → memOk r := by
  unfold execDebugLock
  intro r h; injection h with h; subst h
  repeat' (first | with_reducible assumption | with_reducible apply keeps_wr | with_reducible apply keeps_answerOk | with_reducible apply keeps_mailbox | with_reducible apply keeps_service | split | (intro _ _) | (intro _))

theorem keeps_execSvnCommit (ring : Bool) (f seq : Nat) (s : State) (hok : memOk s) : ∀ r, execSvnCommit ring f seq s = .next r → memOk r := by
  unfold execSvnCommit
  intro r h; injection h with h; subst h
  repeat' (first | with_reducible assumption | with_reducible apply keeps_wr | with_reducible apply keeps_answerOk | with_reducible apply keeps_mailbox | with_reducible apply keeps_service | split | (intro _ _) | (intro _))

theorem keeps_readSpill (ue : List Nat) (i : Nat) (s : State) (hok : memOk s) : memOk (readSpill ue i s).2 := by
  unfold readSpill
  repeat' (first | with_reducible assumption | with_reducible apply keeps_raise | with_reducible apply keeps_markUe | split | (intro _ _) | (intro _))

theorem keeps_copySpill (ue : List Nat) (f : Nat) : ∀ (n i buf : Nat) (s : State), memOk s → memOk (copySpill ue f n i buf s)
  | 0, _, _, _, hok => hok
  | n + 1, i, buf, s, hok => by
    unfold copySpill
    exact keeps_copySpill ue f n _ _ _ (keeps_postHost _ _ _ _ _ _ (keeps_readSpill _ _ _ hok))

theorem keeps_execSpill (ring : Bool) (f seq first count buf : Nat) (release : Bool) (ue : List Nat) (s : State) (hok : memOk s) : ∀ r, execSpill ring f seq first count buf release ue s = .next r → memOk r := by
  unfold execSpill
  intro r h; injection h with h; subst h
  repeat' (first | with_reducible assumption | with_reducible apply keeps_answerOk | with_reducible apply keeps_answerErr | with_reducible apply keeps_mailbox | with_reducible apply keeps_service | with_reducible apply keeps_copySpill | split | (intro _ _) | (intro _) | dsimp only | (with_reducible refine keeps_mk ?_) | (with_reducible refine ok_of ?_; first | with_reducible assumption | with_reducible apply keeps_answerOk | with_reducible apply keeps_answerErr | with_reducible apply keeps_mailbox | with_reducible apply keeps_service | with_reducible apply keeps_copySpill))

theorem keeps_execUartConsoleInput (b : Byte) (s : State) (hok : memOk s) : ∀ r, execUartConsoleInput b s = .next r → memOk r := by
  unfold execUartConsoleInput
  intro r h; injection h with h; subst h
  repeat' (first | with_reducible assumption | split | (intro _ _) | (intro _) | dsimp only | (with_reducible refine keeps_mk ?_) | (with_reducible refine ok_of ?_; first | with_reducible assumption))

end Sys2Proof.Laws
end

