-- ==== Sys2Proof/WellFormed.lean ====
section
/-! DEFINITION. Well-formed commands: every operand that numbers a unit names one that the module has (Tables 1.1, 1.5,
6.3). A command that is not well formed names nothing, and its meaning leaves the state as it was. -/

namespace Sys2Proof

/-- A hub core 0 to 3, or a function 0 to 16. -/
def requesterOk (rq : Requester) : Bool :=
  match rq with
  | .hub k => decide (k < 4)
  | .func f => decide (f < 17)

/-- A sender of links in the mesh: a router or the H-die switch, a cluster switch, a tile's end, or a controller's. -/
def senderOk (c : Nat) : Bool := decide (c < 97) || decide (128 ≤ c ∧ c < 224) || decide (256 ≤ c ∧ c < 2572)

/-- A landing-window command by an instruction word, or by a requester that exists. -/
def lwByOk (via : LwBy) : Bool :=
  match via with
  | .insn _ _ => true
  | .bus rq => requesterOk rq

/-- Whether every unit that a command numbers exists. -/
def wellFormed (i : Instr) : Bool :=
  match i with
  | .registerWrite rq ofs _ be => requesterOk rq && decide (ofs % 4 = 0) && decide (be < 16)
  | .rcRead rq ofs => requesterOk rq && decide (ofs % 4 = 0)
  | .counterLowRead rq ofs => requesterOk rq && decide (ofs % 4 = 0)
  | .ill t _ _ => decide (t < 2304)
  | .endOp t _ _ => decide (t < 2304)
  | .br t _ _ => decide (t < 2304)
  | .jr t _ _ => decide (t < 2304)
  | .salu t _ _ => decide (t < 2304)
  | .salui t _ _ => decide (t < 2304)
  | .sflg t _ _ => decide (t < 2304)
  | .aaluAdd t _ _ => decide (t < 2304)
  | .movsa t _ _ => decide (t < 2304)
  | .movlo t _ _ => decide (t < 2304)
  | .movhi t _ _ => decide (t < 2304)
  | .aalui t _ _ => decide (t < 2304)
  | .ld t _ _ _ => decide (t < 2304)
  | .st t _ _ _ => decide (t < 2304)
  | .ldv t _ _ _ => decide (t < 2304)
  | .stv t _ _ _ => decide (t < 2304)
  | .fadd t _ _ _ => decide (t < 2304)
  | .fsub t _ _ _ => decide (t < 2304)
  | .fmul t _ _ _ => decide (t < 2304)
  | .fma t _ _ _ => decide (t < 2304)
  | .fmin t _ _ _ => decide (t < 2304)
  | .fmax t _ _ _ => decide (t < 2304)
  | .fcmpeq t _ _ _ => decide (t < 2304)
  | .fcmplt t _ _ _ => decide (t < 2304)
  | .fcmple t _ _ _ => decide (t < 2304)
  | .fneg t _ _ _ => decide (t < 2304)
  | .fabs t _ _ _ => decide (t < 2304)
  | .vint t _ _ _ => decide (t < 2304)
  | .vbc t _ _ _ => decide (t < 2304)
  | .cvt t _ _ _ => decide (t < 2304)
  | .z4Unpack t _ _ _ => decide (t < 2304)
  | .z4Pack t _ _ _ => decide (t < 2304)
  | .prun t _ _ _ => decide (t < 2304)
  | .awl t _ _ _ => decide (t < 2304)
  | .awlExact t _ _ _ => decide (t < 2304)
  | .awlReblock t _ _ _ => decide (t < 2304)
  | .weightLoadComplete t => decide (t < 2304)
  | .amm t _ _ _ => decide (t < 2304)
  | .arrayResultReady a => decide (a.t < 2304)
  | .adrStore t _ _ _ => decide (t < 2304)
  | .adrAdd t _ _ _ => decide (t < 2304)
  | .adrConvert t _ _ _ => decide (t < 2304)
  | .ashp t _ _ _ => decide (t < 2304)
  | .slv t _ _ _ => decide (t < 2304)
  | .sig t _ _ => decide (t < 2304)
  | .waitObserve t _ _ => decide (t < 2304)
  | .waitTake t _ _ => decide (t < 2304)
  | .lwOpen t win via => decide (t < 2304) && decide (win < 16) && lwByOk via
  | .lwClose t win via => decide (t < 2304) && decide (win < 16) && lwByOk via
  | .lwRelease t win via => decide (t < 2304) && decide (win < 16) && lwByOk via
  | .xfer t _ _ => decide (t < 2304)
  | .send t _ _ => decide (t < 2304)
  | .sendStallTimeout t _ => decide (t < 2304)
  | .jq t _ _ => decide (t < 2304)
  | .bkick t _ _ => decide (t < 2304)
  | .ifill t _ _ _ => decide (t < 2304)
  | .ifillGo rq t _ => requesterOk rq && decide (t < 2304)
  | .ifillComplete t => decide (t < 2304)
  | .tileLtagWrite rq t _ => requesterOk rq && decide (t < 2304)
  | .prlLoadGo rq t _ => requesterOk rq && decide (t < 2304)
  | .prlLoadComplete t => decide (t < 2304)
  | .gatherOff rq t _ => requesterOk rq && decide (t < 2304)
  | .gatherFlushTimeout t => decide (t < 2304)
  | .arrival _ => true
  | .castPhaseStart t => decide (t < 2304)
  | .cend t => decide (t < 2304)
  | .cwr t => decide (t < 2304)
  | .crd t => decide (t < 2304)
  | .cxr t => decide (t < 2304)
  | .csig t => decide (t < 2304)
  | .cwait t => decide (t < 2304)
  | .cbar t => decide (t < 2304)
  | .tileArrive t => decide (t < 2304)
  | .courseBoundary p _ _ => decide (p < 16)
  | .tileRelease t => decide (t < 2304)
  | .barrierTimerExpire p => decide (p < 16)
  | .stitchAddition _ => true
  | .waiterRelease t _ => decide (t < 2304)
  | .waitTimerExpire t _ => decide (t < 2304)
  | .subBarrierComplete p plane => decide (p < 16) && decide (plane < 32)
  | .partitionResetRelease p => decide (p < 16)
  | .stcXtDataWrite rq p _ => requesterOk rq && decide (p < 16)
  | .stcCtlWrite rq die _ => requesterOk rq && decide (die < 4)
  | .txOpenCmd t _ ep _ => decide (t < 2304) && decide (ep < 32)
  | .txCloseCmd t _ ep _ => decide (t < 2304) && decide (ep < 32)
  | .rxOpenCmd t _ ep _ => decide (t < 2304) && decide (ep < 32)
  | .rxCloseCmd t _ ep _ => decide (t < 2304) && decide (ep < 32)
  | .openReq _ => true
  | .openAck _ => true
  | .openNak _ => true
  | .credit _ => true
  | .close _ => true
  | .closeAck _ => true
  | .orphan _ => true
  | .strandData _ => true
  | .headWrite t _ ep _ => decide (t < 2304) && decide (ep < 32)
  | .join _ _ => true
  | .routerForward c _ _ _ => senderOk c
  | .creditReturn c _ vc _ => senderOk c && decide (vc < 6)
  | .clusterStoreWrite _ => true
  | .rdreq _ _ => true
  | .mergeWindowExpire c _ => decide (c < 96)
  | .rdrsp _ => true
  | .transposeRead _ _ => true
  | .cluTestWrite rq c _ => requesterOk rq && decide (c < 96)
  | .cluDarnWrite rq c row _ => requesterOk rq && decide (c < 96) && decide (row < 4)
  | .hankAdd _ _ => true
  | .hankRead _ _ => true
  | .hnkFreshGo rq c _ => requesterOk rq && decide (c < 96)
  | .freshenComplete c => decide (c < 96)
  | .stashFiringComplete p _ _ => decide (p < 16)
  | .gather _ _ => true
  | .gatherchk _ _ => true
  | .shardRelease _ => true
  | .gatherReceipt _ => true
  | .pinTimerExpire b _ => decide (b < 12)
  | .update _ => true
  | .abort _ => true
  | .blkAbortGo rq b _ => requesterOk rq && decide (b < 12)
  | .updateStart u => decide (u.blk < 12)
  | .updateBlock b _ => decide (b < 12)
  | .updateComplete b => decide (b < 12)
  | .sknRead rq _ => requesterOk rq
  | .sknCreate rq _ => requesterOk rq
  | .sknCancel rq _ => requesterOk rq
  | .batchBuild p => decide (p < 16)
  | .returnAccept p _ => decide (p < 16)
  | .skeinEmit k _ => decide (k < 40960)
  | .evictStart p => decide (p < 16)
  | .evictComplete e => decide (e.skein < 40960)
  | .restoreStart p => decide (p < 16)
  | .restoreComplete k => decide (k < 40960)
  | .sknBcfgEnWrite rq p _ => requesterOk rq && decide (p < 16)
  | .memAccept _ => true
  | .memCtrlEnWrite rq k _ => requesterOk rq && decide (k < 12)
  | .burstIssue k ch _ _ _ => decide (k < 12) && decide (ch < 32)
  | .refresh k ch _ => decide (k < 12) && decide (ch < 32)
  | .scrub k ch _ => decide (k < 12) && decide (ch < 32)
  | .tempPoll k _ => decide (k < 12)
  | .phyTrainGo rq k _ => requesterOk rq && decide (k < 12)
  | .stackTrainingComplete k _ => decide (k < 12)
  | .phyMrunGo rq k _ => requesterOk rq && decide (k < 12)
  | .marginRunComplete k _ => decide (k < 12)
  | .plyEnable rq k _ => requesterOk rq && decide (k < 24)
  | .plyRetrain rq k _ => requesterOk rq && decide (k < 24)
  | .plyTrainingComplete k _ _ _ => decide (k < 24)
  | .flitReceive k _ _ _ => decide (k < 24)
  | .nak k _ _ _ => decide (k < 24)
  | .replayTimerExpire k => decide (k < 24)
  | .plyLinkFail k => decide (k < 24)
  | .spanArrive _ => true
  | .spanRelease _ => true
  | .grace _ => true
  | .hb _ => true
  | .attachReq _ => true
  | .attachAck _ => true
  | .attachNak _ => true
  | .mirrorReady _ => true
  | .detachReq _ => true
  | .drainDone _ => true
  | .handover _ => true
  | .handoverAck _ => true
  | .handoverNak _ => true
  | .handback _ => true
  | .resetReq _ => true
  | .groupJoin _ => true
  | .joinAck _ => true
  | .dispatch _ _ => true
  | .rollout _ _ => true
  | .genPublished _ => true
  | .genAdopted _ => true
  | .twinAttach rq _ => requesterOk rq
  | .twinDetach rq _ => requesterOk rq
  | .twinPartnerLost => true
  | .heartbeatTimer _ => true
  | .twinHbPulse => true
  | .ckptEntryCopy => true
  | .configRequest _ => true
  | .bar2Write f _ _ _ _ => decide (f < 17)
  | .bar2Read f _ _ => decide (f < 17)
  | .barReadTimeout f => decide (f < 17)
  | .dmaTailDoorbell f e _ => decide (f < 17) && decide (e < 32)
  | .rolloutConsDoorbell f _ => decide (f < 17)
  | .rolloutModerationTimer p => decide (p < 16)
  | .dmaEnable rq e _ => requesterOk rq && decide (e < 32)
  | .dmaStop rq e _ => requesterOk rq && decide (e < 32)
  | .dmaCopy e _ _ => decide (e < 32)
  | .dmaFill e _ => decide (e < 32)
  | .dmaNop e _ => decide (e < 32)
  | .dmaDescriptorComplete e => decide (e < 32)
  | .vfFlr f => decide (f < 17)
  | .pfFlr => true
  | .hotReset => true
  | .dlDown => true
  | .partCreate _ f seq p _ _ _ _ _ _ => decide (f < 17) && decide (seq < 65536) && decide (p < 16)
  | .partDestroy _ f seq p => decide (f < 17) && decide (seq < 65536) && decide (p < 16)
  | .partHold _ f seq p _ => decide (f < 17) && decide (seq < 65536) && decide (p < 16)
  | .windowSet _ f seq p w _ _ _ => decide (f < 17) && decide (seq < 65536) && decide (p < 16) && decide (w < 8)
  | .stitchMap _ f seq p _ => decide (f < 17) && decide (seq < 65536) && decide (p < 16)
  | .dmaeAssign _ f seq e _ => decide (f < 17) && decide (seq < 65536) && decide (e < 32)
  | .shardSet _ f seq p b _ _ _ _ _ _ _ _ => decide (f < 17) && decide (seq < 65536) && decide (p < 16) && decide (b < 12)
  | .tensionSet _ f seq p _ => decide (f < 17) && decide (seq < 65536) && decide (p < 16)
  | .plySet _ f seq k _ _ p _ _ _ _ _ => decide (f < 17) && decide (seq < 65536) && decide (k < 24) && decide (p < 16)
  | .groupSet _ f seq _ _ _ _ _ _ _ => decide (f < 17) && decide (seq < 65536)
  | .msgSend _ f seq _ _ _ => decide (f < 17) && decide (seq < 65536)
  | .flashWrite _ f seq c _ _ => decide (f < 17) && decide (seq < 65536) && decide (c < 2)
  | .ramStart _ f seq _ => decide (f < 17) && decide (seq < 65536)
  | .restart _ f seq => decide (f < 17) && decide (seq < 65536)
  | .bootRecord _ f seq _ => decide (f < 17) && decide (seq < 65536)
  | .identity _ f seq => decide (f < 17) && decide (seq < 65536)
  | .attest _ f seq _ _ => decide (f < 17) && decide (seq < 65536)
  | .reprovision _ f seq _ _ => decide (f < 17) && decide (seq < 65536)
  | .debugNonce _ f seq => decide (f < 17) && decide (seq < 65536)
  | .debugUnlock _ f seq level _ _ => decide (f < 17) && decide (seq < 65536) && decide (level < 3)
  | .debugLock _ f seq => decide (f < 17) && decide (seq < 65536)
  | .svnCommit _ f seq => decide (f < 17) && decide (seq < 65536)
  | .spill _ f seq _ _ _ _ _ => decide (f < 17) && decide (seq < 65536)
  | .smbDeviceId _ => true
  | .smbState _ => true
  | .smbTemperatures _ => true
  | .smbPower _ => true
  | .smbThrottle _ => true
  | .smbErrors _ => true
  | .smbHostCap _ _ => true
  | .hostcapWrite rq _ => requesterOk rq
  | .powerLoss => true
  | .railFault rail _ => decide (rail < 15)
  | .tensionRecheck p => decide (p < 16)
  | .overdrawHoldEnd p => decide (p < 16)
  | .inputDroop _ => true
  | .inputCurrentLimit => true
  | .emergencyStepTimer ev d => decide (1 ≤ ev ∧ ev ≤ 4) && decide (d < 4)
  | .emergencyEnd ev _ _ => decide (1 ≤ ev ∧ ev ≤ 4)
  | .graceResendTimer => true
  | .sensorSample _ _ _ _ _ => true
  | .alignHoldExpire d => decide (d < 4)
  | .recoveryStep d => decide (d < 4)
  | .capStepTimer _ => true
  | .powerOn => true
  | .perstNAssert => true
  | .perstNRelease => true
  | .mresetNAssert => true
  | .mresetNRelease => true
  | .wdogKick rq _ => requesterOk rq
  | .wdogExpire => true
  | .swreqTile rq _ => requesterOk rq
  | .swreqPartition rq _ => requesterOk rq
  | .swreqCompute rq _ => requesterOk rq
  | .swreqWarm rq _ => requesterOk rq
  | .swreqCold rq _ => requesterOk rq
  | .rstPholdWrite rq _ => requesterOk rq
  | .resetExit _ => true
  | .pcieEndpointResetExit => true
  | .start _ _ _ => true
  | .startReady => true
  | .startTimeout => true
  | .censusAtBoundary rq _ => requesterOk rq
  | .censusNow rq _ => requesterOk rq
  | .censusCancel rq _ => requesterOk rq
  | .censusDone => true
  | .cnsSdataRead rq => requesterOk rq
  | .recordFile _ _ => true
  | .errQpop rq _ => requesterOk rq
  | .tileResetRelease t => decide (t < 2304)
  | .hostRefclkLoss => true
  | .hostRefclkReturn => true
  | .plyLinkLoss k => decide (k < 24)
  | .initialMirrorComplete => true
  | .twinDrainComplete => true
  | .pcieLinkUp _ _ => true
  | .hostCompletion _ _ _ => true
  | .hostCompletionTimeout _ => true
  | .vinRise _ => true
  | .uartConsoleInput _ => true
  | .mailboxUnknownCmd _ f seq _ => decide (f < 17) && decide (seq < 65536)

end Sys2Proof
end

