-- ==== Sys2Proof/Tests/Slice0.lean ====
section
/-! SUPPORT. Tests: ill-formed commands, values that the spec works out, and for each statement a state and operands that
meet its hypotheses. -/

namespace Sys2Proof.Tests
open Sys2Proof Sys2Proof.Machine

set_option Elab.async false

/-! ### Well-formedness: a command that names a unit that the module has not is refused -/

theorem test_wellFormed_refuses_access : ([.registerWrite (.hub 4) 0 0 15, .registerWrite (.func 17) 0 0 15,
    .registerWrite (.hub 0) 2 0 15, .registerWrite (.hub 0) 0 0 16, .rcRead (.hub 0) 1, .counterLowRead (.func 17) 0,
    .errQpop (.hub 4) 1, .censusNow (.func 17) 0, .cnsSdataRead (.hub 4)] : List Instr).all (fun i => !wellFormed i) = true := by decide

theorem test_wellFormed_refuses_tile : ([.ill 2304 .front 0, .salu 2304 .front 0, .ld 2304 .front 0 1, .amm 2304 .front 0 1,
    .lwOpen 0 16 (.insn .front 0), .lwOpen 2304 0 (.insn .front 0), .lwClose 0 0 (.bus (.hub 4)), .ifillGo (.hub 4) 0 0,
    .cend 2304, .tileArrive 2304, .waiterRelease 2304 0, .txOpenCmd 0 .front 32 0, .headWrite 2304 .front 0 0,
    .tileResetRelease 2304] : List Instr).all (fun i => !wellFormed i) = true := by decide

theorem test_wellFormed_refuses_cluster : ([.routerForward 97 0 none .ok, .creditReturn 0 0 6 1, .mergeWindowExpire 96 0,
    .cluTestWrite (.hub 0) 96 0, .cluDarnWrite (.hub 0) 0 4 0, .hnkFreshGo (.hub 0) 96 0, .freshenComplete 96] : List Instr).all
    (fun i => !wellFormed i) = true := by decide

theorem test_wellFormed_refuses_partition : ([.courseBoundary 16 ⟨0, []⟩ ⟨0, 0⟩, .subBarrierComplete 0 32, .stcXtDataWrite (.hub 0) 16 0,
    .stcCtlWrite (.hub 0) 4 0, .stashFiringComplete 16 0 none, .batchBuild 16, .evictStart 16, .tensionRecheck 16,
    .partCreate false 0 0 16 0 0 0 0 0 0, .windowSet false 0 0 0 8 0 0 0, .shardSet false 0 0 0 12 0 true 0 0 0 0 0 0,
    .partCreate false 17 0 0 0 0 0 0 0 0, .partDestroy false 0 65536 0] : List Instr).all (fun i => !wellFormed i) = true := by decide

theorem test_wellFormed_refuses_units : ([.updateStart ⟨12, ⟨none, []⟩⟩, .blkAbortGo (.hub 0) 12 0, .pinTimerExpire 12 0, .skeinEmit 40960 none,
    .evictComplete ⟨40960, none⟩, .burstIssue 12 0 0 0 .ok, .burstIssue 0 32 0 0 .ok, .tempPoll 12 0, .phyTrainGo (.hub 0) 12 0,
    .plyEnable (.hub 0) 24 0, .plyLinkFail 24, .bar2Write 17 0 0 0 0, .dmaTailDoorbell 0 32 0, .dmaNop 32 none, .vfFlr 17,
    .plySet false 0 0 24 0 true 0 0 0 0 0 0, .flashWrite false 0 0 2 [] true, .debugUnlock false 0 0 3 [] [], .railFault 15 0,
    .emergencyStepTimer 5 0, .emergencyStepTimer 1 4, .emergencyEnd 0 0 0, .alignHoldExpire 4, .recoveryStep 4] : List Instr).all
    (fun i => !wellFormed i) = true := by decide

/-! ### States -/

/-- The reset state with some register fields at other values: field, unit, index, value. -/
def st (l : List (Field × Nat × Nat × Nat)) : State := l.foldl (fun s x => wr s x.1 x.2.1 x.2.2.1 x.2.2.2) State.reset

/-- A state with a needle of tile t in RUN at word 0, which is w. -/
def needle (t nc : Nat) (w : W64) (s : State) : State :=
  { wr s NDL_STATE t nc nsRun with ibuf := mapSet 0 s.ibuf (t * 4096) w, ipage := mapSet false s.ipage (t * 8) true }

/-- The reset state with the FRONT needle of tile 5 before word w. -/
def go (w : W64) : State := needle 5 0 w State.reset

/-- An instruction word (Table 3.1): opcode, function, RD, RA, RB and what stands below. -/
def word (op fn rd ra rb low : Nat) : W64 :=
  BitVec.ofNat 64 (op * 2 ^ 58 + fn * 2 ^ 54 + rd * 2 ^ 46 + ra * 2 ^ 41 + rb * 2 ^ 36 + low)

/-- Tile 5's cluster belongs to partition 0. -/
def owned (s : State) : State := { s with clPart := mapSet 0 s.clPart 0 1, parts := mapSet false s.parts 0 true }

/-- A scalar and an address register of the FRONT needle of tile 5. -/
def withS (x : Nat) (v : W32) (s : State) : State := setS 5 0 x v s
def withA (x v : Nat) (s : State) : State := setA 5 0 x v s


/-- A packet to node 5 of n slots, standing at its destination. -/
def pkt (typ : PType) (addr len : Nat) : Pkt :=
  ⟨1, typ, 0, len, true, false, none, addr, 7, 5, 0, 0, 0, 0, 0, .dest, true, false, 7, none, 2 ^ (len * 16) - 1, none⟩

/-- A state with one packet. -/
def withPkt (p : Pkt) (s : State) : State := { s with net := [p], nextPid := p.pid + 1 }

/-- Stitch `ph` belongs to partition 0 and is its logical stitch 3. -/
def mapped (ph : Nat) (s : State) : State :=
  wr (wr (wr (wr s STC_XT_DATA_PHYS 0 3 ph) STC_XT_DATA_VALID 0 3 1) STC_CTL_OWNED (ph / 4096) (ph % 4096) 1)
    STC_CTL_OWNER (ph / 4096) (ph % 4096) 0

/-- Tile 5's cast engine before the cast word x. -/
def casting (x : Nat) (s : State) : State := wrLE (storeBase 5) 16 x (wr s TILE_CSTAT_STATE 5 0 1)

/-- The start has ended: no exit sequence is under way. -/
def up (s : State) : State := { s with bt.exiting := 0 }

/-- A control flit for endpoint 31 of tile 5 from endpoint 4 of tile 7. -/
def flit (x : Nat) : Pkt := { pkt .strand (storeBase 5) 1 with data := x }

/-! ### Where no Ply window is valid, the addresses of a partition's own stores are not refused -/

/-- No Ply window entry is listed as valid. -/
def noPly (s : State) : Bool := s.regs.all (fun x => x.1 % 1024 != PLY_WINPEER_VALID.id)

theorem mapFind_none_of {α : Type} (m : SMap α) (k i : Nat) (hk : k % 1024 = i) (h : m.all (fun x => x.1 % 1024 != i) = true) :
    mapFind m k = none := by
  induction m with
  | nil => rfl
  | cons x m ih =>
    simp only [List.all_cons, Bool.and_eq_true, bne_iff_ne, ne_eq] at h
    have : ¬ x.1 = k := by rintro rfl; exact h.1 hk
    obtain ⟨x1, x2⟩ := x
    simp only [mapFind]
    rw [if_neg this, ih h.2]

theorem plyLinkOf_of_noPly {s : State} (h : noPly s = true) (p a : Nat) : plyLinkOf s p a = none := by
  have hv : ∀ k n, rdB s PLY_WINPEER_VALID k n = false := by
    intro k n
    have : mapFind s.regs (fkey PLY_WINPEER_VALID k n) = none :=
      mapFind_none_of _ _ PLY_WINPEER_VALID.id (by simp [fkey]; decide) h
    rw [rdB, rd, mapGet, this]; rfl
  simp [plyLinkOf, plyEntryOf, plyHolds, hv]

theorem inPly_of_noPly {s : State} (h : noPly s = true) (a : Nat) : inPly s a = false := by
  simp [inPly, plyLinkOf_of_noPly h]

theorem firstRefused_none {s : State} {p a n : Nat} {w : Bool} (h : noPly s = true)
    (hin : (List.range ((n + 15) / 16)).all (fun i => inWindows s p (a + 16 * i) w) = true) : firstRefused s p a n w = none := by
  simp only [firstRefused, List.find?_eq_none, List.mem_map, forall_exists_index, and_imp, forall_apply_eq_imp_iff₂]
  intro i hi
  have := List.all_eq_true.1 hin i hi
  simp [allowed, inPly_of_noPly h, this]

theorem firstRefusedPush_none {s : State} {p a n : Nat} (h : noPly s = true)
    (hin : (List.range ((n + 15) / 16)).all (fun i => inWindows s p (a + 16 * i) true) = true) : firstRefusedPush s p a n = none := by
  simp only [firstRefusedPush, List.find?_eq_none, List.mem_map, forall_exists_index, and_imp, forall_apply_eq_imp_iff₂]
  intro i hi
  have := List.all_eq_true.1 hin i hi
  simp [allowedPush, inPly_of_noPly h, this]

/-- Stack memory is whole, and its first GiB is partition 0's window. -/
def stackMem (s : State) : State := { owned (wr s MEM_TOTAL_NCH 0 0 384) with windows := [(0, ⟨0, 16, 0⟩)] }

/-- The PCI Express link is up, with 16 VFs enabled and configuration space written. -/
def hosted (s : State) : State :=
  { wr s PCI_STATUS_LINKUP 0 0 1 with bt.endpointRst := false, bt.latched := 0, hst.hclk := true, hst.cfgReady := true, hst.numVFs := 16 }

/-- Every channel of every stack takes requests. -/
def takes (s : State) : State := (List.range 12).foldl (fun s k => wr s MEM_CTRL_EN k 0 1) s

/-- Every stack is enabled, none is in self-refresh, and no request waits. -/
def stacksOn (s : State) : Bool :=
  (List.range 12).all (fun k => rdB s MEM_CTRL_EN k 0 && rd s MEM_STATUS_THR k 0 != 3) && s.memq.isEmpty

theorem stacksTake_of_stacksOn {s : State} (h : stacksOn s = true) : stacksTake s := by
  intro k ch hk
  simp only [stacksOn, Bool.and_eq_true, List.isEmpty_iff] at h
  have := List.all_eq_true.1 h.1 k (List.mem_range.2 hk)
  simp only [Bool.and_eq_true] at this
  simp [chanReady, chanQueue, h.2, this]

theorem inStack_of_noPly {s : State} {p a y : Nat} (h : noPly s = true) (ht : target s a = .stack y) : inStack s p a :=
  ⟨⟨y, ht⟩, plyLinkOf_of_noPly h p a⟩

/-! ### Hypotheses: the tile -/

theorem witness_StepRunsFront : ({ State.reset with pending := [.cend 0] } : State).pending = .cend 0 :: [] ∧ State.reset.pending = [] := by
  decide

theorem witness_StepKeepsMemoryCanonical : Memory.wf State.reset.mem = true ∧ Memory.wf State.reset.hostMem = true ∧
    (match step { State.reset with pending := [.powerLoss] } with | .next _ => true | _ => false) = true := by decide +kernel

theorem witness_ScalarInstructions : ∀ x ∈ [(word 4 0 0 31 31 0, 0), (word 4 14 31 1 2 0, 0), (word 5 14 1 1 0 0xFFFF, 1),
      (word 6 2 1 15 0 0, 2), (word 6 3 1 0 0 0, 3), (word 4 15 1 0 0 0, 4)],
    issuable (go x.1) 5 .front x.1 ∧ (match x.2 with
      | 0 => isOp x.1 0x04 (fun f => decide (f < 15)) | 1 => isOp x.1 0x05 (fun f => decide (f < 15))
      | 2 => isOp x.1 0x06 (· == 2) | 3 => isOp x.1 0x06 (· == 3) | _ => isOp x.1 0x04 (· == 15)) = true := by
  unfold issuable; decide +kernel

theorem witness_AddressInstructions : ∀ x ∈ [(word 6 0 15 1 2 0, 0), (word 6 1 1 1 0 0, 1), (word 7 0 1 1 0 0xFFFFFFFF, 2)],
    issuable (go x.1) 5 .front x.1 ∧ (match x.2 with
      | 0 => isOp x.1 0x06 (· == 0) | 1 => isOp x.1 0x06 (· == 1) | _ => isOp x.1 0x07 (· == 0)) = true := by
  unfold issuable; decide +kernel

theorem witness_ControlInstructions :
    (∀ x ∈ [(0, 4095), (8, 0)], let w := word 2 x.1 7 0 0 x.2
     issuable (go w) 5 .front w ∧ isOp w 0x02 (fun f => decide (f < 9)) = true) ∧
    (let w := word 3 0 0 1 0 0
     isOp w 0x03 (· == 0) = true ∧ issuable (withS 1 4095 (go w)) 5 .front w ∧ (getS (withS 1 4095 (go w)) 5 0 (wRA w)).toNat < 4096 ∧
     issuable (withS 1 4096 (go w)) 5 .front w ∧ 4096 ≤ (getS (withS 1 4096 (go w)) 5 0 (wRA w)).toNat) ∧
    (let w := word 1 0 0 0 0 0
     issuable (go w) 5 .front w ∧ isOp w 0x01 (· == 0) = true ∧ (go w).flights = []) ∧
    (∀ x ∈ [(0, 0), (0x20, 0), (2, 9)], let w := word x.1 x.2 0 0 0 0
      canFetch (go w) 5 0 = true ∧ pageValid (go w) 5 0 = true ∧
      wordAt (go w) 5 0 = w ∧ assigned w = false) := by
  unfold issuable; decide +kernel

theorem witness_LoadAndStoreInstructions :
    (∀ x ∈ [(8, 0, 0), (8, 4, 0xFFFFFFFF), (0xA, 0, 0)], let w := word x.1 x.2.1 31 2 0 x.2.2
      issuable (withA 1 (storeBase 5 + 0x1000) (go w)) 5 .front w ∧ wins (withA 1 (storeBase 5 + 0x1000) (go w)) 5 .front unitEngine 1 ∧
      (isOp w 0x08 (fun f => decide (f < 5)) || isOp w 0x0A (· == 0)) = true) ∧
    (∀ f ∈ [0, 2], let w := word 9 f 1 2 0 0; let s := withA 1 (storeBase 5 + 0x7FFFC) (go w)
      issuable s 5 .front w ∧ wins s 5 .front unitEngine 1 ∧ s.gather = [] ∧ isOp w 0x09 (fun f => decide (f < 3)) = true ∧
      ownOff 5 (alignTo (effAddr s 5 0 w) (2 ^ wFN w)) (2 ^ wFN w) = some 0x7FFFC ∧
      overrunAt s 5 0x7FFFC (2 ^ wFN w) = none ∧ meets 0x7FFFC (2 ^ wFN w) (tableOff s 5) 1024 = false) ∧
    (let w := word 0xB 0 1 2 0 0; let s := withA 1 (storeBase 5 + 0x7FF00) (go w)
     issuable s 5 .front w ∧ wins s 5 .front unitEngine 1 ∧ isOp w 0x0B (· == 0) = true ∧
     ownOff 5 (alignTo (effAddr s 5 0 w) 256) 256 = some 0x7FF00 ∧
     overrunAt s 5 0x7FF00 256 = none ∧ meets 0x7FF00 256 (tableOff s 5) 1024 = false) := by
  unfold issuable wins; decide +kernel

theorem witness_PurlInstructions :
    (∀ f < 11, let w := word 0xC f 1 2 3 0
      issuable (go w) 5 .front w ∧ wins (go w) 5 .front unitPurl 1 ∧ isOp w 0x0C (· == f) = true) ∧
    (∀ f ∈ [0, 14, 15], let w := word 0xD f 1 2 0 0
      issuable (go w) 5 .front w ∧ wins (go w) 5 .front unitPurl 1 ∧ isOp w 0x0D (· == f) = true) ∧
    (∀ x ∈ [(word 0xE 0 1 2 0 (6 * 2 ^ 25), false, 6, 0), (word 0xE 0 1 2 0 (1 * 2 ^ 21), false, 0, 0),
        (word 0xE 0 1 2 0 (4 * 2 ^ 25 + 4 * 2 ^ 21), true, 4, 0), (word 0xE 0 1 2 0 (2 ^ 29 + 4 * 2 ^ 25 + 4 * 2 ^ 21), true, 4, 1)],
      issuable (go x.1) 5 .front x.1 ∧ wins (go x.1) 5 .front unitPurl 1 ∧ isOp x.1 0x0E (· == 0) = true ∧ isRepack x.1 = x.2.1 ∧
      wSRCF x.1 = x.2.2.1 ∧ wRM x.1 = x.2.2.2) ∧
    (let w := word 0xF 0 1 2 3 (15 * 2 ^ 21)
     let s := wr (wr (go w) PRL_CTRL_EN 5 0 1) PRL_STATUS_SLOTVALID 5 15 1
     issuable s 5 .front w ∧ wins s 5 .front unitPurl 1 ∧ isOp w 0x0F (· == 0) = true ∧ rdB s PRL_CTRL_EN 5 0 = true ∧
     rdB s PRL_STATUS_SLOTVALID 5 (wSLOT w) = true) := by
  unfold issuable wins; decide +kernel


theorem witness_GatherBufferAndPurlLoads_weights :
    ∀ x ∈ [(0, 1), (1, 1), (2, 4)], let w := word 0x10 0 0 2 0 (x.2 * 2 ^ 38 + x.1 * 2 ^ 32)
      let s := withA 1 (storeBase 5 + 0x7D000) (go w)
      issuable s 5 .front w ∧ wins s 5 .front unitEngine 1 ∧ s.wloads = [] ∧ rdB s ARY_STATUS_RESHAPE 5 0 = false ∧
      isOp w 0x10 (· == 0) = true ∧ wMODE w = x.1 ∧ wFMT1 w = x.2 ∧ rdB s ARY_STATUS_FORM 5 0 = false ∧
      getA s 5 0 (wAN w) % 256 = 0 ∧ (ownOff 5 (getA s 5 0 (wAN w)) (imageSize (wFMT1 w))).isSome = true ∧
      (ownOff 5 (getA s 5 0 (wAN w)) 0x3000).isSome = true := by
  unfold issuable wins; decide +kernel

theorem witness_GatherBufferAndPurlLoads_weightsDone :
    ∀ m ∈ [0, 1, 2], let x : WLoad := ⟨5, 0, 1, if m = 2 then 4 else 1, m, storeBase 5, 0⟩
     ({ State.reset with wloads := [x] }).wloads.find? (fun x => x.tile == 5) = some x ∧
     ([x].erase x).any (fun y => y.tile == 5 && y.buf == 1) = false ∧ x.fmt < 16 ∧ x.buf < 2 ∧ State.reset.gather = [] := by
  decide +kernel

theorem witness_ArrayInstructions_3 :
    let w := word 0x11 0 0 2 0 (2 ^ 38 + 2 ^ 34 + 1 * 2 ^ 16 + 255 * 2 ^ 8)
    let s := wr (wr (withA 1 (storeBase 5) (go w)) ARY_STATUS_BST 5 0 2) ARY_STATUS_BFMT 5 0 1
    issuable s 5 .front w ∧ isOp w 0x11 (· == 0) = true ∧ wins s 5 .front unitArray 1 ∧ rdB s ARY_STATUS_FORM 5 0 = false ∧
    wN w ≠ 0 ∧ wACC w + wN w ≤ 256 ∧ rd s ARY_STATUS_BST 5 (wBUF w) = 2 ∧ rd s ARY_STATUS_BFMT 5 (wBUF w) = wFMT1 w ∧
    pairs (wFMT1 w) (wFMT2 w) = true ∧ getA s 5 0 (wAN w) % min (actSize (wFMT2 w) (innerDim false (wFMT1 w))) 128 = 0 ∧
    ownOff 5 (getA s 5 0 (wAN w)) (wN w * actSize (wFMT2 w) (innerDim false (wFMT1 w))) = some 0 ∧ s.gather = [] := by
  unfold issuable wins; decide +kernel

theorem witness_ArrayInstructions_4 :
    let w := word 0x14 0 0 2 0 (2 ^ 38 + 2 ^ 34 + 64 * 2 ^ 16 + 255 * 2 ^ 8)
    let s := withA 1 (storeBase 5) (go w)
    issuable s 5 .front w ∧ isOp w 0x14 (· == 0) = true ∧ wins s 5 .front unitSlip 1 ∧ wN w ≠ 0 ∧ wACC w * 64 + wN w ≤ 16384 ∧
    pairs (wFMT1 w) (wFMT2 w) = true ∧ getA s 5 0 (wAN w) % 256 = 0 ∧ s.gather = [] ∧
    ownOff 5 (getA s 5 0 (wAN w)) (wN w * slvRowBytes (wFMT1 w)) = some 0 := by
  unfold issuable wins; decide +kernel

theorem witness_ArrayInstructions_5 :
    ∀ v ∈ [false, true], let f : Flight := ⟨5, 0, v, 0, []⟩
     let older : List Flight := [⟨5, 0, !v, 0, []⟩, ⟨4, 0, v, 0, []⟩]
     ({ State.reset with flights := older ++ [f] }).flights = older ++ f :: [] ∧ f.tile = 5 ∧ f.slv = v ∧
     older.any (fun g => g.tile == 5 && g.slv == v) = false := by
  decide +kernel

theorem witness_ArrayInstructions_6 :
    let w := word 0x13 0 0 0 0 (2 ^ 32)
    let busy : State → Bool := fun s => s.wloads.any (fun x => x.tile == 5) || s.flights.any (fun f => f.tile == 5 && !f.slv)
    issuable (go w) 5 .front w ∧ wins (go w) 5 .front unitArray 1 ∧ isOp w 0x13 (· == 0) = true ∧ rd (go w) ARY_STATUS_FORM 5 0 ≠ wMODE w ∧
    busy { go w with flights := [⟨5, 0, true, 0, []⟩] } = false ∧
    (∀ s ∈ [{ go w with flights := [⟨5, 0, false, 0, []⟩] }, { go w with wloads := [⟨5, 0, 1, 1, 0, storeBase 5, 0⟩] }],
      issuable s 5 .front w ∧ wins s 5 .front unitArray 1 ∧ busy s = true) := by
  unfold issuable wins; decide +kernel

theorem witness_ArrayInstructions_7 :
    ∀ f < 3, let w := word 0x12 f 0 2 0 ((if f = 2 then 2 ^ 38 else 0) + 1 * 2 ^ 16 + 255 * 2 ^ 8)
     let s := withA 1 (storeBase 5 + 0x1000) (go w)
     issuable s 5 .front w ∧ wins s 5 .front unitArray 1 ∧ isOp w 0x12 (· == f) = true ∧ adrHeld s 5 0 w = false ∧ wN w ≠ 0 ∧
     wACC w + wN w ≤ 256 ∧ getA s 5 0 (wAN w) % rowImage w = 0 ∧ ownOff 5 (getA s 5 0 (wAN w)) (wN w * rowImage w) = some 0x1000 ∧
     s.gather = [] ∧ overrunAt s 5 0x1000 (wN w * rowImage w) = none ∧ meets 0x1000 (wN w * rowImage w) (tableOff s 5) 1024 = false := by
  unfold issuable wins; decide +kernel

theorem witness_StitchInstructionsAndBanks_1 :
    ∀ x ∈ [(0x18, 0), (0x18, 1), (0x19, 0), (0x19, 1)], let w := word x.1 x.2 0 0 0 (if x.1 + x.2 = 26 then 3 else 2 ^ 31 + 3)
      let s := owned (mapped 16383 (go w))
      issuable s 5 .front w ∧ partOfTile s 5 = some 0 ∧ (isOp w 0x18 (fun f => decide (f < 2)) || isOp w 0x19 (· == x.2)) = true ∧
      stitchHeld s 5 0 3 false = false ∧ stitchHeld s 5 0 3 true = false ∧ xlat s 0 (wSTITCH w) = some 16383 ∧
      xlat (owned (go w)) 0 (wSTITCH w) = none ∧ issuable (owned (go w)) 5 .front w := by
  unfold issuable; decide +kernel

theorem witness_StitchInstructionsAndBanks_2 :
    let o : StOp := ⟨0, 3, 2 ^ 32 - 1, 5, 0, 0, 5⟩
    let s := { mapped 0 State.reset with stops := [o] }
    s.stops[0]? = some o ∧ opHeld s o (s.stops.take 0) = false ∧ o.grp = 0 ∧ xlat s 0 3 = some 0 ∧ xlat { State.reset with stops := [o] } 0 3 = none := by
  decide +kernel

theorem witness_StitchOwnership_3 :
    let s := { wr State.reset NDL_STATE 5 0 nsWait with released := [(5, 0), (5, 3)] }
    s.released.contains (5, 0) = true ∧ needleState s 5 0 = nsWait ∧ s.trapLater.contains (5, 0) = false ∧ s.released.contains (5, 3) = true := by
  decide +kernel

theorem witness_StitchOwnership_4 :
    ∀ who ∈ [0, 3], let w : Waiter := ⟨.take, 16383, 0, 3, 5, who, 0⟩
     ({ State.reset with waiters := [w] }).waiters.find? (fun x => x.tile == 5 && x.who == who) = some w ∧ w.kind ≠ .plane := by
  decide +kernel

/-- An outbound unit that holds nothing, and for which nothing waits, takes a needle's instruction. -/
theorem outboundTakes_of_empty {s : State} {t nc : Nat} (h : s.outb = [] ∧ s.outWait = []) : outboundTakes s t nc := by
  simp [outboundTakes, h.1, h.2]

/-- XFER's, SEND's and JQ's byte counts in s2, source a1 and destination a2. -/
def moving (w : W64) (k a d : Nat) : State := owned (setA 5 0 2 d (withA 1 a (withS 2 (BitVec.ofNat 32 k) (go w))))

theorem witness_TransferInstructions_1 :
    let w := word 0x1B 0 2 2 0 (2 * 2 ^ 38)
    let s := moving w 16 (storeBase 5 + 0x7FFF0) (storeBase 6)
    issuable s 5 .front w ∧ s.outb = [] ∧ s.outWait = [] ∧ s.gather = [] ∧ isOp w 0x1B (fun f => decide (f < 2)) = true ∧
    (getS s 5 0 (wBRA w)).toNat = 16 ∧ getA s 5 0 (wAN w) = storeBase 5 + 0x7FFF0 ∧ getA s 5 0 (wAD w) = storeBase 6 ∧
    transferRefused s 5 (storeBase 5 + 0x7FFF0) (storeBase 6) 16 = none ∧ (ownOff 5 (storeBase 5 + 0x7FFF0) 1).isSome = true := by
  unfold issuable; decide +kernel

theorem witness_TransferInstructions_2 :
    let w := word 0x1B 0 2 2 0 (2 * 2 ^ 38)
    let s := moving w 16 (storeBase 6) (storeBase 5 + 0x7FFF0)
    issuable s 5 .front w ∧ transferRefused s 5 (storeBase 6) (storeBase 5 + 0x7FFF0) 16 = none ∧ ownOff 5 (storeBase 6) 1 = none ∧
    s.outb = [] ∧ s.outWait = [] ∧ (freeTag s 5).isSome = true := by
  unfold issuable; decide +kernel

theorem witness_TransferInstructions_3 :
    ∀ k ∈ [0, 8, 65552], let w := word 0x1B 0 2 2 0 (2 * 2 ^ 38)
     let s := moving w k (storeBase 6) (storeBase 5)
     issuable s 5 .front w ∧ (getS s 5 0 (wBRA w)).toNat = k ∧ s.outb = [] ∧ s.outWait = [] ∧ s.gather = [] ∧
     (k % 16 ≠ 0 ∨ k < 16 ∨ 65536 < k) := by
  unfold issuable; decide +kernel

theorem witness_TransferInstructions_4 :
    let w := word 0x1C 0 2 2 0 (31 * 2 ^ 30)
    let s0 := moving w 16 (storeBase 5 + 0x1000) 0
    let s := { s0 with tx := mapSet txNone s0.tx (5 * 32 + 31) ⟨2, 6, 0, 16, 1, 16, 0, 0⟩ }
    issuable s 5 .front w ∧ s.outb = [] ∧ s.outWait = [] ∧ s.gather = [] ∧ isOp w 0x1C (· == 0) = true ∧ wTGT w = 31 ∧
    ownOff 5 (getA s 5 0 (wAN w)) 16 = some 0x1000 ∧ (getTx s 5 31).st = 2 ∧ 2 * 32 ≤ (getTx s 5 31).rsize * 256 ∧
    recordNeed s 5 (getTx s 5 31) 32 ≤ (getTx s 5 31).credits := by
  unfold issuable; decide +kernel

theorem witness_TransferInstructions_5 :
    ∀ k ∈ [0, 8, 16400], let w := word 0x1C 0 2 2 0 0
     issuable (moving w k (storeBase 5) 0) 5 .front w ∧ (k % 16 ≠ 0 ∨ k < 16 ∨ 16384 < k) := by
  unfold issuable; decide +kernel

theorem witness_TransferInstructions_6 :
    let w := word 0x1D 0 2 2 0 (255 * 2 ^ 30)
    let s := moving w 4096 (storeBase 5) 0
    issuable s 5 .front w ∧ isOp w 0x1D (· == 0) = true ∧ (getS s 5 0 (wBRA w)).toNat = 4096 ∧
    (ownOff 5 (getA s 5 0 (wAN w)) 4096).isSome = true ∧ s.outb = [] ∧ mapGet 0 s.joinCred 5 + 17 ≤ 34 := by
  unfold issuable; decide +kernel

theorem witness_TransferInstructions_7 :
    ∀ k ∈ [0, 128, 4352], let w := word 0x1D 0 2 2 0 0
     issuable (moving w k (storeBase 5) 0) 5 .front w ∧ (k % 256 ≠ 0 ∨ k < 256 ∨ 4096 < k) := by
  unfold issuable; decide +kernel

theorem witness_TransferInstructions_8 :
    let w := word 0x1E 0 2 2 0 (11 * 2 ^ 30)
    let s := moving w 0 (storeBase 5 + 0x1000) 0
    issuable s 5 .front w ∧ isOp w 0x1E (· == 0) = true ∧ ownOff 5 (getA s 5 0 (wAN w)) 16 = some 0x1000 ∧
    ownOff 5 (getA s 5 0 (wAN w)) (descSize (storeLE s 5 0x1000 1 % 16)) = some 0x1000 := by
  unfold issuable; decide +kernel

theorem witness_SendStallTimeoutTraps :
    ({ go 0 with stalls := [(5, 0, 0)] }).stalls.any (fun x => x.1 == 5 && x.2.1 == needleCode .front) = true := by decide +kernel

theorem witness_LandingWindowCommands : ∀ win ∈ [0, 15], ∀ v ∈ [0, 1, 2],
    let w := word 0x1A 0 0 0 0 win
    let s := wr (wr (go w) TST_LW_LEN_LEN 5 win 1) TST_LW_CTRL_STATE 5 win v
    winState s 5 win = v ∧ winLen s 5 win ≠ 0 ∧
    (∀ u, u < 16 → u ≠ win → winState s 5 u ≠ 0 → meets (winBase s 5 win) (winLen s 5 win) (winBase s 5 u) (winLen s 5 u) = false) ∧
    issuable s 5 .front w ∧ isOp w 0x1A (· == 0) = true ∧ wSTITCH w % 16 = win ∧ writable s (.hub 0) TST_LW_CMD_OP 5 0 ∧
    winLen (wr s TST_LW_LEN_LEN 5 win 0) 5 win = 0 := by
  unfold issuable writable; decide +kernel

theorem witness_LatencyTagsAndPageFills_1 :
    writable State.reset (.hub 0) TILE_LTAG_LTAG 2303 0 ∧ needlesActive State.reset 2303 = false ∧
     (latencySet State.reset 2303 = 1 ∨ latencySet State.reset 2303 = 2) := by
  unfold writable; decide +kernel

theorem witness_LatencyTagsAndPageFills_2 :
    ∀ page ∈ [0, 7], let w := word 0x1F 0 0 0 0 (page * 2 ^ 8)
      issuable (go w) 5 .front w ∧ wins (go w) 5 .front unitEngine 1 ∧ isOp w 0x1F (· == 0) = true ∧ fillBusy (go w) 5 = false ∧
      wf w 8 3 = page ∧ fillRefused (go w) 5 (wf w 8 3) = decide (page = 0) := by
  unfold issuable wins; decide +kernel

theorem witness_LatencyTagsAndPageFills_wait :
    let w := word 0x1F 0 0 0 0 0
    let s := wr { go w with fills := [⟨5, 127, 7⟩] } TILE_IFILL_BUSY 5 0 1
    issuable s 5 .front w ∧ isOp w 0x1F (· == 0) = true ∧ fillBusy s 5 = true := by
  unfold issuable; decide +kernel

theorem witness_LatencyTagsAndPageFills_3 :
    let v : W32 := 0x80000700#32
    bitsOf v.toNat 31 1 = 1 ∧ writable State.reset (.hub 0) TILE_IFILL_GO 5 0 ∧ fillBusy State.reset 5 = false ∧
    fillRefused State.reset 5 (bitsOf v.toNat 8 3) = false := by
  unfold writable; decide +kernel

theorem witness_LatencyTagsAndPageFills_4 :
    let f : Fill := ⟨5, 127, 7⟩
    ({ State.reset with fills := [f] }).fills.find? (fun f => f.tile == 5) = some f ∧ State.reset.gather = [] := by
  decide +kernel

theorem witness_GatherBufferAndPurlLoads_1 :
    let s := { State.reset with gather := [⟨5, 0, 1, 7⟩, ⟨5, 0x7FFF, 1, 7⟩] }
    ((s.gather.filter (fun g => g.tile == 5)).map (fun g => g.entry)).Nodup ∧ (∀ g ∈ s.gather, g.tile = 5 → g.entry < 0x8000) ∧
    writable s (.hub 0) TST_CTRL_GATHER 5 0 := by
  unfold writable; decide +kernel

theorem witness_GatherBufferAndPurlLoads_2 :
    writable State.reset (.hub 0) PRL_LOAD_GO 5 0 ∧ rdB State.reset PRL_CTRL_EN 5 0 = false ∧ rdB State.reset PRL_STATUS_LBUSY 5 0 = false := by
  unfold writable; decide +kernel

theorem witness_GatherBufferAndPurlLoads_3 :
    ∀ d ∈ [0, 15, 16, 31], let f : PrlLoad := ⟨5, 0x7FC00, d⟩
     ({ State.reset with prlLoads := [f] }).prlLoads.find? (fun f => f.tile == 5) = some f := by
  decide +kernel

theorem witness_ArrivalAtTile :
    (∀ v ∈ [0, 1, 2], let p := pkt .wr (storeBase 5 + 0x1000) 1
     let s := withPkt p (wr (wr (wr (st [(TST_CTRL_GATHER, 5, 0, 0), (TST_LW_CTRL_SIGNAL, 5, 15, 0)]) TST_LW_BASE_BASE 5 15 (0x1000 / 128)) TST_LW_LEN_LEN 5 15 1) TST_LW_CTRL_STATE 5 15 v)
     arrived s 1 = some p ∧ p.typ = .wr ∧ p.dst = 5 ∧ tileTurn s 5 p = true ∧ p.len ≤ 16 ∧ storeBase 5 ≤ p.addr ∧
     p.addr + p.len * 16 ≤ storeBase 5 + 0x80000 ∧ (p.addr - storeBase 5) % 16 = 0 ∧ overrunAt s 5 (p.addr - storeBase 5) (p.len * 16) = none ∧
     rdB s TST_CTRL_GATHER 5 0 = false ∧ s.gather = [] ∧ sigOps p = [] ∧
     windowHit s 5 (p.addr - storeBase 5) (p.len * 16) = (if v = 0 then none else some 15) ∧ winState s 5 15 = v ∧
     winBase s 5 15 ≤ 0x1000 ∧ 0x1000 + 16 ≤ winBase s 5 15 + winLen s 5 15 ∧ rdB s TST_LW_CTRL_SIGNAL 5 15 = false) := by
  decide +kernel


theorem witness_CastPhases_1 :
    ∀ x ∈ [(0, 0), (1, 0), (1, 1)],
      let s := owned (wr (wrLE (storeBase 5) 16 x.2 (st [(NDL_STATE, 5, 0, nsDone)])) TILE_CAST_EN 5 0 x.1)
      castReady s 5 = true ∧ rd s TILE_CAST_EN 5 0 = x.1 ∧ storeLE s 5 (rd s TILE_CAST_PTR 5 0 * 16) 16 = x.2 := by
  decide +kernel

theorem witness_CastPhases_2 :
    ∀ x ∈ [0, 6 + 31 * 2 ^ 40], let s := wr (owned (casting x State.reset)) CRS_PLANES_MASK 0 0 0xFFFFFFFF
      castCanStep s 5 = true ∧ castWord s 5 = x ∧ castLawful (castWord s 5) = true ∧ (cwCOP x = 0 ∨ cwCOP x = 6) ∧
      partOfTile s 5 = some 0 ∧ rd s CRS_PLANES_MASK 0 0 / 2 ^ cwPLANE x % 2 = (if cwPLANE x = 0 then 1 else 1) := by
  decide +kernel

theorem witness_CastPhases_3 :
    let s := { owned State.reset with waiters := (List.range 24).map (fun t => ⟨.plane, 31, 0, 31, t, 3, 0⟩) }
    tilesOf s 0 ≠ [] ∧ ∀ t ∈ tilesOf s 0, s.waiters.any (fun w => onPlane 0 31 w && w.tile == t) = true := by
  decide +kernel

theorem witness_CastTransfers :
    ∀ x ∈ [1 + 2 ^ 9 + (storeBase 5 / 16) * 2 ^ 40 + (storeBase 6 / 16) * 2 ^ 84, 2 + 2 ^ 9 + (storeBase 6 / 16) * 2 ^ 40 + (storeBase 5 / 16) * 2 ^ 84,
        4 + 4096 * 2 ^ 9 + 3 * 2 ^ 22, 5 + 3 * 2 ^ 22 + (2 ^ 32 - 1) * 2 ^ 40],
      let s := owned (mapped 16383 (casting x State.reset))
      castCanStep s 5 = true ∧ castWord s 5 = x ∧ castLawful x = true ∧ partOfTile s 5 = some 0 ∧ s.gather = [] ∧ s.outb = [] ∧ (freeTag s 5).isSome = true ∧
      (cwCOP x = 1 → firstNotOwn 5 (cwSADDR x) 16 = none ∧ firstRefusedPush s 0 (cwDADDR x) 16 = none) ∧
      (cwCOP x = 2 → firstRefused s 0 (cwSADDR x) 16 false = none ∧ firstRefused s 0 (cwDADDR x) 16 true = none) ∧
      (3 < cwCOP x → stitchHeld s 5 0 (cwSTITCH x) false = false ∧ stitchHeld s 5 0 (cwSTITCH x) true = false ∧
        xlat s 0 (cwSTITCH x) = some 16383) := by
  decide +kernel

theorem witness_CastTransfers_cxr :
    ∀ m ∈ [1, 2], let x := 3 + m * 2 ^ 5 + (clusterBase 0 / 16) * 2 ^ 40 + (storeBase 5 / 16) * 2 ^ 84
      let s := owned (casting x State.reset)
      castCanStep s 5 = true ∧ castWord s 5 = x ∧ castLawful x = true ∧ cwCOP x = 3 ∧ s.gather = [] ∧ s.outb = [] ∧
      xposeRefused s 0 (cwSADDR x) (xposeSrc (cwTMODE x)) (cwTMODE x) = none ∧ cwDADDR x = storeBase 5 ∧
      noPly s = true ∧ (List.range ((xposeDst (cwTMODE x) + 15) / 16)).all (fun i => inWindows s 0 (storeBase 5 + 16 * i) true) = true := by
  decide +kernel

theorem witness_TileArrivals_1 :
    let s0 := { owned (st [(TILE_CSTAT_STATE, 5, 0, 1), (NDL_STATE, 5, 0, nsDone), (CRS_STATUS_STATE, 0, 0, 1)]) with castDone := [(5, true)] }
    let s1 := wr s0 NDL_STATE 23 0 nsDone
    partOfTile s0 5 = some 0 ∧ canArrive s0 5 = true ∧ s0.releases = [] ∧ rd s0 CRS_STATUS_STATE 0 0 = 1 ∧ (∀ u ∈ tilesOf s0 0, u = 5 ∨ hasArrived s0 u = true) ∧
    rdB s0 PLY_GCTL_EN 0 0 = false ∧ canArrive s1 5 = true ∧ ¬(∀ u ∈ tilesOf s1 0, u = 5 ∨ hasArrived s1 u = true) := by
  decide +kernel

theorem witness_TileArrivals_2 :
    ∀ v ∈ [1, 2], let s := { st [(CRS_STATUS_STATE, 15, 0, v)] with btRun := [(15, true)] }
      mapGet false s.btRun 15 = true ∧ rd s CRS_STATUS_STATE 15 0 = v := by
  decide +kernel

theorem witness_PartitionResetEndsAndCourseTurns_1 :
    canRelease (up (owned State.reset)) 0 = true ∧ tilesOf (owned State.reset) 0 ≠ [] ∧
    (∃ t ∈ tilesOf (owned State.reset) 0, (owned State.reset).bt.swTiles.contains t = false) := by
  decide +kernel

theorem witness_PartitionResetEndsAndCourseTurns_2 :
    let s := { up (owned (wrNext (st [(CRS_STATUS_STATE, 0, 0, 2), (NDL_STATE, 5, 0, nsDone), (TILE_CSTAT_STATE, 5, 0, 2)]) CRS_XPOL_TADDR 0 0 0)) with pw.tension := [(0, 2)] }
    mapGet false s.parts 0 = true ∧ atBarrier s 0 = true ∧ cond5 s 0 = true ∧ mapGet 0 s.pw.chargeNow 0 = 0 ∧ driftOf s 0 = [] ∧ mixedOf s 0 = [] ∧
    rdNext s SKN_STQ_SIZE_SIZE 0 0 = 0 ∧ rdNext s CRS_XPOL_TADDR 0 0 = 0 ∧ (∃ t ∈ tilesOf s 0, tileHeld s t = false) := by
  decide +kernel

theorem witness_PartitionResetEndsAndCourseTurns_3 :
    let s := { owned (st [(NDL_STATE, 5, 0, nsDone), (NDL_STATE, 5, 1, nsIdle), (NDL_ENTRY_VALID, 5, 1, 1)]) with releases := [5] }
    partOfTile s 5 = some 0 ∧ s.releases.contains 5 = true ∧ mapGet false s.newKey 0 = false := by
  decide +kernel

theorem witness_StitchOwnership_1 :
    let s := wr (wr State.reset STC_CTL_OWNED 3 4095 1) STC_CTL_OWNER 3 4095 15
    let v : W32 := 0x80003FFF#32
    writable s (.hub 0) STC_XT_DATA_PHYS 15 0 ∧ inReset s 15 = true ∧ bitsOf v.toNat 31 1 = 1 ∧ bitsOf v.toNat 0 14 = 16383 ∧
    (rdB s STC_CTL_OWNED 3 4095 && rd s STC_CTL_OWNER 3 4095 == 15) = true ∧
    (rdB State.reset STC_CTL_OWNED 3 4095 && rd State.reset STC_CTL_OWNER 3 4095 == 15) = false ∧ writable State.reset (.hub 0) STC_XT_DATA_PHYS 15 0 := by
  unfold writable; decide +kernel

theorem witness_StitchOwnership_2 :
    ∀ x ∈ [0, 1], let s := wr (wr State.reset STC_CTL_OWNED 3 0 x) STC_CTL_OWNER 3 0 15
      writable s (.hub 0) STC_CTL_OWNED 3 0 ∧ (rdB s STC_CTL_OWNED 3 0 = false ∨ inReset s (rd s STC_CTL_OWNER 3 0) = true) := by
  unfold writable; decide +kernel

theorem witness_StrandCommands_tx :
    let s := owned (go 0)
    let v : W32 := BitVec.ofNat 32 (2 ^ 30 + 31 * 2 ^ 12 + 23)
    needleState s 5 0 = nsRun ∧ s.gather = [] ∧ overrunAt s 5 (tableOff s 5 + 31 * 16) 4 = none ∧ bitsOf v.toNat 30 2 = 1 ∧ (getTx s 5 31).st = 0 ∧
    bitsOf v.toNat 0 12 = 23 ∧ (partOfTile s 5).isSome = true ∧ partOfTile s 23 = partOfTile s 5 ∧
    (∀ e ∈ [1, 2, 3], (getTx { s with tx := [(5 * 32 + 31, { txNone with st := e })] } 5 31).st = e) := by
  decide +kernel

theorem witness_StrandCommands_rx :
    ∀ x ∈ [0, 1, 2, 3, 4], let s0 := wrLE (storeBase 5 + 0x200 + 31 * 16 + 4) 4 (7 * 2 ^ 14 + 4 * 2 ^ 26) (wr (go 0) STR_TABLE_BASE 5 0 0)
      let s := { s0 with rx := mapSet rxNone s0.rx (5 * 32 + 31) (if x = 0 then rxNone else if x = 2 then { rxNone with st := 2, held := some (7, 4) } else ⟨x, 8, 4, 0, 7, 4, 0, 0, 2, none⟩) }
      let v : W32 := BitVec.ofNat 32 (2 ^ 30 + 4 * 2 ^ 12 + 8)
      needleState s 5 0 = nsRun ∧ overrunAt s 5 (tableOff s 5 + (0x200 + 31 * 16)) 4 = none ∧ bitsOf v.toNat 30 2 = 1 ∧
      rxValid s 5 31 (bitsOf v.toNat 0 11) (bitsOf v.toNat 12 11) = true ∧ (getRx s 5 31).st = x ∧
      bitsOf (storeLE s 5 (tableOff s 5 + 0x200 + 31 * 16 + 4) 4) 14 12 = 7 ∧ bitsOf (storeLE s 5 (tableOff s 5 + 0x200 + 31 * 16 + 4) 4) 26 5 = 4 ∧
      overrunAt s 5 (tableOff s 5 + (0x200 + 31 * 16 + 8)) 4 = none ∧ (3 ≤ x → 2 < ringUnits (getRx s 5 31) ∧
        (2 + ringUnits (getRx s 5 31) - (getRx s 5 31).head) % ringUnits (getRx s 5 31) ≤ (getRx s 5 31).unread) := by
  decide +kernel

theorem witness_StrandControlAndData_ctl :
    ∀ x ∈ [(1, 0), (1, 1), (1, 2), (2, 1), (3, 1), (4, 2), (5, 0), (5, 2), (5, 3), (5, 5), (6, 4), (7, 2)],
      let p := flit (x.1 + 4 * 2 ^ 4 + 31 * 2 ^ 9)
      let s0 := withPkt p State.reset
      let s := { s0 with
        rx := mapSet rxNone [] (5 * 32 + 31) { rxNone with st := x.2, stile := 7, sep := 4, held := if x.2 = 2 then some (7, 4) else none }
        tx := mapSet txNone [] (5 * 32 + 4) { txNone with st := x.2, dtile := 7, dep := 31, rsize := 1 } }
      arrived s 1 = some p ∧ isCtl p = true ∧ tileTurn s p.dst p = true ∧ 1 ≠ s.nextPid ∧ p.after = none ∧ ctlKind p = x.1 ∧
      (getRx s 5 (ctlRep p)).st = x.2 ∧ (getTx s 5 (ctlSep p)).st = x.2 ∧ p.src = (getTx s 5 (ctlSep p)).dtile ∧
      ctlRep p = (getTx s 5 (ctlSep p)).dep ∧ p.src = (getRx s 5 (ctlRep p)).stile ∧ ctlSep p = (getRx s 5 (ctlRep p)).sep ∧
      (getTx s 5 (ctlSep p)).credits + ctlCredits p ≤ (getTx s 5 (ctlSep p)).rsize * 16 := by
  decide +kernel

theorem witness_ArrivalAtTile_data :
    ∀ x ∈ [0, 3, 4], ∀ l ∈ [false, true],
      let p := { pkt .strand (storeBase 5 + 0x800 + 16) 2 with last := l }
      let s0 := withPkt p (owned (st [(TST_CTRL_GATHER, 5, 0, 0)]))
      let s := { s0 with rx := mapSet rxNone [] (5 * 32 + 31) (if x = 0 then rxNone else ⟨x, 8, 1, 0, 7, 4, 0, 0, 0, none⟩) }
      let e := getRx s 5 31
      arrived s 1 = some p ∧ p.typ = .strand ∧ p.dst = 5 ∧ isCtl p = false ∧ tileTurn s 5 p = true ∧ p.len ≤ 16 ∧ rdB s TST_CTRL_GATHER 5 0 = false ∧
      s.gather = [] ∧ ringAt s 5 (p.addr - storeBase 5) = (if x = 0 then none else some 31) ∧
      (x ≠ 0 → e.st = x ∧ p.src = e.stile ∧ (p.addr - storeBase 5) % 16 = 0 ∧ p.addr - storeBase 5 + p.len * 16 ≤ (e.rbase + e.rsize) * 256 ∧
        (e.rbase + e.rsize) * 256 ≤ 0x80000 ∧ meetsUnread e (p.addr - storeBase 5) (p.len * 16) = false ∧
        windowHit s 5 (p.addr - storeBase 5) (p.len * 16) = none ∧ sigOps p = [] ∧ isSkip e p 1 = false) := by
  decide +kernel

/-- The JOIN packets come from tile 7 of cluster 0. -/
theorem join_source : (pkt .join 0 1).src / 24 = 0 := by decide

theorem witness_JoinPacketsAndHankBuffer_join :
    ∀ x ∈ [(false, 2, 0), (true, 2, 1), (true, 1, 1)],
      let p := { pkt .join (clusterBase 0 + 255 * 0x1000 + 0x100 * x.2.2) 16 with last := x.1, part := some 0, dst := nodeCluster 0 }
      let s := withPkt p (owned (st [(JNQ_CFG_VALID, 0, 255, 1), (JNQ_CFG_LEN, 0, 255, 2), (JNQ_CFG_CONTRIB, 0, 255, x.2.1),
        (JNQ_DEST_HI_DEST, 0, 255, storeBase 5 / 2 ^ 32), (JNQ_DEST_LO_DEST, 0, 255, storeBase 5 % 2 ^ 32 / 256)]))
      arrived s 1 = some p ∧ p.typ = .join ∧ bankGrants s (p.src / 24) 2 p false = true ∧ s.outb = [] ∧ (p.addr - clusterBase 0) / 0x1000 = 255 ∧ rdB s JNQ_CFG_VALID 0 255 = true ∧
      (p.addr - clusterBase 0) % 0x1000 / 0x100 = x.2.2 ∧ x.2.2 < rd s JNQ_CFG_LEN 0 255 ∧ (p.last = true → x.2.2 + 1 = rd s JNQ_CFG_LEN 0 255) ∧
      (decide (p.last = true ∧ (rd s JNQ_COUNT_COUNT 0 255 + 1) % 2 ^ 12 = rd s JNQ_CFG_CONTRIB 0 255)) = decide (x.2.1 = 1) ∧
      rd s JNQ_DEST_LO_DEST 0 255 * 256 + 2 ^ 32 * rd s JNQ_DEST_HI_DEST 0 255 = storeBase 5 ∧
      noPly s = true ∧ (List.range ((2 * 256 + 15) / 16)).all (fun i => inWindows s 0 (storeBase 5 + 16 * i) true) = true := by
  decide +kernel

theorem witness_JoinPacketsAndHankBuffer_hank :
    ∀ x ∈ [(PType.wr, 0), (PType.rdreq, 8191)], let p := { pkt x.1 (hankAddr 95 x.2) 16 with dst := nodeCluster 95 }
      let s := withPkt p State.reset
      arrived s 1 = some p ∧ target s p.addr = .hank 95 (x.2 * 256) ∧ bankGrants s 95 1 p true = true ∧ p.typ = x.1 ∧ sigOps p = [] ∧ p.owner = none ∧ p.tmode = 0 ∧ p.after = none := by
  decide +kernel

theorem witness_JoinPacketsAndHankBuffer_fresh :
    let v : W32 := BitVec.ofNat 32 (2 ^ 31 + 1 * 2 ^ 13 + 8191)
    bitsOf v.toNat 31 1 = 1 ∧ writable State.reset (.hub 0) HNK_FRESH_GO 95 0 ∧ rdB State.reset HNK_STATUS_FBUSY 95 0 = false ∧
    bitsOf v.toNat 13 14 ≠ 0 ∧ bitsOf v.toNat 0 13 + bitsOf v.toNat 13 14 ≤ 8192 ∧
    ({ State.reset with freshen := [(95, 8191, 1)] }).freshen.find? (fun f => f.1 == 95) = some (95, 8191, 1) := by
  unfold writable; decide +kernel

theorem witness_ClusterStoreAndTransposeReads_1 :
    ∀ x ∈ [(PType.wr, none), (PType.rdrsp, some 5), (PType.rdreq, none)], let p := { pkt x.1 (clusterBase 95 + 0x7FFF00) 16 with owner := x.2, dst := nodeCluster 95 }
      let s := withPkt p State.reset
      arrived s 1 = some p ∧ p.after = none ∧ p.len ≤ 16 ∧ target s p.addr = .cstore 95 0x7FFF00 ∧ sigOps p = [] ∧ p.owner = x.2 ∧ p.tmode = 0 ∧
      storeGrants s 95 p false = true ∧ storeOldest s 95 p = true ∧ moreOf p s = false ∧
      s.outb = [] ∧ s.merge.find? (fun (m : Nat × Nat × Nat) => m.1 == 95 && m.2.1 == p.addr / 256) = none ∧
      (({ s with merge := [(95, p.addr / 256, 7)] }).merge.find? (fun (m : Nat × Nat × Nat) => m.1 == 95 && m.2.1 == p.addr / 256)).isSome = true := by
  decide +kernel

theorem witness_ClusterStoreAndTransposeReads_2 :
    (∀ x ∈ [(PType.rdreq, none), (PType.rdrsp, some 5)], let p := { pkt x.1 (storeBase 5 + 0x7FFF0) 1 with owner := x.2 }
     let s := withPkt p (st [(TST_CTRL_GATHER, 5, 0, 0)])
     arrived s 1 = some p ∧ target s p.addr = .store 5 0x7FFF0 ∧ p.typ = x.1 ∧ p.tmode = 0 ∧ p.after = none ∧ p.len ≤ 16 ∧
     tileTurn s 5 p = true ∧ sigOps p = [] ∧ moreOf p s = false ∧ s.outb = [] ∧ s.gather = [] ∧ overrunAt s 5 0x7FFF0 16 = none ∧
     windowHit s 5 0x7FFF0 16 = none ∧ rdB s TST_CTRL_GATHER 5 0 = false) ∧
    (let p := pkt .rdrsp (hostBase + 2 ^ 47 - 16) 1
     arrived (withPkt p State.reset) 1 = some p ∧ target State.reset p.addr = .host (2 ^ 47 - 16) ∧ sigOps p = [] ∧ p.owner = none ∧
     p.after = none ∧ (withPkt p { State.reset with hst.hclk := true }).hst.hclk = true) := by
  decide +kernel

theorem witness_ClusterStoreAndTransposeReads_3 :
    ∀ m ∈ [1, 2], let p := { pkt .rdreq (clusterBase 95) 1 with tmode := m, dst := nodeCluster 95 }
      let s := withPkt p State.reset
      arrived s 1 = some p ∧ target s p.addr = .cstore 95 0 ∧ xposeNext s 95 1 = true ∧ p.after = none := by
  decide +kernel


theorem witness_MeshHopsAndDarningOverride_hop :
    ∀ x ∈ [(tileEnd 5, 0, 0, 5, 0x900), (switchOf 0, 24, 5, 5, 0x900), (0, 0, 4, 5, 0x900), (96, 3, 0, 0x920, 2303), (switchOf 0, 5, 24, 0x900, 5)],
      let p := { pkt .wr (storeBase 5) 1 with src := x.2.2.2.1, dst := x.2.2.2.2, loc := .router x.1 x.2.2.1 }
      let s := withPkt p { State.reset with bt.latched := 0 }
      senderUp s x.1 = true ∧ granteeOf s x.1 x.2.1 none = some p ∧ ¬(hopTo x.1 x.2.1 p.src p.dst = .dest ∧ placeOf p.dst = .hdie) := by
  decide +kernel

theorem witness_MeshHopsAndDarningOverride_host :
    let q := { pkt .wr hostBase 1 with sig := false, src := 0, dst := nodeHdie, loc := .router 0 portCluster }
    let s := hosted (withPkt q { State.reset with bt.latched := 0 })
    senderUp s 0 = true ∧ granteeOf s 0 portHdie none = some q ∧ hopTo 0 portHdie q.src q.dst = .dest ∧ placeOf q.dst = .hdie ∧
    q.typ = .wr ∧ target s q.addr = .host 0 ∧ sigOps q = [] := by
  decide +kernel

theorem witness_MeshHopsAndDarningOverride_credit :
    ∀ x ∈ [(95, 4), (96, 3), (0, 7), (switchOf 95, 24), (tileEnd 2303, 0), (stackEnd 11, 1)],
      let s := { State.reset with credUsed := [(vcKey x.1 x.2 5, 17)] }
      hasLink x.1 x.2 = true ∧ 17 ≤ mapGet 0 s.credUsed (vcKey x.1 x.2 5) := by
  decide +kernel

theorem witness_MeshHopsAndDarningOverride_sites :
    let s := st [(CLU_DARN_DCOL, 95, 3, 0)]
    rd s CLU_DARN_DCOL 95 3 = 0 ∧ siteOf s 95 18 = (3, 1) ∧ siteOf s 95 23 = (3, 6) := by
  decide +kernel

theorem witness_MeshHopsAndDarningOverride_darn :
    ∀ x ∈ [(0, 0), (2, 1)], let s := st [(SEC_STATUS_DBG, 0, 0, x.1), (CLU_TEST_TMODE, 95, 0, x.2)]
      writable s (.hub 0) CLU_TEST_TMODE 95 0 ∧ (rd s SEC_STATUS_DBG 0 0 = 2 ∨ rd s SEC_STATUS_DBG 0 0 ≠ 2) ∧
      writable s (.hub 0) CLU_DARN_DCOL 95 3 ∧ rdB s CLU_TEST_TMODE 95 0 = (x.2 == 1) ∧ partOfCluster s 95 = none ∧
      5 ≠ rd s CLU_DARN_DCOL 95 3 := by
  unfold writable; decide +kernel

/-- A descriptor of tile 5 for Blocker 11. -/
def desc (d : Nat) : Desc := ⟨5, 0, 0, 11, storeBase 5 + 0x1000, d⟩

/-- Shard 0xBFFF of Blocker 11 belongs to partition 0, with two slots of 1 KiB in its window. -/
def sharded (s : State) : State :=
  (st [(BLK_SH_CTL_VALID, 11, 4095, 1), (BLK_SH_CTL_SV0, 11, 4095, 1), (BLK_SH_LEN_LEN, 11, 4095, 4), (BLK_SH_GEN0_GEN0, 11, 4095, 9),
    (BLK_SH_BASE1_LO_BASE1, 11, 4095, 4)]).regs.foldl (fun s x => { s with regs := mapSet 0 s.regs x.1 x.2 }) (stackMem s)

theorem witness_GatherRequestsPinsAndReceipts_gather :
    ∀ x ∈ [(1, 0, 9), (1, 1, 9), (2, 0, 9), (2, 1, 9), (2, 0, 8)],
      let d := desc (x.1 + 2 ^ 4 * x.2.1 + 2 ^ 16 * 0xBFFF + 2 ^ 64 * x.2.2 + 2 ^ 96 * 3 + 2 ^ 128 * storeBase 5 + 2 ^ 176 * 1 + 2 ^ 192 * storeBase 5)
      let s := { sharded (takes (st [(NDL_STATE, 5, 0, nsRun)])) with descs := [d] }
      stacksOn s = true ∧ descAt s 0 = some d ∧ partOfTile s 5 = some 0 ∧ requestBad s d 0 = false ∧ gatherBad s d = false ∧ gDst d = storeBase 5 ∧ gRcpt d = storeBase 5 ∧
      noPly s = true ∧ (List.range ((gLen d * 256 + 15) / 16)).all (fun i => inWindows s 0 (gDst d + 16 * i) true) = true ∧
      gKind d = x.1 ∧ s.pins = [] ∧
      (x.2.2 = 9 → slotOfGen s 11 4095 (servedGen s 11 4095 0) = some 0 ∧ slotOfGen s 11 4095 (gExp d) = some 0 ∧
        target s (slotBase s 11 4095 0 + gOfs d * 256) = .stack 768 ∧
        (List.range ((gLen d * 256 + 15) / 16)).all (fun i => inWindows s 0 (768 + 16 * i) false) = true) ∧
      (x.2.2 = 8 → slotOfGen s 11 4095 (gExp d) = none ∧ needleState s 5 0 = nsRun) := by
  decide +kernel

theorem witness_GatherRequestsPinsAndReceipts_pins :
    let x : Pin := ⟨11, 8191, 0, 5, 4095, 0, 0, false⟩
    let d := desc (3 + 2 ^ 16 * 0xBFFF + 2 ^ 96 * 8191)
    let s := { sharded (st [(CRS_STATUS_STATE, 0, 0, 1)]) with descs := [d], pins := [x], gathers := [⟨11, 0, 5, 1, 2, storeBase 5, 0, true, 3⟩] }
    descAt s 0 = some d ∧ partOfTile s d.tile = some 0 ∧ gKind d = 3 ∧ requestBad s d 0 = false ∧ s.pins.any (isPin d.blk (gHandle d) 0) = true ∧
    s.gathers[0]? = some ⟨11, 0, 5, 1, 2, storeBase 5, 0, true, 3⟩ ∧ s.net.any (fun q => decide (1 ≤ q.pid ∧ q.pid < 2)) = false ∧
    s.pins.find? (fun x => x.blk == 11 && x.handle == 8191 && !x.expired) = some x ∧ rd s CRS_STATUS_STATE x.part 0 = 1 := by
  decide +kernel

/-- An UPDATE of 64 by 64 elements with one gradient array, its arrays in the first GiB of stack memory. -/
def updDesc (tag emit : Nat) : Nat :=
  4 + 2 ^ 5 * emit + 2 ^ 16 * 0xBFFF + 2 ^ 53 * 1 + 2 ^ 58 * (if emit = 0 then 0 else 1) + 2 ^ 64 * tag + 2 ^ 96 * 1 + 2 ^ 112 * 1 + 2 ^ 128 * 0x100000 + 2 ^ 192 * 0x200000 + 2 ^ 256 * 0x300000 +
    2 ^ 384 * 0x400000

/-- An update of Blocker 11 by partition 0. -/
def upd (tag emit pass block : Nat) : Upd :=
  ⟨11, 0, 5, updDesc tag emit, pass, block, 0, 0, 0, false, 0, 0, 0, 0, [], [], [], false, false, 0⟩

theorem witness_UpdateRequestsAndRuns_update :
    let x := desc (updDesc 65535 0)
    let s := { sharded State.reset with descs := [x], upds := (List.range 15).map (fun i => upd i 0 0 0) }
    descAt s 0 = some x ∧ partOfTile s 5 = some 0 ∧ gKind x = 4 ∧ x.addr % 32 = 0 ∧ updateBad x.data = false ∧
    updateShardBad s 11 0 x.data = false ∧ findUpd s 11 0 (dB x.data 64 16) = none ∧
    (s.upds.filter (fun u => u.blk == 11 && u.part == 0)).length < 16 := by
  decide +kernel

theorem witness_UpdateRequestsAndRuns_abort :
    let x := desc (5 + 2 ^ 16 * 65535)
    let v : W32 := 0xFFFF8000#32
    ∀ us ∈ [[], [upd 65535 0 1 0]], let s := { sharded State.reset with descs := [x], upds := us }
     descAt s 0 = some x ∧ gKind x = 5 ∧ partOfTile s 5 = some 0 ∧ x.addr % 32 = 0 ∧ bitsOf x.data 16 16 = 65535 ∧
     x.data = 5 + 2 ^ 16 * 65535 ∧ bitsOf v.toNat 15 1 = 1 ∧ writable s (.hub 0) BLK_ABORT_GO 11 0 ∧ bitsOf v.toNat 0 4 = 0 ∧
     bitsOf v.toNat 16 16 = 65535 ∧ findUpd s 11 0 65535 = us.head? ∧ us.any updEnded = false ∧ updSends s 11 = false ∧ noPly s = true ∧
     inWindows s 0 (uStat (updDesc 65535 0)) true = true ∧ inWindows s 0 (uMom (updDesc 65535 0)) false = true ∧
     target s (uMom (updDesc 65535 0)) = .stack 0x200000 := by
  unfold writable; decide +kernel

theorem witness_UpdateRequestsAndRuns_start :
    let g := 0x3F800000 + 2 ^ 32 * 0x3F000000 + 2 ^ 64 * 0x3F000000
    let s := wrLE 0x500000 32 g { sharded (takes (st [(BLK_GTAB_LO_BASE, 11, 0, 0x500000 / 32)])) with upds := [upd 0 0 0 0] }
    stacksOn s = true ∧ activeUpd s 11 = none ∧ s.upds.find? (fun u => u.blk == 11 && !(ineligible s u)) = some (upd 0 0 0 0) ∧ groupTable s 11 0 = 0x500000 ∧
    noPly s = true ∧ (List.range 2).all (fun i => inWindows s 0 (0x500000 + 16 * i) false) = true ∧ target s 0x500000 = .stack 0x500000 ∧
    groupBad (rdLE s 0x500000 32) (uLam (updDesc 0 0)) = false ∧
    (List.range 16).all (fun i => inWindows s 0 (0x200000 + 16 * i) false) = true ∧ target s (uMom (updDesc 0 0)) = .stack 0x200000 := by
  decide +kernel

theorem witness_UpdateRequestsAndRuns_block :
    ∀ x ∈ [(1, 15), (2, 0)], let u := upd 0 0 x.1 x.2; let s := { sharded (takes State.reset) with upds := [u] }
      stacksOn s = true ∧ activeUpd s 11 = some u ∧ u.fin = 0 ∧ u.block < passBlocks u ∧ geTren u.ge = false ∧ uEmits u = false ∧ noPly s = true ∧
      (blockAccesses u x.2 []).all (fun a => a.1 % 16 == 0 && (List.range ((a.2.1 + 15) / 16)).all (fun i => inWindows s 0 (a.1 + 16 * i) a.2.2)) = true ∧
      target s (mAddr u.d (256 * x.2)) = .stack (mAddr u.d (256 * x.2)) ∧ target s (vAddr u.d (256 * x.2)) = .stack (vAddr u.d (256 * x.2)) ∧
      target s (wAddr u.d (256 * x.2)) = .stack (wAddr u.d (256 * x.2)) ∧ target s (cAddr u.d (256 * x.2)) = .stack (cAddr u.d (256 * x.2)) ∧
      target s (uG u.d 0 + 1024 * x.2) = .stack (uG u.d 0 + 1024 * x.2) ∧ uNg u.d = 1 ∧ (readMoments u x.2 none s).1.filter nonFinite = [] := by
  decide +kernel

theorem witness_UpdateRequestsAndRuns_complete :
    ∀ e ∈ [0, 1], let u := upd 0 e 2 16; let s := { sharded (takes State.reset) with upds := [u] }
      stacksOn s = true ∧ activeUpd s 11 = some u ∧ u.fin = 0 ∧ updSends s 11 = false ∧ target s (uMom u.d) = .stack 0x200000 ∧ u.pass ≠ 1 ∧ passBlocks u ≤ u.block ∧ uEmits u = (e == 1) ∧ noPly s = true ∧
      (List.range 16).all (fun i => inWindows s 0 (uMom u.d + 16 * i) true) = true ∧ inWindows s 0 (uStat u.d) true = true := by
  decide +kernel

theorem witness_StashFirings :
    ∀ x ∈ [(0, 1), (0, 0), (1, 1), (1, 0)],
      let f : Firing := ⟨15, 63, 2 ^ 48 * x.1 + 2 ^ 49 + 2 ^ 96 + 2 ^ 128 * (if x.1 = 1 then hostBase else 0) + 2 ^ 192 * (if x.1 = 1 then 0 else hostBase), x.2, false⟩
      let s := { takes State.reset with firings := [f] }
      s.firings.find? (fun f => f.part == 15 && f.entry == 63 && !f.done) = some f ∧ stIn f.d = (x.1 == 1) ∧ inLanded s f = true ∧ stacksOn s = true ∧
      (x.2 = 1 → courseOf s 15 < f.ready) ∧ (x.2 = 0 → f.ready ≤ courseOf s 15) := by
  decide +kernel


/-- The last skein belongs to partition 0 and holds entry e. -/
def skeined (e : Nat) (s : State) : State :=
  let s1 := stackMem (wr (wr s SKN_RANGE_FIRST 0 0 40959) SKN_RANGE_COUNT 0 0 1)
  { s1 with skeins := mapSet 0 [] 40959 (BitVec.ofNat 1024 e) }

/-- An entry whose host fields are in order. -/
def entry : Nat :=
  2 ^ 64 + 2 ^ 96 + 2 ^ 128 * 0x10000 + 2 ^ 176 + 2 ^ 224 * 0x3F800000 + 2 ^ 704 * 0x20000 + 2 ^ 768 * hostBase

/-- The EDATA words of hub core 0 hold an entry. -/
def edata (e : Nat) (s : State) : State :=
  (List.range 32).foldl (fun s i => wr s SKN_EDATA_DATA 0 (i + 32 * 18) (bitsOf e (32 * i) 32)) s

theorem witness_SkeinCommandsAndEnable_select :
    let s := wr (skeined 0 State.reset) SKN_ESEL_SKEIN 0 18 40959
    writable s (.hub 0) SKN_CMD_OP 0 0 ∧ rd s SKN_ESEL_SKEIN 0 (reqIdx (.hub 0)) = 40959 ∧ skeinOwner s 40959 = some 0 ∧
    (∀ st < 8, eState (skein { s with skeins := mapSet 0 [] 40959 (BitVec.ofNat 1024 st) } 40959) = st) := by
  unfold writable; decide +kernel

theorem witness_SkeinCommandsAndEnable_create :
    let s0 := wr (skeined 0 State.reset) SKN_ESEL_SKEIN 0 18 40959
    let s := wrLE 0 4 1 (edata entry (takes (wr (wr (wr (wr (wr s0 SKN_BCFG_EN 0 0 1) SKN_KVCFG_KVTOK 0 0 1) SKN_KVCFG_KVPG 0 0 1) SKN_NPAGES_NPAGES 0 0 2)
     SKN_FREEPG_FREE 0 0 1)))
    stacksOn s = true ∧ rdB s0 SKN_BCFG_EN 0 0 = false ∧ rdB s SKN_BCFG_EN 0 0 = true ∧ eState (skein s 40959) = kFree ∧ hostFieldsOk s 0 entry = true ∧
    hostFieldsOk s 0 0 = false ∧ packN 32 ((List.range 32).map (fun i => rd s SKN_EDATA_DATA 0 (i + 32 * reqIdx (.hub 0)))) = entry ∧
    (match allocPages 0 (newEntry s 0 entry) 0 1 s with | .ok _ => true | _ => false) = true ∧ freePg (wr s SKN_FREEPG_FREE 0 0 0) 0 < 1 := by
  decide +kernel

theorem witness_SkeinCommandsAndEnable_enable :
    ∀ n ∈ [0, 1], let s := skeined 0 (takes (st [(SKN_NPAGES_NPAGES, 0, 0, n)]))
      stacksOn s = true ∧ target s (poolBase s 0) = .stack (poolBase s 0) ∧ writable s (.hub 0) SKN_BCFG_EN 0 0 ∧ rdB s SKN_BCFG_EN 0 0 = false ∧ noPly s = true ∧ rd s SKN_NPAGES_NPAGES 0 0 = n ∧
      (List.range ((2 ^ 16 * ((n + 16383) / 16384) + 15) / 16)).all (fun i => inWindows s 0 (poolBase s 0 + 16 * i) true) = true := by
  unfold writable; decide +kernel

theorem witness_SkeinCommandsAndEnable_disable :
    ∀ st ∈ [0, 2], let s := skeined st (wr State.reset SKN_BCFG_EN 0 0 1)
      rdB s SKN_BCFG_EN 0 0 = true ∧ skeinsOf s 0 = [40959] ∧ eState (skein s 40959) = st := by
  decide +kernel

theorem witness_DecodeBatches_build :
    let s := wr (wr (wr (skeined (2 + 2 ^ 8 + 2 ^ 32 + 2 ^ 96) (takes State.reset)) SKN_BCFG_EN 0 0 1) CRS_STATUS_STATE 0 0 1) SKN_KVCFG_KVTOK 0 0 2
    stacksOn s = true ∧ rdB s SKN_BCFG_EN 0 0 = true ∧ inReset s 0 = false ∧ (builtOf s 0).length < bmax s 0 ∧
    firstPlaced s ((skeinsOf s 0).filter (placeable s 0 (courseOf s 0 + 1))) = some 40959 ∧
    (match growSkein 0 40959 s with | .ok _ => true | _ => false) = true ∧ noPly s = true ∧
    (List.range 4).all (fun i => inWindows s 0 (batchRegion s 0 (courseOf s 0 + 1) + 0x100 + 16 * i) true) = true := by
  decide +kernel

theorem witness_DecodeBatches_return :
    ∀ w ∈ [2 ^ 96, 0, 2 ^ 24, 2 ^ 97], let x : Ret := ⟨0, 1, 0, 0, 40959, w⟩
      let s := { skeined (3 + 2 ^ 704 * 0x20000) (takes State.reset) with rets := [x] }
      stacksOn s = true ∧ bitsOf x.words 96 1 = (if w = 2 ^ 96 then 1 else 0) ∧ s.rets.find? (fun x => x.part == 0) = some x ∧ x.skein < 40960 ∧ eState (skein s x.skein) = kBatched ∧ noPly s = true ∧
      inWindows s 0 (eB (skein s 40959) 88 6 + eTcount (skein s 40959) * 16) true = true ∧
      (w < 2 → bitsOf x.words 24 8 = 0 ∧ bitsOf x.words 97 31 = 0) ∧ (w = 2 ^ 24 → bitsOf x.words 24 8 ≠ 0) ∧ (w = 2 ^ 97 → bitsOf x.words 97 31 ≠ 0) := by
  decide +kernel

theorem witness_SkeinOutputAndMoves_emit :
    let s := wr (skeined (7 + 2 ^ 768 * hostBase) (takes State.reset)) PCI_RO_CFG_LOG2 0 0 6
    stacksOn s = true ∧ eState (skein s 40959) = kEmitting ∧ ePart (skein s 40959) = 0 ∧ ringFree s 0 = true ∧ eTcount (skein s 40959) = 0 ∧
    target s (eB (skein s 40959) 96 6) = .host 0 := by
  decide +kernel

theorem witness_SkeinOutputAndMoves_evict :
    let s := wr (wr (wr (skeined 2 State.reset) SKN_BCFG_EN 0 0 1) SKN_WATER_LOWAT 0 0 1) SKN_WATER_HIWAT 0 0 1
    rdB s SKN_BCFG_EN 0 0 = true ∧ freePg s 0 < rd s SKN_WATER_LOWAT 0 0 * 256 ∧
    freePg s 0 + leavingPages s 0 < rd s SKN_WATER_HIWAT 0 0 * 256 ∧ (movingSkeins s).length < 8 ∧
    pickEvict s ((skeinsOf s 0).filter (evictable s 0)) = some 40959 := by
  decide +kernel

/-- The last skein, with one page, page 3 of a pool of 4 at 0x10_0000, and host slots at 0. -/
def paged (st : Nat) : State :=
  let s := wr (wr (wr (skeined (st + 2 ^ 128 * 0x10000) (takes State.reset)) SKN_KVCFG_KVPG 0 0 1) SKN_NPAGES_NPAGES 0 0 4) SKN_POOL_LO_BASE 0 0 16
  wrLE 0x10000 8 (1 + 2 ^ 16 * 0x13 + (if st = 5 then 2 else 0)) (wrLE 0x100000 4 3
    { wr s SKN_HKV_HI_BASE 0 0 (hostBase / 2 ^ 32) with groups := mapSet 0 s.groups 40959 1 })

theorem witness_SkeinOutputAndMoves_evicted :
    let s := paged 4
    stacksOn s = true ∧ noPly s = true ∧ eState (skein s 40959) = kStashing ∧ ePart (skein s 40959) = 0 ∧ validPages s 40959 = [0] ∧
    ptEntry s (skein s 40959) 0 / 2 % 2 = 0 ∧ (match target s (hostSlot s 0 40959 0) with | .host _ => true | _ => false) = true ∧
    (evictAccesses s 40959 [0]).all (fun a => a.1 % 16 == 0 && (List.range ((a.2.1 + 15) / 16)).all (fun i => inWindows s 0 (a.1 + 16 * i) a.2.2)) = true := by
  decide +kernel

theorem witness_SkeinOutputAndMoves_restore :
    let s := wr (paged 5) SKN_FREEPG_FREE 0 0 1
    firstPlaced s ((skeinsOf s 0).filter (fun k => eState (skein s k) == kStashed)) = some 40959 ∧ validPages s 40959 = [0] ∧
    topPages s 0 1 = [3] ∧ rd s SKN_NPAGES_NPAGES 0 0 = 4 ∧ rd s SKN_WATER_HIWAT 0 0 * 256 + 1 ≤ freePg s 0 ∧ (movingSkeins s).length < 8 ∧
    stacksOn s = true ∧ noPly s = true ∧
    (tableRead s 40959 ++ [(poolBase s 0 + 4 * (freePg s 0 - 1), 4, false), (poolBase s 0 + 2 ^ 16 * 3, 16, true)]).all (fun a =>
     a.1 % 16 == 0 && (List.range ((a.2.1 + 15) / 16)).all (fun i => inWindows s 0 (a.1 + 16 * i) a.2.2)) = true := by
  decide +kernel

theorem witness_SkeinOutputAndMoves_restored :
    let m : Move := ⟨40959, [(0, 3)]⟩
    let s := { paged 6 with moves := [m] }
    stacksOn s = true ∧ noPly s = true ∧ s.moves.find? (fun m => m.skein == 40959) = some m ∧ eState (skein s 40959) = kRestoring ∧
    restored s m = true ∧ eKvroot (skein s 40959) % 16 = 0 ∧ inWindows s 0 (eKvroot (skein s 40959)) true = true := by
  decide +kernel

theorem witness_MemoryAcceptance :
    ∀ ty ∈ [PType.rdreq, PType.wr], let p := { pkt ty (0xC000000000 - 0x60000000) 16 with dst := nodeMem 0 }
      let s := withPkt p (stackMem (st [(MEM_CTRL_EN, 0, 0, 1)]))
      arrived s 1 = some p ∧ target s p.addr = .stack p.addr ∧ dramOf s p.addr = some (0, 0, 0x78000000) ∧ p.dst = nodeMem 0 ∧
      chanReady s 0 0 = true ∧ s.net.find? (fun q => q.dst == p.dst && q.loc == .dest && attachOf q == attachOf p) = some p ∧
      p.tmode = 0 ∧ sigOps p = [] ∧ p.owner = none ∧ writable s (.hub 0) MEM_CTRL_EN 11 0 := by
  unfold writable; decide +kernel

theorem witness_MemoryBursts :
    ∀ x ∈ [(0, 1), (0, 2), (1, 1), (2, 1), (3, 1)], let q : MReq := ⟨11, 31, x.1, 1, 2 ^ 31 - 64, x.2, 0, 7, pkt .rdreq 0 1⟩
      let s := { st [(MEM_SCRUB_PERIOD, 11, 0, 1), (MEM_CHMAP_ACTIVE, 11, 0, 2 ^ 31), (MEM_CTRL_EN, 11, 0, 1)] with memq := [q] }
      (chanQueue s 11 31)[0]? = some q ∧ rd s MEM_STATUS_THR 11 0 ≠ 3 ∧ mayIssue s (chanQueue s 11 31) 0 0 q = true ∧ q.kind = x.1 ∧ q.pkt.who ≠ 9 ∧
      rd s MEM_SCRUB_PERIOD 11 0 ≠ 0 ∧ rd s MEM_SCRUB_PERIOD 11 0 ≤ 1 ∧ chActive s 11 31 = true ∧ chanReady s 11 31 = true := by
  decide +kernel

theorem witness_StackTraining_go :
    ∀ en ∈ [0, 1], let s := st [(MEM_CTRL_EN, 11, 0, en)]
      writable s (.hub 0) PHY_TRAIN_GO 11 0 ∧ writable s (.hub 0) PHY_MRUN_GO 11 0 ∧ rdB s MEM_CTRL_EN 11 0 = (en == 1) ∧
      rdB s PHY_STATUS_MBUSY 11 0 = false ∧ rdB (wr s PHY_STATUS_MBUSY 11 0 1) PHY_STATUS_MBUSY 11 0 = true := by
  unfold writable; decide +kernel

theorem witness_StackTraining_end :
    ∀ x ∈ [1, 2], let s := { State.reset with training := [(11, x)] }
      let good : List LaneEyes := List.replicate 64 ((13, 5), (13, 5))
      let bad : List LaneEyes := List.replicate 3 ((13, 5), (12, 5)) ++ List.replicate 61 ((13, 5), (13, 5))
      let spare : List LaneEyes := List.replicate 37 ((13, 5), (13, 5)) ++ [((13, 4), (13, 5))]
      let failed : List LaneEyes → Bool := fun lanes => decide (2 < (badLanes lanes 0 0 36).length) || !((badLanes lanes 0 36 2).isEmpty)
      mapGet 0 s.training 11 = x ∧ ¬(x = 3 ∧ recordValid s 11 = true) ∧ failed good = false ∧ failed bad = true ∧ failed spare = true := by
  decide +kernel

/-- A field that the record leaves. -/
theorem training_ofMem (s : State) (m : SMap Byte) (i : Nat) : ({ s with mem := m, freeIdx := i } : State).training = s.training := rfl

/-- A stack with a record. -/
theorem witness_StackTraining_warm :
    let s := writeRecord 11 [] { State.reset with training := [(11, 3)] }
    mapGet 0 s.training 11 = 3 ∧ recordValid s 11 = true :=
  ⟨congrArg (fun m => mapGet 0 m 11) (training_ofMem _ _ _), Laws.recordValid_writeRecord _ _ _⟩

/-- A stack's memory that nothing has written holds no valid record. -/
theorem witness_StackTraining_invalid :
    let s := { State.reset with training := [(11, 3)] }
    mapGet 0 s.training 11 = 3 ∧ ¬(mapGet 0 s.training 11 = 3 ∧ recordValid s 11 = true) := by
  intro s
  have h : (recordLE s 11 0 16 == trainHeader s 11) = false := by decide +kernel
  refine ⟨by decide, fun ⟨_, hr⟩ => ?_⟩
  rw [recordValid, h, Bool.and_false] at hr
  exact Bool.false_ne_true hr

theorem witness_StackTraining_margin :
    let s := st [(PHY_STATUS_MBUSY, 11, 0, 1)]
    rdB s PHY_STATUS_MBUSY 11 0 = true := by
  decide +kernel

theorem witness_LinkTraining_write :
    ∀ x ∈ [(0, 0), (1, 0), (1, 2), (1, 3)], let s := st [(PLY_CTRL_EN, 23, 0, x.1), (PLY_STATUS_STATE, 23, 0, x.2)]
      writable s (.hub 0) PLY_CTRL_EN 23 0 ∧ rdB s PLY_CTRL_EN 23 0 = (x.1 == 1) ∧ rd s PLY_STATUS_STATE 23 0 = x.2 ∧ linkUp s 23 = decide (2 ≤ x.2) ∧ linkState s 23 = x.2 := by
  unfold writable; decide +kernel

theorem witness_LinkTraining_end :
    ∀ x ∈ [1, 4], let s := st [(PLY_STATUS_STATE, 23, 0, x), (PLY_INGRANT_MASK, 23, 0, 1), (CRS_STATUS_STATE, 0, 0, 1)]
      (linkState s 23 = 1 ∨ linkState s 23 = 4) ∧ 0 ∈ linkParts s 23 ∧ rd s CRS_STATUS_STATE 0 0 = 1 ∧ linkParts State.reset 23 = [] := by
  decide +kernel

/-- The CRC of n bits with its operands evaluated at every step, which the kernel can run over a whole flit. -/
def crcRun : Nat → Nat → Nat → Nat
  | 0, _, c => c
  | n + 1, 0, 0 => crcRun n 0 (crcBit 0 0)
  | n + 1, 0, c + 1 => crcRun n 0 (crcBit (c + 1) 0)
  | n + 1, v + 1, 0 => crcRun n ((v + 1) / 2) (crcBit 0 ((v + 1) % 2))
  | n + 1, v + 1, c + 1 => crcRun n ((v + 1) / 2) (crcBit (c + 1) ((v + 1) % 2))

theorem crcRun_eq : ∀ n v c, crcRun n v c = crcBits v n c
  | 0, _, _ => rfl
  | n + 1, 0, 0 => by rw [crcRun, crcBits, crcRun_eq n]
  | n + 1, 0, c + 1 => by rw [crcRun, crcBits, crcRun_eq n]
  | n + 1, v + 1, 0 => by rw [crcRun, crcBits, crcRun_eq n]
  | n + 1, v + 1, c + 1 => by rw [crcRun, crcBits, crcRun_eq n]

/-- A flit whose CRC field is zero in x, with its CRC. -/
def crcd (x : Nat) : Nat := x + 2 ^ 96 * (0xFFFFFFFF ^^^ crcRun 2048 x 0xFFFFFFFF)

theorem flitGood_of {x : Nat}
    (h : (bitsOf x 96 32 == (0xFFFFFFFF ^^^ crcRun 2048 (x - 2 ^ 96 * bitsOf x 96 32) 0xFFFFFFFF) && decide (1 ≤ fKind x) && decide (fKind x ≤ 3)) = true) :
    flitGood x 0 = true := by
  rw [crcRun_eq] at h
  simpa [flitGood, flitCrc, Bool.and_assoc] using h

/-- A DATA flit of one message with sequence q, an IDLE flit and a NAK flit that return a slot. -/
def flits : List Nat :=
  [1 + 2 ^ 28 + 2 ^ 30 + 2 ^ 31 + 2 ^ 64 + 2 ^ 128 * 0x25, 1 + 2 ^ 4 * 4095 + 2 ^ 28 + 2 ^ 30 + 2 ^ 31 + 2 ^ 64 + 2 ^ 128 * 0x25,
    2 + 2 ^ 16 * 7 + 2 ^ 32, 3 + 2 ^ 16 * 7 + 2 ^ 32]

theorem witness_LinkFlits_good : ∀ x ∈ flits, flitGood (crcd x) 0 = true := by
  have h : ∀ x ∈ flits, (bitsOf (crcd x) 96 32 == (0xFFFFFFFF ^^^ crcRun 2048 (crcd x - 2 ^ 96 * bitsOf (crcd x) 96 32) 0xFFFFFFFF) &&
    decide (1 ≤ fKind (crcd x)) && decide (fKind (crcd x) ≤ 3)) = true := by decide +kernel
  exact fun x hx => flitGood_of (h x hx)

theorem witness_LinkFlits_flits :
    let s0 := st [(PLY_STATUS_STATE, 23, 0, 3), (PLY_GCTL_EN, 0, 0, 1)]
    let h : LFlit := ⟨23, 7, 1, true, true, [], 0⟩
    let s := { s0 with ply.replay := [h], ply.lcred := [(lvKey 23 0, 1)] }
    linkUp s 23 = true ∧ rdB s PLY_GCTL_EN 0 0 = true ∧ s.ply.lqueue = [] ∧ s.mirrorQ = [] ∧ heldFlits s 23 = [h] ∧
    flits.map (fun x => (decide ((BitVec.ofNat 2048 (crcd x)).toNat = crcd x), credOver s 23 (crcd x), fKind (crcd x), fSeq (crcd x), fVc (crcd x))) =
     [(true, false, 1, 0, 1), (true, false, 1, 4095, 1), (true, false, 2, 0, 0), (true, false, 3, 0, 0)] ∧
    mapGet 0 s.ply.lexpect 23 = 0 ∧ flitGood (crcd 2) 1 = false := by
  decide +kernel


/-- Message m waits on link k, with group logic in service. -/
def withMsg (k : Nat) (m : BitVec 128) (s : State) : State := { wr s PLY_GCTL_EN 0 0 1 with ply.msgs := [(k, m)] }

/-- Span entry 63 combines span 5 from link 3, as a member or not, at the root or not. -/
def spanned (member root : Nat) (s : State) : State :=
  wr (wr (wr (wr (wr s PLY_SPAN_CFG_ID 0 63 5) PLY_SPAN_CFG_VALID 0 63 1) PLY_SPAN_CFG_MEMBER 0 63 member) PLY_SPAN_CFG_ROOT 0 63 root)
    PLY_SPAN_DOWN_DMASK 0 63 8

theorem witness_SpanMessages_arrive :
    ∀ x ∈ [(0, 0, 3, 0), (0, 1, 3, 0), (1, 0, 3, 0), (1, 1, 3, 0), (0, 0, 3, 9), (0, 0, 4, 0)],
      let m := message 1 7 0 5 0 x.2.2.2
      let s := spanned x.1 x.2.1 (withMsg x.2.2.1 m State.reset)
      let got := mapGet 0 s.ply.spanGot 63 ||| 2 ^ x.2.2.1
      nextMsg s 0 1 x.2.2.1 m ∧ groupLogic s = true ∧ spanEntries s (mSpan m) = [63] ∧
      decide (spanDmask s 63 / 2 ^ x.2.2.1 % 2 = 1) = decide (x.2.2.1 = 3) ∧ decide (mArg m % 2 ^ 16 = spanCourse s 63) = decide (x.2.2.2 = 0) ∧
      (x.2.2.1 = 3 → ((!(spanMember s 63) || localArrived s (spanPart s 63)) && (got &&& spanDmask s 63) == spanDmask s 63) = (x.1 == 0)) ∧
      (mapGet false s.ply.spanSent 63 || (spanMember s 63 && mapGet false s.grpRel (spanPart s 63))) = false ∧
      rdB s PLY_SPAN_CFG_ROOT 0 63 = (x.2.1 == 1) := by
  unfold nextMsg; decide +kernel

theorem witness_SpanMessages_release :
    ∀ x ∈ [(31, 0), (31, 9), (3, 0)], let m := message 2 7 0 5 0 x.2
      let s := spanned 1 0 (withMsg x.1 m State.reset)
      nextMsg s 0 2 x.1 m ∧ groupLogic s = true ∧ spanEntries s (mSpan m) = [63] ∧ decide (x.1 = upLink s) = decide (x.1 = 31) ∧
      decide (mArg m % 2 ^ 16 = spanCourse s 63) = decide (x.2 = 0) := by
  unfold nextMsg; decide +kernel

theorem witness_SpanMessages_grace :
    ∀ x ∈ [0, 1], let m := message 3 7 0 5 0 (0xFFFF * 2 ^ 16 + 7)
      let s := owned (spanned x 0 (withMsg 3 m (st [(CRS_STATUS_STATE, 0, 0, 1)])))
      nextMsg s 0 3 3 m ∧ spanEntries s (mSpan m) = [63] ∧ spanMember s 63 = (x == 1) ∧ mapGet false s.parts (spanPart s 63) = true ∧
      inReset s (spanPart s 63) = false := by
  unfold nextMsg; decide +kernel

theorem witness_GroupMessages_kinds :
    ∀ x ∈ [0x10, 0x11, 0x12, 0x13, 0x14, 0x15, 0x16, 0x18, 0x19, 0x1A, 0x1B, 0x20, 0x21, 0x22, 0x23, 0x24, 0x25],
      let m := message x 7 0 0 0 4
      let q := message x 7 9 0 0 4
      nextMsg (withMsg 3 m State.reset) 0 x 3 m ∧ addressed (withMsg 3 m State.reset) m = true ∧
      nextMsg (withMsg 3 q State.reset) 0 x 3 q ∧ addressed (withMsg 3 q State.reset) q = false := by
  unfold nextMsg; decide +kernel

theorem witness_GroupMessages_reset :
    ∀ x ∈ [(22, 1), (3, 1), (22, 0)], let m := message 0x1B 7 0 0 0 4
      let s := withMsg x.1 m (st [(PLY_GCTL_RSTEN, 0, 0, x.2)])
      nextMsg s 0 0x1B x.1 m ∧ addressed s m = true ∧ rdB s PLY_GCTL_RSTEN 0 0 = (x.2 == 1) ∧ isTwin s x.1 = (x.1 == 22) ∧ x.1 ≠ upLink s := by
  unfold nextMsg; decide +kernel

theorem witness_TwinAttachmentAndCover_command :
    ∀ x ∈ [(1, 0), (2, 2)], let s := st [(PLY_GCTL_EN, 0, 0, 1), (PLY_TWIN_STATUS_STATE, 0, 0, x.2)]
      let v : W32 := BitVec.ofNat 32 (x.1 * 2 ^ 28)
      writable s (.hub 0) PLY_TWIN_CTL_CMD 0 0 ∧ rdB s PLY_GCTL_EN 0 0 = true ∧ bitsOf v.toNat 28 3 = x.1 ∧ twinState s = x.2 := by
  unfold writable; decide +kernel

theorem witness_TwinAttachmentAndCover_attach :
    ∀ k ∈ [0x11, 0x12, 0x13, 0x14], ∀ t ∈ [0, 1, 2], ∀ d ∈ [0, 1],
      let s0 := st [(PLY_TWIN_STATUS_STATE, 0, 0, t)]
      let m := message k 7 0 0 (1 - rd s0 PLY_GID_SIDE 0 0) (myDigest s0 + d)
      let s := withMsg 22 m s0
      nextMsg s 0 k 22 m ∧ addressed s m = true ∧ twinState s = t ∧ mSide m ≠ rd s PLY_GID_SIDE 0 0 ∧
      decide (mArg m = myDigest s) = decide (d = 0) ∧ (k = 0x13 → d = 1 → mArg m = 1) := by
  unfold nextMsg; decide +kernel

theorem witness_TwinAttachmentAndCover_mirrored :
    ∀ t ∈ [1, 5], let s := { st [(PLY_TWIN_STATUS_STATE, 0, 0, t)] with mirroring := true }
      twinState s = t ∧ s.mirroring = true ∧ s.ply.twin.readySent = false ∧ mirrorFlushed s = true ∧ rd s PLY_CKPT_CNT_COUNT 0 0 ≤ s.ply.ckptNext ∧ s.ply.ckptOpen = none := by
  decide +kernel

theorem witness_TwinAttachmentAndCover_cover :
    ∀ x ∈ [(0x16, 2), (0x18, 2), (0x18, 3), (0x19, 2)],
      let s0 := st [(PLY_TWIN_STATUS_STATE, 0, 0, x.2), (PLY_TWIN_STATUS_PARTNER, 0, 0, 7), (PLY_GID_ID, 0, 0, 9), (PLY_CDOWN_DOWN, 0, 0, 2),
        (PLY_PEER_ID, 1, 0, 7)]
      let m := message x.1 7 9 0 0 (if x.2 = 3 then 9 else 7)
      let s := withMsg 22 m s0
      nextMsg s 0 x.1 22 m ∧ addressed s m = true ∧ twinState s = x.2 ∧ mSrc m = rd s PLY_TWIN_STATUS_PARTNER 0 0 ∧
      (x.2 = 2 → mArg m % 2 ^ 12 = 7) ∧ (x.2 = 3 → mArg m % 2 ^ 12 = myId s) := by
  unfold nextMsg; decide +kernel

theorem witness_TwinLossAndCheckpoints_leave :
    ∀ k ∈ [0x15, 0x17],
      let s0 := st [(PLY_GID_ID, 0, 0, 9), (PLY_CDOWN_DOWN, 0, 0, 2), (PLY_PEER_ID, 1, 0, 7)]
      let m := message k 7 9 0 0 7
      let s := withMsg 22 m s0
      nextMsg s 0 k 22 m ∧ addressed s m = true ∧ downLinkTo s (mArg m % 2 ^ 12) = some 1 ∧
      downLinkTo (withMsg 22 m (wr s0 PLY_PEER_ID 1 0 8)) (mArg m % 2 ^ 12) = none := by
  unfold nextMsg; decide +kernel

theorem witness_TwinLossAndCheckpoints_timers :
    let s := st [(PLY_GCTL_EN, 0, 0, 1), (PLY_TWIN_STATUS_STATE, 0, 0, 2)]
    let p := { s with ply.twin.pulsed := true }
    let h := { s with ply.twin.heard := true }
    let l := st [(PLY_GCTL_EN, 0, 0, 1), (PLY_TWIN_STATUS_STATE, 0, 0, 3)]
    rdB s PLY_GCTL_EN 0 0 = true ∧ inPair s = true ∧ twinState s = 2 ∧ s.ply.twin.heard = false ∧ s.ply.twin.pulsed = false ∧
    s.ply.twin.lost = false ∧ p.ply.twin.heard = false ∧ p.ply.twin.pulsed = true ∧ inPair p = true ∧ h.ply.twin.heard = true ∧
    twinState l = 3 ∧ l.ply.twin.drained = false ∧ allHeld l = true ∧ mirrorFlushed l = true ∧ l.ply.ckptOpen = none := by
  decide +kernel

theorem witness_TwinLossAndCheckpoints_checkpoint :
    ∀ x ∈ [(0, 0), (12, 0), (11, 0), (11, 1)], ∀ o ∈ [false, true],
      let s0 := st [(PLY_GCTL_EN, 0, 0, 1), (PLY_CKPT_CNT_COUNT, 0, 0, 1), (PLY_CKPT_LO_BASE, 0, 0, 2 ^ 20), (PLY_MIRROR_LEN, 0, 0, 1), (MEM_TOTAL_NCH, 0, 0, 384),
        (MEM_IMAP_MODE, 0, 0, 2), (MEM_CHMAP_ACTIVE, 0, 0, 0xFFFFFFFF)]
      let e := 0x100000 + 2 ^ 56 * x.1
      let s := { wrLE (2 ^ 25) 32 e s0 with
        mirroring := true, ply.ckptOpen := if o then some (0, e) else none,
        upds := if x.2 = 1 then [⟨11, 0, 5, 2 ^ 128 * 0x100000, 2, 0, 0, 0, 0, false, 0, 0, 0, 0, [], [], [], false, false, 0⟩] else [] }
      rdB s PLY_GCTL_EN 0 0 = true ∧ s.mirroring = true ∧ rd s PLY_CKPT_CNT_COUNT 0 0 ≠ 0 ∧ rd s PLY_CKPT_CNT_RATE 0 0 ≠ 0 ∧
      ckptEntry s (s.ply.ckptNext % rd s PLY_CKPT_CNT_COUNT 0 0) = e ∧ s.ply.ckptOpen = (if o then some (0, e) else none) ∧
      ckptBad s e = decide (x.1 = 12) ∧ ckBusy s e = (x.2 == 1) := by
  decide +kernel

theorem witness_EndpointAccessesAndHostResets_link :
    ∀ x ∈ [(1, 1), (5, 16)], let s := hosted State.reset
      let frog := wr s BOOT_STATUS_STATE 0 0 2
      s.bt.endpointRst = false ∧ s.hst.hclk = true ∧ 1 ≤ x.1 ∧ x.1 ≤ 5 ∧ [1, 4, 8, 16].contains x.2 = true ∧ rdB s PCI_STATUS_LINKUP 0 0 = true ∧
      s.hst.cfgReady = true ∧ State.reset.hst.cfgReady = false ∧ inFrog s = false ∧
      (∀ f < 17, fnLive s f = true ∧ fnThere s f = true ∧ barLive s f = true ∧ vecThere s f 119 = true ∧
        fnThere frog f = (f == 0) ∧ vecThere frog f 0 = (f == 0)) ∧ vecThere s 0 127 = true ∧ toConfig .other = true := by
  decide +kernel

theorem witness_EndpointAccessesAndHostResets_bar2 :
    ∀ f ∈ [0, 1], let s := takes (stackMem (hosted (st [(PCI_FN_B2_HI_BASE, 0, f, 0)])))
      barLive s f = true ∧ 0x3FFFFFFF + 1 ≤ bar2Size s f ∧ bar2Addr s f 0x3FFFFFFF = 0x3FFFFFFF ∧ bar2Refused s f 0x3FFFFFFF 1 true = none ∧
      bar2Refused s f 0x3FFFFFFF 1 false = none ∧ bar2Blocked s f 0x3FFFFFFF 1 = false ∧
      bar2Blocked { s with bt.latched := 3 } f 0x3FFFFFFF 1 = true ∧ bar2Refused { s with bt.latched := 3 } f 0x3FFFFFFF 1 false = none ∧
      bar2Refused (hosted State.reset) 1 5 1 true = some 5 ∧ bar2Refused (hosted State.reset) 1 5 1 false = some 5 := by
  decide +kernel

theorem witness_EndpointAccessesAndHostResets_timeout :
    ∀ f ∈ [0, 16], let s := { hosted State.reset with hst.barWait := [(f, 0, 8)] }
      s.hst.barWait.find? (fun x => x.1 == f) = some (f, 0, 8) := by
  decide +kernel


/-- DMA engine e of owner o runs with one descriptor in its ring, on a module whose first GiB of stack is partition 0's. -/
def engine (e o : Nat) (s : State) : State :=
  wr (wr (wr (wr (stackMem (hosted s)) PCI_DMA_CTL_OWNER 0 e o) PCI_DMA_CTL_EN 0 e 1) PCI_DMA_STATUS_STATE 0 e 1) PCI_DMA_IDX_TAIL 0 e 1

/-- A descriptor (Table 15.4): operation, flags, length, pattern, source, destination. -/
def ddesc (op flags len pattern src dst : Nat) : BitVec 256 :=
  BitVec.ofNat 256 (op + 16 * flags + 2 ^ 64 * len + 2 ^ 96 * pattern + 2 ^ 128 * src + 2 ^ 192 * dst)

theorem witness_EngineControl_doorbells :
    ∀ x ∈ [(0, true), (31, true), (0, false), (31, false)],
      let s := engine x.1 (if x.2 then 1 else 2) State.reset
      let n := dmaSize s x.1
      let used := (dmaTail s x.1 + n - dmaHead s x.1) % n
      barLive s 1 = true ∧ x.1 < 32 ∧ (decide (dmaOwner s x.1 = 1 ∧ 0 < n ∧ (0 + n - dmaTail s x.1) % n ≤ n - 1 - used)) = false ∧
      (decide (dmaOwner s x.1 = 1 ∧ 15 < n ∧ (15 + n - dmaTail s x.1) % n ≤ n - 1 - used)) = x.2 := by
  decide +kernel

theorem witness_EngineControl_rings :
    ∀ p ∈ [0, 15], let s := hosted (st [(PCI_RO_PROD_PROD, 0, p, 3), (PCI_RO_CONS_CONS, 0, p, 1), (PCI_RO_CFG_MODUS, 0, p, 5)])
      barLive s (p + 1) = true ∧ vecThere s (p + 1) (rd s PCI_RO_CFG_VECTOR 0 p) = true ∧ (3 + 2 ^ 32 - rd s PCI_RO_CONS_CONS 0 p) % 2 ^ 32 ≤ (rd s PCI_RO_PROD_PROD 0 p + 2 ^ 32 - rd s PCI_RO_CONS_CONS 0 p) % 2 ^ 32 ∧
      ¬(4 + 2 ^ 32 - rd s PCI_RO_CONS_CONS 0 p) % 2 ^ 32 ≤ (rd s PCI_RO_PROD_PROD 0 p + 2 ^ 32 - rd s PCI_RO_CONS_CONS 0 p) % 2 ^ 32 ∧
      mapGet 0 { s with roPend := mapSet 0 [] p 1 }.roPend p ≠ 0 ∧ rd s PCI_RO_CFG_MODUS 0 p ≠ 0 := by
  decide +kernel

theorem witness_EngineControl_state :
    ∀ x ∈ [(0, 0), (31, 2)], let s := engine x.1 0 State.reset
      let t : State := { s with hst.dmas := [⟨x.1, 0, 3, 0, false⟩] }
      x.1 < 32 ∧ writable s (.hub 0) PCI_DMA_CTL_EN 0 x.1 ∧ writable t (.hub 0) PCI_DMA_CTL_EN 0 x.1 ∧ bitsOf x.2 1 1 = x.2 / 2 ∧
      dmaState s x.1 = 1 ∧ dmaNow s x.1 = none ∧ dmaState t x.1 = 1 ∧ dmaNow t x.1 = some ⟨x.1, 0, 3, 0, false⟩ ∧
      dmaDone t ⟨x.1, 0, 3, 0, false⟩ = true ∧
      dmaDone { t with hreads := [⟨.dma x.1, 0, 0, 8, x.1, none, false, 0⟩] } ⟨x.1, 0, 3, 0, false⟩ = false := by
  unfold writable; decide +kernel

theorem witness_DescriptorsStart_plain :
    ∀ e ∈ [0, 31], let s := engine e 0 State.reset
      e < 32 ∧ dmaState s e = 1 ∧ rdB s PCI_DMA_CTL_EN 0 e = true ∧ dmaHead s e ≠ dmaTail s e ∧ dmaNow s e = none ∧ s.hst.hclk = true ∧ firingOn s e = false ∧
      (∀ op ∈ [1, 2, 3, 4], ddOp (ddesc op 0 8 0 0 0).toNat = op ∧ dmaBad s e (ddesc op 0 8 0 0 0).toNat = true) ∧
      ddOp (ddesc 3 0 0 0 0 0).toNat = 3 ∧ dmaBad s e (ddesc 3 0 0 0 0 0).toNat = false := by
  decide +kernel

theorem witness_DescriptorsStart_host :
    let s := engine 0 0 (takes State.reset)
    let d := (ddesc 1 0 16 0 hostBase 64).toNat
    let q := (ddesc 1 0 16 0 64 hostBase).toNat
    stacksOn s = true ∧ ddOp d = 1 ∧ dmaBad s 0 d = false ∧ dmaRefused s 0 (ddSrc d) (ddLen d) false = none ∧ dmaRefused s 0 (ddDst d) (ddLen d) true = none ∧
    target s (ddSrc d) = .host 0 ∧ ddOp q = 1 ∧ dmaBad s 0 q = false ∧ dmaRefused s 0 (ddSrc q) (ddLen q) false = none ∧
    dmaRefused s 0 (ddDst q) (ddLen q) true = none ∧ target s (ddSrc q) = .stack 64 ∧ target s (ddDst q) = .host 0 := by
  decide +kernel

theorem witness_DescriptorsStart_module :
    let s := engine 0 0 (takes State.reset)
    let d := (ddesc 1 0 16 0 0 64).toNat
    let q := (ddesc 2 0 16 7 0 64).toNat
    let b := (ddesc 2 0 16 7 0 0xC000000000).toNat
    stacksOn s = true ∧ ddOp d = 1 ∧ dmaBad s 0 d = false ∧ dmaRefused s 0 (ddSrc d) (ddLen d) false = none ∧ dmaRefused s 0 (ddDst d) (ddLen d) true = none ∧
    target s (ddSrc d) = .stack 0 ∧ target s (ddDst d) = .stack 64 ∧ ddOp q = 2 ∧ dmaBad s 0 q = false ∧
    dmaRefused s 0 (ddDst q) (ddLen q) true = none ∧ ddOp b = 2 ∧ dmaBad s 0 b = false ∧ dmaRefused s 0 (ddDst b) (ddLen b) true ≠ none := by
  decide +kernel

theorem witness_DescriptorsStart_refused :
    let s := engine 0 0 State.reset
    let d := (ddesc 1 0 16 0 0xC000000000 64).toNat
    ddOp d = 1 ∧ dmaBad s 0 d = false ∧ dmaRefused s 0 (ddSrc d) (ddLen d) false ≠ none ∧
    dmaPart (engine 0 1 State.reset) 0 = some 0 ∧ rd (wr (engine 0 1 State.reset) CRS_STATUS_STATE 0 0 2) CRS_STATUS_STATE 0 0 = 2 := by
  decide +kernel

theorem witness_DescriptorsEnd_complete :
    ∀ x ∈ [(false, 3), (true, 0), (true, 3)], let d := (ddesc 1 x.2 16 0 0 hostBase).toNat
      let y : Dma := ⟨0, 0, d, 16, x.1⟩
      let s : State := let s := engine 0 1 State.reset; { s with hst.dmas := [y] }
      s.hst.hclk = true ∧ dmaNow s 0 = some y ∧ vecThere s (dmaOwner s 0) (rd s PCI_DMA_CTL_VECTOR 0 0) = true ∧ dmaDone s y = true ∧ dmaPart s 0 = some 0 ∧ ddSig d = (x.2 == 3) ∧ ddIrq d = (x.2 == 3) ∧ inStash (ddDst d) = true := by
  decide +kernel

theorem witness_DescriptorsEnd_reads :
    ∀ k ∈ [HKind.mesh (pkt .rdreq hostBase 1), .dma 0, .firing 0 5, .restore 9],
      let h : HRead := ⟨k, 0, 64, 16, 0, some 0, false, 0⟩
      let s : State := let s := engine 0 1 State.reset; { s with hreads := [h], hst.dmas := [⟨0, 0, 1, 0, false⟩] }
      s.hst.hclk = true ∧ s.hreads[0]? = some h ∧ h.kind = k ∧ dmaNow s 0 = some ⟨0, 0, 1, 0, false⟩ := by
  decide +kernel

/-- A request of function f waits, the hub serves, and the start left state b in BOOT_STATUS. -/
def asked (f b : Nat) (s : State) : State :=
  let s := wr (hosted s) BOOT_STATUS_STATE 0 0 b
  { s with hst.doorbell := [f] }

theorem witness_MailboxRequests_all :
    ∀ x ∈ [(0, 1), (1, 1), (16, 1), (0, 2), (1, 2), (16, 2)], let s := asked x.1 x.2 State.reset
      served s x.1 ∧ fnLive s x.1 = true ∧ x.1 ∈ s.hst.doorbell ∧ 17 ∉ s.hst.doorbell ∧ fnLive (hosted State.reset) x.1 = true ∧
      (hosted State.reset).hst.doorbell = [] ∧ inFrog s = (x.2 == 2) := by
  unfold served; decide +kernel

theorem witness_PartitionServices_create :
    let s := asked 0 1 State.reset
    served s 0 ∧ inFrog s = false ∧ createConflict s 0 (2 ^ 95 + 1) 1 0 40960 22000 = false ∧ createConflict s 15 1 0xFFFFFFFF 40959 1 0 = false ∧
    createConflict s 0 0 1 0 0 0 = true ∧ createConflict s 0 1 1 0 0 22001 = true := by
  unfold served; decide +kernel

theorem witness_PartitionServices_owned :
    ∀ f ∈ [0, 1], let s := owned (asked f 1 (st [(RST_PHOLD_HOLD, 0, 0, 1)]))
      let u : State := owned (asked f 1 State.reset)
      served s f ∧ inFrog s = false ∧ mapGet false s.parts 0 = true ∧ mapGet false s.parts 1 = false ∧ inReset s 0 = true ∧
      rd s RST_PHOLD_HOLD 0 0 / 2 ^ 0 % 2 = 1 ∧ rd u RST_PHOLD_HOLD 0 0 / 2 ^ 0 % 2 = 0 ∧ rdB s BLK_SH_CTL_VALID 11 4095 = false := by
  unfold served; decide +kernel

theorem witness_PartitionServices_maps :
    let s := owned (asked 0 1 (st [(RST_PHOLD_HOLD, 0, 0, 1)]))
    freeStitch s 0 = some 0 ∧ (mapEntry 0 (answerOk (tookBell s)) 5).status = stOk ∧
    (mapEntry 0 (answerOk (tookBell s)) 0x80000005).status = stBadArg ∧ bitsOf 0x80000005 31 1 = 1 ∧ bitsOf 5 31 1 = 0 ∧
    rdB (mapped 4095 s) STC_XT_DATA_VALID 0 3 = true ∧ rd (mapped 4095 s) STC_XT_DATA_PHYS 0 3 = 4095 ∧
    rdB (mapped 4095 s) STC_CTL_OWNED 0 4095 = true ∧ rd (mapped 4095 s) STC_CTL_OWNER 0 4095 = 0 ∧
    rdB (wr (mapped 4095 s) STC_CTL_OWNED 0 4095 0) STC_CTL_OWNED 0 4095 = false := by
  decide +kernel

theorem witness_PartitionServices_windows :
    let s := stackMem (asked 0 1 State.reset)
    served s 0 ∧ inFrog s = false ∧ mapGet false s.parts 0 = true ∧ windowConflict s 0 0 16 = false ∧ windowConflict s 0 0 12288 = true ∧
    windowConflict s 0 0 0 = false := by
  unfold served; decide +kernel

theorem witness_ResourceServices_shards :
    ∀ f ∈ [0, 1], let s := owned (asked f 1 (st [(RST_PHOLD_HOLD, 0, 0, 1)]))
      served s f ∧ inFrog s = false ∧ mapGet false s.parts 0 = true ∧ inReset s 0 = true ∧ rdB s BLK_SH_CTL_VALID 11 4095 = false := by
  unfold served; decide +kernel

theorem witness_ResourceServices_engines :
    ∀ e ∈ [0, 31], let s := owned (asked 0 1 State.reset)
      let f : Firing := ⟨0, 0, 2 ^ 48 * 0 + 2 ^ 96, 1, false⟩
      firingOn s e = false ∧ firingOn { s with firings := [f] } (stDmae f.d) = true ∧ served s 0 ∧ inFrog s = false ∧ dmaState s e = 0 ∧ dmaState (wr s PCI_DMA_STATUS_STATE 0 e 3) e ≠ 0 ∧
      budgetsBut s 0 + 22000 ≤ 22000 ∧ 22000 < budgetsBut s 0 + 22001 := by
  unfold served; decide +kernel

theorem witness_ResourceServices_links :
    ∀ x ∈ [(0, 0), (23, 15)], let s := stackMem (asked 0 1 State.reset)
      x.1 < 24 ∧ x.2 < 16 ∧ (mapGet ⟨0, 0, 0⟩ s.windows (0 * 8 + 0)).base = 0 ∧ (mapGet ⟨0, 0, 0⟩ s.windows (0 * 8 + 0)).len = 16 ∧
      rdB s PLY_WINPEER_VALID x.1 x.2 = false ∧ plyWindows s = [] := by
  decide +kernel

theorem witness_ResourceServices_groups :
    ∀ e ∈ [0, 1], let s := asked 0 1 (st [(PLY_GCTL_EN, 0, 0, e)])
      served s 0 ∧ inFrog s = false ∧ rdB s PLY_GCTL_EN 0 0 = (e == 1) ∧ valueRefused s PLY_GID_ROLE 0 0 2 0 = false ∧
      [((63 : Nat), (0x8001F005 : W32), (3 : Nat))].any (spanBad (3 ||| 0)) = false := by
  unfold served; decide +kernel

theorem witness_ImageServices_requests :
    ∀ x ∈ [(1, 0), (1, 1), (2, 3)], let s := asked 0 x.1 (st [(BOOT_STATUS_IMAGE, 0, 0, x.2), (BOOT_STATUS_BAND, 0, 0, 4)])
      served s 0 ∧ inFrog s = (x.1 == 2) ∧ rd s BOOT_STATUS_IMAGE 0 0 = x.2 ∧ bootPolicy s = 2 ∧
      hostCheck s [] ≠ 0 ∧ bootPolicy (asked 0 2 State.reset) = 0 ∧ (bootEntries s)[0]? = none := by
  unfold served; decide +kernel

theorem witness_IdentityServices_requests :
    ∀ x ∈ [(1, 0, 0), (1, 1, 15), (2, 0, 14)],
      let s := asked 0 x.1 (st [(SEC_STATUS_RETIRED, 0, 0, x.2.1), (FUSE_SEC_KGEN, 0, 0, x.2.2), (FUSE_SEC_DBGMAX, 0, 0, 1)])
      served s 0 ∧ inFrog s = (x.1 == 2) ∧ rdB s SEC_STATUS_RETIRED 0 0 = (x.2.1 == 1) ∧ rd s FUSE_SEC_KGEN 0 0 = x.2.2 ∧
      rd s FUSE_SEC_DBGMAX 0 0 < 2 ∧ 1 ≤ rd s FUSE_SEC_DBGMAX 0 0 ∧ { s with bt.nonce := some 5 }.bt.nonce = some 5 ∧
      rd s SEC_STATUS_DBG 0 0 = 0 ∧ rd (wr s SEC_STATUS_DBG 0 0 2) SEC_STATUS_DBG 0 0 ≠ 0 := by
  unfold served; decide +kernel

theorem witness_SmbusCommands_serves :
    smbServes (up (st [(BOOT_STATUS_STATE, 0, 0, 1)])) = true := by
  decide +kernel

theorem witness_IdentityServices_spill :
    ∀ x ∈ [(65535, 1, [131071]), (0, 65536, [])], let s := takes (asked 0 1 State.reset)
      served s 0 ∧ inFrog s = false ∧ x.1 + x.2.1 ≤ 65536 ∧ spillWaits 0 x.1 x.2.1 x.2.2 s = false := by
  unfold served; decide +kernel


/-- The first n physical stitches are owned. -/
def taken (n : Nat) : State := { State.reset with regs := (List.range n).map (fun i => (fkey STC_CTL_OWNED (i / 4096) (i % 4096), 1)) }

theorem mapFind_map_const (l : List Nat) (f : Nat → Nat) (v k : Nat) (h : k ∈ l.map f) :
    mapFind (l.map (fun i => (f i, v))) k = some v := by
  induction l with
  | nil => simp at h
  | cons x l ih =>
    by_cases hx : f x = k
    · simp [mapFind, hx]
    · have : k ∈ l.map f := by simpa [Ne.symm hx] using h
      simpa [mapFind, hx] using ih this

theorem freeStitch_taken (n : Nat) (hn : 16384 ≤ n) (p : Nat) : freeStitch (taken n) p = none := by
  simp only [freeStitch, List.findSome?_eq_none_iff, Option.map_eq_none_iff, List.find?_eq_none, List.mem_range]
  intro d hd i hi
  have hd : d < 4 := by
    simp only [dieOrder, List.mem_flatMap, List.mem_filter, List.mem_range] at hd
    exact hd.choose_spec.2.1
  have h : mapFind (taken n).regs (fkey STC_CTL_OWNED d i) = some 1 := mapFind_map_const _ _ _ _ (by
    simp only [List.mem_map, List.mem_range]
    exact ⟨d * 4096 + i, by omega, by rw [show (d * 4096 + i) / 4096 = d by omega, show (d * 4096 + i) % 4096 = i by omega]⟩)
  simp [rdB, rd, mapGet, h]

theorem witness_PartitionServices_full : freeStitch (taken 16384) 0 = none := freeStitch_taken _ (Nat.le_refl _) _


theorem witness_PowerEvents_input :
    ∀ x ∈ [(0, 3950), (0, 3949), (1, 4800), (2, 4801)], let s : State := { State.reset with pw.power := x.1 }
      (x.2 ≤ 4800) = (x.1 ≠ 2) ∧ s.pw.power = x.1 := by
  decide +kernel

theorem witness_PowerEvents_rails :
    let s : State := { State.reset with pw.power := 1 }
    s.pw.power = 1 ∧ State.reset.pw.power ≠ 0 ∧ State.reset.pw.power = 2 ∧ sourceOn (wr s RST_STATUS_SRC 0 0 1) 0 = true := by
  decide +kernel

theorem witness_PowerEvents_events :
    let s := up State.reset
    let e : State := { s with pw.emerg := [(1, 0), (2, 0), (3, 3)] }
    governed s = true ∧ 0 < droopVth s ∧ s.pw.emerg.contains (1, 0) = false ∧ s.pw.emerg.contains (2, 0) = false ∧ s.pw.emerg = [] ∧
    e.pw.emerg.contains (1, 0) = true ∧ e.pw.emerg.contains (2, 0) = true ∧ e.pw.emerg.contains (3, 3) = true ∧
    droopVth e + 50 ≤ 4050 ∧ dieTemp e 3 < (rd e THM_LIM_TCRIT 3 0 : Int) - 5 ∧ e.pw.emerg ≠ [] ∧
    mapGet false (owned (wr e CRS_STATUS_STATE 0 0 1)).parts 0 = true ∧ inReset (owned (wr e CRS_STATUS_STATE 0 0 1)) 0 = false := by
  decide +kernel

theorem witness_PowerEvents_control :
    let s : State := let s := owned (st [(CRS_STATUS_STATE, 0, 0, 2), (PWR_TDATA2_SH, 0, 0, 7)]); { s with pw.tension := [(0, 1)], pw.odHold := [(0, true)] }
    let t := wr s PWR_TPOL_STALL 0 0 0
    writable s (.hub 0) PWR_HOSTCAP_CAP 0 0 ∧ mapGet 0 s.pw.tension 0 = 1 ∧ rd s CRS_STATUS_STATE 0 0 = 2 ∧
    mapGet false s.pw.odHold 0 = true ∧ rdB s PWR_TPOL_STALL 0 0 = true ∧ rdB t PWR_TPOL_STALL 0 0 = false ∧
    budgetNext s 0 < chargeOf s 0 (courseOf s 0 + 1) := by
  unfold writable; decide +kernel

theorem witness_PowerEvents_accepted :
    let s : State := let s := owned (st [(CRS_STATUS_STATE, 0, 0, 2), (PWR_BUDGET_BUDGET, 0, 0, 22000)]); { s with pw.tension := [(0, 1)] }
    mapGet 0 s.pw.tension 0 = 1 ∧ rd s CRS_STATUS_STATE 0 0 = 2 ∧ chargeOf s 0 (courseOf s 0 + 1) ≤ budgetNext s 0 := by
  decide +kernel

theorem witness_ThermalAndSteps_samples :
    let s := up State.reset
    let cool : List (Int × Nat) := [(-40, 0), (94, 31), (95, 5), (114, 0), (20, 0)]
    let hot : List (Int × Nat) := [(20, 0), (115, 31), (20, 0), (20, 0), (20, 0)]
    s.pw.power = 2 ∧ cool.length = 5 ∧ hot.length = 5 ∧ (∀ t ∈ cool.map (fun x => x.1), t < (rd s THM_LIM_TTRIP 0 0 : Int)) ∧
    s.pw.thermTrip = false ∧ s.bt.latched < 4 ∧ (hot.map (fun x => x.1)).any (fun t => decide ((rd s THM_LIM_TTRIP 0 0 : Int) ≤ t)) = true ∧
    ([(20, 0), (104, 31), (20, 0), (20, 0), (20, 0)].map (fun x : Int × Nat => x.1)).all
     (fun t => decide (t < (rd s THM_LIM_TTRIP 0 0 : Int) - 10)) = true ∧ { s with pw.thermTrip := true }.pw.thermTrip = true := by
  decide +kernel

theorem witness_ThermalAndSteps_polls :
    ∀ x ∈ [(0, (84 : Int)), (1, 85), (2, 95), (3, 80)], let s := up (st [(MEM_STATUS_THR, 11, 0, x.1)])
      s.pw.power = 2 ∧ s.bt.latched = 0 ∧ rd s MEM_STATUS_THR 11 0 = x.1 ∧ s.held = [] ∧ nextThr 3 80 ≠ 3 ∧ nextThr 2 110 = 3 := by
  decide +kernel

theorem witness_ThermalAndSteps_steps :
    ∀ x ∈ [((0 : Nat), false), (0, true), (3, false)], let s : State := let s := owned (st [(CRS_STATUS_STATE, 0, 0, 2)])
      { s with pw.ceiling := [(x.1 * 8 + 1, 1)], clPart := mapSet 0 s.clPart (24 * x.1) 1, pw.alignHold := [(0, true)], pw.steps := [⟨x.1, 1, x.2⟩] }
      pendingStep s x.1 = some ⟨x.1, 1, x.2⟩ ∧ (0 : Nat) ∈ partsOn s x.1 ∧ mapGet false s.pw.alignHold 0 = true ∧
      (List.range 16).all (fun p => mapGet 0 s.pw.tension p == 0) = true ∧ opOf s x.1 < 15 := by
  decide +kernel

theorem witness_ThermalAndSteps_governor :
    ∀ d ∈ [(0 : Nat), 3], let s : State := let s := up (st [(CRS_STATUS_STATE, 0, 0, 2)]); { s with pw.ceiling := [(d * 8 + 1, 1)] }
      let t : State := { s with clPart := [(24 * d, 1)], parts := [(0, true)] }
      governed s = true ∧ causesClear s d = true ∧ opOf s d ≠ 0 ∧ opOf s d < 15 ∧ pendingStep s d = none ∧ partsOn s d = [] ∧ (partsOn t d).length = 1 ∧
      governed t = true ∧ causesClear t d = true ∧ opOf t d ≠ 0 ∧ pendingStep t d = none ∧ powerLimit s < 3601 ∧ 3600 ≤ powerLimit s ∧
      3400 * 100 < 95 * powerLimit s := by
  decide +kernel

theorem witness_ResetSources_pins :
    State.reset.pw.power = 2 ∧ sourceOn State.reset 1 = false ∧ sourceOn State.reset 2 = false ∧
    sourceOn (wr State.reset RST_STATUS_SRC 0 0 6) 1 = true ∧ sourceOn (wr State.reset RST_STATUS_SRC 0 0 6) 2 = true ∧
    { State.reset with bt.wdogRuns := true }.bt.wdogRuns = true ∧ writable State.reset (.hub 0) RST_WDOG_TMO 0 0 := by
  unfold writable; decide +kernel

theorem witness_ResetSources_requests :
    ∀ x ∈ [(1, 0), (1, 2303), (2, 0), (3, 0), (4, 0), (5, 0)], let s := owned (up State.reset)
      let v : W32 := BitVec.ofNat 32 (x.1 + 8 * x.2 + 2 ^ 31)
      bitsOf v.toNat 31 1 = 1 ∧ writable s (.hub 0) RST_SWREQ_GO 0 0 ∧ bitsOf v.toNat 0 3 = x.1 ∧ bitsOf v.toNat 3 12 = x.2 ∧
      s.bt.swTiles.contains x.2 = false ∧ (x.1 = 2 → mapGet false s.parts (x.2 % 16) = true) ∧ s.bt.latched = 0 ∧ s.bt.exiting = 0 := by
  unfold writable; decide +kernel

theorem witness_ResetSources_holds :
    let s := owned (up State.reset)
    writable s (.hub 3) RST_PHOLD_HOLD 0 0 ∧ writable s (.func 0) RST_PHOLD_HOLD 0 0 ∧ mapGet false s.parts 0 = true ∧
    rd s RST_PHOLD_HOLD 0 0 / 2 ^ 0 % 2 = 0 := by
  unfold writable; decide +kernel

theorem witness_ResetEnds_exits :
    ∀ x ∈ [(3, 2), (3, 0), (4, 0), (5, 0)], let s : State := let s := st [(BOOT_STATUS_STATE, 0, 0, x.2), (CLU_DARN_FCOL, 95, 3, 7)]
      { s with bt.latched := x.1 }
      s.bt.latched ≠ 0 ∧ s.pw.power = 2 ∧ sourceOn s 0 = false ∧ sourceOn s 1 = false ∧ sourceOn s 2 = false ∧ sourceOn s 7 = false ∧
      s.bt.initList = [] ∧ s.hst.barWrites = [] ∧ rd s BOOT_STATUS_STATE 0 0 = x.2 ∧ rd s CLU_DARN_FCOL 95 3 = 7 := by
  decide +kernel

theorem witness_ResetEnds_parts :
    ∀ x ∈ [(0, true), (143, false)], let s : State := let s := up (owned (st [(NDL_STATE, x.1, 2, nsReset)]))
      { s with bt.endpointRst := true, bt.swTiles := [x.1], clPart := if x.2 then s.clPart else [] }
      s.bt.endpointRst = true ∧ sourceOn s 0 = false ∧ sourceOn s 1 = false ∧ s.pw.power = 2 ∧ s.bt.swTiles.contains x.1 = true ∧
      partOfTile s x.1 = (if x.2 then some 0 else none) := by
  decide +kernel

theorem witness_Starts_begin :
    ∀ x ∈ [(5, 0), (4, 1), (5, 2), (4, 3)], let s : State := let s := st [(BOOT_STATUS_BAND, 0, 0, 2 * x.2)]; { s with bt.exiting := x.1 }
      s.bt.exiting = x.1 ∧ rd s BOOT_STATUS_STATE 0 0 = 0 ∧ rd s BOOT_STATUS_IMAGE 0 0 = 3 ∧ bootPolicy s = x.2 ∧
      (bootSector (readSigState s)).isSome = false ∧ bootCount (newBootRecord (readSigState s)) < max 2 (rd s FUSE_BOOT_FROGN 0 0) := by
  decide +kernel

theorem witness_Starts_count :
    let s : State := { State.reset with bt.bootSecs := [⟨true, 1, [bootEntry (beCarry + 16 * 7) 0]⟩] }
    s.bt.exiting = 5 ∧ rd s BOOT_STATUS_STATE 0 0 = 0 ∧ rd s BOOT_STATUS_IMAGE 0 0 = 3 ∧ (bootSector (readSigState s)).isSome = true ∧ max 2 (rd s FUSE_BOOT_FROGN 0 0) ≤ bootCount (readSigState s) := by
  decide +kernel

theorem witness_Starts_end :
    ∀ b ∈ [0, 1], let s : State := st ([(BOOT_STATUS_IMAGE, 0, 0, b)] ++ (List.range (12 - b)).map (fun k => (MEM_STATUS_TRAINED, k, 0, 1)))
      s.bt.exiting ≠ 0 ∧ rd s BOOT_STATUS_STATE 0 0 = 0 ∧ rd s BOOT_STATUS_IMAGE 0 0 ≠ 3 ∧ s.training = [] ∧
      ((List.range 12).all (fun k => rdB s MEM_STATUS_TRAINED k 0)) = (b == 0) ∧ rdB s MEM_STATUS_TRAINED 11 0 = (b == 0) := by
  decide +kernel

theorem witness_RecordsFiledAndCensus_file :
    ∀ x ∈ [none, some 15], let e : ErrRec := { plainRec 0x0401 true 7 5 with part := x, halt := x }
      let h : Held := ⟨.tile 5, e, false⟩
      let s : State := let s := st [(ERR_RCFG_EN, 0, 0, 1), (ERR_RCFG_EN, 0, 16, 1)]; { s with held := [⟨.skein, e, false⟩, h] }
      s.held[1]? = some h ∧ (s.held.take 1).any (fun y => decide (y.unit = h.unit)) = false ∧ s.errQueue.length < 256 ∧
      (0 : Nat) ∈ recFuncs e ∧ (x = some 15 → (16 : Nat) ∈ recFuncs e) ∧ rdB s ERR_RCFG_EN 0 0 = true ∧ rdB s ERR_RCFG_EN 0 16 = true ∧ e.fatal = true := by
  decide +kernel

theorem witness_RecordsFiledAndCensus_full :
    let e : ErrRec := plainRec 0x0401 false 7 5
    let s : State := { State.reset with held := [⟨.skein, e, true⟩], errQueue := List.replicate 256 [] }
    s.held[0]? = some ⟨.skein, e, true⟩ ∧ ¬s.errQueue.length < 256 ∧ bitsOf 1 0 1 = 1 ∧ writable s (.hub 3) ERR_QPOP_POP 0 0 ∧
    writable s (.func 0) ERR_QPOP_POP 0 0 := by
  unfold writable; decide +kernel

theorem witness_RecordsFiledAndCensus_census :
    ∀ x ∈ [(1, 0), (2, 0), (1, 1), (2, 1)], let s := st [(CNS_STATUS_ARMED, 0, 0, x.2)]
      let v : W32 := BitVec.ofNat 32 (x.1 + 2 ^ 6 + 2 ^ 31)
      writable s (.hub 0) CNS_CTRL_GO 0 0 ∧ rdB s CNS_STATUS_ARMED 0 0 = (x.2 == 1) ∧ rdB s CNS_STATUS_CAPTURING 0 0 = false ∧
      bitsOf v.toNat 31 1 = 1 ∧ bitsOf v.toNat 30 1 = 0 ∧ bitsOf v.toNat 0 2 = x.1 ∧ bitsOf (2 ^ 30) 31 1 = 0 ∧ bitsOf (2 ^ 30) 30 1 = 1 := by
  unfold writable; decide +kernel

theorem witness_RecordsFiledAndCensus_shadow :
    ∀ x ∈ [(0, 0), (1, 1)], let s := st [(CNS_STATUS_CAPTURING, 0, 0, x.1), (CNS_SADDR_AINC, 0, 0, x.2)]
      let t := wr s CNS_SADDR_BANK 0 0 (nextBank s)
      reaches s (.hub 0) .cns 0 0x24 false = true ∧ reaches s (.func 0) .cns 0 0x24 false = true ∧ rdB s CNS_STATUS_CAPTURING 0 0 = (x.1 == 1) ∧
      censusStalls t = (x.1 == 1) ∧ rdB s CNS_SADDR_AINC 0 0 = (x.2 == 1) := by
  decide +kernel

theorem witness_RegisterAccesses_reads :
    let s := st [(CRS_STATUS_STATE, 0, 0, 2)]
    let o := regOf CRS_STATUS_STATE 0 0
    locateFor s (.hub 0) o = some (.crs, 0, CRS_STATUS_STATE.off) ∧ reaches s (.hub 0) .crs 0 CRS_STATUS_STATE.off false = true ∧
    stalled s .crs = false ∧ o ≠ regOf CNS_SDATA_DATA 0 0 ∧ shadowOfs o = false ∧ shadowOfs 0xFFFFFFF = false ∧
    inFrogBar s (.hub 0) 0xFFFFFFF = none ∧ inFrogBar s (.func 0) 0xFFFFFFF = none ∧ (viewOf .crs CRS_STATUS_STATE.off).1 = 0 ∧ locateFor s (.hub 0) 0xFFFFFFF = none ∧
    locateFor s (.func 0) 0xFFFFFFF = none ∧ 0xFFFFFFF ≠ regOf CNS_SDATA_DATA 0 0 := by
  decide +kernel


theorem witness_RegisterAccesses_stalls :
    let s0 := st [(CNS_STATUS_CAPTURING, 0, 0, 1)]
    let s := wr s0 CNS_SADDR_BANK 0 0 (nextBank s0)
    shadowOfs (regOf CNS_SDATA_DATA 0 0) = true ∧ shadowOfs (regOf CNS_SDATA_DATA 0 0 + 4) = true ∧ censusStalls s = true ∧
    inFrogBar s (.hub 0) (regOf CNS_SDATA_DATA 0 0 + 4) = none ∧ reaches s (.hub 0) .cns 0 0x24 false = true := by
  decide +kernel

theorem witness_RegisterAccesses_counters :
    ∀ x ∈ [(0, 0)], let s := State.reset
      let lo := CRS_COURSE_LO_COURSE
      (CRS_COURSE_LO_COURSE, CRS_COURSE_HI_COURSE) ∈ hiPairs ∧ x.2 < lo.cnt ∧
      locateFor s (.hub 0) (regOf lo x.1 x.2) = some (lo.frame, x.1, lo.off + x.2 * lo.step) ∧
      reaches s (.hub 0) lo.frame x.1 (lo.off + x.2 * lo.step) false = true ∧ stalled s lo.frame = false := by
  decide +kernel

theorem witness_RegisterAccesses_writes :
    ∀ x ∈ [(0, 0), (0x1000, 0), (0x2000, 7), (0x3000, 0xFFFFFFFF)], let s := State.reset
      ∀ f ∈ [PWR_GRACE_US, PWR_RECOV_MS],
        let off := f.off + x.1
        let v : W32 := BitVec.ofNat 32 x.2
        let hs := hitsAt f.frame (viewOf f.frame off).2
        locateFor s (.hub 0) (regOf f 0 0 + x.1) = some (f.frame, 0, off) ∧ reaches s (.hub 0) f.frame 0 off true = true ∧
        stalled s f.frame = false ∧ hs ≠ [] ∧ (viewOf f.frame off).1 = x.1 / 0x1000 ∧
        (rowFor (viewOf f.frame off).1 0 (wordAfter (.hub 0) (viewOf f.frame off).1 0 v hs s) hs).isNone = true ∧ (0 : Nat) ≠ 0xF ∧
        (wrignOf f.frame 0 (off % 0x1000)).isSome = true ∧ hs.all (fun h => h.f.bank == .none && h.f.id != SKN_EDATA_DATA.id) = true := by
  decide +kernel

theorem witness_ConstantRegisters_ranges :
    (3 : Nat) < 4 ∧ (0 : Nat) < 31 ∧ (31 : Nat) < 32 ∧ (7 : Nat) < 8 ∧ (2 ^ 64 - 1 < 2 ^ 64) ∧ (15 : Nat) < 16 ∧ (63 : Nat) < 64 ∧
    getS (setS 2303 3 31 5 State.reset) 2303 3 31 = 5 ∧ getP (setP 2303 3 0 5 State.reset) 2303 3 0 = 2 ^ 64 - 1 := by
  decide +kernel

theorem witness_StackCapacity_mapped :
    ∀ out ∈ [0, 1, 384], let s := st [(MEM_TOTAL_NCH, 0, 0, 384 - out)]
      out ≤ 384 ∧ rd s MEM_TOTAL_NCH 0 0 = 384 - out ∧ capacity s ≤ 0xBFFFFFFFFF + 1 := by
  decide +kernel

theorem witness_RegisterAccesses_codes :
    ∀ x ∈ [(PWR_GRACE_US, 0), (SKN_NPAGES_NPAGES, 0), (SKN_NPAGES_NPAGES, 1), (CRS_SEED_LO_SEEDLO, 0)],
      let s := st [(SKN_BCFG_EN, 0, 0, x.2)]
      let hs := hitsAt x.1.frame (viewOf x.1.frame x.1.off).2
      locateFor s (.hub 0) (regOf x.1 0 0) = some (x.1.frame, 0, x.1.off) ∧ reaches s (.hub 0) x.1.frame 0 x.1.off true = true ∧
      stalled s x.1.frame = false ∧ (rowFor 0 0 5 hs).isNone = true ∧ (hs.any (fun h => h.f.code == x.1.code && h.f.bank == .none)) = true ∧
      homeUnit x.1 0 = 0 ∧ valueRefused s x.1 0 0 5 5 = false ∧ (x.1.code = .RWD → fieldEnabled s x.1 0 0 = (x.2 == 1)) := by
  decide +kernel


/-! ### Values that the spec works out -/

/-- "Worked encodings", examples 1 to 3 (`03_tile_instruction_set.md`). -/
theorem test_worked_encodings :
    word 0x0C 3 3 1 2 (2 * 2 ^ 51 + 3 * 2 ^ 31) = 0x30D0C22180000000 ∧ isOp 0x30D0C22180000000 0x0C (· == 3) = true ∧
    wPG 0x30D0C22180000000 = 2 ∧ wRD 0x30D0C22180000000 = 3 ∧ wRA 0x30D0C22180000000 = 1 ∧ wRB 0x30D0C22180000000 = 2 ∧
    wRC 0x30D0C22180000000 = 3 ∧ wRM 0x30D0C22180000000 = 0 ∧
    isOp 0x6440000050000123 0x19 (· == 1) = true ∧ wTCLASS 0x6440000050000123 = 5 ∧ wSTITCH 0x6440000050000123 = 0x0123 ∧
    isOp 0x2000000000000002 0x08 (· == 0) = true ∧ wAN 0x2000000000000002 = 0 := by decide +kernel

/-- The worked example of tile 1,000 (`01_module_organisation.md`) and of its counter's shadow address (`18_registers_counters_and_errors.md`). -/
theorem test_tile_1000 : storeBase 1000 = 0x01003E800000 ∧ regBase + frameBase .tile 1000 = 0x012007E80000 ∧
    regOf PRL_GSAT_GSAT 1000 0 = 0x07E8C020 ∧ dieOf (placeOf 1000) = 1 := by decide +kernel

/-- The block of conversion example 1 (`05_numerics.md`), as FP32 codes. -/
def exampleBlock : List FVal := ([0x3F400000, 0xBE99999A, 0x3DCCCCCD, 0, 0, 0, 0, 0, 0x3F800000, 0, 0, 0, 0, 0, 0, 0, 0x41C00000, 0, 0, 0, 0, 0,
  0, 0, 0xC2200000, 0x3F000000, 0, 0, 0, 0, 0, 0] : List Nat).map val32

/-- Conversion example 1: scale word, picot slots, element bytes, the two picots counted and PICOT set. -/
theorem test_conversion_example_1 :
    let b := gaugeZ4 ⟨true, true, false, none⟩ (fun _ => .nearest) 0 exampleBlock
    z4ScaleWord b.1 = 0x607C ∧ b.1.slot0 = 0x98FA ∧ b.1.slot1 = 0x9074 ∧ packN 4 b.1.codes = 0xC7 + 256 * 0x02 + 256 ^ 4 * 0x07 + 256 ^ 12 * 0x60 ∧
    b.2.flags = flPICOT := by decide +kernel

/-- Conversion example 2: a draw of 0x7A3C rounds e2 up, one of 0x1F00 down. -/
theorem test_conversion_example_2 :
    (gaugeZ4 ⟨true, true, false, none⟩ (fun _ => .stochastic 0x7A3C) 0 exampleBlock).1.codes[2]? = some 0x2 ∧
    (gaugeZ4 ⟨true, true, false, none⟩ (fun _ => .stochastic 0x1F00) 0 exampleBlock).1.codes[2]? = some 0x1 := by decide +kernel

/-- Table 5.11. -/
theorem test_conversion_example_3 :
    ([0x43960000, 0x43FA0000, 0x3A83126F, 0xFF800000, 0x7FC00000] : List Nat).map (fun x =>
      let e := narrowElem fmtE4M3 true .nearest 0 (val32 x); (e.code, e.flags)) =
    [(0x79, 0), (0x7E, flGSAT), (0x01, flUF), (0xFE, flGSAT), (0x7F, 0)] := by decide +kernel

/-- The senders that a packet visits from sender c on. -/
def route (src dst : Nat) : Nat → Nat → List Nat
  | 0, _ => []
  | n + 1, c => c :: (match hopTo c (nextPort c src dst) src dst with | .router c' _ => route src dst n c' | .dest => [])

/-- The worked route of `06_cluster_and_cable_mesh.md`: five hops on die 1, two on die 0, seven on die 2. -/
theorem test_worked_route : route 1000 (nodeCluster 70) 40 (tileEnd 1000) =
    [tileEnd 1000, switchOf 41, 24 + 17, 24 + 16, 24 + 15, 24 + 14, 24 + 13, 24 + 12, 12, 6, 0, 48, 49, 50, 51, 52, 58, 64, 70, switchOf 70] ∧
    clusterBase 70 + 0x12300 = 0x011046012300 := by decide +kernel

/-- The worked address of `13_memory_stacks.md`: MODE 0, GRAN 4 KiB, channel 17 of stack 5 mapped out, ROT 1 and ROT 0. -/
theorem test_worked_interleave : ∀ x ∈ [((1 : Nat), (3 : Nat), (24 : Nat)), (0, 11, 1)],
    dramOf (st ([(MEM_IMAP_ROT, 0, 0, x.1), (MEM_TOTAL_NCH, 0, 0, 383)] ++
      (List.range 12).map (fun k => (MEM_CHMAP_ACTIVE, k, 0, if k = 5 then 0xFFFDFFFF else 0xFFFFFFFF)))) 0x001234567000 =
      some (x.2.1, x.2.2, 0x0C2B0000) ∧ bankOf 0x0C2B0000 = 6 ∧ rowOf 0x0C2B0000 = 6230 := by decide +kernel

/-- "Worked example: a compensated add" (`11_blocker.md`): the moments, the step size and update 65. -/
theorem test_compensated_add :
    let q : StepPar := ⟨false, 0x3F600000, 0x3F700000, 0x32800000, 0, 0, 0x3F000000, 20, one32, one32, 0x3A000000, one32⟩
    gradOf q [0x3E800000, 0x3E800000] = 0x3E800000 ∧ moments q 0x3E800000 0x3E800000 0x3D800000 = (0x3E800000, 0x3D800000) ∧
    trust 0x3A800000 one32 [0x45800000] [0x46800000] = 0x3A000000 := by decide +kernel

theorem test_compensated_add_65 :
    let q : StepPar := ⟨false, 0x3F600000, 0x3F700000, 0x32800000, 0, 0, 0x3F000000, 20, one32, one32, 0x3A000000, one32⟩
    masterStep q 0x3E800000 0x3D800000 one32 0 = (one32, 0x3A000000) ∧
    masterStep q 0x3E800000 0x3D800000 one32 0x3D000000 = (0x3F7FFFFF, 0xBCFC0000) := by decide +kernel

/-- The worked exchange's SEND (`08_strands_and_join_queues.md`): the SKIP record and the two packets of the message, TAIL 17 and 34 credits. -/
theorem test_worked_send :
    let s := sendMessage 120 0 0 0 256 { State.reset with tx := [(120 * 32, ⟨2, 121, 0, 0x10, 4, 64, 51, 3⟩)] }
    s.net.map (fun p => (p.addr, p.len, p.last)) = [(0x010007901330, 1, true), (0x010007901000, 16, false), (0x010007901100, 1, true)] ∧
    getTx s 120 0 = ⟨2, 121, 0, 0x10, 4, 34, 17, 4⟩ := by decide +kernel

/-- The worked record of `18_registers_counters_and_errors.md`: its words, its slot in VF 4's ring, and PROD. -/
theorem test_worked_record :
    let h : Held := ⟨.tile 124, ⟨0x0401, some 3, true, false, 0x00030040, 0x7C, 42, none⟩, false⟩
    recWords h 0x12345679 = [0x79330401, 0x00030040, 0x0000007C, 0x0000002A] ∧
    ∃ r, exec (.recordFile 0 0) { st [(ERR_FILED_LO_FILED, 0, 0, 0x12345679), (ERR_RCFG_EN, 0, 4, 1), (ERR_RCFG_LOG2, 0, 4, 8),
        (ERR_RBASE_LO_BASE, 0, 4, 0x20000), (ERR_RBASE_HI_BASE, 0, 4, 1), (ERR_RPROD_PROD, 0, 4, 0x105)] with held := [h] } = .next r ∧
      (List.range 16).map (fun i => rdHost r (0x120000050 + i)) =
        [0x01, 0x04, 0x33, 0x79, 0x40, 0x00, 0x03, 0x00, 0x7C, 0, 0, 0, 0x2A, 0, 0, 0] ∧
      rd r ERR_RPROD_PROD 0 4 = 0x106 ∧ rdHost r 0x120001000 = 0x06 ∧ rdHost r 0x120001001 = 0x01 :=
  ⟨by decide +kernel, _, rfl, by decide +kernel, by decide +kernel, by decide +kernel, by decide +kernel⟩

/-- The worked charge of R360 (`16_power_and_thermal.md`): 5,417 at operating point 0 and 4,171 at operating point 4. -/
theorem test_worked_charge : ∀ x ∈ [((0 : Nat), (5417 : Nat)), (4, 4171)],
    let s : State := { st [(PWR_TDATA1_TC2, 0, 1024, 5232), (PWR_TDATA2_SH, 0, 1024, 185)] with pw.ceiling := [(17, x.1)] }
    chargeOf s 4 1 = x.2 := by decide +kernel

/-- Table 17.4: PERST_N is counted while a thermal trip holds the module in COMPUTE reset; the latched reach widens to WARM. -/
theorem test_overlapping_sources : ∃ r, exec .perstNAssert { st [(RST_STATUS_SRC, 0, 0, 0x80)] with bt.latched := 3, bt.exiting := 0 } = .next r ∧
    rd r RST_STATUS_SRC 0 0 = 0x082 ∧ r.bt.latched = 4 := ⟨_, rfl, by decide +kernel, by decide +kernel⟩


/-- SHA-256 of the empty message (the digest that FIPS 180-4's algorithm gives; log entry 61). -/
theorem test_sha256_empty : (sha256 []).take 8 = [0xE3, 0xB0, 0xC4, 0x42, 0x98, 0xFC, 0x1C, 0x14] := by decide +kernel


end Sys2Proof.Tests
end

section
/-! The top of stack memory (R21, R284): where it stands, and what an address under `0x00C0_0000_0000` names. -/

namespace Sys2Proof.StackTop
open Sys2Proof.Machine

/-- R21: with every one of the 384 channels of 2 GiB in, stack memory ends at `0x00C0_0000_0000`; each channel out takes 2 GiB. -/
theorem capacity_add_mappedOut {s : State} {out : Nat} (hout : out ≤ 384)
    (hn : rd s MEM_TOTAL_NCH 0 0 = 384 - out) : capacity s + out * 2 ^ 31 = 0xC000000000 := by
  rw [capacity, hn]
  omega

/-- An address of the stack region that lies under the capacity is stack memory. -/
theorem target_of_lt_capacity {s : State} {a : Nat} (ha : a < 0xC000000000) (h : a < capacity s) :
    target s a = .stack a := by
  rw [target, if_pos ha, if_pos h]

/-- An address of the stack region at or above the capacity is unmapped. -/
theorem target_of_capacity_le {s : State} {a : Nat} (ha : a < 0xC000000000) (h : capacity s ≤ a) :
    target s a = .unmapped := by
  rw [target, if_pos ha, if_neg (Nat.not_lt.mpr h)]

/-- Settles O59: the capacity counts the channels that are left, and `target` splits the stack region at it. -/
theorem stackCapacity : Obligations.StackCapacity := by
  unfold Obligations.StackCapacity
  intro s out hout hn
  refine ⟨capacity_add_mappedOut hout hn, fun a ha => ?_⟩
  have hregion : a < 0xC000000000 := Nat.lt_succ_of_le ha
  exact ⟨target_of_capacity_le hregion, target_of_lt_capacity hregion⟩

end Sys2Proof.StackTop
end

section
/-! The registers of a needle (R39): what a write leaves in the other registers of its file, and the two constants. -/

namespace Sys2Proof.NeedleRegs
open Sys2Proof.Machine Sys2Proof.Laws

variable {t nc x : Nat} (s : State)

@[simp] theorem getS_zero (t nc : Nat) : getS s t nc 0 = 0 := rfl

@[simp] theorem getP_zero (t nc : Nat) : getP s t nc 0 = 2 ^ 64 - 1 := rfl

@[simp] theorem setS_zero (t nc : Nat) (v : W32) : setS t nc 0 v s = s := rfl

@[simp] theorem setP_zero (t nc v : Nat) : setP t nc 0 v s = s := rfl

theorem pregsBut_setP (hn : nc < 4) (hx : x < 8) (v : Nat) : pregsBut t nc x s (setP t nc x v s) := by
  intro t' nc' x' hn' hx' hne
  exact getP_setP_ne v s (by unfold nkey; omega)

theorem aregsBut_setA (hn : nc < 4) (hx : x < 16) (v : Nat) : aregsBut t nc x s (setA t nc x v s) := by
  intro t' nc' x' hn' hx' hne
  exact getA_setA_ne v s (by unfold nkey; omega)

theorem vregsBut_setLane {i : Nat} (hn : nc < 4) (hx : x < 32) (hi : i < 64) (v : W32) :
    vregsBut t nc x s (setLane t nc x i v s) := by
  intro t' nc' x' i' hn' hx' hi' hne
  rw [getLane_setLane, if_neg (by unfold nkey; omega)]

/-- Settles O58: writes of s0 and p0 are the identity; in each file of registers the number of a register determines its key, so
that a write is read back there and nowhere else. -/
theorem constantRegisters : Obligations.ConstantRegisters := by
  unfold Obligations.ConstantRegisters
  intro s t nc hn
  refine ⟨getS_zero s t nc, ?discardS, getP_zero s t nc, ?discardP, ?scalar, ?predicate, ?address, ?vector⟩
  case discardS => intro v t' nc' x; rw [setS_zero]
  case discardP => intro v t' nc' x; rw [setP_zero]
  case scalar =>
    intro v x hpos hx
    exact ⟨by rw [getS_setS_self, if_neg (Nat.ne_of_gt hpos)], sregsBut_setS hn hx v s⟩
  case predicate =>
    intro v x hpos hx hv
    exact ⟨by rw [getP_setP_self, if_neg (Nat.ne_of_gt hpos), Nat.mod_eq_of_lt hv], pregsBut_setP s hn hx v⟩
  case address =>
    intro v x hx hv
    exact ⟨by rw [getA_setA_self, Nat.mod_eq_of_lt hv], aregsBut_setA s hn hx v⟩
  case vector =>
    intro v x i hx hi
    exact ⟨by rw [getLane_setLane, if_pos rfl], vregsBut_setLane s hn hx hi v⟩

end Sys2Proof.NeedleRegs
end
